-- ==== Sys2Proof/Word.lean ====
section
/-!
DEFINITION. Words, bytes and masks of the Plynex 960, and their plainest arithmetic (R4, R6).
-/

namespace Sys2Proof

/-- A 32-bit register value or instruction word (R31, R71). -/
abbrev Word := BitVec 32

/-- One byte of memory (R4). -/
abbrev Byte := BitVec 8

/-- A 64-bit value: page-table entries, the gang register, 8-byte atomics. -/
abbrev Dword := BitVec 64

/-- The active bits of the up to 1,024 lanes of a team; lane l is bit l, mask word w is bits 32w to 32w + 31 (R69). -/
abbrev Mask := BitVec 1024

/-- A 7-bit register field of an instruction word (R38). -/
abbrev Fld := BitVec 7

/-- SEXT(x, 32) of a narrower value (R6). -/
def sext32 {n : Nat} (x : BitVec n) : Word := x.signExtend 32

/-- ZEXT(x, 32) of a narrower value (R6). -/
def zext32 {n : Nat} (x : BitVec n) : Word := x.setWidth 32

/-- The low 32 bits of an exact integer: assignment to a register without SAT (R6). -/
def wordOfInt (i : Int) : Word := BitVec.ofInt 32 i

end Sys2Proof
end

