-- ==== Sys2Proof/Syntax.lean ====
section
/-!
DEFINITION. The syntax of everything that the opcode table lists: the 222 instructions of the Yilfel set
(spec/02_encoding.md) and the 130 steps of the device and of the world outside it (the table's rows without bits).
Operand fields that an instruction does not use (R42: they must hold 120) have no place in its constructor.
-/

namespace Sys2Proof

/-- The reading of V and of the two C bits (R35). -/
inductive Ctl where
  /-- V = 0: last use of A, last use of B. -/
  | v0 (la lb : Bool)
  /-- V = 1: trap if A is empty, trap if B is empty. -/
  | v1 (ta tb : Bool)
  /-- V = 2: last use of A, yield after the instruction. -/
  | v2 (la yld : Bool)
  deriving DecidableEq, Repr

/-- The four scopes (R157). -/
inductive Scope where
  | team | cluster | device | system
  deriving DecidableEq, Repr

/-- The four barrier levels (R53). -/
inductive SyncLevel where
  | group | team | cluster | grid
  deriving DecidableEq, Repr

/-- The five path counters (R153). -/
inductive Path where
  | l | s | c | x | g
  deriving DecidableEq, Repr

/-- Access sizes of the loads and stores: 1, 2, 4 or 16 bytes (R57). -/
inductive Size where
  | b | h | w | q
  deriving DecidableEq, Repr

/-- Destination levels of LDA (R59). -/
inductive LdaLevel where
  | lane | core | clm | chip
  deriving DecidableEq, Repr

/-- Which ring control block: one of a slice, or one of a cluster (R271). -/
inductive RcbKey where
  | slice (n : Nat)
  | cluster (c n : Nat)
  deriving DecidableEq, Repr

/-- The function whose BAR0 a register write names: the physical function or the virtual function of a context (R15). -/
inductive RegFn where
  | pf
  | vf (ctx : Nat)
  deriving DecidableEq, Repr

/-- The function that fails in a containment event (R310): an L2 way or channel behind a line, a bank of a core's store, the chisel
executor that holds a line, or another engine of a slice. -/
inductive Failing where
  | line (line : Nat)
  | storeBank (core bank : Nat)
  | executor (line : Nat)
  | engine (kind slice : Nat)
  deriving DecidableEq, Repr

/-- What a link partner offers at negotiation (R381, R382): its accelerator identifier, its capability bits, and for
each of the four interfaces of LINK.VER its list of (major, highest minor). -/
structure LinkOffer where
  peer : Nat
  caps : BitVec 5
  lcap : List (Nat × Nat)
  relf : List (Nat × Nat)
  srec : List (Nat × Nat)
  save : List (Nat × Nat)
  deriving DecidableEq, Repr

/-- An inbound link request (R384, R389): its port, link address, size, and the sender's device, context and maquette
sequence tag where MSEQ is agreed. -/
structure LinkReq where
  id : Nat
  port : Nat
  addr : Nat
  n : Nat
  dev : Nat
  sctx : Nat
  seq : Option (Nat × Nat)
  deriving DecidableEq, Repr

/-- An Ethernet message or placement (R390 to R392): the port, the context it is for, the virtual address and the size of
the buffer, and the sender's maquette sequence tag. -/
structure EthReq where
  id : Nat
  eth : Nat
  ctx : Nat
  va : Nat
  len : Nat
  dev : Nat
  sctx : Nat
  seq : Option (Nat × Nat)
  deriving DecidableEq, Repr

/-- One constructor for each row of the opcode table. The docstrings are the table's own summaries. -/
inductive Instr where
  /-- Adds A and B in each active lane, wrapping modulo 2^32. (R124) -/
  | iadd (c : Ctl) (d a b : Fld)
  /-- Subtracts B from A in each active lane. (R124) -/
  | isub (c : Ctl) (d a b : Fld)
  /-- Writes bits [31:0] of A times B. (R124) -/
  | imul (c : Ctl) (d a b : Fld)
  /-- Writes D plus A times B, bits [31:0]. (R124) -/
  | imad (c : Ctl) (d a b : Fld)
  /-- Writes the high word of the signed product of A and B. (R124) -/
  | imulhS (c : Ctl) (d a b : Fld)
  /-- Writes the high word of the unsigned product of A and B. (R124) -/
  | imulhN (c : Ctl) (d a b : Fld)
  /-- Writes A AND B. (R124) -/
  | and (c : Ctl) (d a b : Fld)
  /-- Writes A AND NOT B. (R124) -/
  | andn (c : Ctl) (d a b : Fld)
  /-- Writes A OR B. (R124) -/
  | or (c : Ctl) (d a b : Fld)
  /-- Writes A XOR B. (R124) -/
  | xor (c : Ctl) (d a b : Fld)
  /-- Shifts A left by B[4:0]. (R124) -/
  | shl (c : Ctl) (d a b : Fld)
  /-- Rotates A left by B[4:0]. (R124) -/
  | rol (c : Ctl) (d a b : Fld)
  /-- Shifts A right logically by B[4:0]. (R124) -/
  | shr (c : Ctl) (d a b : Fld)
  /-- Shifts A right arithmetically by B[4:0]. (R124) -/
  | sar (c : Ctl) (d a b : Fld)
  /-- Writes the signed minimum of A and B. (R124) -/
  | iminS (c : Ctl) (d a b : Fld)
  /-- Writes the unsigned minimum of A and B. (R124) -/
  | iminN (c : Ctl) (d a b : Fld)
  /-- Writes the signed maximum of A and B. (R124) -/
  | imaxS (c : Ctl) (d a b : Fld)
  /-- Writes the unsigned maximum of A and B. (R124) -/
  | imaxN (c : Ctl) (d a b : Fld)
  /-- Writes 1 when A equals B, else 0. (R124) -/
  | cmpeq (c : Ctl) (d a b : Fld)
  /-- Writes 1 when A differs from B, else 0. (R124) -/
  | cmpne (c : Ctl) (d a b : Fld)
  /-- Writes 1 when A is below B as I32. (R124) -/
  | cmpltS (c : Ctl) (d a b : Fld)
  /-- Writes 1 when A is below B as N32. (R124) -/
  | cmpltN (c : Ctl) (d a b : Fld)
  /-- Writes 1 when A is at most B as I32. (R124) -/
  | cmpleS (c : Ctl) (d a b : Fld)
  /-- Writes 1 when A is at most B as N32. (R124) -/
  | cmpleN (c : Ctl) (d a b : Fld)
  /-- Writes A where D is nonzero, else B. (R124) -/
  | sel (c : Ctl) (d a b : Fld)
  /-- Writes the absolute signed difference of A and B as N32. (R124) -/
  | iabsd (c : Ctl) (d a b : Fld)
  /-- Writes the FP32 sum of A and B, rounded RNE. (R126) -/
  | fadd (c : Ctl) (d a b : Fld)
  /-- Writes the FP32 difference of A and B. (R126) -/
  | fsub (c : Ctl) (d a b : Fld)
  /-- Writes the FP32 product of A and B. (R126) -/
  | fmul (c : Ctl) (d a b : Fld)
  /-- Writes A times B plus D with one rounding. (R126) -/
  | ffma (c : Ctl) (d a b : Fld)
  /-- Writes the FP32 minimum with NaN and signed-zero rules. (R127) -/
  | fmin (c : Ctl) (d a b : Fld)
  /-- Writes the FP32 maximum with NaN and signed-zero rules. (R127) -/
  | fmax (c : Ctl) (d a b : Fld)
  /-- Writes 1 when A equals B as FP32. (R126) -/
  | fcmpeq (c : Ctl) (d a b : Fld)
  /-- Writes 1 when A is below B as FP32. (R126) -/
  | fcmplt (c : Ctl) (d a b : Fld)
  /-- Writes 1 when A is at most B as FP32. (R126) -/
  | fcmple (c : Ctl) (d a b : Fld)
  /-- Writes 1 when A or B is NaN. (R126) -/
  | fcmpun (c : Ctl) (d a b : Fld)
  /-- Reads A from the group lane that B selects. (R98) -/
  | shfl (c : Ctl) (d a b : Fld)
  /-- Reads A from the group lane given by XOR with B. (R98) -/
  | shflx (c : Ctl) (d a b : Fld)
  /-- Writes the signed quotient truncated toward zero. (R125) -/
  | idivS (c : Ctl) (d a b : Fld)
  /-- Writes the unsigned quotient. (R125) -/
  | idivN (c : Ctl) (d a b : Fld)
  /-- Writes the signed remainder. (R125) -/
  | iremS (c : Ctl) (d a b : Fld)
  /-- Writes the unsigned remainder. (R125) -/
  | iremN (c : Ctl) (d a b : Fld)
  /-- Writes the FP32 quotient of A by B. (R126) -/
  | fdiv (c : Ctl) (d a b : Fld)
  /-- Copies A into D. (R130) -/
  | mov (c : Ctl) (d a : Fld)
  /-- Writes NOT A. (R130) -/
  | not (c : Ctl) (d a : Fld)
  /-- Writes 0 minus A. (R130) -/
  | neg (c : Ctl) (d a : Fld)
  /-- Writes the absolute value of A as I32. (R130) -/
  | iabs (c : Ctl) (d a : Fld)
  /-- Writes the number of 1 bits in A. (R130) -/
  | popc (c : Ctl) (d a : Fld)
  /-- Writes the number of leading zero bits of A. (R130) -/
  | clz (c : Ctl) (d a : Fld)
  /-- Writes the number of trailing zero bits of A. (R130) -/
  | ctz (c : Ctl) (d a : Fld)
  /-- Writes A with its bits reversed. (R130) -/
  | brev (c : Ctl) (d a : Fld)
  /-- Sign-extends the low byte of A. (R130) -/
  | sext8 (c : Ctl) (d a : Fld)
  /-- Sign-extends the low half of A. (R130) -/
  | sext16 (c : Ctl) (d a : Fld)
  /-- Zero-extends the low byte of A. (R130) -/
  | zext8 (c : Ctl) (d a : Fld)
  /-- Zero-extends the low half of A. (R130) -/
  | zext16 (c : Ctl) (d a : Fld)
  /-- Writes 1 when A is held in uniform form. (R130) -/
  | isuni (c : Ctl) (d a : Fld)
  /-- Inverts the sign bit of A. (R131) -/
  | fneg (c : Ctl) (d a : Fld)
  /-- Clears the sign bit of A. (R131) -/
  | fabs (c : Ctl) (d a : Fld)
  /-- Writes the correctly rounded square root of A. (R131) -/
  | fsqrt (c : Ctl) (d a : Fld)
  /-- Writes the correctly rounded reciprocal of A. (R131) -/
  | frcp (c : Ctl) (d a : Fld)
  /-- Writes the correctly rounded reciprocal square root. (R131) -/
  | frsq (c : Ctl) (d a : Fld)
  /-- Writes 2 to the power A. (R131) -/
  | fex2 (c : Ctl) (d a : Fld)
  /-- Writes the base-2 logarithm of A. (R131) -/
  | flg2 (c : Ctl) (d a : Fld)
  /-- Writes the sine of pi times A. (R131) -/
  | fsin (c : Ctl) (d a : Fld)
  /-- Writes the cosine of pi times A. (R131) -/
  | fcos (c : Ctl) (d a : Fld)
  /-- Rounds A down to an integer. (R131) -/
  | ffloor (c : Ctl) (d a : Fld)
  /-- Rounds A up to an integer. (R131) -/
  | fceil (c : Ctl) (d a : Fld)
  /-- Rounds A toward zero to an integer. (R131) -/
  | ftrunc (c : Ctl) (d a : Fld)
  /-- Rounds A to the nearest integer, ties to even. (R131) -/
  | frint (c : Ctl) (d a : Fld)
  /-- Clamps A to the range +0 to 1.0. (R131) -/
  | fsat (c : Ctl) (d a : Fld)
  /-- Writes a one-hot class mask of A. (R133) -/
  | fclass (c : Ctl) (d a : Fld)
  /-- Converts A from I32 to FP32. (R134) -/
  | cvtF32I32 (c : Ctl) (d a : Fld)
  /-- Converts A from N32 to FP32. (R134) -/
  | cvtF32N32 (c : Ctl) (d a : Fld)
  /-- Converts A from FP32 to I32 with truncation and saturation. (R134) -/
  | cvtI32F32 (c : Ctl) (d a : Fld)
  /-- Converts A from FP32 to N32 with truncation and saturation. (R134) -/
  | cvtN32F32 (c : Ctl) (d a : Fld)
  /-- Rounds A to BF16 into D[15:0], keeping D[31:16]. (R134) -/
  | cvtB16F32 (c : Ctl) (d a : Fld)
  /-- Rounds A to BF16 into D[31:16], keeping D[15:0]. (R134) -/
  | cvtB16hF32 (c : Ctl) (d a : Fld)
  /-- Widens the BF16 in A[15:0] to FP32. (R134) -/
  | cvtF32B16 (c : Ctl) (d a : Fld)
  /-- Widens the BF16 in A[31:16] to FP32. (R134) -/
  | cvtF32B16h (c : Ctl) (d a : Fld)
  /-- Rounds A to E4 into byte b of D. (R134) -/
  | cvtE4F32 (c : Ctl) (n : BitVec 2) (d a : Fld)
  /-- Rounds A to E5 into byte b of D. (R134) -/
  | cvtE5F32 (c : Ctl) (n : BitVec 2) (d a : Fld)
  /-- Widens the E4 in byte b of A to FP32. (R134) -/
  | cvtF32E4 (c : Ctl) (n : BitVec 2) (d a : Fld)
  /-- Widens the E5 in byte b of A to FP32. (R134) -/
  | cvtF32E5 (c : Ctl) (n : BitVec 2) (d a : Fld)
  /-- Writes the level of the Q4 code in nibble n of A. (R134) -/
  | cvtF32Q4 (c : Ctl) (n : BitVec 3) (d a : Fld)
  /-- Forms the block scale from the group scale in D and the code in A. (R135) -/
  | qscale (c : Ctl) (d a : Fld)
  /-- Encodes A against the block scale in D as a Q4 code. (R135) -/
  | qenc (c : Ctl) (d a : Fld)
  /-- Writes 1 when some lane of the group has A nonzero. (R96) -/
  | voteAny (c : Ctl) (d a : Fld)
  /-- Writes 1 when every active lane of the group has A nonzero. (R96) -/
  | voteAll (c : Ctl) (d a : Fld)
  /-- Writes the lane bits of the group lanes with A nonzero. (R96) -/
  | ballot (c : Ctl) (d a : Fld)
  /-- Writes the group sum of A modulo 2^32. (R96) -/
  | gredIadd (c : Ctl) (d a : Fld)
  /-- Writes the signed group minimum of A. (R96) -/
  | gredIminS (c : Ctl) (d a : Fld)
  /-- Writes the signed group maximum of A. (R96) -/
  | gredImaxS (c : Ctl) (d a : Fld)
  /-- Writes the fixed pairwise-tree FP32 group sum of A. (R97) -/
  | gredFadd (c : Ctl) (d a : Fld)
  /-- Writes the FP32 group maximum of A. (R96) -/
  | gredFmax (c : Ctl) (d a : Fld)
  /-- Writes the inclusive group prefix sum of A. (R96) -/
  | gscanIadd (c : Ctl) (d a : Fld)
  /-- Writes the lane bits of group lanes whose A equals this lane's. (R96) -/
  | matchG (c : Ctl) (d a : Fld)
  /-- Writes the group lane of the lowest active lane. (R96) -/
  | firstl (c : Ctl) (d : Fld)
  /-- Writes A of the lowest active lane of the group. (R96) -/
  | bcast (c : Ctl) (d a : Fld)
  /-- Copies control register FN into D as a uniform value. (R86) -/
  | rdc (c : Ctl) (d : Fld) (r : BitVec 8)
  /-- Writes uniform A into control register FN. (R86) -/
  | wrc (c : Ctl) (a : Fld) (r : BitVec 8)
  /-- Adds a signed 8-bit immediate to A. (R128) -/
  | iaddi (c : Ctl) (d a : Fld) (imm : BitVec 8)
  /-- Shifts A left by an immediate count. (R128) -/
  | shli (c : Ctl) (d a : Fld) (n : BitVec 5)
  /-- Shifts A right logically by an immediate count. (R128) -/
  | shri (c : Ctl) (d a : Fld) (n : BitVec 5)
  /-- Shifts A right arithmetically by an immediate count. (R128) -/
  | sari (c : Ctl) (d a : Fld) (n : BitVec 5)
  /-- Rotates A left by an immediate count. (R128) -/
  | roli (c : Ctl) (d a : Fld) (n : BitVec 5)
  /-- In chisel code, aborts the routine with a code when A is nonzero. (R198) -/
  | chk (a : Fld) (code : BitVec 8)
  /-- Loads a sign-extended 17-bit immediate into D. (R128) -/
  | ldi (d : Fld) (imm : BitVec 17)
  /-- Writes a 16-bit immediate into D[31:16], keeping D[15:0]. (R128) -/
  | ldhi (d : Fld) (imm : BitVec 16)
  /-- Loads from global memory through a translation register and marks D empty until it lands. (R148) -/
  | ldg (c : Ctl) (d a : Fld) (x : BitVec 3) (sz : Size) (sx strong stream : Bool)
  /-- Stores to global memory through a translation register. (R148) -/
  | stg (c : Ctl) (d a : Fld) (x : BitVec 3) (sz : Size) (strong stream : Bool)
  /-- Loads from core scratch or the register aperture. (R148) -/
  | lds (c : Ctl) (d a : Fld) (ap : Bool) (sz : Size) (sx : Bool)
  /-- Stores to core scratch or the register aperture. (R148) -/
  | sts (c : Ctl) (d a : Fld) (ap : Bool) (sz : Size)
  /-- Loads from cluster memory. (R148) -/
  | ldcl (c : Ctl) (d a : Fld) (sz : Size) (sx : Bool)
  /-- Stores to cluster memory. (R148) -/
  | stcl (c : Ctl) (d a : Fld) (sz : Size)
  /-- Loads from chip scratch. (R148) -/
  | ldxs (c : Ctl) (d a : Fld) (sz : Size) (sx : Bool)
  /-- Stores to chip scratch. (R148) -/
  | stxs (c : Ctl) (d a : Fld) (sz : Size)
  /-- Loads from lane-private memory. (R148) -/
  | ldl (c : Ctl) (d a : Fld) (sz : Size) (sx : Bool)
  /-- Stores to lane-private memory. (R148) -/
  | stl (c : Ctl) (d a : Fld) (sz : Size)
  /-- Starts an asynchronous copy from global memory to a local level and raises the path counter. (R152) -/
  | lda (c : Ctl) (d a : Fld) (x : BitVec 3) (lvl : LdaLevel) (n : BitVec 2) (stream : Bool)
  /-- Atomically reads a word at the scope's execution point. (R188) -/
  | atomLd (d a : Fld) (x : BitVec 3) (sc : Scope)
  /-- Atomically stores a word at the execution point. (R188) -/
  | atomSt (d a : Fld) (x : BitVec 3) (sc : Scope)
  /-- Atomically exchanges a word. (R188) -/
  | atomXchg (d a : Fld) (x : BitVec 3) (sc : Scope)
  /-- Atomically compares and swaps a word. (R188) -/
  | atomCas (d a : Fld) (x : BitVec 3) (sc : Scope)
  /-- Atomically adds to a word. (R188) -/
  | atomAdd (d a : Fld) (x : BitVec 3) (sc : Scope)
  /-- Atomically ANDs into a word. (R188) -/
  | atomAnd (d a : Fld) (x : BitVec 3) (sc : Scope)
  /-- Atomically ORs into a word. (R188) -/
  | atomOr (d a : Fld) (x : BitVec 3) (sc : Scope)
  /-- Atomically XORs into a word. (R188) -/
  | atomXor (d a : Fld) (x : BitVec 3) (sc : Scope)
  /-- Atomically keeps the signed minimum. (R188) -/
  | atomMinS (d a : Fld) (x : BitVec 3) (sc : Scope)
  /-- Atomically keeps the signed maximum. (R188) -/
  | atomMaxS (d a : Fld) (x : BitVec 3) (sc : Scope)
  /-- Atomically keeps the unsigned minimum. (R188) -/
  | atomMinN (d a : Fld) (x : BitVec 3) (sc : Scope)
  /-- Atomically keeps the unsigned maximum. (R188) -/
  | atomMaxN (d a : Fld) (x : BitVec 3) (sc : Scope)
  /-- Atomically increments a word with wrap at a bound. (R188) -/
  | atomIncw (d a : Fld) (x : BitVec 3) (sc : Scope)
  /-- Atomically decrements a word with wrap to a bound. (R188) -/
  | atomDecw (d a : Fld) (x : BitVec 3) (sc : Scope)
  /-- Atomically adds when the exact sum stays within a bound. (R188) -/
  | atomAddb (d a : Fld) (x : BitVec 3) (sc : Scope)
  /-- Atomically adds an FP32 value. (R188) -/
  | atomFadd (d a : Fld) (x : BitVec 3) (sc : Scope)
  /-- Atomically keeps the FP32 minimum. (R188) -/
  | atomFmin (d a : Fld) (x : BitVec 3) (sc : Scope)
  /-- Atomically keeps the FP32 maximum. (R188) -/
  | atomFmax (d a : Fld) (x : BitVec 3) (sc : Scope)
  /-- Atomically adds a 64-bit value. (R188) -/
  | atomAdd64 (d a : Fld) (x : BitVec 3) (sc : Scope)
  /-- Atomically exchanges a 64-bit value. (R188) -/
  | atomXchg64 (d a : Fld) (x : BitVec 3) (sc : Scope)
  /-- Sends a chisel request for each active lane's line to its home bank. (R204) -/
  | chx (d a : Fld) (x : BitVec 3) (idx : BitVec 7)
  /-- Arrives at the gang latch or issues solo and computes a 32x32 tile C += A x B. (R239) -/
  | mma (d a b : Fld) (z xd : Bool)
  /-- Computes a 2:4 sparse tile product with index words. (R242) -/
  | mms (d a b : Fld) (sl : BitVec 2) (xd : Bool)
  /-- Clears a 32-register tile. (R246) -/
  | mclr (c : Ctl) (d : Fld)
  /-- Scales a tile by a per-lane FP32 value. (R246) -/
  | mscl (c : Ctl) (d a : Fld)
  /-- Writes the largest magnitude pattern of a tile, after latency. (R246) -/
  | mabs (c : Ctl) (d a : Fld)
  /-- Packs eight Q4 codes into one word. (R246) -/
  | mqpk (c : Ctl) (d a : Fld)
  /-- Converts a tile to a packed run in the AF format. (R246) -/
  | mcvt (c : Ctl) (d a : Fld)
  /-- Branches when uniform A is nonzero. (R89) -/
  | bra (a : Fld) (disp : BitVec 17)
  /-- Branches when uniform A is zero. (R89) -/
  | brz (a : Fld) (disp : BitVec 17)
  /-- Splits the active set by a per-lane condition, pushing a pending path. (R90) -/
  | bdiv (a : Fld) (disp : BitVec 17)
  /-- Pushes a join entry for a reconvergence target. (R91) -/
  | jpt (disp : BitVec 17)
  /-- Writes the return address into A and branches. (R92) -/
  | call (a : Fld) (disp : BitVec 17)
  /-- Pops the reconvergence stack. (R94) -/
  | join (c : Ctl)
  /-- Removes the active lanes until the innermost join entry. (R94) -/
  | brk (c : Ctl)
  /-- Removes the active lanes from the team and every stack entry. (R94) -/
  | exitI (c : Ctl)
  /-- Jumps to the uniform link value in A. (R94) -/
  | ret (c : Ctl) (a : Fld)
  /-- Jumps to the uniform target in A. (R94) -/
  | jmpr (c : Ctl) (a : Fld)
  /-- Jumps to A and writes the return address into D. (R94) -/
  | callr (c : Ctl) (d a : Fld)
  /-- Ends issue for the cycle and makes the team youngest. (R94) -/
  | yield (c : Ctl)
  /-- Sets WBASE from uniform A. (R94) -/
  | winb (c : Ctl) (a : Fld)
  /-- Has no effect. (R94) -/
  | nop (c : Ctl)
  /-- Pops the trap entry and re-executes the trapped instruction. (R85) -/
  | tret (c : Ctl)
  /-- Pops the trap entry, pushes a skip entry and runs the trapped instruction for the other lanes. (R85) -/
  | tskip (c : Ctl)
  /-- Arrives at a barrier without waiting, once its release conditions hold. (R219) -/
  | arv (c : Ctl) (lvl : SyncLevel) (n : BitVec 4) (a : Fld)
  /-- Arrives at a barrier and waits for the phase, then acquires. (R219) -/
  | syn (c : Ctl) (lvl : SyncLevel) (n : BitVec 4) (a : Fld)
  /-- Waits for the phase the members last arrived in, then acquires. (R219) -/
  | wt (c : Ctl) (lvl : SyncLevel) (n : BitVec 4)
  /-- Tests the pending phase, suspending up to a hint, and returns a predicate. (R220) -/
  | trySync (c : Ctl) (lvl : SyncLevel) (n : BitVec 4) (d : Fld)
  /-- Waits for earlier loads to bind and invalidates non-owned L1 words. (R167) -/
  | fenceAcq (c : Ctl) (sc : Scope)
  /-- Waits until earlier accesses are acknowledged and their deadlines pass. (R166) -/
  | fenceRel (c : Ctl) (sc : Scope)
  /-- Acts as a release followed by an acquire. (R168) -/
  | fenceAr (c : Ctl) (sc : Scope)
  /-- Closes the open copy batch and returns its number. (R175) -/
  | seal (c : Ctl) (d : Fld)
  /-- Waits for copy batches up to a number to complete. (R176) -/
  | waitb (c : Ctl) (a : Fld)
  /-- Waits until the L path counter falls to a threshold. (R155) -/
  | waitcL (c : Ctl) (a : Fld)
  /-- Waits until the S path counter falls to a threshold. (R155) -/
  | waitcS (c : Ctl) (a : Fld)
  /-- Waits until the C path counter falls to a threshold. (R155) -/
  | waitcC (c : Ctl) (a : Fld)
  /-- Waits until the X path counter falls to a threshold. (R155) -/
  | waitcX (c : Ctl) (a : Fld)
  /-- Waits until the G path counter falls to a threshold. (R155) -/
  | waitcG (c : Ctl) (a : Fld)
  /-- Starts a walk filling translation register x0 from a base in A and A+1. (R145) -/
  | xltX0 (c : Ctl) (a : Fld)
  /-- Starts a walk filling translation register x1. (R145) -/
  | xltX1 (c : Ctl) (a : Fld)
  /-- Starts a walk filling translation register x2. (R145) -/
  | xltX2 (c : Ctl) (a : Fld)
  /-- Starts a walk filling translation register x3. (R145) -/
  | xltX3 (c : Ctl) (a : Fld)
  /-- Starts a walk filling translation register x4. (R145) -/
  | xltX4 (c : Ctl) (a : Fld)
  /-- Starts a walk filling translation register x5. (R145) -/
  | xltX5 (c : Ctl) (a : Fld)
  /-- Starts a walk filling translation register x6. (R145) -/
  | xltX6 (c : Ctl) (a : Fld)
  /-- Starts a walk filling translation register x7. (R145) -/
  | xltX7 (c : Ctl) (a : Fld)
  /-- Appends a copy-engine command to the team's open batch. (R173) -/
  | cpy (c : Ctl) (a : Fld)
  /-- Spawns a child grid and returns a handle and status code. (R262) -/
  | spawn (c : Ctl) (d a : Fld)
  /-- Waits for a spawn handle's children to exit, then acquires and retires the handle. (R263) -/
  | joinc (c : Ctl) (a : Fld)
  /-- Acquires the ring slot at TAIL, or parks until it is Empty. (R275) -/
  | racq (c : Ctl) (d a : Fld)
  /-- Waits for release conditions and commits an acquired slot with an expected byte count. (R275) -/
  | rcom (c : Ctl) (a : Fld)
  /-- Takes the Full slot at HEAD and acquires, or returns none. (R275) -/
  | rpeek (c : Ctl) (d a : Fld)
  /-- Releases a Peeked slot to Empty. (R275) -/
  | rrel (c : Ctl) (a : Fld)
  /-- Posts a syscall request, parking when the ring is full. (R278) -/
  | sysc (c : Ctl) (d : Fld)
  /-- Posts a syscall request, or returns 0xFFFF_FFFF when the ring is full. (R278) -/
  | sysct (c : Ctl) (d : Fld)
  /-- Arrives at the reorder latch and sorts participants' lanes by key. (R100) -/
  | reord (c : Ctl) (d a : Fld)
  /-- Requests reconstructed pixels from the relief engine. (R330) -/
  | rld (c : Ctl) (d a : Fld)
  /-- Writes a pixel of an Open relief surface, held until accepted. (R331) -/
  | rstp (c : Ctl) (d a : Fld)
  /-- Sets the 16 levels of one channel of a block. (R332) -/
  | rstc (c : Ctl) (d a : Fld)
  /-- Sets a block's mode, reference, QP and motion. (R333) -/
  | rstm (c : Ctl) (d a : Fld)
  /-- Requests the block descriptor words as the engine holds them. (R334) -/
  | rblk (c : Ctl) (d a : Fld)
  /-- Releases and asks the engine to seal, flatten or retire the surface. (R335) -/
  | rseal (c : Ctl) (d a : Fld)
  /-- Launches a ray record per lane through the BVH. (R349) -/
  | trace (c : Ctl) (d a : Fld)
  /-- Tests a ray against one box node at its home bank. (R353) -/
  | boxt (c : Ctl) (d a : Fld)
  /-- Tests a ray against one leaf at its home bank. (R353) -/
  | trit (c : Ctl) (d a : Fld)
  /-- Computes corner-based overlap and full masks of a triangle over a node. (R351) -/
  | covr (c : Ctl) (d a : Fld)
  /-- Computes pixel-exact overlap and full masks of a triangle over a node. (R351) -/
  | bint (c : Ctl) (d a : Fld)
  /-- Writes the instance's window start, end, result VA and revision. (R372) -/
  | winfo (c : Ctl) (d : Fld)
  /-- Requests the next window records for each lane. (R373) -/
  | rnext (c : Ctl) (d : Fld)
  /-- Emits one record per lane to an emit source as a release. (R374) -/
  | remit (c : Ctl) (a : Fld)
  /-- Proposes a watermark for an emit source. (R375) -/
  | wmark (c : Ctl) (a : Fld)
  /-- Makes an emit source Idle. (R375) -/
  | sidle (c : Ctl) (a : Fld)
  /-- Waits for release conditions and writes the result line whole. (R376) -/
  | publ (c : Ctl) (a : Fld)
  /-- Requests the late record that launched the amend instance. (R373) -/
  | lateq (c : Ctl) (d : Fld)
  /-- Takes the TRAP trap with TRAPA from A. (R307) -/
  | trapI (c : Ctl) (a : Fld)
  /-- Takes the breakpoint trap. (R307) -/
  | bkpt (c : Ctl)
  /-- Reads the home core's local duration counter. (R307) -/
  | rdtime (c : Ctl) (d : Fld)
  /-- Completes the service event with an action and exits the handler team. (R307) -/
  | eret (c : Ctl) (a : Fld)
  /-- Reads and checks a chisel routine and installs, empties or refuses an entry. (R201) -/
  | chinst (c : Ctl) (d a : Fld)
  /-- Posts a halt to a context. (R307) -/
  | halt (c : Ctl) (a : Fld)
  /-- Reads part, context, placement and maquette identity. (R307) -/
  | rdid (c : Ctl) (d : Fld)
  /-- Reads a context register named by a selector. (R307) -/
  | csrr (c : Ctl) (d a : Fld)
  /-- Writes a context register and returns whether it was refused. (R307) -/
  | csrw (c : Ctl) (d a : Fld)
  /-- Supply and reference clock become good and the device enters Reset. (R23) -/
  | powerGood
  /-- PERST# returns all on-chip state to reset. (R23) -/
  | perstAssert
  /-- The management RESET command resets the device. (R23) -/
  | mgmtResetCommand
  /-- Reset is released and FREEZE is sampled to choose Awaiting firmware or Frozen. (R24) -/
  | resetRelease
  /-- The FREEZE pin stops every clock within 64 reference cycles. (R23) -/
  | freezePinAssert
  /-- The management FREEZE command freezes the device. (R23) -/
  | mgmtFreezeCommand
  /-- A host write to the firmware staging window, Ignored outside Awaiting firmware. (R26) -/
  | stagingWindowWrite (off : Nat) (bytes : List Byte)
  /-- Writing 1 to FW.CMD starts verification of the staged image. (R26) -/
  | fwCmdVerify (v : Word)
  /-- Verification ends, starting the service cores or refusing the image with a status. (R26) -/
  | firmwareVerifyDone
  /-- A die reaching 105 C starts issue throttling. (R30) -/
  | thermalThrottle (die : Nat)
  /-- A throttled die cooling to 100 C ends throttling. (R30) -/
  | thermalCooled (die : Nat)
  /-- A die reaching 115 C resets the device and latches status thermal. (R30) -/
  | thermalTrip (die : Nat)
  /-- The home bank serves a load miss and grants a leased copy. (R160) -/
  | l2MissServe (req lane : Nat)
  /-- A load's value lands in its destination, or is dropped under an old generation tag. (R148) -/
  | loadReturn (req : Nat)
  /-- A leased L1 copy expires and later loads miss. (R159) -/
  | leaseExpiry (core word : Nat)
  /-- A store is registered at the home bank, revoking owners and computing the completion delay. (R161) -/
  | storeRegistration (req lane : Nat)
  /-- An owner's revocation acknowledgement lets the registration send its acknowledgement. (R161) -/
  | revocationAck (req lane : Nat)
  /-- A store acknowledgement arrives and sets a local deadline. (R162) -/
  | storeAck (req lane : Nat)
  /-- A local deadline passes, possibly completing a waiting release. (R162) -/
  | localDeadlinePass (id : Nat)
  /-- An atomic operation runs indivisibly at its execution point. (R188) -/
  | atomExecute (req lane : Nat)
  /-- An atomic's results land in D and D+1 and the L1 copy is dropped. (R188) -/
  | atomResultReturn (req lane : Nat)
  /-- The home bank fills and holds a line, runs the routine and commits changed words. (R205) -/
  | chiselRun (req lane : Nat)
  /-- Y0-Y3 land in D..D+3, or an abort takes the chisel fault. (R205) -/
  | chiselResultReturn (req lane : Nat)
  /-- The XLT walk finishes, filling FRAME, ATTR and LIMIT and freeing the team. (R145) -/
  | xltWalkDone (team : Nat)
  /-- Old-generation chisel requests have completed and CHINST writes its status. (R201) -/
  | chinstDone (team : Nat)
  /-- An LDA's bytes have all landed and its entry leaves the path counter in issue order. (R153) -/
  | ldaLand (req : Nat)
  /-- A copy command's bytes are registered and its delay has passed. (R173) -/
  | copyCommandComplete (id : Nat)
  /-- A copy command stops on a forbidden page and marks its batch failed. (R174) -/
  | copyCommandFail (id : Nat)
  /-- A commit reaches the RCB and sets the slot's expected count. (R273) -/
  | rcomCommit (team : Nat)
  /-- A member's C tile is written and its registers become full. (R240) -/
  | tileWrite (req : Nat)
  /-- The MABS result is written into D, 8 cycles after issue. (R246) -/
  | mabsResult (req : Nat)
  /-- A suspended TRY's hint elapses and it returns 0. (R220) -/
  | tryHintExpiry (team : Nat)
  /-- An exiting team's outstanding requests finish and it reaches Exited. (R66) -/
  | teamExited (team : Nat)
  /-- The distributor takes a Submitted kernel into Placing. (R255) -/
  | distributorTakeKernel (ctx kernel : Nat)
  /-- The distributor places a team or set on a core and quadrant. (R256) -/
  | teamPlace (ctx kernel : Nat)
  /-- A spawned child is placed once its parent's release conditions hold. (R262) -/
  | childPlace (ctx child : Nat)
  /-- A fire or amend instance team of a standing kernel is placed. (R366) -/
  | instancePlace (ctx inst : Nat)
  /-- A Draining kernel's accesses are acknowledged and it becomes Done, completing its LAUNCH entry. (R250) -/
  | kernelDone (ctx kernel : Nat)
  /-- A window of 4,096 global loads ends and the load-issue cap moves. (R260) -/
  | localityWindowEnd (ctx core hits : Nat)
  /-- A write of QBASE, Ignored while the queue is enabled. (R265) -/
  | qbaseWrite (ctx q : Nat) (hi : Bool) (v : Word)
  /-- A write of QCFG enabling, disabling or configuring a host queue. (R265) -/
  | qcfgWrite (ctx q : Nat) (v : Word)
  /-- A write of QWP posts entries, or is Ignored and sets ERR. (R265) -/
  | qwpWrite (ctx q : Nat) (v : Word)
  /-- The queue engine fetches a posted entry once. (R266) -/
  | queueEntryFetch (ctx q : Nat)
  /-- A LAUNCH entry submits a kernel descriptor. (R267) -/
  | entryLaunch (ctx q n : Nat)
  /-- A COPY entry starts one copy-engine command. (R267) -/
  | entryCopy (ctx q n : Nat)
  /-- A SIGNAL entry stores a 64-bit value as a system-scope release. (R267) -/
  | entrySignal (ctx q n : Nat)
  /-- A WAIT entry reads its word and completes when it reaches the value. (R267) -/
  | entryWait (ctx q n : Nat)
  /-- A MAQUETTE entry takes a maquette now. (R267) -/
  | entryMaquette (ctx q n : Nat)
  /-- A TLBINV entry drops translations of a range and waits for their accesses. (R295) -/
  | entryTlbinv (ctx q n : Nat)
  /-- An RSEAL entry seals a relief surface. (R267) -/
  | entryRseal (ctx q n : Nat)
  /-- A WAIT re-reads its word at least every 10 us. (R267) -/
  | waitRereadTimer (ctx q n : Nat)
  /-- An entry completes and writes status and tag to its completion address. (R269) -/
  | entryComplete (ctx q n : Nat)
  /-- A write of RCB.CFG resets the ring or is Refused. (R272) -/
  | rcbCfgWrite (ctx : Nat) (key : RcbKey) (v : Word)
  /-- A service reply lands in D..D+3 after a system-scope acquire. (R278) -/
  | syscReply (ctx entry : Nat) (w0 w1 w2 w3 : Word)
  /-- A write of POOL.TAIL supplies frames, or is Ignored. (R290) -/
  | poolTailWrite (slice : Nat) (v : Word)
  /-- A write of POOL.CFG with LOG2N saturated to 4-20. (R290) -/
  | poolCfgWrite (slice : Nat) (v : Word)
  /-- Writing 1 to LOWF clears it together with BAD and FALLBK. (R290) -/
  | poolStatWrite (slice : Nat) (v : Word)
  /-- The hypervisor completes a write intercept as retry or skip. (R293) -/
  | writeInterceptComplete (num : Nat) (skip : Bool)
  /-- A write of PART.CFG sets a partition, or is Ignored. (R297) -/
  | partCfgWrite (slice : Nat) (v : Word)
  /-- A write of CE.OWN assigns a copy-engine channel to a context. (R298) -/
  | ceOwnWrite (chan : Nat) (v : Word)
  /-- The physical function creates a context on a free number. (R300) -/
  | contextCreate (ctx : Nat)
  /-- CTX.CMD code 1 starts a Created context. (R301) -/
  | ctxCmdStart (ctx : Nat)
  /-- CTX.CMD code 2 halts a context. (R301) -/
  | ctxCmdHalt (ctx : Nat)
  /-- CTX.CMD code 3 resumes a Halted context to Saved. (R301) -/
  | ctxCmdResume (ctx : Nat)
  /-- CTX.CMD code 4 destroys a context and releases its resources. (R301) -/
  | ctxCmdDestroy (ctx : Nat)
  /-- CTX.CMD code 5 takes a maquette now. (R301) -/
  | ctxCmdMaquette (ctx : Nat)
  /-- A write of CTX.CFG, Refused on out-of-range fields. (R301) -/
  | ctxCfgWrite (ctx : Nat) (v : Word)
  /-- A write of CTX.XSCR sets chip scratch, zeroing units, or is Refused. (R301) -/
  | ctxXscrWrite (ctx : Nat) (v : Word)
  /-- A write of CTX.ROOT, CTX.CHT or CTX.SAVE, Refused while loaded. (R301) -/
  | ctxAddressWrite (ctx reg : Nat) (v : Word)
  /-- A write of CTX.MAQI with 1-99 saturated to 100. (R301) -/
  | ctxMaqiWrite (ctx : Nat) (v : Word)
  /-- CTX.EVDONE action 0 reissues the parked instruction. (R306) -/
  | evdoneRetry (ctx num : Nat)
  /-- CTX.EVDONE action 1 completes the event as TSKIP with its F. (R306) -/
  | evdoneSkip (ctx num : Nat)
  /-- CTX.EVDONE action 2 makes the kernel Failed. (R306) -/
  | evdoneFatal (ctx num : Nat)
  /-- The scheduler loads a context, restoring its save and reissuing packets. (R305) -/
  | contextLoad (ctx : Nat)
  /-- A Loaded context's time slice begins and it runs. (R300) -/
  | timeSliceBegin (ctx : Nat)
  /-- The time slice ends and pre-emption of the context starts. (R300) -/
  | timeSliceEnd (ctx : Nat)
  /-- Waited requests finish, old returns are dropped and the sections are written. (R302) -/
  | contextSaveComplete (ctx : Nat)
  /-- The maquette interval elapses and a capture begins. (R308) -/
  | maquetteTimer (ctx : Nat)
  /-- A marked page reaches the safe tier, releasing waiting writers. (R308) -/
  | maquettePageStreamed (ctx page : Nat)
  /-- Every page and section lies in the safe tier and CTX.MAQN rises. (R308) -/
  | maquetteCommit (ctx : Nat)
  /-- An error during streaming discards the maquette. (R308) -/
  | maquetteStreamError (ctx : Nat)
  /-- An uncorrectable error attributed to a context fences the function and starts rollback. (R310) -/
  | containmentEvent (ctx : Nat) (what : Failing)
  /-- The committed maquette is written back and the context becomes Saved. (R310) -/
  | rollbackComplete (ctx : Nat)
  /-- A VF reset completes entries, releases resources and aborts collectives of the context. (R311) -/
  | vfReset (ctx : Nat)
  /-- Reset effects complete and the context returns to Created. (R300) -/
  | vfResetComplete (ctx : Nat)
  /-- The TAP BYPASS instruction. (R313) -/
  | tapBypass
  /-- The TAP SAMPLE/PRELOAD instruction. (R313) -/
  | tapSamplePreload
  /-- The TAP EXTEST instruction. (R313) -/
  | tapExtest
  /-- The TAP IDCODE instruction reads 0x1096_022F. (R313) -/
  | tapIdcode
  /-- Loads a 48-bit array and word selector for frozen read-out. (R313) -/
  | tapFrzsel (sl : BitVec 48)
  /-- Shifts out the selected word and advances the index, or zeros when not Frozen. (R313) -/
  | tapFrzdata
  /-- A relief request reaches the surface's engine, which applies its lanes in order. (R328) -/
  | reliefRequest (req : Nat)
  /-- The engine's accept or refuse reaches the held team, ending the hold or trapping. (R329) -/
  | reliefAcceptReturn (req : Nat)
  /-- RLD or RBLK results land in their registers. (R330) -/
  | reliefResultReturn (req : Nat)
  /-- A seal or flatten encodes one block and commits it, Sealing the surface after the last. (R337) -/
  | sealBlockCommit (surf : Nat)
  /-- An Open-dirty block is evicted to the open area. (R321) -/
  | blockEvict (surf block : Nat)
  /-- A travelling ray record reaches the home bank of its next node and queues. (R341) -/
  | rayRecordArrive (req lane : Nat)
  /-- The datapath reads and tests a node, pushes children or updates the best hit. (R341) -/
  | rayNodeTest (req lane : Nat)
  /-- A returning ray record writes D..D+7, or is dropped on a tag mismatch. (R341) -/
  | rayRecordReturn (req lane : Nat)
  /-- A BOXT or TRIT lane request is tested at its node's home bank. (R353) -/
  | isecNodeRequest (req lane : Nat)
  /-- BOXT, TRIT, COVR or BINT results land in their registers. (R353) -/
  | isecResultReturn (req : Nat)
  /-- A write of STRM.BASE, Ignored while EN is set. (R354) -/
  | strmBaseWrite (ctx : Nat) (hi : Bool) (v : Word)
  /-- A write of STRM.CFG enabling or sizing the stream table. (R354) -/
  | strmCfgWrite (ctx : Nat) (v : Word)
  /-- Writing j to STRM.UNB unbinds binding j. (R378) -/
  | strmUnbWrite (ctx : Nat) (v : Word)
  /-- A write of SRC.WP posts ring records, or is Ignored. (R360) -/
  | srcWpWrite (ctx stream src : Nat) (v : Word)
  /-- The armature unit reads the next ring record and advances RP. (R360) -/
  | ringRecordRead (ctx stream src : Nat)
  /-- A source silent for IDLE us becomes Idle. (R362) -/
  | sourceIdleTimeout (ctx stream src : Nat)
  /-- A fire or amend instance drains; the window becomes Fired and revision advances. (R365) -/
  | instanceEnd (ctx team : Nat)
  /-- An RNEXT or LATEQ record lands in D..D+15 and acquires. (R373) -/
  | recordDelivery (req : Nat)
  /-- A write of LINK.ID, Ignored unless every port is Down. (R379) -/
  | linkIdWrite (v : Word)
  /-- Setting EN starts training of a port. (R380) -/
  | linkEnSet (port : Nat)
  /-- Clearing EN takes the port Down and fails outstanding requests. (R380) -/
  | linkEnClear (port : Nat)
  /-- Physical and data link layers come up and negotiation begins. (R380) -/
  | linkTrained (port : Nat)
  /-- No lock within 10,000,000 reference cycles returns the port Down. (R380) -/
  | linkTrainTimeout (port : Nat)
  /-- Version lists and capability bits are agreed, or the port is Refused. (R381) -/
  | linkNegotiated (port : Nat) (offer : LinkOffer)
  /-- The data link layer declares failure and requests complete with link error. (R380) -/
  | linkFailure (port : Nat)
  /-- An uncorrectable error in port logic fences the port. (R380) -/
  | linkPortError (port : Nat)
  /-- An inbound link read is served at the home bank with no lease. (R386) -/
  | inboundRead (q : LinkReq)
  /-- An inbound link write is registered as a strong store, filtered by maquette sequence. (R386) -/
  | inboundWrite (q : LinkReq) (bytes : List Byte)
  /-- An inbound atomic executes at the home bank at system scope. (R386) -/
  | inboundAtomic (q : LinkReq) (op : BitVec 5) (v w : Word)
  /-- An inbound request on an absent page completes not present after 10 ms. (R384) -/
  | inboundFaultTimeout (id : Nat)
  /-- A switch invalidation drops the L2 copy and is acknowledged after lease expiry. (R387) -/
  | switchInvalidation (line : Nat)
  /-- A received collective abort completes that collective with member reset. (R388) -/
  | collectiveAbort (ctx : Nat) (coll : Word)
  /-- A received message is placed, truncated to the posted buffer. (R391) -/
  | ethMessageReceive (q : EthReq) (bytes : List Byte)
  /-- A RoCE direct placement writes memory, installing or faulting on absent pages. (R392) -/
  | rdmaPlacement (q : EthReq) (bytes : List Byte)
  /-- A datagram matching a stream filter delivers records to a port source, or is dropped. (R393) -/
  | streamDatagram (eth port : Nat) (payload : List Byte)
  /-- A host access through BAR2 is translated and served as a foreign agent. (R394) -/
  | hostBar2Access (ctx off n : Nat) (wr : Option (List Byte))
  /-- A write to a register with no row of its own, under its field access types. (R8) -/
  | registerWrite (fn : RegFn) (off : Nat) (v : Word)
  /-- The supply fails or is no longer good, and the device falls to Off from any state. (R22) -/
  | powerLoss
  /-- A copy-engine channel reaches a page that is not present under park-and-swap or user-handler mode, holds the access and raises a kind-5 page-fault event to the service handler. (R417) -/
  | enginePageFault (copy : Nat)
  deriving DecidableEq, Repr

end Sys2Proof
end

