-- ==== Sys2Proof/Machine/Types.lean ====
section
/-!
DEFINITION. The pieces that the machine state is built from: registers, team states, circuits, latches, requests in
flight, queues, kernels and contexts. Each structure cites the rule that names its fields.
-/

namespace Sys2Proof.Machine

/-- Bytes of one address space in canonical form: addresses strictly rising, no entry that holds 0, which is what an
address that is not listed reads as (notes/assumptions/5.md). -/
abbrev Mem := List Host.Cell

/-! ## Registers -/

/-- The value of a register in every lane: one value, or one per lane (R72). -/
inductive RegVal where
  | uni (v : Word)
  | per (vs : List Word)
  deriving DecidableEq, Repr

/-- A frame register (R72): its full/empty bit, its form bit and what its banks hold. -/
structure Reg where
  full : Bool
  uniform : Bool
  bank : RegVal
  deriving DecidableEq, Repr

/-- The attributes of a page or of the run of a translation register (R142, R282). -/
structure Attr where
  w : Bool
  wi : Bool
  rlf : Bool
  raw : Bool
  ss : Bool
  nx : Bool
  home : Nat
  deriving DecidableEq, Repr

/-- A translation register (R142): FRAME is the physical address of VBASE, ATTR the attributes of the run. -/
structure Xl where
  vbase : BitVec 55
  frame : Nat
  limit : BitVec 30
  attr : Attr
  deriving DecidableEq, Repr

/-! ## Barriers -/

/-- The key of a barrier circuit (R210): a group of a team, a team's number, a cluster set's number, a kernel's number. -/
inductive CKey where
  | group (team g : Nat)
  | team (team n : Nat)
  | cluster (set n : Nat)
  | grid (kernel n : Nat)
  deriving DecidableEq, Repr

/-- A barrier circuit that belongs to somebody (R212). phase counts completions; the phase bit is its parity. Unallocated
circuits have no record; a record with count 0 is Open, any other is Filling. -/
structure Circuit where
  key : CKey
  phase : Nat
  count : Nat
  expected : Option Nat
  membership : Nat
  arrived : List Nat
  deriving DecidableEq, Repr

/-- A phase that a path or a team waits for. -/
structure BWait where
  key : CKey
  phase : Nat
  deriving DecidableEq, Repr

/-- An arrival whose release conditions have not been met yet (R219). upto bounds the requests it waits for. -/
structure Arrival where
  key : CKey
  members : List Nat
  exp : Nat
  upto : Nat
  deriving DecidableEq, Repr

/-! ## The reconvergence stack (R79) -/

inductive EntryKind where
  | join
  | pending
  | yielded (w : BWait)
  | trap (f : Mask)
  | skip
  deriving DecidableEq, Repr

structure Entry where
  kind : EntryKind
  mask : Mask
  pc : Word
  fmt : Word
  deriving DecidableEq, Repr

/-! ## Team states (R65) -/

/-- What a team in Waiting-counter waits for. Requests with a number below upto are the earlier accesses. -/
inductive WaitFor where
  /-- WAITC (R155). -/
  | cnt (p : Path) (t : Nat)
  /-- A path counter that holds 255 entries (R153). -/
  | room (p : Path)
  /-- WAITB (R176): every batch up to n. -/
  | batches (n : Word)
  /-- JOINC (R263). -/
  | children (hd : Nat)
  /-- The release conditions of R166 at a scope, then the completion named by the waiting instruction. -/
  | release (sc : Scope) (upto : Nat)
  /-- Earlier loads, atomics and chisels bind their values (R167). -/
  | bound (sc : Scope) (upto : Nat)
  /-- CPY: fewer than 256 incomplete commands (R173). -/
  | cpyRoom
  /-- CPY: earlier loads bound and earlier stores, atomics and chisels registered (R173). -/
  | cpyEarlier (upto : Nat)
  /-- A store, atomic or chisel on a byte that an earlier load of the team names (R303). -/
  | loads (upto : Nat)
  /-- A writer of a marked page that has no staging frame (R308). -/
  | staging (page : Nat)
  /-- A REMIT, WMARK or SIDLE while an earlier record of the team waits for room (R364). -/
  | emitted
  deriving DecidableEq, Repr

/-- Why a team is parked (R66). -/
inductive ParkWhy where
  | event (num : Nat)
  | intercept (num : Nat)
  | racq (key : RcbKey)
  | overflow
  deriving DecidableEq, Repr

/-- What a team at a latch waits for (R66, R100, R227). -/
inductive LatchWait where
  | gang (pair tag : Nat)
  | gangHeld (pair tag : Nat)
  | reord
  deriving DecidableEq, Repr

/-- The eleven states of a team (R65). -/
inductive TeamSt where
  | placed
  | ready
  | issuing
  | waitingEmpty (regs : List Nat)
  /-- The phases the team's paths wait for. -/
  | waitingBarrier (ws : List BWait)
  /-- A held arrival (R219). -/
  | waitingHeld (w : BWait)
  /-- An arrival to this barrier has not counted yet (R219): a SYN goes on to wait for its phase, a WT is reissued. -/
  | waitingArrival (key : CKey) (again : Bool)
  | waitingLatch (w : LatchWait)
  | waitingCounter (w : WaitFor)
  | suspended (w : BWait) (until_ : Nat)
  | parked (w : ParkWhy)
  | preempted
  | exited
  deriving DecidableEq, Repr

/-- Why a Ready team does not issue, without a change of its state (R145, R201, R204, R326, R329). -/
inductive Hold where
  /-- XLT into register n walks from va (R145). -/
  | walk (c : Ctl) (a : Fld) (n va : Nat)
  /-- CHINST waits for the conditions of R166 for the requests before upto; it is issued again then (R202). -/
  | install (upto : Nat)
  /-- CHINST of entry i waits for the requests of generation gen, then writes status to d (R201). -/
  | chinst (c : Ctl) (d a : Fld) (status : Word) (i gen : Nat)
  /-- A relief store or raw-view store waits to be accepted (R326, R329). -/
  | relief (c : Ctl) (a : Fld) (req : Nat)
  /-- A CHX with CHKP waits for its outcome (R204). -/
  | chx (req : Nat)
  deriving DecidableEq, Repr

/-- What a team is for. -/
inductive TeamKind where
  | ordinary
  | child (handle : Nat)
  | fire (inst : Nat)
  | amend (inst : Nat)
  | handler (num : Nat)
  /-- The firmware of a service core, from its start at ENTRY (R26). -/
  | firmware
  deriving DecidableEq, Repr

/-- An instruction that waits and then completes without a reissue (R66): what is done when the wait ends. -/
inductive Finish where
  | none
  | acquire (sc : Scope)
  | retireHandle (c : Ctl) (a : Fld) (hd : Nat)
  | reportBatches (c : Ctl) (a : Fld) (n : Word)
  | rcom (c : Ctl) (a : Fld) (key : RcbKey) (slot exp : Nat)
  | tryDone (c : Ctl) (d : Fld) (lvl : SyncLevel) (n : BitVec 4)
  /-- The instruction goes on from its wait: it is executed again without a fetch. -/
  | again (i : Instr)
  deriving DecidableEq, Repr

/-- A copy batch of a team (R172 to R177). -/
structure Batch where
  num : Nat
  cmds : List Nat
  reported : Bool
  deriving DecidableEq, Repr

/-- An outstanding spawn handle (R262): the children that have not exited, and the requests they had issued. -/
structure Handle where
  hd : Nat
  children : List Nat
  deriving DecidableEq, Repr

/-- A team (R65 to R88, R142, R153, R175, R258). -/
structure Team where
  id : Nat
  ctx : Nat
  kernel : Nat
  kind : TeamKind
  privileged : Bool
  tid : Nat
  depth : Nat
  parent : Option Nat
  codeBase : Nat
  /-- Lanes of a group, lanes of the team, registers of a lane. -/
  g : Nat
  nlanes : Nat
  p : Nat
  core : Nat
  quad : Nat
  slot : Nat
  /-- The slot of a paired team on the other core of its pair (R70). -/
  pairSlot : Option Nat
  /-- The first 16 KiB granule of the frame on the home core, and on the pair core of a paired team (R71, R254, R257). -/
  base : Nat
  base2 : Nat
  /-- The granules (core, granule) of the scratch, then those of the lane-private slices on the home core, then on the pair core (R254). -/
  parts : List (Nat × Nat)
  scrSize : Nat
  privSize : Nat
  cset : Nat
  st : TeamSt
  /-- The state before a pre-emption. -/
  prev : TeamSt
  hold : Option Hold
  finish : Finish
  pc : Word
  wbase : Nat
  mask : Mask
  /-- The lanes of the EXIT that left no lane: returns to them still land, and Exited follows (R66, R249). -/
  leaving : Mask
  stack : List Entry
  fmt : Word
  gangLo : Word
  gangHi : Word
  trapv : Word
  trapc : Word
  trapa : Word
  faultm : BitVec 2
  surf : Word
  bvh : Word
  k : List Word
  xl : List Xl
  frame : List Reg
  window : List (List (Nat × RegVal))
  gen : BitVec 16
  /-- Path counters: the requests of each path that have not left, oldest first. -/
  cnt : List (Path × Nat)
  sealed : Nat
  openBatch : List Nat
  batches : List Batch
  handles : List Handle
  nextHandle : Nat
  arvs : List Arrival
  scratch : Mem
  /-- Byte o of lane l's slice is at 65536 l + o. -/
  lanePriv : Mem
  /-- Instructions issued in a row (R259). -/
  streak : Nat
  /-- The launch record of a child, which its core scratch holds from byte 0 on at placement (R262). -/
  record : List Byte
  /-- Requests of exited children that a JOINC must still wait for (R263). -/
  upto : Nat
  deriving DecidableEq, Repr

/-! ## Requests in flight -/

/-- The local levels (R137). -/
inductive Level where
  | lane | core | aperture | clm | chip
  deriving DecidableEq, Repr

/-- The twenty operations of ATOM (R188). -/
inductive AtomOp where
  | ld | st | xchg | cas | add | and | or | xor | minS | maxS | minN | maxN | incw | decw | addb | fadd | fmin | fmax
  | add64 | xchg64
  deriving DecidableEq, Repr

/-- Where a lane of a request stands. -/
inductive LaneSt where
  /-- On its way to the place that serves it. -/
  | pending
  /-- Its value is bound (a load), or its operation has been done. -/
  | bound
  /-- Registered; the copies of these cores have not been acknowledged as revoked; d is the completion delay. -/
  | registered (owners : List Nat) (d : Nat)
  /-- Its acknowledgement, carrying d, is on its way. -/
  | acked (d : Nat)
  /-- It has landed or its acknowledgement has arrived. -/
  | done
  deriving DecidableEq, Repr

/-- One lane of a request: its resolved address, the operands it carries and the values it has bound. -/
structure Lane where
  lane : Nat
  va : Nat
  pa : Nat
  /-- Where the bytes from byte cut on lie: an LDA lane may cross a page (R152). -/
  pa2 : Nat
  cut : Nat
  attr : Attr
  /-- The attributes of the page of the bytes from byte cut on. -/
  attr2 : Attr := { w := false, wi := false, rlf := false, raw := false, ss := false, nx := false, home := 0 }
  /-- A lane of a replay packet whose page is not present, or is bad, at its reissue (notes/assumptions/44.md). -/
  lost : Bool := false
  /-- LDA: the offset in the destination level; the ISEC class, relief requests and accesses to views: when the request took its place at
  its datapath or engine, 0 before. -/
  dst : Nat
  /-- The ranges of virtual addresses that the translations of its global bytes cover: a run of a translation register, or pages. -/
  via : List (Nat × Nat)
  data : List Word
  got : List Word
  /-- LDA: destination offsets that the team has stored to meanwhile (R154). STG, STXS, ATOM and CHX: which of its bytes are
  destination bytes of a copy of the team that was incomplete at issue (R173). -/
  spoil : List Nat
  st : LaneSt
  deriving DecidableEq, Repr

/-- The states of a ray record (R341). -/
inductive RaySt where
  | travelling | queued | returning (status : Nat) | gone
  deriving DecidableEq, Repr

/-- A ray record (R341): the ray, the best hit (t, triangle, instance, u, v), the stack of references, the visit count, the
offending reference, and copies of the translation register's FRAME, LIMIT and ATTR. -/
structure Ray where
  lane : Nat
  words : List Word
  best : Option (List Word)
  stack : List Word
  visits : Nat
  bad : Word
  frame : Nat
  limit : Nat
  attr : Attr
  /-- When it reached its bank, in the order of arrival there. -/
  came : Nat
  st : RaySt
  deriving DecidableEq, Repr

/-- The word that a matrix instruction drains into: its address, where it lies, what translated it, and the machine's count of requests
when the instruction arrived (R243, R295). -/
structure Drain where
  va : Nat
  pa : Nat
  via : List (Nat × Nat)
  came : Nat
  deriving DecidableEq, Repr

/-- What a request does where it is served. Numbers name the functs of RELF, ISEC and STRM (R327, R352, R370). -/
inductive ReqKind where
  | ldg (sz : Size) (sx strong stream : Bool)
  | ldl (lvl : Level) (sz : Size) (sx : Bool)
  | stg (sz : Size) (strong stream : Bool)
  | stl (lvl : Level) (sz : Size)
  | lda (lvl : LdaLevel) (n : Nat) (stream : Bool)
  | atom (op : AtomOp) (sc : Scope)
  | chx (idx gen : Nat) (code : List Word) (chkp : Bool)
  | mabs
  | tile (drain : Option Drain) (latch : Option (Nat × Nat))
  | drain
  /-- RLD, RSTP, RSTC, RSTM, RBLK, or a raw-view access (size in dst of each lane), and whether it has been accepted. -/
  | relief (op : Nat) (surf : Nat) (answer : Option Bool)
  | isec (op : Nat) (frame limit : Nat) (attr : Attr)
  | trace
  /-- RNEXT (1) and LATEQ (6) of an instance; REMIT (2), WMARK (3) and SIDLE (4) on their way: each lane holds its stream in va and
  its source in dst. -/
  | strm (op : Nat) (inst : Nat)
  deriving DecidableEq, Repr

/-- A request that an instruction has issued and that has not completed (R74, R148, R161, R302). -/
structure Req where
  id : Nat
  ctx : Nat
  team : Nat
  gen : BitVec 16
  core : Nat
  kind : ReqKind
  /-- The local time of the core at issue (R159). -/
  at_ : Nat
  pc : Word
  dests : List Nat
  mask : Mask
  lanes : List Lane
  rays : List Ray
  deriving DecidableEq, Repr

/-- A local deadline (R162), with the translations of its access (R295). -/
structure Deadline where
  id : Nat
  via : List (Nat × Nat)
  req : Nat
  ctx : Nat
  team : Nat
  core : Nat
  at_ : Nat
  deriving DecidableEq, Repr

/-! ## Caches, banks and translations -/

/-- A copy of an 8-byte word in a core's L1 (R150, R159, R161): owned, or leased until a local time of the core. -/
structure Copy where
  core : Nat
  word : Nat
  val : Dword
  owned : Bool
  expiry : Nat
  /-- Teams of the core that have read the word at its home since the copy was granted: they use the copy no more (R185 note 4). -/
  seen : List Nat := []
  deriving DecidableEq, Repr

/-- What the home bank knows of an 8-byte word (R159, R161): the latest expiry it has granted and the owner. -/
structure BankWord where
  word : Nat
  expiry : Nat
  owner : Option Nat
  deriving DecidableEq, Repr

/-- A translation cached in a core's TLB (R143, R284): 64 KiB pages by page number, 512 MiB pages whole. -/
structure Tlb where
  core : Nat
  ctx : Nat
  page : Nat
  large : Bool
  frame : Nat
  attr : Attr
  deriving DecidableEq, Repr

/-! ## Latches -/

/-- A rendezvous latch that holds a tag (R226, R227). core is the core of position 0 (R229); members are the arrived teams with
their instructions and the address and physical address of their drain words. -/
structure Latch where
  pair : Nat
  core : Nat
  tag : Nat
  ctx : Nat
  count : Nat
  slots : List Nat
  sparse : Bool
  fmt : Nat
  selector : Nat
  members : List (Nat × Instr × Option Drain)
  /-- The tiles still to be written, once every member has arrived; none while Gathering. -/
  computing : Option (List Nat)
  deriving DecidableEq, Repr

/-! ## Kernels (R250 to R262) -/

/-- A launch descriptor (R252). -/
structure Desc where
  fmode : Nat
  strm : Bool
  wide : Bool
  coop : Bool
  code : Nat
  entry : Word
  amend : Word
  teams : Nat
  p : Nat
  g : Nat
  lanes : Nat
  scr : Nat
  clm : Nat
  priv : Nat
  cset : Nat
  reord : Nat
  nest : Nat
  bgrid : Nat
  bclu : Nat
  bteam : Nat
  bind : Nat
  args : List Word
  deriving DecidableEq, Repr

inductive KernelSt where
  | submitted | placing | running | draining | done | failed
  deriving DecidableEq, Repr

/-- A kernel (R250): its descriptor, the queue entry that launched it, the next team to place and the core that took the
previous one (R256). -/
structure Kernel where
  id : Nat
  st : KernelSt
  desc : Desc
  entry : Option (Nat × Nat)
  next : Nat
  last : Option Nat
  deriving DecidableEq, Repr

/-- A spawned child that waits for placement (R262). -/
structure Child where
  id : Nat
  kernel : Nat
  parent : Nat
  parentTid : Nat
  parentCore : Nat
  handle : Nat
  status : Word
  index : Nat
  entry : Word
  p : Nat
  lanes : Nat
  scr : Nat
  record : List Byte
  depth : Nat
  upto : Nat
  deriving DecidableEq, Repr

/-- A cluster set (R137, R256): its cluster, its teams and its cluster memory. -/
structure CSet where
  id : Nat
  kernel : Nat
  cluster : Nat
  size : Nat
  circuits : Nat
  /-- The granules (core, granule) of its contributions, core by core (R254). -/
  parts : List (Nat × Nat)
  mem : Mem
  deriving DecidableEq, Repr

/-! ## Queues and rings -/

/-- A fetched queue entry that has not completed (R267). -/
structure QEntry where
  n : Nat
  words : List Word
  started : Bool
  /-- The status it completes with, once its own work has ended. -/
  status : Option Nat
  /-- The kernel it launched or the copy command it started. -/
  work : Option Nat
  /-- The launch descriptor, which is read once (R250). -/
  desc : Option (List Word)
  /-- The time of the queue engine at which a WAIT last read its word (R267). -/
  read : Nat
  deriving DecidableEq, Repr

/-- A host queue (R264). -/
structure Queue where
  q : Nat
  qbase : Dword
  en : Bool
  err : Bool
  log2n : Nat
  rp : Word
  wp : Word
  /-- Entry numbers and byte offsets that a store had not made visible when WP was written over them (R1, R266). -/
  unseen : List (Nat × Nat)
  entries : List QEntry
  deriving DecidableEq, Repr

inductive SlotSt where
  | empty | acquired | pendingBytes | full | peeked
  deriving DecidableEq, Repr

/-- A slot of a ring (R273). -/
structure Slot where
  st : SlotSt
  credit : Nat
  exp : Nat
  fail : Bool
  deriving DecidableEq, Repr

/-- A ring control block (R272). -/
structure Rcb where
  key : RcbKey
  cfg : Word
  base : Dword
  ovf : Nat
  head : Nat
  tail : Nat
  slots : List Slot
  deriving DecidableEq, Repr

/-- The states of a syscall-ring entry other than Free (R277). -/
inductive SyscSt where
  | posted | serviced | delivered
  deriving DecidableEq, Repr

/-- An entry of the syscall ring that is not Free (R277): the request words, the reply once it is Serviced, the registers and team
it answers. -/
structure SyscEntry where
  n : Nat
  st : SyscSt
  reply : List Word
  team : Nat
  words : List Word
  dests : List Nat
  mask : Mask
  deriving DecidableEq, Repr

/-- A copy-engine command (R173). -/
structure Copyc where
  id : Nat
  ctx : Nat
  team : Option Nat
  entry : Option (Nat × Nat)
  src : Nat
  dst : Nat
  /-- The chip scratch is the destination. -/
  chip : Bool
  n : Nat
  credit : Option (RcbKey × Nat)
  failed : Bool
  complete : Bool
  /-- Once its bytes are registered: the time of the engine's clock at which the last write completion delay has passed. -/
  ready : Option Nat
  /-- Destination offsets that the team has stored to meanwhile (R173). -/
  spoil : List Nat
  /-- The physical ranges that it has written, and the pages that its translations cover. -/
  wrote : List (Nat × Nat)
  via : List (Nat × Nat)
  deriving DecidableEq, Repr

/-! ## Events and intercepts -/

/-- What a service event is about (R306). -/
inductive EventOf where
  | team (team : Nat)
  | copy (id : Nat)
  | entry (ctx q n : Nat)
  | seal (surf : Nat)
  /-- An armature unit's access for a stream (stream, source; source 256: the
  descriptor of the stream or binding with that number, 257: the overflow region of that binding, 300: a descriptor that a reference names). -/
  | armature (ctx stream src : Nat)
  | foreign (id : Nat)
  /-- A relief engine's access for a request, or for the RSEAL of a team. -/
  | relief (id : Nat)
  /-- The reissue of a replay packet (notes/assumptions/44.md). -/
  | packet (id : Nat)
  deriving DecidableEq, Repr

/-- An open service event (R288, R306): its number, the F it keeps, its kind, cause, detail and datum. -/
structure SvcEvent where
  num : Nat
  ctx : Nat
  what : EventOf
  kind : Nat
  cause : Nat
  detail : Nat
  f : Mask
  trapa : Word
  va : Nat
  access : Nat
  deriving DecidableEq, Repr

/-- An open write intercept (R293). -/
structure Intercept where
  num : Nat
  ctx : Nat
  team : Nat
  f : Mask
  va : Nat
  data : List Word
  deriving DecidableEq, Repr

/-! ## Relief surfaces (R314 to R340) -/

inductive SurfSt where
  | open_ | sealing | sealed | retired
  deriving DecidableEq, Repr

/-- A seal or flatten in progress (R337): n, j, q, H0, Rb, the SKIP fallback, and the blocks still to encode. -/
structure Seal where
  flatten : Bool
  n : Nat
  j : Nat
  q : Nat
  h0 : Nat
  rb : Nat
  fallback : Bool
  todo : List Nat
  /-- The context, queue and entry that asked for it. -/
  entry : Option (Nat × Nat × Nat)
  deriving DecidableEq, Repr

/-- A surface that a relief engine holds (R314): the physical address of its descriptor, the coded view as the engine holds
it (byte offsets from the descriptor), the Open-dirty blocks (none: evicted to the open area), and its references. -/
structure Surface where
  frame : Nat
  ctx : Nat
  st : SurfSt
  coded : Mem
  dirty : List (Nat × Option (List Byte))
  refs : List Nat
  progress : Option Seal
  /-- Heap bytes that software has written over while the surface is held, by offset, as the engine still reads them. -/
  kept : List (Nat × Byte) := []
  deriving DecidableEq, Repr

/-! ## Streams (R354 to R378) -/

inductive SrcSt where
  | live | idle | rejoining
  deriving DecidableEq, Repr

/-- A source of a held stream (R355, R361, R362): wp is SRC.WP, top the largest TIME accepted, seen the unit's clock at the
last record, held what waits for room in acceptance order, each with the team that emitted it. -/
structure Src where
  en : Bool
  kind : Nat
  st : SrcSt
  log2n : Nat
  rp : Word
  wp : Word
  disorder : Nat
  ringva : Nat
  swm : Int
  top : Option Int
  seen : Nat
  held : List (Option Nat × List Word)
  /-- Record numbers and byte offsets that a store had not made visible when SRC.WP was written over them (R266, R360). -/
  unseen : List (Nat × Nat)
  deriving DecidableEq, Repr

/-- A held stream (R355, R356): the address and physical address of its descriptor, the header fields and the sources. -/
structure Stream where
  idx : Nat
  va : Nat
  pa : Nat
  idle : Nat
  wm : Int
  badrec : Nat
  decr : Nat
  srcs : List Src
  deriving DecidableEq, Repr

inductive WinSt where
  | collecting | firing | fired | amending | closed
  deriving DecidableEq, Repr

/-- A window that holds a record (R365): the records still to deliver to its fire instance, its queued late records, and
whether the fire instance has published. -/
structure Win where
  k : Int
  st : WinSt
  /-- WM has reached its end, so what its fire instance will see is fixed (R377). -/
  due : Bool
  /-- It fires with one record that was accepted at or after its end (R365, R368). -/
  lateFire : Bool
  revision : Word
  deliver : List (List Word)
  late : List (List Word)
  published : Bool
  deriving DecidableEq, Repr

/-- A record in a pane (R364): its pane, its slot of 64 bytes (first those of the pane area, then those of the overflow region). -/
structure Paned where
  pane : Int
  slot : Nat
  words : List Word
  deriving DecidableEq, Repr

/-- A bound binding (R357, R358), with the address and physical address of its descriptor. -/
structure Binding where
  idx : Nat
  va : Nat
  pa : Nat
  kernel : Nat
  out : Bool
  instr : Nat
  outstr : Nat
  outsrc : Nat
  length : Nat
  slide : Nat
  offset : Int
  late : Nat
  resbase : Nat
  resn : Nat
  logbase : Nat
  logn : Nat
  lcount : Word
  paneoff : Nat
  panesz : Nat
  ovfbase : Nat
  ovfsz : Nat
  panes : List Paned
  wins : List Win
  last : Option Nat
  unbound : Bool
  deriving DecidableEq, Repr

/-- A fire or amend instance, waiting or placed (R366). -/
structure Inst where
  id : Nat
  bind : Nat
  kernel : Nat
  k : Int
  amend : Bool
  recd : List Word
  team : Option Nat
  deriving DecidableEq, Repr

/-! ## Contexts (R299 to R301) -/

inductive CtxSt where
  | created | loaded | running | switchingOut | saved | halted | rollingBack | reset
  deriving DecidableEq, Repr

/-- A context: its registers of R301 and everything that runs in it apart from its teams and requests. -/
structure Ctx where
  num : Nat
  st : CtxSt
  status : Nat
  cfg : Word
  quota : Nat
  xscr : Nat
  root : Dword
  cht : Dword
  /-- CTX.CHT has been written: before, the context has no chisel table (R193). -/
  chtSet : Bool
  save : Dword
  svec : Dword
  safe : Dword
  maqi : Nat
  maqn : Word
  haltPending : Bool
  capture : Bool
  /-- CTX.CMD start has been given and the context has not been loaded since (R300). -/
  started : Bool
  /-- The context has not been loaded since it was created: its chisel entries are still at reset (R196). -/
  fresh : Bool
  kernels : List Kernel
  csets : List CSet
  chip : Mem
  circuits : List Circuit
  latches : List Latch
  queues : List Queue
  rcbs : List Rcb
  sysc : List SyscEntry
  caps : List (Nat × Nat)
  children : List Child
  strmBase : Dword
  strmCfg : Word
  vfwin : Dword
  streams : List Stream
  bindings : List Binding
  insts : List Inst
  /-- Writes of SRC.WP (stream, source, value) that wait for the first ingest of their stream (R356, R360). -/
  wpWaits : List (Nat × Nat × Word)
  seq : Nat
  lastMaq : Nat
  /-- The size of the partition at the last save (R305), and what the save wrote (R304). -/
  savedSize : Nat
  savedImage : List Byte
  deriving DecidableEq, Repr

/-- A maquette (R308): the context and its teams as captured, and the pages that have reached the safe tier. While streaming,
pages that have not been streamed are in todo; staged holds the copies that writers made. -/
structure Maq where
  ctx : Nat
  image : Ctx
  teams : List Team
  reqs : List Req
  copies : List Copyc
  events : List SvcEvent
  intercepts : List Intercept
  pages : List (Nat × List Byte)
  todo : List Nat
  staged : List (Nat × List Byte)
  streaming : Bool
  entry : Option (Nat × Nat)
  deriving DecidableEq, Repr

/-- The lost-locality detector of a core (R260): the lines of its latest L1 evictions, newest first, the global loads of the window
that runs and its hits, and the hits of windows that have ended and not yet moved the cap. -/
structure Locality where
  core : Nat
  victims : List Nat
  loads : Nat
  hits : Nat
  ended : List Nat
  deriving DecidableEq, Repr

/-! ## The device and its ports -/

/-- The states of the device (R22). -/
inductive DevSt where
  | off | reset | awaiting | verifying | operational | frozen
  deriving DecidableEq, Repr

/-- Firmware load (R26). -/
structure Fw where
  stat : Nat
  leaf : Nat
  staging : Mem
  code : Mem
  entry : Word
  running : Bool
  deriving DecidableEq, Repr

inductive TapIr where
  | bypass | sample | extest | idcode | frzsel | frzdata
  deriving DecidableEq, Repr

/-- The TAP (R313): the instruction, the selector and what was last shifted out. -/
structure Tap where
  ir : TapIr
  sel : BitVec 48
  out : Dword
  deriving DecidableEq, Repr

/-- A run of memory whose writes had not been made visible when a TLBINV of a context's range started: page-table entries in it, walked
for an address of the range, hold Undefined values, numbered from num on (R1, R296). -/
structure UnseenPte where
  root : Nat
  lo : Nat
  hi : Nat
  pa : Nat
  n : Nat
  num : Nat
  deriving DecidableEq, Repr

/-- A function that a containment event fences (R300, R310). -/
inductive Fn where
  | l2 (slice bank : Nat)
  | storeBank (core bank : Nat)
  | executor (slice bank : Nat)
  | engine (kind slice : Nat)
  | port (n : Nat)
  deriving DecidableEq, Repr

/-- A free-page pool (R290). -/
structure Pool where
  base : Dword
  cfg : Word
  head : Word
  tail : Word
  lowf : Bool
  bad : Nat
  fallbk : Nat
  deriving DecidableEq, Repr

/-- The states of a scale-up port (R380). -/
inductive PortSt where
  | down | training | negotiating | up | refused | fenced
  deriving DecidableEq, Repr

/-- A scale-up port (R380). -/
structure Port where
  en : Bool
  st : PortSt
  cap : BitVec 5
  peer : Nat
  err : Nat
  ver : Word
  deriving DecidableEq, Repr

/-- A stream filter (R393). -/
structure Filter where
  w0 : Word
  w1 : Word
  drop : Nat
  deriving DecidableEq, Repr

/-- An inbound request that waits on a page that is not present (R384, R392): the accelerator port or Ethernet port it came by, what
it does there, and the full length of a message. -/
inductive InWork where
  | read
  | write (bytes : List Byte)
  | atom (op : BitVec 5) (v w : Word)
  deriving DecidableEq, Repr

structure Inbound where
  id : Nat
  ctx : Nat
  va : Nat
  n : Nat
  work : InWork
  /-- The partner may use relief requests (R386). -/
  relq : Bool
  /-- The Ethernet port whose buffer holds it, and the full length of what was sent. -/
  eth : Option Nat
  full : Nat
  since : Nat
  /-- The number by which the machine knows it, which the packets of one transfer do not share; the model's own. -/
  key : Nat
  /-- Its maquette sequence tag: device and context, MAQN and sequence (R389). -/
  tag : Option ((Nat × Nat) × (Nat × Nat))
  /-- It waits for a staging frame or behind another request, not for a page (R308, R339, R386). -/
  held : Bool
  /-- The status that says it is refused: access refused on a link, Completer Abort at the host port (R384, R394). -/
  refusal : Nat
  /-- The accelerator that a link request came from. -/
  peer : Option Nat := none
  deriving DecidableEq, Repr

/-- What the device has told the outside world, newest first. -/
inductive Out where
  /-- Data of an inbound or host read. -/
  | data (id : Nat) (bytes : List Byte)
  /-- A completion with a status: 0 done, 1 access refused, 2 not present, 4 completer abort, 6 overflow (with the full
  length). -/
  | status (id : Nat) (code : Nat) (len : Nat)
  /-- An invalidation acknowledged (R387). -/
  | invAck (line : Nat)
  /-- A collective completed with member reset, or its abort sent (R311, R388). -/
  | memberReset (ctx : Nat) (coll : Word)
  | abortSent (ctx : Nat) (coll : Word) (port : Nat)
  /-- A write that leaves by a port with MSEQ, with its tag (R389). -/
  | sent (port dev ctx maqn seq : Nat)
  /-- An event to system software through the physical function: pool low (R290), a write intercept (R293). -/
  | poolLow (slice : Nat)
  | intercept (num : Nat)
  deriving DecidableEq, Repr

/-- What moves next (notes/assumptions/1.md). -/
inductive Move where
  /-- The given quadrant of the given core issues from its oldest Ready team (R259). -/
  | quadrant (core quad : Nat)
  /-- An event of the device or of the outside happens. -/
  | event (e : Instr)
  /-- So many nanoseconds pass. -/
  | elapse (ns : Nat)
  /-- A core's L1 gives up its copy of a word (R150). -/
  | evict (core word : Nat)
  /-- A core's TLB gives up a translation (R284). -/
  | dropTlb (core ctx page : Nat)
  /-- The host sets the power limit of the package, in watts (R29, notes/assumptions/60.md). -/
  | power (watts : Nat)
  deriving DecidableEq, Repr

end Sys2Proof.Machine
end

