-- ==== Sys2Proof/Machine/State.lean ====
section
/-!
DEFINITION. The machine state: everything that the manual gives the Plynex 960, as plain data, and its value after reset.
-/

namespace Sys2Proof.Machine

/-- Why the machine stops. -/
inductive Fault where
  /-- exec was asked to run an instruction of a team while no team is issuing. Raised by exec alone, never by step, which
  chooses the team first. Safe: nothing is claimed of such a state. -/
  | noTeam
  deriving DecidableEq, Repr

/-- Why an instruction has no meaning. -/
inductive Refusal where
  /-- The instruction has no meaning in this model yet. Raised by the arms of exec that are not modelled. Safe. -/
  | notModelled (mnemonic : String)
  deriving DecidableEq, Repr

/-- The whole state. Each field cites the rule that gives it; fields without a rule are the model's own. -/
structure State where
  /-- Who moves next; the model's own (notes/assumptions/1.md). -/
  agenda : List Move
  /-- True time in nanoseconds behind every local counter (R18). -/
  clock : Nat
  /-- Nanoseconds that one step takes; the model's own (notes/assumptions/2.md). -/
  stepNs : Nat
  /-- How far each core's counter runs ahead of the others (R18); cores that are not listed: 0. -/
  coreSkew : List (Nat × Nat)
  /-- The clock at which reset was released; counters start there (R18, R23). -/
  released : Nat
  /-- Counts the issues that happened with an empty agenda; the model's own (notes/assumptions/1.md). -/
  turn : Nat
  /-- The team that is issuing; the model's own. -/
  focus : Option Nat
  /-- Numbers the free values; the model's own (notes/assumptions/3.md). -/
  freeCtr : Nat
  /-- Numbers requests, commands, events, teams and kernels in the order of their making; the model's own. -/
  nextId : Nat
  /-- The device's answers to the outside, newest first. -/
  outbox : List Out
  /-- The device state (R22). -/
  dev : DevSt
  /-- The level of the FREEZE pin (R24). -/
  freezePin : Bool
  /-- Status thermal (R23). -/
  thermal : Bool
  /-- Dies whose issue is throttled (R30). -/
  throttled : List Nat
  /-- The package power limit in watts (R29). -/
  tdp : Nat
  fw : Fw
  tap : Tap
  /-- DRAM by physical address (R14). -/
  mem : Mem
  /-- Memory across the links, by partner and link address (R383); what the remote home holds (notes/assumptions/6.md). -/
  fabric : Mem
  /-- Copies in the L1 caches (R159 to R161). -/
  l1 : List Copy
  /-- What the home banks record of each word (R159, R161). -/
  banks : List BankWord
  /-- Poisoned lines, by physical address / 64 (R209, R310). -/
  poisoned : List Nat
  /-- Lines of remote system-shared memory kept in L2, by partner and link address / 64 (R387), with their bytes. -/
  ssLines : List (Nat × List Byte)
  tlb : List Tlb
  /-- The lost-locality detectors (R260); a core that is not listed has seen nothing. -/
  detectors : List Locality
  /-- The context that last held a granule (core, granule) of the core store since reset (R27); none: one that has been destroyed. -/
  holders : List ((Nat × Nat) × Option Nat)
  /-- The barrier circuits of the firmware's teams, which belong to no context (R26, R211). -/
  fwCircuits : List Circuit
  /-- What TLBINV entries have found unseen (R296). -/
  unseenPte : List UnseenPte
  /-- Pages (context, physical page) dirtied since the last committed maquette (R308). -/
  dirty : List (Nat × Nat)
  /-- PART.CFG of the twelve slices (R297). -/
  part : List Word
  /-- CE.OWN of the 48 channels (R298). -/
  ceOwn : List Word
  pools : List Pool
  linkId : Nat
  ports : List Port
  /-- LMAP.CTL and LMAP.BASE of the 64 outbound windows (R383). -/
  lmap : List (Word × Word)
  /-- The two words of the 64 inbound windows (R384). -/
  inwin : List (Word × Word)
  /-- The stream filters, 64 of each Ethernet port (R393). -/
  filters : List Filter
  /-- Datagrams held in the Ethernet port buffers: port, filter, records (R393). -/
  ethBuf : List (Nat × Nat × List (List Word))
  inbound : List Inbound
  /-- Answers that leave once the engines' clock has reached a time (R386, R387). -/
  acks : List (Nat × Out)
  /-- Ethernet transfers that have ended before their last packet (R392). -/
  ended : List Nat
  /-- The highest (MAQN, sequence) applied for each (device, context) (R389). -/
  applied : List ((Nat × Nat) × (Nat × Nat))
  ctxs : List Ctx
  /-- The context that each partition loaded last, by the partition's first slice (R300). -/
  lastCtx : List (Nat × Nat)
  /-- Functions that have been fenced, and when they failed last; those removed from service (R300, R310). -/
  fenced : List (Fn × Nat)
  removed : List Fn
  teams : List Team
  /-- The teams of all quadrants from old to young (R259). -/
  order : List Nat
  reqs : List Req
  deadlines : List Deadline
  copies : List Copyc
  events : List SvcEvent
  /-- Agents that are no teams, with the pages (address / 65536) at which a skip or fatal completion has ended their wait (R417). -/
  giveUp : List (EventOf × Nat)
  intercepts : List Intercept
  surfaces : List Surface
  maqs : List Maq
  deriving DecidableEq, Repr

/-- A free-page pool after reset (R290). -/
def Pool.reset : Pool := { base := 0, cfg := 4, head := 0, tail := 0, lowf := false, bad := 0, fallbk := 0 }

/-- A scale-up port after reset (R380). -/
def Port.reset : Port := { en := false, st := .down, cap := 0, peer := 0, err := 0, ver := 0 }

/-- The machine right after reset: the device in Reset, every array cleared, no context (R23, R27, R300). -/
def State.reset : State :=
  { agenda := [], clock := 0, stepNs := 1, coreSkew := [], released := 0, turn := 0, focus := none, freeCtr := 0, nextId := 1,
    outbox := [], dev := .reset, freezePin := false, thermal := false, throttled := [], tdp := 2800,
    fw := { stat := 0, leaf := 0, staging := [], code := [], entry := 0, running := false },
    tap := { ir := .idcode, sel := 0, out := 0 },
    mem := [], fabric := [], l1 := [], banks := [], poisoned := [], ssLines := [], tlb := [], detectors := [], holders := [], fwCircuits := [],
    unseenPte := [], dirty := [],
    part := List.replicate 12 0, ceOwn := List.replicate 48 0, pools := List.replicate 12 Pool.reset, linkId := 0,
    ports := List.replicate 16 Port.reset, lmap := List.replicate 64 (0, 0), inwin := List.replicate 64 (0, 0),
    filters := List.replicate 256 { w0 := 0, w1 := 0, drop := 0 }, ethBuf := [], inbound := [], acks := [], ended := [], applied := [],
    ctxs := [], lastCtx := [], fenced := [], removed := [], teams := [], order := [], reqs := [], deadlines := [], copies := [], events := [], giveUp := [], intercepts := [],
    surfaces := [], maqs := [] }

end Sys2Proof.Machine
end

