-- ==== Sys2Proof/Config.lean ====
section
/-!
DEFINITION. What an implementation fixes and the free values: constants without a body, of which nothing can be proved.
Each one is named in a row of notes/assumptions.
-/

namespace Sys2Proof.Config

/-- A free 32-bit value: the n-th value that the manual leaves Undefined (R2). The step numbers them with State.freeCtr. -/
opaque freeWord : Nat → BitVec 32

/-- A free byte: what an Undefined byte of memory holds (R154, R173, R314). -/
opaque freeByte : Nat → BitVec 8

/-- Whether an XMSS-SHAKE256_20_256 signature over an image verifies under the fused public key (R25). The rule defers to
NIST SP 800-208 and to a key fused at manufacture. -/
opaque xmssValid : List Byte → List Byte → Bool

/-- The word that a frozen read-out shifts out for an array and a word index, from what the machine holds (R313): the manual gives no
layout of the arrays. -/
opaque frozenWord : Nat → Nat → Machine.State → BitVec 64

/-- The bytes of a section of the save area of a context, from what the machine holds (R304): the manual gives the contents of the ten
kinds and no layout of them. -/
opaque saveSection : Nat → Nat → Machine.State → List Byte

/-- The scale-up port by which a syscall request sends a message, if it sends one (R389): the manual leaves the words of a request to its
service (R277). -/
opaque message : List (BitVec 32) → Option Nat

/-- The collective's identifier and the port of a syscall request that contributes to a collective (R388). -/
opaque contribution : List (BitVec 32) → Option (BitVec 32 × Nat)

end Sys2Proof.Config
end

