-- ==== Sys2Proof/Machine/Float.lean ====
section
/-!
DEFINITION. The number formats (spec/04_numbers.md): exact values of patterns, exact sums and products, one rounding to
nearest with ties to even, and the functions of spec/05_arithmetic.md built from them.
-/

namespace Sys2Proof.Machine

/-- The exact value of a floating-point pattern (R101, R102): finite values are ± m × 2^e, and zeros carry a sign. -/
inductive FVal where
  | nan
  | inf (neg : Bool)
  | fin (neg : Bool) (m : Nat) (e : Int)
  deriving DecidableEq, Repr

/-- A floating-point format: exponent bits, mantissa bits, bias, whether the top exponent holds infinities, the largest
finite magnitude pattern, what an overflowing result becomes, and the canonical NaN (R101, R103, R104, R107). -/
structure Fmt where
  eb : Nat
  mb : Nat
  bias : Nat
  ieee : Bool
  maxPat : Nat
  ovfPat : Nat
  nanPat : Nat
  deriving DecidableEq, Repr

def fmt32 : Fmt := ⟨8, 23, 127, true, 0x7F7FFFFF, 0x7F800000, 0x7FC00000⟩
def fmtB16 : Fmt := ⟨8, 7, 127, true, 0x7F7F, 0x7F80, 0x7FC0⟩
/-- E4 has no infinity: out of range saturates to 448 (R107). -/
def fmtE4 : Fmt := ⟨4, 3, 7, false, 0x7E, 0x7E, 0x7F⟩
/-- E5: a finite value out of range saturates to 57,344 (R107). -/
def fmtE5 : Fmt := ⟨5, 2, 15, true, 0x7B, 0x7B, 0x7E⟩

/-- The value of a pattern (R102). -/
def Fmt.value (f : Fmt) (x : Nat) : FVal :=
  let neg := (x >>> (f.eb + f.mb)) % 2 == 1
  let e := (x >>> f.mb) % 2 ^ f.eb
  let m := x % 2 ^ f.mb
  let top := 2 ^ f.eb - 1
  if e == top && (if f.ieee then m != 0 else m == 2 ^ f.mb - 1) then .nan
  else if e == top && f.ieee then .inf neg
  else if e == 0 then .fin neg m (1 - (f.bias : Int) - f.mb)
  else .fin neg (2 ^ f.mb + m) ((e : Int) - f.bias - f.mb)

/-- The magnitude pattern nearest to (m + t) × 2^e, ties to even, where t is 0, or lies strictly between 0 and 1 when
sticky holds (R103). The caller gives m more bits than the format when sticky holds. -/
def Fmt.roundMag (f : Fmt) (m : Nat) (e : Int) (sticky : Bool) : Nat :=
  if m == 0 then 0
  else
    let q : Int := max (e + (Nat.log2 m + 1 : Nat) - (f.mb + 1 : Nat)) (1 - (f.bias : Int) - f.mb)
    let n : Nat :=
      if q ≤ e then m <<< (e - q).toNat
      else
        let s := (q - e).toNat
        let n0 := m >>> s
        let r := m % 2 ^ s
        let half := 2 ^ (s - 1)
        if half < r || (r == half && (sticky || n0 % 2 == 1)) then n0 + 1 else n0
    let pat := if n < 2 ^ f.mb then n else ((q + f.bias + f.mb).toNat <<< f.mb) + (n - 2 ^ f.mb)
    if f.maxPat < pat then f.ovfPat else pat

/-- A magnitude pattern with a sign. -/
def Fmt.signed (f : Fmt) (neg : Bool) (mag : Nat) : Nat :=
  if neg then 2 ^ (f.eb + f.mb) + mag else mag

/-- RNE_f of an exact value (R6, R103, R104, R107): NaN gives the canonical NaN; E4 saturates an infinity. -/
def Fmt.rne (f : Fmt) : FVal → Nat
  | .nan => f.nanPat
  | .inf neg => f.signed neg (if f.ieee then (2 ^ f.eb - 1) <<< f.mb else f.maxPat)
  | .fin neg m e => f.signed neg (f.roundMag m e false)

/-- F(x): the value of an FP32 pattern (R123). -/
def F (x : Word) : FVal := fmt32.value x.toNat

/-- RNE to FP32 of an exact value. -/
def rne32 (v : FVal) : Word := BitVec.ofNat 32 (fmt32.rne v)

/-- The canonical NaN of FP32 (R104). -/
def nan32 : Word := 0x7FC00000#32

def FVal.isNan : FVal → Bool
  | .nan => true
  | _ => false

def FVal.neg : FVal → FVal
  | .nan => .nan
  | .inf s => .inf (!s)
  | .fin s m e => .fin (!s) m e

/-- The exact product (R112, R115, R127): 0 × ±∞ is NaN. -/
def FVal.mul : FVal → FVal → FVal
  | .nan, _ => .nan
  | _, .nan => .nan
  | .inf s, .inf t => .inf (s != t)
  | .inf s, .fin t m _ => if m == 0 then .nan else .inf (s != t)
  | .fin s m _, .inf t => if m == 0 then .nan else .inf (s != t)
  | .fin s m e, .fin t n e' => .fin (s != t) (m * n) (e + e')

/-- The signed mantissa of a finite value, scaled to the exponent e0. -/
def FVal.scaled (e0 : Int) : FVal → Int
  | .fin s m e =>
    let n : Int := (m <<< (e - e0).toNat : Nat)
    if s then -n else n
  | _ => 0

/-- The least exponent of the finite values of a list. -/
def minExp : List FVal → Int → Int
  | [], acc => acc
  | .fin _ _ e :: rest, acc => minExp rest (min e acc)
  | _ :: rest, acc => minExp rest acc

/-- The exact sum of a list of addends (R103, R115): NaN when an addend is NaN or both infinities occur; a zero sum is +0
unless every addend is −0. -/
def sumExact (l : List FVal) : FVal :=
  if l.any FVal.isNan || (l.contains (.inf true) && l.contains (.inf false)) then .nan
  else if l.contains (.inf true) then .inf true
  else if l.contains (.inf false) then .inf false
  else
    let e0 := minExp l 0
    let s := l.foldl (fun acc v => acc + v.scaled e0) (0 : Int)
    if s == 0 then
      .fin (!l.isEmpty && l.all fun v => match v with | .fin n _ _ => n | _ => false) 0 0
    else .fin (decide (s < 0)) s.natAbs e0

/-! ## Arithmetic of spec/05_arithmetic.md -/

def fadd (a b : Word) : Word := rne32 (sumExact [F a, F b])
def fsub (a b : Word) : Word := rne32 (sumExact [F a, (F b).neg])
def fmul (a b : Word) : Word := rne32 ((F a).mul (F b))
/-- One rounding of product plus D (R126). -/
def ffma (a b d : Word) : Word := rne32 (sumExact [(F a).mul (F b), F d])

/-- The quotient of two positive mantissas to at least 40 bits: mantissa, exponent shift, and whether a remainder is left. -/
def quotient (m n : Nat) : Nat × Nat × Bool :=
  let k := 40 + (Nat.log2 n + 1)
  let x := m <<< k
  (x / n, k, x % n != 0)

/-- RNE(F(A) / F(B)) (R126, R127). -/
def fdiv (a b : Word) : Word :=
  match F a, F b with
  | .nan, _ => nan32
  | _, .nan => nan32
  | .inf _, .inf _ => nan32
  | .inf s, .fin t _ _ => rne32 (.inf (s != t))
  | .fin s _ _, .inf t => rne32 (.fin (s != t) 0 0)
  | .fin s m e, .fin t n e' =>
    if n == 0 then (if m == 0 then nan32 else rne32 (.inf (s != t)))
    else if m == 0 then rne32 (.fin (s != t) 0 0)
    else
      let (q, k, st) := quotient m n
      BitVec.ofNat 32 (fmt32.signed (s != t) (fmt32.roundMag q (e - e' - k) st))

/-- Integer square root, rounded down, by binary digits from bit k down. -/
def isqrtAux (n : Nat) : Nat → Nat → Nat
  | 0, r => r
  | k + 1, r =>
    let r' := r + 2 ^ k
    isqrtAux n k (if r' * r' ≤ n then r' else r)

def isqrt (n : Nat) : Nat := isqrtAux n (Nat.log2 n / 2 + 1) 0

/-- RNE(√F(A)) (R131, R132). -/
def fsqrt (a : Word) : Word :=
  match F a with
  | .nan => nan32
  | .inf s => if s then nan32 else a
  | .fin s m e =>
    if m == 0 then a
    else if s then nan32
    else
      let x := if e % 2 == 0 then m <<< 80 else m <<< 81
      let e2 := if e % 2 == 0 then (e - 80) / 2 else (e - 81) / 2
      let r := isqrt x
      BitVec.ofNat 32 (fmt32.roundMag r e2 (r * r != x))

/-- RNE(1 / F(A)) (R131, R132). -/
def frcp (a : Word) : Word := fdiv 0x3F800000#32 a

/-- RNE(1 / √F(A)) (R131, R132). -/
def frsq (a : Word) : Word :=
  match F a with
  | .nan => nan32
  | .inf s => if s then nan32 else 0#32
  | .fin s m e =>
    if m == 0 then rne32 (.inf s)
    else if s then nan32
    else
      let (m', e') := if e % 2 == 0 then (m, e) else (m <<< 1, e - 1)
      let k := 60 + (Nat.log2 m' + 1)
      let r := isqrt ((1 <<< (2 * k)) / m')
      BitVec.ofNat 32 (fmt32.roundMag r (-(k : Int) - e' / 2) (r * r * m' != 1 <<< (2 * k)))

/-! ## Transcendental functions (R131, R132)

Each is evaluated in fixed point with 192 fraction bits; the true value lies within 2^20 units of the last place of the
result. -/

def fxBits : Nat := 192
def fxOne : Nat := 1 <<< fxBits
/-- π × 2^192 and ln 2 × 2^192, rounded down, from 256-bit constants. -/
def fxPi : Nat := 363771576891766324280234942777729862653393377328392429958772151117938894466185 >>> 64
def fxLn2 : Nat := 80260960185991308862233904206310070533990667611589946606122867505419956976171 >>> 64

def fxMul (a b : Nat) : Nat := (a * b) >>> fxBits

/-- Sum of y^k / k! from term t of index k on. -/
def expSeries (y : Nat) : Nat → Nat → Nat → Nat
  | 0, _, _ => 0
  | fuel + 1, k, t => t + expSeries y fuel (k + 1) (fxMul t y / (k + 1))

/-- Sum of r^(2k+1) / (2k+1), with r2 = r^2 and t the present power. -/
def atanhSeries (r2 : Nat) : Nat → Nat → Nat → Nat
  | 0, _, _ => 0
  | fuel + 1, k, t => t / k + atanhSeries r2 fuel (k + 2) (fxMul t r2)

/-- 1 − z/3! + z²/5! − …, with z = y²; s is the term's sign and t its magnitude. -/
def sincSeries (z : Nat) : Nat → Nat → Nat → Bool → Int
  | 0, _, _, _ => 0
  | fuel + 1, k, t, s =>
    (if s then (t : Int) else -(t : Int)) + sincSeries z fuel (k + 2) (fxMul t z / ((k + 1) * (k + 2))) (!s)

/-- A value that v × 2^e approximates, rounded. No operand of FEX2, FLG2, FSIN and FCOS has a value within 2^-59 of itself of a rounding
boundary, and the approximations below are closer than 2^-120, so this is the value correctly rounded (R131; notes/assumptions/59.md). -/
def roundNear (neg : Bool) (v : Nat) (e : Int) : Word := BitVec.ofNat 32 (fmt32.signed neg (fmt32.roundMag v e true))

/-- m × 2^e as a fixed-point integer with fxBits fraction bits, rounded down. -/
def toFx (m : Nat) (e : Int) : Nat :=
  let s : Int := e + fxBits
  if 0 ≤ s then m <<< s.toNat else m >>> (-s).toNat

/-- Whether m × 2^e is an integer. -/
def isInt (m : Nat) (e : Int) : Bool := 0 ≤ e || m % 2 ^ (-e).toNat == 0

/-- The integer part of m × 2^e, rounded down. -/
def intPart (m : Nat) (e : Int) : Nat := if 0 ≤ e then m <<< e.toNat else m >>> (-e).toNat

/-- RNE(2^F(A)). -/
def fex2 (a : Word) : Word :=
  match F a with
  | .nan => nan32
  | .inf s => if s then 0#32 else a
  | .fin s m e =>
    if m == 0 then 0x3F800000#32
    else if 20 < e + Nat.log2 m then (if s then 0#32 else 0x7F800000#32)
    else
      let ip := intPart m e
      if isInt m e then
        let n : Int := if s then -(ip : Int) else ip
        BitVec.ofNat 32 (fmt32.roundMag 1 n false)
      else if 512 < ip then (if s then 0#32 else 0x7F800000#32)
      else
        let fr := toFx m e - ip * fxOne
        let (n, f) : Int × Nat := if s then (-(ip : Int) - 1, fxOne - fr) else (ip, fr)
        let r := expSeries (fxMul f fxLn2) 70 0 fxOne
        roundNear false r (n - fxBits)

/-- ln z in fixed point for z in [1, 2), by the series of artanh. -/
def fxLn (z : Nat) : Nat :=
  let r := ((z - fxOne) <<< fxBits) / (z + fxOne)
  2 * atanhSeries (fxMul r r) 70 1 r

/-- RNE(log₂ F(A)). -/
def flg2 (a : Word) : Word :=
  match F a with
  | .nan => nan32
  | .inf s => if s then nan32 else a
  | .fin s m e =>
    if m == 0 then 0xFF800000#32
    else if s then nan32
    else
      let l := Nat.log2 m
      let n : Int := e + l
      if m == 2 ^ l then rne32 (.fin (decide (n < 0)) n.natAbs 0)
      else
        let z := toFx m (-(l : Int))
        let q := (fxLn z <<< fxBits) / fxLn2
        let v : Int := n * (fxOne : Int) + q
        roundNear (decide (v < 0)) v.natAbs (-(fxBits : Int))

/-- RNE(± sin(π × m × 2^e)) for 0 < m × 2^e ≤ 1/2, with the sign given. -/
def sinPi (neg : Bool) (m : Nat) (e : Int) : Word :=
  let y := fxMul (toFx m e) fxPi
  let s := sincSeries (fxMul y y) 60 1 fxOne true
  roundNear neg (m * fxMul s.toNat fxPi) (e - fxBits)

/-- The fraction x mod 2 of x = m × 2^e with e < 0, as a numerator over 2^(−e). -/
def mod2 (m : Nat) (e : Int) : Nat := m % 2 ^ ((-e).toNat + 1)

/-- RNE(sin(π × F(A))); the argument counts half-turns. -/
def fsin (a : Word) : Word :=
  match F a with
  | .nan => nan32
  | .inf _ => nan32
  | .fin s m e =>
    if isInt m e then (if s then 0x80000000#32 else 0#32)
    else
      let one := 2 ^ (-e).toNat
      let r := mod2 m e
      let neg := s != decide (one ≤ r)
      let t := r % one
      let t' := if one < 2 * t then one - t else t
      if 2 * t' == one then (if neg then 0xBF800000#32 else 0x3F800000#32)
      else sinPi neg t' e

/-- RNE(cos(π × F(A))). -/
def fcos (a : Word) : Word :=
  match F a with
  | .nan => nan32
  | .inf _ => nan32
  | .fin _ m e =>
    if isInt m e then (if intPart m e % 2 == 0 then 0x3F800000#32 else 0xBF800000#32)
    else
      let one := 2 ^ (-e).toNat
      let r := mod2 m e
      let r' := if one < r then 2 * one - r else r
      if 2 * r' == one then 0#32
      else
        let neg := decide (one < 2 * r')
        let h := if neg then 2 * r' - one else one - 2 * r'
        sinPi neg h (e - 1)

/-! ## Rounding to an integer, minima, compares and classes -/

inductive IntMode where
  | floor | ceil | trunc | nearest
  deriving DecidableEq, Repr

/-- m × 2^e rounded to an integer magnitude, the sign being neg. -/
def roundInt (mode : IntMode) (neg : Bool) (m : Nat) (e : Int) : Nat :=
  if 0 ≤ e then m <<< e.toNat
  else
    let s := (-e).toNat
    let n := m >>> s
    let r := m % 2 ^ s
    let half := 2 ^ (s - 1)
    match mode with
    | .trunc => n
    | .floor => if neg && r != 0 then n + 1 else n
    | .ceil => if !neg && r != 0 then n + 1 else n
    | .nearest => if half < r || (r == half && n % 2 == 1) then n + 1 else n

/-- FFLOOR, FCEIL, FTRUNC, FRINT (R131, R132): a zero result keeps the operand's sign. -/
def fround (mode : IntMode) (a : Word) : Word :=
  match F a with
  | .nan => nan32
  | .inf _ => a
  | .fin s m e => rne32 (.fin s (roundInt mode s m e) 0)

/-- The order of two exact finite or infinite values; NaN is not compared. -/
def FVal.lt : FVal → FVal → Bool
  | .inf s, .inf t => s && !t
  | .inf s, .fin .. => s
  | .fin .., .inf t => !t
  | .fin s m e, .fin t n e' =>
    let e0 := min e e'
    decide ((FVal.fin s m e).scaled e0 < (FVal.fin t n e').scaled e0)
  | _, _ => false

/-- Equality of values: −0 equals +0 (R127). -/
def FVal.eqv : FVal → FVal → Bool
  | .nan, _ => false
  | _, .nan => false
  | a, b => !a.lt b && !b.lt a

def ofBool (b : Bool) : Word := if b then 1#32 else 0#32

def fcmpeq (a b : Word) : Word := ofBool ((F a).eqv (F b))
def fcmplt (a b : Word) : Word := ofBool ((F a).lt (F b))
def fcmple (a b : Word) : Word := ofBool ((F a).lt (F b) || (F a).eqv (F b))
def fcmpun (a b : Word) : Word := ofBool ((F a).isNan || (F b).isNan)

/-- FMIN (R127): a NaN loses to a number, and −0 ranks below +0. -/
def fmin (a b : Word) : Word :=
  match (F a).isNan, (F b).isNan with
  | true, true => nan32
  | true, false => b
  | false, true => a
  | false, false =>
    if (F a).lt (F b) then a else if (F b).lt (F a) then b else if a.getLsbD 31 then a else b

/-- FMAX (R127). -/
def fmax (a b : Word) : Word :=
  match (F a).isNan, (F b).isNan with
  | true, true => nan32
  | true, false => b
  | false, true => a
  | false, false =>
    if (F a).lt (F b) then b else if (F b).lt (F a) then a else if a.getLsbD 31 then b else a

def fneg (a : Word) : Word := if (F a).isNan then nan32 else a ^^^ 0x80000000#32
def fabs (a : Word) : Word := if (F a).isNan then nan32 else a &&& 0x7FFFFFFF#32

/-- FSAT (R131, R132): CLAMP to +0 and 1.0; NaN, −0 and negative values give +0. -/
def fsat (a : Word) : Word :=
  match F a with
  | .nan => 0#32
  | v =>
    if a.getLsbD 31 then 0#32
    else if (F 0x3F800000#32).lt v then 0x3F800000#32
    else a

/-- FCLASS (R133). -/
def fclass (a : Word) : Word :=
  let neg := a.getLsbD 31
  let e := (a >>> 23).toNat % 256
  let m := a.toNat % 2 ^ 23
  let b :=
    if e == 255 && m != 0 then 8
    else if e == 255 then (if neg then 0 else 7)
    else if e == 0 && m == 0 then (if neg then 3 else 4)
    else if e == 0 then (if neg then 2 else 5)
    else (if neg then 1 else 6)
  BitVec.ofNat 32 (2 ^ b)

/-! ## Conversions (R107, R108 to R111, R134, R135) -/

/-- The exact value of an integer. -/
def FVal.ofInt (i : Int) : FVal := .fin (decide (i < 0)) i.natAbs 0

def cvtF32I32 (a : Word) : Word := rne32 (FVal.ofInt a.toInt)
def cvtF32N32 (a : Word) : Word := rne32 (FVal.ofInt a.toNat)

/-- F(A) truncated to an integer within lo and hi; NaN gives 0. -/
def truncSat (lo hi : Int) (v : FVal) : Word :=
  match v with
  | .nan => 0#32
  | .inf s => wordOfInt (if s then lo else hi)
  | .fin s m e =>
    let n : Int := intPart m e
    wordOfInt (max lo (min hi (if s then -n else n)))

def cvtI32F32 (a : Word) : Word := truncSat (-2147483648) 2147483647 (F a)
def cvtN32F32 (a : Word) : Word := truncSat 0 4294967295 (F a)

def toB16 (a : Word) : BitVec 16 := BitVec.ofNat 16 (fmtB16.rne (F a))
def toE4 (a : Word) : Byte := BitVec.ofNat 8 (fmtE4.rne (F a))
def toE5 (a : Word) : Byte := BitVec.ofNat 8 (fmtE5.rne (F a))
def ofB16 (h : BitVec 16) : Word := rne32 (fmtB16.value h.toNat)
def ofE4 (b : Byte) : Word := rne32 (fmtE4.value b.toNat)
def ofE5 (b : Byte) : Word := rne32 (fmtE5.value b.toNat)

/-- The numerator k of the level k / 1024 of a Q4 code (R108). -/
def q4Level (c : BitVec 4) : Int :=
  match c.toNat with
  | 0 => -1024
  | 1 => -712
  | 2 => -540
  | 3 => -404
  | 4 => -290
  | 5 => -188
  | 6 => -92
  | 7 => 0
  | 8 => 82
  | 9 => 166
  | 10 => 256
  | 11 => 352
  | 12 => 460
  | 13 => 588
  | 14 => 752
  | _ => 1024

/-- The exact level value of a Q4 code. -/
def q4Value (c : BitVec 4) : FVal := .fin (decide (q4Level c < 0)) (q4Level c).natAbs (-10)

/-- The code whose interval holds u = n / d, d > 0 (R109). -/
def q4CodeOfRatio (n : Int) (d : Nat) : BitVec 4 :=
  let lt (k : Int) : Bool := decide (n < k * d)
  let le (k : Int) : Bool := decide (n ≤ k * d)
  if lt (-868) then 0#4 else if lt (-626) then 1#4 else if lt (-472) then 2#4 else if lt (-347) then 3#4
  else if lt (-239) then 4#4 else if lt (-140) then 5#4 else if lt (-46) then 6#4 else if le 41 then 7#4
  else if le 124 then 8#4 else if le 211 then 9#4 else if le 304 then 10#4 else if le 406 then 11#4
  else if le 524 then 12#4 else if le 670 then 13#4 else if le 888 then 14#4 else 15#4

/-- Q4CODE(x / s) with the exact quotient (R109, R111). -/
def q4Encode (x s : FVal) : BitVec 4 :=
  match x, s with
  | .nan, _ => 7#4
  | _, .nan => 7#4
  | .inf _, .inf _ => 7#4
  | .inf a, .fin b _ _ => if a != b then 0#4 else 15#4
  | .fin .., .inf _ => 7#4
  | .fin a m e, .fin b n e' =>
    if m == 0 then 7#4
    else if n == 0 then (if a != b then 0#4 else 15#4)
    else
      let k := e - e'
      let num : Nat := if 0 ≤ k then (1024 * m) <<< k.toNat else 1024 * m
      let den : Nat := if 0 ≤ k then n else n <<< (-k).toNat
      q4CodeOfRatio (if a != b then -(num : Int) else num) den

/-- The block scale RNE(G × (c + 1) / 256) (R110). -/
def qscale (g : Word) (c : Byte) : Word := rne32 ((F g).mul (.fin false (c.toNat + 1) (-8)))

def qenc (x s : Word) : Word := zext32 (q4Encode (F x) (F s))

end Sys2Proof.Machine
end

