-- ==== Sys2Proof/WellFormed.lean ====
section
/-!
DEFINITION. Which instructions are well-formed: the rules on the fields of an instruction word (R36, R40 to R42, R53 to
R63 and the field columns of the instruction chapters). Each check has a name of its own. An instruction that fails one
has no legal word, and its word takes the illegal-encoding trap (R44).
-/

namespace Sys2Proof

/-- The named checks an instruction's fields must pass. -/
inductive WfError where
  /-- C[0] is set under V = 0 or 1 in a format without a B operand (R36). -/
  | badControl
  /-- A destination names lid, gid or tid, or a register that a long-latency producer may not write (R40, R42). -/
  | badDestination
  /-- A run of consecutive registers passes v119 (R41). -/
  | badRun
  /-- A field lies outside the range its instruction chapter gives (R42). -/
  | badField
  /-- A control register number that is not assigned, or not writable in WRC (R54, R55). -/
  | badControlRegister
  /-- A K or T value that R57, R58 or R140 forbid. -/
  | badMemoryField
  /-- MMS selector 3 (R62). -/
  | badSelector
  /-- A barrier number outside its level's range (R53). -/
  | badBarrier
  deriving DecidableEq, Repr

/-- A destination field: v0 to v119, zero, or k0 to k3 (R40). -/
def destOk (f : Fld) : Bool := f.toNat ≤ 120 || 124 ≤ f.toNat

/-- A field that must name a frame register (v0 to v119). -/
def frameField (f : Fld) : Bool := f.toNat ≤ 119

/-- A field that must name a frame register or a uniform register. -/
def frameOrK (f : Fld) : Bool := f.toNat ≤ 119 || 124 ≤ f.toNat

/-- A field that must name a frame register, zero or a uniform register. -/
def frameZeroOrK (f : Fld) : Bool := f.toNat ≤ 120 || 124 ≤ f.toNat

/-- A run of n registers from field f lies within v0 to v119 (R41). -/
def runOk (f : Fld) (n : Nat) : Bool := f.toNat + n ≤ 120

/-- A control instruction without a B operand has C[0] = 0 under V = 0 and 1 (R36). -/
def ctl1Ok : Ctl → Bool
  | .v0 _ lb => !lb
  | .v1 _ tb => !tb
  | .v2 _ _ => true

/-- The destination of a load: in v0 to v119 or zero; four registers for a 16-byte load (R40 to R42, R57). -/
def loadDestOk (d : Fld) (sz : Size) : Bool :=
  match sz with
  | .q => runOk d 4
  | _ => d.toNat ≤ 120

/-- The data of a store: any field, and four frame registers for a 16-byte store (R147). -/
def storeDataOk (d : Fld) (sz : Size) : Bool :=
  match sz with
  | .q => runOk d 4
  | _ => true

/-- K[1] may be 1 only in a load of 1 or 2 bytes (R57). -/
def sxOk (sz : Size) (sx : Bool) : Bool :=
  match sz with
  | .b | .h => true
  | .w | .q => !sx

/-- An aperture access is 4 bytes wide (R140). -/
def apOk (ap : Bool) (sz : Size) : Bool := !ap || sz == .w

/-- Barrier numbers of the levels (R53). -/
def barrierNumOk (lvl : SyncLevel) (n : BitVec 4) : Bool :=
  match lvl with
  | .group => n.toNat == 0
  | .team => true
  | .cluster => n.toNat ≤ 7
  | .grid => n.toNat ≤ 3

/-- The control register numbers that RDC may name (R54). -/
def creadable (r : BitVec 8) : Bool := r.toNat ≤ 19 || (32 ≤ r.toNat && r.toNat ≤ 47)

/-- The control register numbers that WRC may name (R54, R55). -/
def cwritable (r : BitVec 8) : Bool :=
  r.toNat ≤ 3 || r.toNat == 7 || r.toNat == 10 || r.toNat == 17 || r.toNat == 18 || (32 ≤ r.toNat && r.toNat ≤ 47)

/-- The first failed check of a list of (condition, name) pairs. -/
def firstError : List (Bool × WfError) → Option WfError
  | [] => none
  | (true, _) :: rest => firstError rest
  | (false, e) :: _ => some e

/-- The first check that an instruction fails, or none. An event has no fields of a word to check. -/
def Instr.wfError : Instr → Option WfError
  | .iadd _ d _ _ => firstError [(destOk d, .badDestination)]
  | .isub _ d _ _ => firstError [(destOk d, .badDestination)]
  | .imul _ d _ _ => firstError [(destOk d, .badDestination)]
  | .imad _ d _ _ => firstError [(destOk d, .badDestination)]
  | .imulhS _ d _ _ => firstError [(destOk d, .badDestination)]
  | .imulhN _ d _ _ => firstError [(destOk d, .badDestination)]
  | .and _ d _ _ => firstError [(destOk d, .badDestination)]
  | .andn _ d _ _ => firstError [(destOk d, .badDestination)]
  | .or _ d _ _ => firstError [(destOk d, .badDestination)]
  | .xor _ d _ _ => firstError [(destOk d, .badDestination)]
  | .shl _ d _ _ => firstError [(destOk d, .badDestination)]
  | .rol _ d _ _ => firstError [(destOk d, .badDestination)]
  | .shr _ d _ _ => firstError [(destOk d, .badDestination)]
  | .sar _ d _ _ => firstError [(destOk d, .badDestination)]
  | .iminS _ d _ _ => firstError [(destOk d, .badDestination)]
  | .iminN _ d _ _ => firstError [(destOk d, .badDestination)]
  | .imaxS _ d _ _ => firstError [(destOk d, .badDestination)]
  | .imaxN _ d _ _ => firstError [(destOk d, .badDestination)]
  | .cmpeq _ d _ _ => firstError [(destOk d, .badDestination)]
  | .cmpne _ d _ _ => firstError [(destOk d, .badDestination)]
  | .cmpltS _ d _ _ => firstError [(destOk d, .badDestination)]
  | .cmpltN _ d _ _ => firstError [(destOk d, .badDestination)]
  | .cmpleS _ d _ _ => firstError [(destOk d, .badDestination)]
  | .cmpleN _ d _ _ => firstError [(destOk d, .badDestination)]
  | .sel _ d _ _ => firstError [(destOk d, .badDestination)]
  | .iabsd _ d _ _ => firstError [(destOk d, .badDestination)]
  | .fadd _ d _ _ => firstError [(destOk d, .badDestination)]
  | .fsub _ d _ _ => firstError [(destOk d, .badDestination)]
  | .fmul _ d _ _ => firstError [(destOk d, .badDestination)]
  | .ffma _ d _ _ => firstError [(destOk d, .badDestination)]
  | .fmin _ d _ _ => firstError [(destOk d, .badDestination)]
  | .fmax _ d _ _ => firstError [(destOk d, .badDestination)]
  | .fcmpeq _ d _ _ => firstError [(destOk d, .badDestination)]
  | .fcmplt _ d _ _ => firstError [(destOk d, .badDestination)]
  | .fcmple _ d _ _ => firstError [(destOk d, .badDestination)]
  | .fcmpun _ d _ _ => firstError [(destOk d, .badDestination)]
  | .shfl _ d _ _ => firstError [(destOk d, .badDestination)]
  | .shflx _ d _ _ => firstError [(destOk d, .badDestination)]
  | .idivS _ d _ _ => firstError [(destOk d, .badDestination)]
  | .idivN _ d _ _ => firstError [(destOk d, .badDestination)]
  | .iremS _ d _ _ => firstError [(destOk d, .badDestination)]
  | .iremN _ d _ _ => firstError [(destOk d, .badDestination)]
  | .fdiv _ d _ _ => firstError [(destOk d, .badDestination)]
  | .mov c d _ => firstError [(ctl1Ok c, .badControl), (destOk d, .badDestination)]
  | .not c d _ => firstError [(ctl1Ok c, .badControl), (destOk d, .badDestination)]
  | .neg c d _ => firstError [(ctl1Ok c, .badControl), (destOk d, .badDestination)]
  | .iabs c d _ => firstError [(ctl1Ok c, .badControl), (destOk d, .badDestination)]
  | .popc c d _ => firstError [(ctl1Ok c, .badControl), (destOk d, .badDestination)]
  | .clz c d _ => firstError [(ctl1Ok c, .badControl), (destOk d, .badDestination)]
  | .ctz c d _ => firstError [(ctl1Ok c, .badControl), (destOk d, .badDestination)]
  | .brev c d _ => firstError [(ctl1Ok c, .badControl), (destOk d, .badDestination)]
  | .sext8 c d _ => firstError [(ctl1Ok c, .badControl), (destOk d, .badDestination)]
  | .sext16 c d _ => firstError [(ctl1Ok c, .badControl), (destOk d, .badDestination)]
  | .zext8 c d _ => firstError [(ctl1Ok c, .badControl), (destOk d, .badDestination)]
  | .zext16 c d _ => firstError [(ctl1Ok c, .badControl), (destOk d, .badDestination)]
  | .isuni c d _ => firstError [(ctl1Ok c, .badControl), (destOk d, .badDestination)]
  | .fneg c d _ => firstError [(ctl1Ok c, .badControl), (destOk d, .badDestination)]
  | .fabs c d _ => firstError [(ctl1Ok c, .badControl), (destOk d, .badDestination)]
  | .fsqrt c d _ => firstError [(ctl1Ok c, .badControl), (destOk d, .badDestination)]
  | .frcp c d _ => firstError [(ctl1Ok c, .badControl), (destOk d, .badDestination)]
  | .frsq c d _ => firstError [(ctl1Ok c, .badControl), (destOk d, .badDestination)]
  | .fex2 c d _ => firstError [(ctl1Ok c, .badControl), (destOk d, .badDestination)]
  | .flg2 c d _ => firstError [(ctl1Ok c, .badControl), (destOk d, .badDestination)]
  | .fsin c d _ => firstError [(ctl1Ok c, .badControl), (destOk d, .badDestination)]
  | .fcos c d _ => firstError [(ctl1Ok c, .badControl), (destOk d, .badDestination)]
  | .ffloor c d _ => firstError [(ctl1Ok c, .badControl), (destOk d, .badDestination)]
  | .fceil c d _ => firstError [(ctl1Ok c, .badControl), (destOk d, .badDestination)]
  | .ftrunc c d _ => firstError [(ctl1Ok c, .badControl), (destOk d, .badDestination)]
  | .frint c d _ => firstError [(ctl1Ok c, .badControl), (destOk d, .badDestination)]
  | .fsat c d _ => firstError [(ctl1Ok c, .badControl), (destOk d, .badDestination)]
  | .fclass c d _ => firstError [(ctl1Ok c, .badControl), (destOk d, .badDestination)]
  | .cvtF32I32 c d _ => firstError [(ctl1Ok c, .badControl), (destOk d, .badDestination)]
  | .cvtF32N32 c d _ => firstError [(ctl1Ok c, .badControl), (destOk d, .badDestination)]
  | .cvtI32F32 c d _ => firstError [(ctl1Ok c, .badControl), (destOk d, .badDestination)]
  | .cvtN32F32 c d _ => firstError [(ctl1Ok c, .badControl), (destOk d, .badDestination)]
  | .cvtB16F32 c d _ => firstError [(ctl1Ok c, .badControl), (destOk d, .badDestination)]
  | .cvtB16hF32 c d _ => firstError [(ctl1Ok c, .badControl), (destOk d, .badDestination)]
  | .cvtF32B16 c d _ => firstError [(ctl1Ok c, .badControl), (destOk d, .badDestination)]
  | .cvtF32B16h c d _ => firstError [(ctl1Ok c, .badControl), (destOk d, .badDestination)]
  | .cvtE4F32 c _ d _ => firstError [(ctl1Ok c, .badControl), (destOk d, .badDestination)]
  | .cvtE5F32 c _ d _ => firstError [(ctl1Ok c, .badControl), (destOk d, .badDestination)]
  | .cvtF32E4 c _ d _ => firstError [(ctl1Ok c, .badControl), (destOk d, .badDestination)]
  | .cvtF32E5 c _ d _ => firstError [(ctl1Ok c, .badControl), (destOk d, .badDestination)]
  | .cvtF32Q4 c _ d _ => firstError [(ctl1Ok c, .badControl), (destOk d, .badDestination)]
  | .qscale c d _ => firstError [(ctl1Ok c, .badControl), (destOk d, .badDestination)]
  | .qenc c d _ => firstError [(ctl1Ok c, .badControl), (destOk d, .badDestination)]
  | .voteAny c d _ => firstError [(ctl1Ok c, .badControl), (destOk d, .badDestination)]
  | .voteAll c d _ => firstError [(ctl1Ok c, .badControl), (destOk d, .badDestination)]
  | .ballot c d _ => firstError [(ctl1Ok c, .badControl), (destOk d, .badDestination)]
  | .gredIadd c d _ => firstError [(ctl1Ok c, .badControl), (destOk d, .badDestination)]
  | .gredIminS c d _ => firstError [(ctl1Ok c, .badControl), (destOk d, .badDestination)]
  | .gredImaxS c d _ => firstError [(ctl1Ok c, .badControl), (destOk d, .badDestination)]
  | .gredFadd c d _ => firstError [(ctl1Ok c, .badControl), (destOk d, .badDestination)]
  | .gredFmax c d _ => firstError [(ctl1Ok c, .badControl), (destOk d, .badDestination)]
  | .gscanIadd c d _ => firstError [(ctl1Ok c, .badControl), (destOk d, .badDestination)]
  | .matchG c d _ => firstError [(ctl1Ok c, .badControl), (destOk d, .badDestination)]
  | .firstl c d => firstError [(ctl1Ok c, .badControl), (destOk d, .badDestination)]
  | .bcast c d _ => firstError [(ctl1Ok c, .badControl), (destOk d, .badDestination)]
  | .rdc c d r => firstError [(ctl1Ok c, .badControl), (destOk d, .badDestination), (creadable r, .badControlRegister)]
  | .wrc c _ r => firstError [(ctl1Ok c, .badControl), (cwritable r, .badControlRegister)]
  | .iaddi c d _ _ => firstError [(ctl1Ok c, .badControl), (destOk d, .badDestination)]
  | .shli c d _ _ => firstError [(ctl1Ok c, .badControl), (destOk d, .badDestination)]
  | .shri c d _ _ => firstError [(ctl1Ok c, .badControl), (destOk d, .badDestination)]
  | .sari c d _ _ => firstError [(ctl1Ok c, .badControl), (destOk d, .badDestination)]
  | .roli c d _ _ => firstError [(ctl1Ok c, .badControl), (destOk d, .badDestination)]
  | .chk _ _ => none
  | .ldi d _ => firstError [(destOk d, .badDestination)]
  | .ldhi d _ => firstError [(destOk d, .badDestination)]
  | .ldg c d _ _ sz sx _ _ => firstError [(ctl1Ok c, .badControl), (loadDestOk d sz, .badDestination), (sxOk sz sx, .badMemoryField)]
  | .stg c d _ _ sz _ _ => firstError [(ctl1Ok c, .badControl), (storeDataOk d sz, .badField)]
  | .lds c d _ ap sz sx => firstError [(ctl1Ok c, .badControl), (loadDestOk d sz, .badDestination), (sxOk sz sx, .badMemoryField), (apOk ap sz, .badMemoryField)]
  | .sts c d _ ap sz => firstError [(ctl1Ok c, .badControl), (storeDataOk d sz, .badField), (apOk ap sz, .badMemoryField)]
  | .ldcl c d _ sz sx => firstError [(ctl1Ok c, .badControl), (loadDestOk d sz, .badDestination), (sxOk sz sx, .badMemoryField)]
  | .stcl c d _ sz => firstError [(ctl1Ok c, .badControl), (storeDataOk d sz, .badField)]
  | .ldxs c d _ sz sx => firstError [(ctl1Ok c, .badControl), (loadDestOk d sz, .badDestination), (sxOk sz sx, .badMemoryField)]
  | .stxs c d _ sz => firstError [(ctl1Ok c, .badControl), (storeDataOk d sz, .badField)]
  | .ldl c d _ sz sx => firstError [(ctl1Ok c, .badControl), (loadDestOk d sz, .badDestination), (sxOk sz sx, .badMemoryField)]
  | .stl c d _ sz => firstError [(ctl1Ok c, .badControl), (storeDataOk d sz, .badField)]
  | .lda c d _ _ _ _ _ => firstError [(ctl1Ok c, .badControl), (frameField d, .badField)]
  | .atomLd d _ _ _ => firstError [(runOk d 1, .badRun)]
  | .atomSt d _ _ _ => firstError [(runOk d 1, .badRun)]
  | .atomXchg d _ _ _ => firstError [(runOk d 1, .badRun)]
  | .atomCas d _ _ _ => firstError [(runOk d 2, .badRun)]
  | .atomAdd d _ _ _ => firstError [(runOk d 1, .badRun)]
  | .atomAnd d _ _ _ => firstError [(runOk d 1, .badRun)]
  | .atomOr d _ _ _ => firstError [(runOk d 1, .badRun)]
  | .atomXor d _ _ _ => firstError [(runOk d 1, .badRun)]
  | .atomMinS d _ _ _ => firstError [(runOk d 1, .badRun)]
  | .atomMaxS d _ _ _ => firstError [(runOk d 1, .badRun)]
  | .atomMinN d _ _ _ => firstError [(runOk d 1, .badRun)]
  | .atomMaxN d _ _ _ => firstError [(runOk d 1, .badRun)]
  | .atomIncw d _ _ _ => firstError [(runOk d 1, .badRun)]
  | .atomDecw d _ _ _ => firstError [(runOk d 1, .badRun)]
  | .atomAddb d _ _ _ => firstError [(runOk d 2, .badRun)]
  | .atomFadd d _ _ _ => firstError [(runOk d 1, .badRun)]
  | .atomFmin d _ _ _ => firstError [(runOk d 1, .badRun)]
  | .atomFmax d _ _ _ => firstError [(runOk d 1, .badRun)]
  | .atomAdd64 d _ _ _ => firstError [(runOk d 2, .badRun)]
  | .atomXchg64 d _ _ _ => firstError [(runOk d 2, .badRun)]
  | .chx d _ _ _ => firstError [(runOk d 4, .badRun)]
  | .mma d a b _ _ => firstError [(runOk d 32, .badRun), (frameField a, .badField)]
  | .mms d a b sl _ => firstError [(runOk d 32, .badRun), (frameField a, .badField), (decide (sl.toNat < 3), .badSelector)]
  | .mclr c d => firstError [(ctl1Ok c, .badControl), (runOk d 32, .badRun)]
  | .mscl c d _ => firstError [(ctl1Ok c, .badControl), (runOk d 32, .badRun)]
  | .mabs c d a => firstError [(ctl1Ok c, .badControl), (frameField d, .badField), (runOk a 32, .badRun)]
  | .mqpk c d a => firstError [(ctl1Ok c, .badControl), (frameField d, .badField), (runOk a 8, .badRun)]
  | .mcvt c d a => firstError [(ctl1Ok c, .badControl), (frameField d, .badField), (runOk a 32, .badRun)]
  | .bra _ _ => none
  | .brz _ _ => none
  | .bdiv _ _ => none
  | .jpt _ => none
  | .call a _ => firstError [(frameOrK a, .badField)]
  | .join c => firstError [(ctl1Ok c, .badControl)]
  | .brk c => firstError [(ctl1Ok c, .badControl)]
  | .exitI c => firstError [(ctl1Ok c, .badControl)]
  | .ret c a => firstError [(ctl1Ok c, .badControl), (frameOrK a, .badField)]
  | .jmpr c a => firstError [(ctl1Ok c, .badControl), (frameOrK a, .badField)]
  | .callr c d a => firstError [(ctl1Ok c, .badControl), (frameOrK d, .badField), (frameOrK a, .badField)]
  | .yield c => firstError [(ctl1Ok c, .badControl)]
  | .winb c _ => firstError [(ctl1Ok c, .badControl)]
  | .nop c => firstError [(ctl1Ok c, .badControl)]
  | .tret c => firstError [(ctl1Ok c, .badControl)]
  | .tskip c => firstError [(ctl1Ok c, .badControl)]
  | .arv c lvl n _ => firstError [(ctl1Ok c, .badControl), (barrierNumOk lvl n, .badBarrier)]
  | .syn c lvl n _ => firstError [(ctl1Ok c, .badControl), (barrierNumOk lvl n, .badBarrier)]
  | .wt c lvl n => firstError [(ctl1Ok c, .badControl), (barrierNumOk lvl n, .badBarrier)]
  | .trySync c lvl n d => firstError [(ctl1Ok c, .badControl), (barrierNumOk lvl n, .badBarrier), (frameField d, .badField)]
  | .fenceAcq c _ => firstError [(ctl1Ok c, .badControl)]
  | .fenceRel c _ => firstError [(ctl1Ok c, .badControl)]
  | .fenceAr c _ => firstError [(ctl1Ok c, .badControl)]
  | .seal c d => firstError [(ctl1Ok c, .badControl), (frameOrK d, .badField)]
  | .waitb c _ => firstError [(ctl1Ok c, .badControl)]
  | .waitcL c _ => firstError [(ctl1Ok c, .badControl)]
  | .waitcS c _ => firstError [(ctl1Ok c, .badControl)]
  | .waitcC c _ => firstError [(ctl1Ok c, .badControl)]
  | .waitcX c _ => firstError [(ctl1Ok c, .badControl)]
  | .waitcG c _ => firstError [(ctl1Ok c, .badControl)]
  | .xltX0 c a => firstError [(ctl1Ok c, .badControl), (runOk a 2, .badRun)]
  | .xltX1 c a => firstError [(ctl1Ok c, .badControl), (runOk a 2, .badRun)]
  | .xltX2 c a => firstError [(ctl1Ok c, .badControl), (runOk a 2, .badRun)]
  | .xltX3 c a => firstError [(ctl1Ok c, .badControl), (runOk a 2, .badRun)]
  | .xltX4 c a => firstError [(ctl1Ok c, .badControl), (runOk a 2, .badRun)]
  | .xltX5 c a => firstError [(ctl1Ok c, .badControl), (runOk a 2, .badRun)]
  | .xltX6 c a => firstError [(ctl1Ok c, .badControl), (runOk a 2, .badRun)]
  | .xltX7 c a => firstError [(ctl1Ok c, .badControl), (runOk a 2, .badRun)]
  | .cpy c a => firstError [(ctl1Ok c, .badControl), (runOk a 4, .badRun)]
  | .spawn c d a => firstError [(ctl1Ok c, .badControl), (frameOrK d, .badField), (runOk a 4, .badRun)]
  | .joinc c _ => firstError [(ctl1Ok c, .badControl)]
  | .racq c d _ => firstError [(ctl1Ok c, .badControl), (runOk d 2, .badRun)]
  | .rcom c a => firstError [(ctl1Ok c, .badControl), (runOk a 2, .badRun)]
  | .rpeek c d _ => firstError [(ctl1Ok c, .badControl), (runOk d 2, .badRun)]
  | .rrel c a => firstError [(ctl1Ok c, .badControl), (frameField a, .badField)]
  | .sysc c d => firstError [(ctl1Ok c, .badControl), (runOk d 4, .badRun)]
  | .sysct c d => firstError [(ctl1Ok c, .badControl), (runOk d 4, .badRun)]
  | .reord c d _ => firstError [(ctl1Ok c, .badControl), (frameField d, .badField)]
  | .rld c d _ => firstError [(ctl1Ok c, .badControl), (frameField d, .badField)]
  | .rstp c _ _ => firstError [(ctl1Ok c, .badControl)]
  | .rstc c d _ => firstError [(ctl1Ok c, .badControl), (runOk d 8, .badRun)]
  | .rstm c _ _ => firstError [(ctl1Ok c, .badControl)]
  | .rblk c d _ => firstError [(ctl1Ok c, .badControl), (runOk d 4, .badRun)]
  | .rseal c d _ => firstError [(ctl1Ok c, .badControl), (frameOrK d, .badField)]
  | .trace c d a => firstError [(ctl1Ok c, .badControl), (runOk d 8, .badRun), (runOk a 8, .badRun)]
  | .boxt c d a => firstError [(ctl1Ok c, .badControl), (runOk d 4, .badRun), (runOk a 9, .badRun)]
  | .trit c d a => firstError [(ctl1Ok c, .badControl), (runOk d 6, .badRun), (runOk a 9, .badRun)]
  | .covr c d a => firstError [(ctl1Ok c, .badControl), (runOk d 4, .badRun), (runOk a 7, .badRun)]
  | .bint c d a => firstError [(ctl1Ok c, .badControl), (runOk d 4, .badRun), (runOk a 7, .badRun)]
  | .winfo c d => firstError [(ctl1Ok c, .badControl), (runOk d 8, .badRun)]
  | .rnext c d => firstError [(ctl1Ok c, .badControl), (runOk d 16, .badRun)]
  | .remit c a => firstError [(ctl1Ok c, .badControl), (runOk a 16, .badRun)]
  | .wmark c a => firstError [(ctl1Ok c, .badControl), (runOk a 3, .badRun)]
  | .sidle c a => firstError [(ctl1Ok c, .badControl), (frameOrK a, .badField)]
  | .publ c a => firstError [(ctl1Ok c, .badControl), (runOk a 16, .badRun)]
  | .lateq c d => firstError [(ctl1Ok c, .badControl), (runOk d 16, .badRun)]
  | .trapI c _ => firstError [(ctl1Ok c, .badControl)]
  | .bkpt c => firstError [(ctl1Ok c, .badControl)]
  | .rdtime c d => firstError [(ctl1Ok c, .badControl), (runOk d 2, .badRun)]
  | .eret c _ => firstError [(ctl1Ok c, .badControl)]
  | .chinst c d a => firstError [(ctl1Ok c, .badControl), (frameOrK d, .badField), (runOk a 2, .badRun)]
  | .halt c _ => firstError [(ctl1Ok c, .badControl)]
  | .rdid c d => firstError [(ctl1Ok c, .badControl), (runOk d 4, .badRun)]
  | .csrr c d _ => firstError [(ctl1Ok c, .badControl), (frameOrK d, .badField)]
  | .csrw c d a => firstError [(ctl1Ok c, .badControl), (frameZeroOrK d, .badField), (runOk a 2, .badRun)]
  | .powerGood => none
  | .perstAssert => none
  | .mgmtResetCommand => none
  | .resetRelease => none
  | .freezePinAssert => none
  | .mgmtFreezeCommand => none
  | .stagingWindowWrite _ _ => none
  | .fwCmdVerify _ => none
  | .firmwareVerifyDone => none
  | .thermalThrottle _ => none
  | .thermalCooled _ => none
  | .thermalTrip _ => none
  | .l2MissServe _ _ => none
  | .loadReturn _ => none
  | .leaseExpiry _ _ => none
  | .storeRegistration _ _ => none
  | .revocationAck _ _ => none
  | .storeAck _ _ => none
  | .localDeadlinePass _ => none
  | .atomExecute _ _ => none
  | .atomResultReturn _ _ => none
  | .chiselRun _ _ => none
  | .chiselResultReturn _ _ => none
  | .xltWalkDone _ => none
  | .chinstDone _ => none
  | .ldaLand _ => none
  | .copyCommandComplete _ => none
  | .copyCommandFail _ => none
  | .rcomCommit _ => none
  | .tileWrite _ => none
  | .mabsResult _ => none
  | .tryHintExpiry _ => none
  | .teamExited _ => none
  | .distributorTakeKernel _ _ => none
  | .teamPlace _ _ => none
  | .childPlace _ _ => none
  | .instancePlace _ _ => none
  | .kernelDone _ _ => none
  | .localityWindowEnd _ _ _ => none
  | .qbaseWrite _ _ _ _ => none
  | .qcfgWrite _ _ _ => none
  | .qwpWrite _ _ _ => none
  | .queueEntryFetch _ _ => none
  | .entryLaunch _ _ _ => none
  | .entryCopy _ _ _ => none
  | .entrySignal _ _ _ => none
  | .entryWait _ _ _ => none
  | .entryMaquette _ _ _ => none
  | .entryTlbinv _ _ _ => none
  | .entryRseal _ _ _ => none
  | .waitRereadTimer _ _ _ => none
  | .entryComplete _ _ _ => none
  | .rcbCfgWrite _ _ _ => none
  | .syscReply _ _ _ _ _ _ => none
  | .poolTailWrite _ _ => none
  | .poolCfgWrite _ _ => none
  | .poolStatWrite _ _ => none
  | .writeInterceptComplete _ _ => none
  | .partCfgWrite _ _ => none
  | .ceOwnWrite _ _ => none
  | .contextCreate _ => none
  | .ctxCmdStart _ => none
  | .ctxCmdHalt _ => none
  | .ctxCmdResume _ => none
  | .ctxCmdDestroy _ => none
  | .ctxCmdMaquette _ => none
  | .ctxCfgWrite _ _ => none
  | .ctxXscrWrite _ _ => none
  | .ctxAddressWrite _ _ _ => none
  | .ctxMaqiWrite _ _ => none
  | .evdoneRetry _ _ => none
  | .evdoneSkip _ _ => none
  | .evdoneFatal _ _ => none
  | .contextLoad _ => none
  | .timeSliceBegin _ => none
  | .timeSliceEnd _ => none
  | .contextSaveComplete _ => none
  | .maquetteTimer _ => none
  | .maquettePageStreamed _ _ => none
  | .maquetteCommit _ => none
  | .maquetteStreamError _ => none
  | .containmentEvent _ _ => none
  | .rollbackComplete _ => none
  | .vfReset _ => none
  | .vfResetComplete _ => none
  | .tapBypass => none
  | .tapSamplePreload => none
  | .tapExtest => none
  | .tapIdcode => none
  | .tapFrzsel _ => none
  | .tapFrzdata => none
  | .reliefRequest _ => none
  | .reliefAcceptReturn _ => none
  | .reliefResultReturn _ => none
  | .sealBlockCommit _ => none
  | .blockEvict _ _ => none
  | .rayRecordArrive _ _ => none
  | .rayNodeTest _ _ => none
  | .rayRecordReturn _ _ => none
  | .isecNodeRequest _ _ => none
  | .isecResultReturn _ => none
  | .strmBaseWrite _ _ _ => none
  | .strmCfgWrite _ _ => none
  | .strmUnbWrite _ _ => none
  | .srcWpWrite _ _ _ _ => none
  | .ringRecordRead _ _ _ => none
  | .sourceIdleTimeout _ _ _ => none
  | .instanceEnd _ _ => none
  | .recordDelivery _ => none
  | .linkIdWrite _ => none
  | .linkEnSet _ => none
  | .linkEnClear _ => none
  | .linkTrained _ => none
  | .linkTrainTimeout _ => none
  | .linkNegotiated _ _ => none
  | .linkFailure _ => none
  | .linkPortError _ => none
  | .inboundRead _ => none
  | .inboundWrite _ _ => none
  | .inboundAtomic _ _ _ _ => none
  | .inboundFaultTimeout _ => none
  | .switchInvalidation _ => none
  | .collectiveAbort _ _ => none
  | .ethMessageReceive _ _ => none
  | .rdmaPlacement _ _ => none
  | .streamDatagram _ _ _ => none
  | .hostBar2Access _ _ _ _ => none
  | .registerWrite _ _ _ => none
  | .powerLoss => none
  | .enginePageFault _ => none

/-- An instruction is well-formed when it fails no check. -/
def Instr.wf (i : Instr) : Bool := i.wfError == none

end Sys2Proof
end

