-- ==== Sys2Proof/Decode.lean ====
section
/-!
DEFINITION. Decoding instruction words, and after it the encoder, both from the encoding tables of
spec/02_encoding.md. Decoding is total on any bytes and rejects by name. `decodeRaw` reads the bits; `decodeWord`
adds the checks of WellFormed.
-/

namespace Sys2Proof

/-- Why bytes do not decode. -/
inductive DecodeError where
  /-- Fewer than four bytes. -/
  | tooShort
  /-- V = 3 (R35). -/
  | badVersion
  /-- V other than 0 in a format without C bits (R36). -/
  | versionNotZero
  /-- An OP that R47 leaves unassigned. -/
  | badOpcode
  /-- An S, FN, AOP, K, T, SC or M value that is not assigned, or a reserved bit that is set (R44). -/
  | badFunction
  /-- A field that must hold 120 and does not (R42). -/
  | unusedField
  /-- A check of WellFormed failed. -/
  | illFormed (e : WfError)
  deriving DecidableEq, Repr

/-! ## Fields of a word (R34) -/

def fV (w : Word) : BitVec 2 := w.extractLsb' 30 2
def fOp (w : Word) : BitVec 6 := w.extractLsb' 24 6
def fD (w : Word) : Fld := w.extractLsb' 17 7
def fA (w : Word) : Fld := w.extractLsb' 10 7
def fB (w : Word) : Fld := w.extractLsb' 3 7
def fS (w : Word) : BitVec 1 := w.extractLsb' 2 1
def fC (w : Word) : BitVec 2 := w.extractLsb' 0 2
def fFn (w : Word) : BitVec 8 := w.extractLsb' 2 8
def fT (w : Word) : BitVec 3 := w.extractLsb' 7 3
def fK (w : Word) : BitVec 5 := w.extractLsb' 2 5
def fSc (w : Word) : BitVec 2 := w.extractLsb' 5 2
def fAop (w : Word) : BitVec 5 := w.extractLsb' 0 5
def fIdx (w : Word) : BitVec 7 := w.extractLsb' 0 7
def fM (w : Word) : BitVec 3 := w.extractLsb' 0 3
def fDisp (w : Word) : BitVec 17 := w.extractLsb' 0 17

/-- A one-bit field as a Boolean. -/
def bit1 (b : BitVec 1) : Bool := b == 1#1
/-- A Boolean as a one-bit field. -/
def ofBit (b : Bool) : BitVec 1 := if b then 1#1 else 0#1

/-- The control bits under V (R35). -/
def ctlOf (v c : BitVec 2) : Option Ctl :=
  let c1 := c.getLsbD 1
  let c0 := c.getLsbD 0
  match v.toNat with
  | 0 => some (.v0 c1 c0)
  | 1 => some (.v1 c1 c0)
  | 2 => some (.v2 c1 c0)
  | _ => none

/-- V of a reading of the control bits. -/
def ctlV : Ctl → BitVec 2
  | .v0 .. => 0#2
  | .v1 .. => 1#2
  | .v2 .. => 2#2

/-- The C bits of a reading of them. -/
def ctlC : Ctl → BitVec 2
  | .v0 a b | .v1 a b | .v2 a b => ofBit a ++ ofBit b

def scopeOf (b : BitVec 2) : Scope :=
  match b.toNat with
  | 0 => .team
  | 1 => .cluster
  | 2 => .device
  | _ => .system

def scopeBits : Scope → BitVec 2
  | .team => 0#2
  | .cluster => 1#2
  | .device => 2#2
  | .system => 3#2

def levelOf (b : BitVec 2) : SyncLevel :=
  match b.toNat with
  | 0 => .group
  | 1 => .team
  | 2 => .cluster
  | _ => .grid

def levelBits : SyncLevel → BitVec 2
  | .group => 0#2
  | .team => 1#2
  | .cluster => 2#2
  | .grid => 3#2

def sizeOf2 (b : BitVec 2) : Size :=
  match b.toNat with
  | 0 => .b
  | 1 => .h
  | 2 => .w
  | _ => .q

def sizeBits : Size → BitVec 2
  | .b => 0#2
  | .h => 1#2
  | .w => 2#2
  | .q => 3#2

def ldaLevelOf (b : BitVec 2) : LdaLevel :=
  match b.toNat with
  | 0 => .lane
  | 1 => .core
  | 2 => .clm
  | _ => .chip

def ldaLevelBits : LdaLevel → BitVec 2
  | .lane => 0#2
  | .core => 1#2
  | .clm => 2#2
  | .chip => 3#2

/-! ## Formats, high bits on the left (R34) -/

def packF3 (c : Ctl) (op : BitVec 6) (d a b : Fld) (s : BitVec 1) : Word :=
  ctlV c ++ op ++ d ++ a ++ b ++ s ++ ctlC c

def packF2 (c : Ctl) (op : BitVec 6) (d a : Fld) (fn : BitVec 8) : Word :=
  ctlV c ++ op ++ d ++ a ++ fn ++ ctlC c

def packFM (c : Ctl) (op : BitVec 6) (d a : Fld) (t : BitVec 3) (k : BitVec 5) : Word :=
  ctlV c ++ op ++ d ++ a ++ t ++ k ++ ctlC c

def packAtom (d a : Fld) (t : BitVec 3) (sc : BitVec 2) (aop : BitVec 5) : Word :=
  0#2 ++ 0x2D#6 ++ d ++ a ++ t ++ sc ++ aop

def packChx (d a : Fld) (t : BitVec 3) (idx : BitVec 7) : Word :=
  0#2 ++ 0x2E#6 ++ d ++ a ++ t ++ idx

def packFX (op : BitVec 6) (d a b : Fld) (m : BitVec 3) : Word :=
  0#2 ++ op ++ d ++ a ++ b ++ m

def packFB (op : BitVec 6) (a : Fld) (disp : BitVec 17) : Word :=
  0#2 ++ op ++ a ++ disp

/-- The field value that an unused field must hold (R42). -/
def f120 : Fld := 120#7

/-! ## The classes -/

/-- The F3 majors (R48). -/
def decodeF3 (op : Nat) (s : Bool) (c : Ctl) (d a b : Fld) : Except DecodeError Instr :=
  match op, s with
  | 0x1, false => .ok (.iadd c d a b)
  | 0x1, true => .ok (.isub c d a b)
  | 0x2, false => .ok (.imul c d a b)
  | 0x2, true => .ok (.imad c d a b)
  | 0x3, false => .ok (.imulhS c d a b)
  | 0x3, true => .ok (.imulhN c d a b)
  | 0x4, false => .ok (.and c d a b)
  | 0x4, true => .ok (.andn c d a b)
  | 0x5, false => .ok (.or c d a b)
  | 0x5, true => .ok (.xor c d a b)
  | 0x6, false => .ok (.shl c d a b)
  | 0x6, true => .ok (.rol c d a b)
  | 0x7, false => .ok (.shr c d a b)
  | 0x7, true => .ok (.sar c d a b)
  | 0x8, false => .ok (.iminS c d a b)
  | 0x8, true => .ok (.iminN c d a b)
  | 0x9, false => .ok (.imaxS c d a b)
  | 0x9, true => .ok (.imaxN c d a b)
  | 0xa, false => .ok (.cmpeq c d a b)
  | 0xa, true => .ok (.cmpne c d a b)
  | 0xb, false => .ok (.cmpltS c d a b)
  | 0xb, true => .ok (.cmpltN c d a b)
  | 0xc, false => .ok (.cmpleS c d a b)
  | 0xc, true => .ok (.cmpleN c d a b)
  | 0xd, false => .ok (.sel c d a b)
  | 0xd, true => .ok (.iabsd c d a b)
  | 0xe, false => .ok (.fadd c d a b)
  | 0xe, true => .ok (.fsub c d a b)
  | 0xf, false => .ok (.fmul c d a b)
  | 0xf, true => .ok (.ffma c d a b)
  | 0x10, false => .ok (.fmin c d a b)
  | 0x10, true => .ok (.fmax c d a b)
  | 0x11, false => .ok (.fcmpeq c d a b)
  | 0x11, true => .ok (.fcmplt c d a b)
  | 0x12, false => .ok (.fcmple c d a b)
  | 0x12, true => .ok (.fcmpun c d a b)
  | 0x13, false => .ok (.shfl c d a b)
  | 0x13, true => .ok (.shflx c d a b)
  | 0x14, false => .ok (.idivS c d a b)
  | 0x14, true => .ok (.idivN c d a b)
  | 0x15, false => .ok (.iremS c d a b)
  | 0x15, true => .ok (.iremN c d a b)
  | 0x16, false => .ok (.fdiv c d a b)
  | _, _ => .error .badFunction

/-- The class of OP 0x17 (R49, R52). -/
def decodeIop1 (fn : BitVec 8) (c : Ctl) (d a : Fld) : Except DecodeError Instr :=
  match fn.toNat with
  | 0 => .ok (.mov c d a)
  | 1 => .ok (.not c d a)
  | 2 => .ok (.neg c d a)
  | 3 => .ok (.iabs c d a)
  | 4 => .ok (.popc c d a)
  | 5 => .ok (.clz c d a)
  | 6 => .ok (.ctz c d a)
  | 7 => .ok (.brev c d a)
  | 8 => .ok (.sext8 c d a)
  | 9 => .ok (.sext16 c d a)
  | 10 => .ok (.zext8 c d a)
  | 11 => .ok (.zext16 c d a)
  | 12 => .ok (.isuni c d a)
  | _ => .error .badFunction

/-- The class of OP 0x18 (R49, R52). -/
def decodeFop1 (fn : BitVec 8) (c : Ctl) (d a : Fld) : Except DecodeError Instr :=
  match fn.toNat with
  | 0 => .ok (.fneg c d a)
  | 1 => .ok (.fabs c d a)
  | 2 => .ok (.fsqrt c d a)
  | 3 => .ok (.frcp c d a)
  | 4 => .ok (.frsq c d a)
  | 5 => .ok (.fex2 c d a)
  | 6 => .ok (.flg2 c d a)
  | 7 => .ok (.fsin c d a)
  | 8 => .ok (.fcos c d a)
  | 9 => .ok (.ffloor c d a)
  | 10 => .ok (.fceil c d a)
  | 11 => .ok (.ftrunc c d a)
  | 12 => .ok (.frint c d a)
  | 13 => .ok (.fsat c d a)
  | 14 => .ok (.fclass c d a)
  | _ => .error .badFunction

/-- The class of OP 0x1a (R49, R52). -/
def decodeGrp (fn : BitVec 8) (c : Ctl) (d a : Fld) : Except DecodeError Instr :=
  match fn.toNat with
  | 0 => .ok (.voteAny c d a)
  | 1 => .ok (.voteAll c d a)
  | 2 => .ok (.ballot c d a)
  | 3 => .ok (.gredIadd c d a)
  | 4 => .ok (.gredIminS c d a)
  | 5 => .ok (.gredImaxS c d a)
  | 6 => .ok (.gredFadd c d a)
  | 7 => .ok (.gredFmax c d a)
  | 8 => .ok (.gscanIadd c d a)
  | 9 => .ok (.matchG c d a)
  | 10 => if a = f120 then .ok (.firstl c d) else .error .unusedField
  | 11 => .ok (.bcast c d a)
  | _ => .error .badFunction

/-- The class of OP 0x31 (R49, R52). -/
def decodeMtile (fn : BitVec 8) (c : Ctl) (d a : Fld) : Except DecodeError Instr :=
  match fn.toNat with
  | 0 => if a = f120 then .ok (.mclr c d) else .error .unusedField
  | 1 => .ok (.mscl c d a)
  | 2 => .ok (.mabs c d a)
  | 3 => .ok (.mqpk c d a)
  | 4 => .ok (.mcvt c d a)
  | _ => .error .badFunction

/-- The class of OP 0x37 (R49, R52). -/
def decodeFlowC (fn : BitVec 8) (c : Ctl) (d a : Fld) : Except DecodeError Instr :=
  match fn.toNat with
  | 0 => if d = f120 ∧ a = f120 then .ok (.join c) else .error .unusedField
  | 1 => if d = f120 ∧ a = f120 then .ok (.brk c) else .error .unusedField
  | 2 => if d = f120 ∧ a = f120 then .ok (.exitI c) else .error .unusedField
  | 3 => if d = f120 then .ok (.ret c a) else .error .unusedField
  | 4 => if d = f120 then .ok (.jmpr c a) else .error .unusedField
  | 5 => .ok (.callr c d a)
  | 6 => if d = f120 ∧ a = f120 then .ok (.yield c) else .error .unusedField
  | 7 => if d = f120 then .ok (.winb c a) else .error .unusedField
  | 8 => if d = f120 ∧ a = f120 then .ok (.nop c) else .error .unusedField
  | 9 => if d = f120 ∧ a = f120 then .ok (.tret c) else .error .unusedField
  | 10 => if d = f120 ∧ a = f120 then .ok (.tskip c) else .error .unusedField
  | _ => .error .badFunction

/-- The class of OP 0x3a (R49, R52). -/
def decodeTaskC (fn : BitVec 8) (c : Ctl) (d a : Fld) : Except DecodeError Instr :=
  match fn.toNat with
  | 0 => .ok (.spawn c d a)
  | 1 => if d = f120 then .ok (.joinc c a) else .error .unusedField
  | 2 => .ok (.racq c d a)
  | 3 => if d = f120 then .ok (.rcom c a) else .error .unusedField
  | 4 => .ok (.rpeek c d a)
  | 5 => if d = f120 then .ok (.rrel c a) else .error .unusedField
  | 6 => if a = f120 then .ok (.sysc c d) else .error .unusedField
  | 7 => if a = f120 then .ok (.sysct c d) else .error .unusedField
  | 8 => .ok (.reord c d a)
  | _ => .error .badFunction

/-- The class of OP 0x3b (R49, R52). -/
def decodeRelf (fn : BitVec 8) (c : Ctl) (d a : Fld) : Except DecodeError Instr :=
  match fn.toNat with
  | 0 => .ok (.rld c d a)
  | 1 => .ok (.rstp c d a)
  | 2 => .ok (.rstc c d a)
  | 3 => .ok (.rstm c d a)
  | 4 => .ok (.rblk c d a)
  | 5 => .ok (.rseal c d a)
  | _ => .error .badFunction

/-- The class of OP 0x3c (R49, R52). -/
def decodeIsecC (fn : BitVec 8) (c : Ctl) (d a : Fld) : Except DecodeError Instr :=
  match fn.toNat with
  | 0 => .ok (.trace c d a)
  | 1 => .ok (.boxt c d a)
  | 2 => .ok (.trit c d a)
  | 3 => .ok (.covr c d a)
  | 4 => .ok (.bint c d a)
  | _ => .error .badFunction

/-- The class of OP 0x3d (R49, R52). -/
def decodeStrm (fn : BitVec 8) (c : Ctl) (d a : Fld) : Except DecodeError Instr :=
  match fn.toNat with
  | 0 => if a = f120 then .ok (.winfo c d) else .error .unusedField
  | 1 => if a = f120 then .ok (.rnext c d) else .error .unusedField
  | 2 => if d = f120 then .ok (.remit c a) else .error .unusedField
  | 3 => if d = f120 then .ok (.wmark c a) else .error .unusedField
  | 4 => if d = f120 then .ok (.sidle c a) else .error .unusedField
  | 5 => if d = f120 then .ok (.publ c a) else .error .unusedField
  | 6 => if a = f120 then .ok (.lateq c d) else .error .unusedField
  | _ => .error .badFunction

/-- The class of OP 0x3e (R49, R52). -/
def decodeSysC (fn : BitVec 8) (c : Ctl) (d a : Fld) : Except DecodeError Instr :=
  match fn.toNat with
  | 0 => if d = f120 then .ok (.trapI c a) else .error .unusedField
  | 1 => if d = f120 ∧ a = f120 then .ok (.bkpt c) else .error .unusedField
  | 2 => if a = f120 then .ok (.rdtime c d) else .error .unusedField
  | 3 => if d = f120 then .ok (.eret c a) else .error .unusedField
  | 4 => .ok (.chinst c d a)
  | 5 => if d = f120 then .ok (.halt c a) else .error .unusedField
  | 6 => if a = f120 then .ok (.rdid c d) else .error .unusedField
  | 7 => .ok (.csrr c d a)
  | 8 => .ok (.csrw c d a)
  | _ => .error .badFunction

/-- The CVT class (R50). -/
def decodeCvt (fn : BitVec 8) (c : Ctl) (d a : Fld) : Except DecodeError Instr :=
  match fn.toNat with
  | 0 => .ok (.cvtF32I32 c d a)
  | 1 => .ok (.cvtF32N32 c d a)
  | 2 => .ok (.cvtI32F32 c d a)
  | 3 => .ok (.cvtN32F32 c d a)
  | 4 => .ok (.cvtB16F32 c d a)
  | 5 => .ok (.cvtB16hF32 c d a)
  | 6 => .ok (.cvtF32B16 c d a)
  | 7 => .ok (.cvtF32B16h c d a)
  | 32 => .ok (.qscale c d a)
  | 33 => .ok (.qenc c d a)
  | m =>
    if 8 ≤ m ∧ m < 12 then .ok (.cvtE4F32 c (fn.extractLsb' 0 2) d a)
    else if 12 ≤ m ∧ m < 16 then .ok (.cvtE5F32 c (fn.extractLsb' 0 2) d a)
    else if 16 ≤ m ∧ m < 20 then .ok (.cvtF32E4 c (fn.extractLsb' 0 2) d a)
    else if 20 ≤ m ∧ m < 24 then .ok (.cvtF32E5 c (fn.extractLsb' 0 2) d a)
    else if 24 ≤ m ∧ m < 32 then .ok (.cvtF32Q4 c (fn.extractLsb' 0 3) d a)
    else .error .badFunction

/-- The SYNC class (R53). -/
def decodeSync (fn : BitVec 8) (c : Ctl) (d a : Fld) : Except DecodeError Instr :=
  let lvl := levelOf (fn.extractLsb' 6 2)
  let n : BitVec 4 := fn.extractLsb' 2 4
  match (fn.extractLsb' 0 2).toNat with
  | 0 => if d = f120 then .ok (.arv c lvl n a) else .error .unusedField
  | 1 => if d = f120 then .ok (.syn c lvl n a) else .error .unusedField
  | 2 => if d = f120 ∧ a = f120 then .ok (.wt c lvl n) else .error .unusedField
  | _ => if a = f120 then .ok (.trySync c lvl n d) else .error .unusedField

/-- The MEMO class (R51). -/
def decodeMemo (fn : BitVec 8) (c : Ctl) (d a : Fld) : Except DecodeError Instr :=
  match fn.toNat with
  | 12 => if a = f120 then .ok (.seal c d) else .error .unusedField
  | 13 => if d = f120 then .ok (.waitb c a) else .error .unusedField
  | 14 => if d = f120 then .ok (.waitcL c a) else .error .unusedField
  | 15 => if d = f120 then .ok (.waitcS c a) else .error .unusedField
  | 16 => if d = f120 then .ok (.waitcC c a) else .error .unusedField
  | 17 => if d = f120 then .ok (.waitcX c a) else .error .unusedField
  | 18 => if d = f120 then .ok (.waitcG c a) else .error .unusedField
  | 19 => if d = f120 then .ok (.xltX0 c a) else .error .unusedField
  | 20 => if d = f120 then .ok (.xltX1 c a) else .error .unusedField
  | 21 => if d = f120 then .ok (.xltX2 c a) else .error .unusedField
  | 22 => if d = f120 then .ok (.xltX3 c a) else .error .unusedField
  | 23 => if d = f120 then .ok (.xltX4 c a) else .error .unusedField
  | 24 => if d = f120 then .ok (.xltX5 c a) else .error .unusedField
  | 25 => if d = f120 then .ok (.xltX6 c a) else .error .unusedField
  | 26 => if d = f120 then .ok (.xltX7 c a) else .error .unusedField
  | 27 => if d = f120 then .ok (.cpy c a) else .error .unusedField
  | m =>
    if m < 12 then
      if d = f120 ∧ a = f120 then
        let sc := scopeOf (fn.extractLsb' 0 2)
        if m < 4 then .ok (.fenceAcq c sc) else if m < 8 then .ok (.fenceRel c sc) else .ok (.fenceAr c sc)
      else .error .unusedField
    else .error .badFunction

/-- The SHI operations (R56). -/
def decodeShi (imm : BitVec 8) (c : Ctl) (d a : Fld) : Except DecodeError Instr :=
  let n : BitVec 5 := imm.extractLsb' 0 5
  if imm.getLsbD 5 then .error .badFunction
  else
    match (imm.extractLsb' 6 2).toNat with
    | 0 => .ok (.shli c d a n)
    | 1 => .ok (.shri c d a n)
    | 2 => .ok (.sari c d a n)
    | _ => .ok (.roli c d a n)

/-- The FM loads, stores and LDA (R57 to R59). -/
def decodeFm (op : Nat) (c : Ctl) (d a : Fld) (t : BitVec 3) (k : BitVec 5) : Except DecodeError Instr :=
  let sz := sizeOf2 (k.extractLsb' 3 2)
  let st := k.getLsbD 2
  let sx := k.getLsbD 1
  let sm := k.getLsbD 0
  match op with
  | 0x22 => .ok (.ldg c d a t sz sx st sm)
  | 0x23 => if sx then .error .badFunction else .ok (.stg c d a t sz st sm)
  | 0x24 => if st || sm || 1 < t.toNat then .error .badFunction else .ok (.lds c d a (t.getLsbD 0) sz sx)
  | 0x25 => if st || sm || sx || 1 < t.toNat then .error .badFunction else .ok (.sts c d a (t.getLsbD 0) sz)
  | 0x26 => if st || sm || t ≠ 0#3 then .error .badFunction else .ok (.ldcl c d a sz sx)
  | 0x27 => if st || sm || sx || t ≠ 0#3 then .error .badFunction else .ok (.stcl c d a sz)
  | 0x28 => if st || sm || t ≠ 0#3 then .error .badFunction else .ok (.ldxs c d a sz sx)
  | 0x29 => if st || sm || sx || t ≠ 0#3 then .error .badFunction else .ok (.stxs c d a sz)
  | 0x2A => if st || sm || t ≠ 0#3 then .error .badFunction else .ok (.ldl c d a sz sx)
  | 0x2B => if st || sm || sx || t ≠ 0#3 then .error .badFunction else .ok (.stl c d a sz)
  | _ => .ok (.lda c d a t (ldaLevelOf (k.extractLsb' 3 2)) (k.extractLsb' 1 2) sm)

/-- The atomic operations (R60). -/
def decodeAtom (aop : BitVec 5) (d a : Fld) (t : BitVec 3) (sc : Scope) : Except DecodeError Instr :=
  match aop.toNat with
  | 0 => .ok (.atomLd d a t sc)
  | 1 => .ok (.atomSt d a t sc)
  | 2 => .ok (.atomXchg d a t sc)
  | 3 => .ok (.atomCas d a t sc)
  | 4 => .ok (.atomAdd d a t sc)
  | 5 => .ok (.atomAnd d a t sc)
  | 6 => .ok (.atomOr d a t sc)
  | 7 => .ok (.atomXor d a t sc)
  | 8 => .ok (.atomMinS d a t sc)
  | 9 => .ok (.atomMaxS d a t sc)
  | 10 => .ok (.atomMinN d a t sc)
  | 11 => .ok (.atomMaxN d a t sc)
  | 12 => .ok (.atomIncw d a t sc)
  | 13 => .ok (.atomDecw d a t sc)
  | 14 => .ok (.atomAddb d a t sc)
  | 15 => .ok (.atomFadd d a t sc)
  | 16 => .ok (.atomFmin d a t sc)
  | 17 => .ok (.atomFmax d a t sc)
  | 18 => .ok (.atomAdd64 d a t sc)
  | 19 => .ok (.atomXchg64 d a t sc)
  | _ => .error .badFunction

/-- The words whose format has C bits (R34, R35). -/
def decodeCtl (w : Word) (c : Ctl) : Except DecodeError Instr :=
  let op := (fOp w).toNat
  if 0x01 ≤ op ∧ op ≤ 0x16 then decodeF3 op (bit1 (fS w)) c (fD w) (fA w) (fB w)
  else
    match op with
    | 0x17 => decodeIop1 (fFn w) c (fD w) (fA w)
    | 0x18 => decodeFop1 (fFn w) c (fD w) (fA w)
    | 0x19 => decodeCvt (fFn w) c (fD w) (fA w)
    | 0x1A => decodeGrp (fFn w) c (fD w) (fA w)
    | 0x1B => if fA w = f120 then .ok (.rdc c (fD w) (fFn w)) else .error .unusedField
    | 0x1C => if fD w = f120 then .ok (.wrc c (fA w) (fFn w)) else .error .unusedField
    | 0x1D => .ok (.iaddi c (fD w) (fA w) (fFn w))
    | 0x1E => decodeShi (fFn w) c (fD w) (fA w)
    | 0x31 => decodeMtile (fFn w) c (fD w) (fA w)
    | 0x37 => decodeFlowC (fFn w) c (fD w) (fA w)
    | 0x38 => decodeSync (fFn w) c (fD w) (fA w)
    | 0x39 => decodeMemo (fFn w) c (fD w) (fA w)
    | 0x3A => decodeTaskC (fFn w) c (fD w) (fA w)
    | 0x3B => decodeRelf (fFn w) c (fD w) (fA w)
    | 0x3C => decodeIsecC (fFn w) c (fD w) (fA w)
    | 0x3D => decodeStrm (fFn w) c (fD w) (fA w)
    | 0x3E => decodeSysC (fFn w) c (fD w) (fA w)
    | _ =>
      if 0x22 ≤ op ∧ op ≤ 0x2C then decodeFm op c (fD w) (fA w) (fT w) (fK w)
      else .error .badOpcode

/-- The words whose format has no C bits, with V = 0 (R36); CHK has V = 0 and C = 0 (R56). -/
def decodePlain (w : Word) : Option (Except DecodeError Instr) :=
  match (fOp w).toNat with
  | 0x1F =>
    some (if fD w = f120 ∧ fC w = 0#2 then .ok (.chk (fA w) (fFn w)) else .error .unusedField)
  | 0x20 => some (.ok (.ldi (fD w) (fDisp w)))
  | 0x21 =>
    some (if (fDisp w).getLsbD 16 then .error .badFunction else .ok (.ldhi (fD w) (w.extractLsb' 0 16)))
  | 0x2D => some (decodeAtom (fAop w) (fD w) (fA w) (fT w) (scopeOf (fSc w)))
  | 0x2E => some (.ok (.chx (fD w) (fA w) (fT w) (fIdx w)))
  | 0x2F =>
    some (if (fM w).getLsbD 2 then .error .badFunction
      else .ok (.mma (fD w) (fA w) (fB w) ((fM w).getLsbD 1) ((fM w).getLsbD 0)))
  | 0x30 => some (.ok (.mms (fD w) (fA w) (fB w) ((fM w).extractLsb' 1 2) ((fM w).getLsbD 0)))
  | 0x32 => some (.ok (.bra (fD w) (fDisp w)))
  | 0x33 => some (.ok (.brz (fD w) (fDisp w)))
  | 0x34 => some (.ok (.bdiv (fD w) (fDisp w)))
  | 0x35 => some (if fD w = f120 then .ok (.jpt (fDisp w)) else .error .unusedField)
  | 0x36 => some (.ok (.call (fD w) (fDisp w)))
  | _ => none

/-- The instruction that the bits of a word name, before the checks of WellFormed. -/
def decodeRaw (w : Word) : Except DecodeError Instr :=
  match ctlOf (fV w) (fC w) with
  | none => .error .badVersion
  | some c =>
    match decodePlain w with
    | some r => if fV w = 0#2 then r else .error .versionNotZero
    | none => decodeCtl w c

/-- The instruction of a word, or why the word is illegal (R44). CHK decodes here too, because chisel code holds it; a
team that fetches it takes the illegal-encoding trap. -/
def decodeWord (w : Word) : Except DecodeError Instr :=
  match decodeRaw w with
  | .error e => .error e
  | .ok i =>
    match i.wfError with
    | none => .ok i
    | some e => .error (.illFormed e)

/-- A little-endian word from its four bytes (R4, R31). -/
def wordOfBytes (b0 b1 b2 b3 : Byte) : Word := b3 ++ b2 ++ b1 ++ b0

/-- Decoding a byte stream: the instruction and the bytes after it. -/
def decode : List Byte → Except DecodeError (Instr × List Byte)
  | b0 :: b1 :: b2 :: b3 :: rest =>
    match decodeWord (wordOfBytes b0 b1 b2 b3) with
    | .ok i => .ok (i, rest)
    | .error e => .error e
  | _ => .error .tooShort

/-- The bytes of a word as the hardware stores them (R31). -/
def bytesOfWord (w : Word) : List Byte :=
  [w.extractLsb' 0 8, w.extractLsb' 8 8, w.extractLsb' 16 8, w.extractLsb' 24 8]

/-- The instruction read from an instruction whose bits are w, numbered as the opcode table numbers them. Every Yilfel
instruction is one 32-bit word, so bits above nbits are 0. -/
def decodeTableWord (nbits w : Nat) : Option Instr :=
  match decode (bytesOfWord (BitVec.ofNat 32 (w % 2 ^ nbits))) with
  | .ok (i, _) => some i
  | .error _ => none

/-! ## The encoder -/

/-- The K field of a load or store (R57). -/
def kField (sz : Size) (strong sx stream : Bool) : BitVec 5 :=
  sizeBits sz ++ ofBit strong ++ ofBit sx ++ ofBit stream

/-- The word of an instruction (R34 to R63); an event has none. -/
def encode : Instr → Option Word
  | .iadd c d a b => some (packF3 c 0x1#6 d a b 0#1)
  | .isub c d a b => some (packF3 c 0x1#6 d a b 1#1)
  | .imul c d a b => some (packF3 c 0x2#6 d a b 0#1)
  | .imad c d a b => some (packF3 c 0x2#6 d a b 1#1)
  | .imulhS c d a b => some (packF3 c 0x3#6 d a b 0#1)
  | .imulhN c d a b => some (packF3 c 0x3#6 d a b 1#1)
  | .and c d a b => some (packF3 c 0x4#6 d a b 0#1)
  | .andn c d a b => some (packF3 c 0x4#6 d a b 1#1)
  | .or c d a b => some (packF3 c 0x5#6 d a b 0#1)
  | .xor c d a b => some (packF3 c 0x5#6 d a b 1#1)
  | .shl c d a b => some (packF3 c 0x6#6 d a b 0#1)
  | .rol c d a b => some (packF3 c 0x6#6 d a b 1#1)
  | .shr c d a b => some (packF3 c 0x7#6 d a b 0#1)
  | .sar c d a b => some (packF3 c 0x7#6 d a b 1#1)
  | .iminS c d a b => some (packF3 c 0x8#6 d a b 0#1)
  | .iminN c d a b => some (packF3 c 0x8#6 d a b 1#1)
  | .imaxS c d a b => some (packF3 c 0x9#6 d a b 0#1)
  | .imaxN c d a b => some (packF3 c 0x9#6 d a b 1#1)
  | .cmpeq c d a b => some (packF3 c 0xa#6 d a b 0#1)
  | .cmpne c d a b => some (packF3 c 0xa#6 d a b 1#1)
  | .cmpltS c d a b => some (packF3 c 0xb#6 d a b 0#1)
  | .cmpltN c d a b => some (packF3 c 0xb#6 d a b 1#1)
  | .cmpleS c d a b => some (packF3 c 0xc#6 d a b 0#1)
  | .cmpleN c d a b => some (packF3 c 0xc#6 d a b 1#1)
  | .sel c d a b => some (packF3 c 0xd#6 d a b 0#1)
  | .iabsd c d a b => some (packF3 c 0xd#6 d a b 1#1)
  | .fadd c d a b => some (packF3 c 0xe#6 d a b 0#1)
  | .fsub c d a b => some (packF3 c 0xe#6 d a b 1#1)
  | .fmul c d a b => some (packF3 c 0xf#6 d a b 0#1)
  | .ffma c d a b => some (packF3 c 0xf#6 d a b 1#1)
  | .fmin c d a b => some (packF3 c 0x10#6 d a b 0#1)
  | .fmax c d a b => some (packF3 c 0x10#6 d a b 1#1)
  | .fcmpeq c d a b => some (packF3 c 0x11#6 d a b 0#1)
  | .fcmplt c d a b => some (packF3 c 0x11#6 d a b 1#1)
  | .fcmple c d a b => some (packF3 c 0x12#6 d a b 0#1)
  | .fcmpun c d a b => some (packF3 c 0x12#6 d a b 1#1)
  | .shfl c d a b => some (packF3 c 0x13#6 d a b 0#1)
  | .shflx c d a b => some (packF3 c 0x13#6 d a b 1#1)
  | .idivS c d a b => some (packF3 c 0x14#6 d a b 0#1)
  | .idivN c d a b => some (packF3 c 0x14#6 d a b 1#1)
  | .iremS c d a b => some (packF3 c 0x15#6 d a b 0#1)
  | .iremN c d a b => some (packF3 c 0x15#6 d a b 1#1)
  | .fdiv c d a b => some (packF3 c 0x16#6 d a b 0#1)
  | .mov c d a => some (packF2 c 0x17#6 d a 0#8)
  | .not c d a => some (packF2 c 0x17#6 d a 1#8)
  | .neg c d a => some (packF2 c 0x17#6 d a 2#8)
  | .iabs c d a => some (packF2 c 0x17#6 d a 3#8)
  | .popc c d a => some (packF2 c 0x17#6 d a 4#8)
  | .clz c d a => some (packF2 c 0x17#6 d a 5#8)
  | .ctz c d a => some (packF2 c 0x17#6 d a 6#8)
  | .brev c d a => some (packF2 c 0x17#6 d a 7#8)
  | .sext8 c d a => some (packF2 c 0x17#6 d a 8#8)
  | .sext16 c d a => some (packF2 c 0x17#6 d a 9#8)
  | .zext8 c d a => some (packF2 c 0x17#6 d a 10#8)
  | .zext16 c d a => some (packF2 c 0x17#6 d a 11#8)
  | .isuni c d a => some (packF2 c 0x17#6 d a 12#8)
  | .fneg c d a => some (packF2 c 0x18#6 d a 0#8)
  | .fabs c d a => some (packF2 c 0x18#6 d a 1#8)
  | .fsqrt c d a => some (packF2 c 0x18#6 d a 2#8)
  | .frcp c d a => some (packF2 c 0x18#6 d a 3#8)
  | .frsq c d a => some (packF2 c 0x18#6 d a 4#8)
  | .fex2 c d a => some (packF2 c 0x18#6 d a 5#8)
  | .flg2 c d a => some (packF2 c 0x18#6 d a 6#8)
  | .fsin c d a => some (packF2 c 0x18#6 d a 7#8)
  | .fcos c d a => some (packF2 c 0x18#6 d a 8#8)
  | .ffloor c d a => some (packF2 c 0x18#6 d a 9#8)
  | .fceil c d a => some (packF2 c 0x18#6 d a 10#8)
  | .ftrunc c d a => some (packF2 c 0x18#6 d a 11#8)
  | .frint c d a => some (packF2 c 0x18#6 d a 12#8)
  | .fsat c d a => some (packF2 c 0x18#6 d a 13#8)
  | .fclass c d a => some (packF2 c 0x18#6 d a 14#8)
  | .cvtF32I32 c d a => some (packF2 c 0x19#6 d a 0#8)
  | .cvtF32N32 c d a => some (packF2 c 0x19#6 d a 1#8)
  | .cvtI32F32 c d a => some (packF2 c 0x19#6 d a 2#8)
  | .cvtN32F32 c d a => some (packF2 c 0x19#6 d a 3#8)
  | .cvtB16F32 c d a => some (packF2 c 0x19#6 d a 4#8)
  | .cvtB16hF32 c d a => some (packF2 c 0x19#6 d a 5#8)
  | .cvtF32B16 c d a => some (packF2 c 0x19#6 d a 6#8)
  | .cvtF32B16h c d a => some (packF2 c 0x19#6 d a 7#8)
  | .cvtE4F32 c n d a => some (packF2 c 0x19#6 d a (2#6 ++ n))
  | .cvtE5F32 c n d a => some (packF2 c 0x19#6 d a (3#6 ++ n))
  | .cvtF32E4 c n d a => some (packF2 c 0x19#6 d a (4#6 ++ n))
  | .cvtF32E5 c n d a => some (packF2 c 0x19#6 d a (5#6 ++ n))
  | .cvtF32Q4 c n d a => some (packF2 c 0x19#6 d a (3#5 ++ n))
  | .qscale c d a => some (packF2 c 0x19#6 d a 32#8)
  | .qenc c d a => some (packF2 c 0x19#6 d a 33#8)
  | .voteAny c d a => some (packF2 c 0x1a#6 d a 0#8)
  | .voteAll c d a => some (packF2 c 0x1a#6 d a 1#8)
  | .ballot c d a => some (packF2 c 0x1a#6 d a 2#8)
  | .gredIadd c d a => some (packF2 c 0x1a#6 d a 3#8)
  | .gredIminS c d a => some (packF2 c 0x1a#6 d a 4#8)
  | .gredImaxS c d a => some (packF2 c 0x1a#6 d a 5#8)
  | .gredFadd c d a => some (packF2 c 0x1a#6 d a 6#8)
  | .gredFmax c d a => some (packF2 c 0x1a#6 d a 7#8)
  | .gscanIadd c d a => some (packF2 c 0x1a#6 d a 8#8)
  | .matchG c d a => some (packF2 c 0x1a#6 d a 9#8)
  | .firstl c d => some (packF2 c 0x1a#6 d f120 10#8)
  | .bcast c d a => some (packF2 c 0x1a#6 d a 11#8)
  | .rdc c d r => some (packF2 c 0x1b#6 d f120 r)
  | .wrc c a r => some (packF2 c 0x1c#6 f120 a r)
  | .iaddi c d a imm => some (packF2 c 0x1d#6 d a imm)
  | .shli c d a n => some (packF2 c 0x1e#6 d a (0#2 ++ 0#1 ++ n))
  | .shri c d a n => some (packF2 c 0x1e#6 d a (1#2 ++ 0#1 ++ n))
  | .sari c d a n => some (packF2 c 0x1e#6 d a (2#2 ++ 0#1 ++ n))
  | .roli c d a n => some (packF2 c 0x1e#6 d a (3#2 ++ 0#1 ++ n))
  | .chk a code => some (packF2 (.v0 false false) 0x1f#6 f120 a code)
  | .ldi d imm => some (packFB 0x20#6 d imm)
  | .ldhi d imm => some (packFB 0x21#6 d (0#1 ++ imm))
  | .ldg c d a x sz sx strong stream => some (packFM c 0x22#6 d a x (kField sz strong sx stream))
  | .stg c d a x sz strong stream => some (packFM c 0x23#6 d a x (kField sz strong false stream))
  | .lds c d a ap sz sx => some (packFM c 0x24#6 d a (0#2 ++ ofBit ap) (kField sz false sx false))
  | .sts c d a ap sz => some (packFM c 0x25#6 d a (0#2 ++ ofBit ap) (kField sz false false false))
  | .ldcl c d a sz sx => some (packFM c 0x26#6 d a 0#3 (kField sz false sx false))
  | .stcl c d a sz => some (packFM c 0x27#6 d a 0#3 (kField sz false false false))
  | .ldxs c d a sz sx => some (packFM c 0x28#6 d a 0#3 (kField sz false sx false))
  | .stxs c d a sz => some (packFM c 0x29#6 d a 0#3 (kField sz false false false))
  | .ldl c d a sz sx => some (packFM c 0x2a#6 d a 0#3 (kField sz false sx false))
  | .stl c d a sz => some (packFM c 0x2b#6 d a 0#3 (kField sz false false false))
  | .lda c d a x lvl n stream => some (packFM c 0x2c#6 d a x (ldaLevelBits lvl ++ n ++ ofBit stream))
  | .atomLd d a x sc => some (packAtom d a x (scopeBits sc) 0#5)
  | .atomSt d a x sc => some (packAtom d a x (scopeBits sc) 1#5)
  | .atomXchg d a x sc => some (packAtom d a x (scopeBits sc) 2#5)
  | .atomCas d a x sc => some (packAtom d a x (scopeBits sc) 3#5)
  | .atomAdd d a x sc => some (packAtom d a x (scopeBits sc) 4#5)
  | .atomAnd d a x sc => some (packAtom d a x (scopeBits sc) 5#5)
  | .atomOr d a x sc => some (packAtom d a x (scopeBits sc) 6#5)
  | .atomXor d a x sc => some (packAtom d a x (scopeBits sc) 7#5)
  | .atomMinS d a x sc => some (packAtom d a x (scopeBits sc) 8#5)
  | .atomMaxS d a x sc => some (packAtom d a x (scopeBits sc) 9#5)
  | .atomMinN d a x sc => some (packAtom d a x (scopeBits sc) 10#5)
  | .atomMaxN d a x sc => some (packAtom d a x (scopeBits sc) 11#5)
  | .atomIncw d a x sc => some (packAtom d a x (scopeBits sc) 12#5)
  | .atomDecw d a x sc => some (packAtom d a x (scopeBits sc) 13#5)
  | .atomAddb d a x sc => some (packAtom d a x (scopeBits sc) 14#5)
  | .atomFadd d a x sc => some (packAtom d a x (scopeBits sc) 15#5)
  | .atomFmin d a x sc => some (packAtom d a x (scopeBits sc) 16#5)
  | .atomFmax d a x sc => some (packAtom d a x (scopeBits sc) 17#5)
  | .atomAdd64 d a x sc => some (packAtom d a x (scopeBits sc) 18#5)
  | .atomXchg64 d a x sc => some (packAtom d a x (scopeBits sc) 19#5)
  | .chx d a x idx => some (packChx d a x idx)
  | .mma d a b z xd => some (packFX 0x2f#6 d a b (0#1 ++ ofBit z ++ ofBit xd))
  | .mms d a b sl xd => some (packFX 0x30#6 d a b (sl ++ ofBit xd))
  | .mclr c d => some (packF2 c 0x31#6 d f120 0#8)
  | .mscl c d a => some (packF2 c 0x31#6 d a 1#8)
  | .mabs c d a => some (packF2 c 0x31#6 d a 2#8)
  | .mqpk c d a => some (packF2 c 0x31#6 d a 3#8)
  | .mcvt c d a => some (packF2 c 0x31#6 d a 4#8)
  | .bra a disp => some (packFB 0x32#6 a disp)
  | .brz a disp => some (packFB 0x33#6 a disp)
  | .bdiv a disp => some (packFB 0x34#6 a disp)
  | .jpt disp => some (packFB 0x35#6 f120 disp)
  | .call a disp => some (packFB 0x36#6 a disp)
  | .join c => some (packF2 c 0x37#6 f120 f120 0#8)
  | .brk c => some (packF2 c 0x37#6 f120 f120 1#8)
  | .exitI c => some (packF2 c 0x37#6 f120 f120 2#8)
  | .ret c a => some (packF2 c 0x37#6 f120 a 3#8)
  | .jmpr c a => some (packF2 c 0x37#6 f120 a 4#8)
  | .callr c d a => some (packF2 c 0x37#6 d a 5#8)
  | .yield c => some (packF2 c 0x37#6 f120 f120 6#8)
  | .winb c a => some (packF2 c 0x37#6 f120 a 7#8)
  | .nop c => some (packF2 c 0x37#6 f120 f120 8#8)
  | .tret c => some (packF2 c 0x37#6 f120 f120 9#8)
  | .tskip c => some (packF2 c 0x37#6 f120 f120 10#8)
  | .arv c lvl n a => some (packF2 c 0x38#6 f120 a (levelBits lvl ++ n ++ 0#2))
  | .syn c lvl n a => some (packF2 c 0x38#6 f120 a (levelBits lvl ++ n ++ 1#2))
  | .wt c lvl n => some (packF2 c 0x38#6 f120 f120 (levelBits lvl ++ n ++ 2#2))
  | .trySync c lvl n d => some (packF2 c 0x38#6 d f120 (levelBits lvl ++ n ++ 3#2))
  | .fenceAcq c sc => some (packF2 c 0x39#6 f120 f120 (0#6 ++ scopeBits sc))
  | .fenceRel c sc => some (packF2 c 0x39#6 f120 f120 (1#6 ++ scopeBits sc))
  | .fenceAr c sc => some (packF2 c 0x39#6 f120 f120 (2#6 ++ scopeBits sc))
  | .seal c d => some (packF2 c 0x39#6 d f120 12#8)
  | .waitb c a => some (packF2 c 0x39#6 f120 a 13#8)
  | .waitcL c a => some (packF2 c 0x39#6 f120 a 14#8)
  | .waitcS c a => some (packF2 c 0x39#6 f120 a 15#8)
  | .waitcC c a => some (packF2 c 0x39#6 f120 a 16#8)
  | .waitcX c a => some (packF2 c 0x39#6 f120 a 17#8)
  | .waitcG c a => some (packF2 c 0x39#6 f120 a 18#8)
  | .xltX0 c a => some (packF2 c 0x39#6 f120 a 19#8)
  | .xltX1 c a => some (packF2 c 0x39#6 f120 a 20#8)
  | .xltX2 c a => some (packF2 c 0x39#6 f120 a 21#8)
  | .xltX3 c a => some (packF2 c 0x39#6 f120 a 22#8)
  | .xltX4 c a => some (packF2 c 0x39#6 f120 a 23#8)
  | .xltX5 c a => some (packF2 c 0x39#6 f120 a 24#8)
  | .xltX6 c a => some (packF2 c 0x39#6 f120 a 25#8)
  | .xltX7 c a => some (packF2 c 0x39#6 f120 a 26#8)
  | .cpy c a => some (packF2 c 0x39#6 f120 a 27#8)
  | .spawn c d a => some (packF2 c 0x3a#6 d a 0#8)
  | .joinc c a => some (packF2 c 0x3a#6 f120 a 1#8)
  | .racq c d a => some (packF2 c 0x3a#6 d a 2#8)
  | .rcom c a => some (packF2 c 0x3a#6 f120 a 3#8)
  | .rpeek c d a => some (packF2 c 0x3a#6 d a 4#8)
  | .rrel c a => some (packF2 c 0x3a#6 f120 a 5#8)
  | .sysc c d => some (packF2 c 0x3a#6 d f120 6#8)
  | .sysct c d => some (packF2 c 0x3a#6 d f120 7#8)
  | .reord c d a => some (packF2 c 0x3a#6 d a 8#8)
  | .rld c d a => some (packF2 c 0x3b#6 d a 0#8)
  | .rstp c d a => some (packF2 c 0x3b#6 d a 1#8)
  | .rstc c d a => some (packF2 c 0x3b#6 d a 2#8)
  | .rstm c d a => some (packF2 c 0x3b#6 d a 3#8)
  | .rblk c d a => some (packF2 c 0x3b#6 d a 4#8)
  | .rseal c d a => some (packF2 c 0x3b#6 d a 5#8)
  | .trace c d a => some (packF2 c 0x3c#6 d a 0#8)
  | .boxt c d a => some (packF2 c 0x3c#6 d a 1#8)
  | .trit c d a => some (packF2 c 0x3c#6 d a 2#8)
  | .covr c d a => some (packF2 c 0x3c#6 d a 3#8)
  | .bint c d a => some (packF2 c 0x3c#6 d a 4#8)
  | .winfo c d => some (packF2 c 0x3d#6 d f120 0#8)
  | .rnext c d => some (packF2 c 0x3d#6 d f120 1#8)
  | .remit c a => some (packF2 c 0x3d#6 f120 a 2#8)
  | .wmark c a => some (packF2 c 0x3d#6 f120 a 3#8)
  | .sidle c a => some (packF2 c 0x3d#6 f120 a 4#8)
  | .publ c a => some (packF2 c 0x3d#6 f120 a 5#8)
  | .lateq c d => some (packF2 c 0x3d#6 d f120 6#8)
  | .trapI c a => some (packF2 c 0x3e#6 f120 a 0#8)
  | .bkpt c => some (packF2 c 0x3e#6 f120 f120 1#8)
  | .rdtime c d => some (packF2 c 0x3e#6 d f120 2#8)
  | .eret c a => some (packF2 c 0x3e#6 f120 a 3#8)
  | .chinst c d a => some (packF2 c 0x3e#6 d a 4#8)
  | .halt c a => some (packF2 c 0x3e#6 f120 a 5#8)
  | .rdid c d => some (packF2 c 0x3e#6 d f120 6#8)
  | .csrr c d a => some (packF2 c 0x3e#6 d a 7#8)
  | .csrw c d a => some (packF2 c 0x3e#6 d a 8#8)
  | .powerGood => none
  | .perstAssert => none
  | .mgmtResetCommand => none
  | .resetRelease => none
  | .freezePinAssert => none
  | .mgmtFreezeCommand => none
  | .stagingWindowWrite _ _ => none
  | .fwCmdVerify _ => none
  | .firmwareVerifyDone => none
  | .thermalThrottle _ => none
  | .thermalCooled _ => none
  | .thermalTrip _ => none
  | .l2MissServe _ _ => none
  | .loadReturn _ => none
  | .leaseExpiry _ _ => none
  | .storeRegistration _ _ => none
  | .revocationAck _ _ => none
  | .storeAck _ _ => none
  | .localDeadlinePass _ => none
  | .atomExecute _ _ => none
  | .atomResultReturn _ _ => none
  | .chiselRun _ _ => none
  | .chiselResultReturn _ _ => none
  | .xltWalkDone _ => none
  | .chinstDone _ => none
  | .ldaLand _ => none
  | .copyCommandComplete _ => none
  | .copyCommandFail _ => none
  | .rcomCommit _ => none
  | .tileWrite _ => none
  | .mabsResult _ => none
  | .tryHintExpiry _ => none
  | .teamExited _ => none
  | .distributorTakeKernel _ _ => none
  | .teamPlace _ _ => none
  | .childPlace _ _ => none
  | .instancePlace _ _ => none
  | .kernelDone _ _ => none
  | .localityWindowEnd _ _ _ => none
  | .qbaseWrite _ _ _ _ => none
  | .qcfgWrite _ _ _ => none
  | .qwpWrite _ _ _ => none
  | .queueEntryFetch _ _ => none
  | .entryLaunch _ _ _ => none
  | .entryCopy _ _ _ => none
  | .entrySignal _ _ _ => none
  | .entryWait _ _ _ => none
  | .entryMaquette _ _ _ => none
  | .entryTlbinv _ _ _ => none
  | .entryRseal _ _ _ => none
  | .waitRereadTimer _ _ _ => none
  | .entryComplete _ _ _ => none
  | .rcbCfgWrite _ _ _ => none
  | .syscReply _ _ _ _ _ _ => none
  | .poolTailWrite _ _ => none
  | .poolCfgWrite _ _ => none
  | .poolStatWrite _ _ => none
  | .writeInterceptComplete _ _ => none
  | .partCfgWrite _ _ => none
  | .ceOwnWrite _ _ => none
  | .contextCreate _ => none
  | .ctxCmdStart _ => none
  | .ctxCmdHalt _ => none
  | .ctxCmdResume _ => none
  | .ctxCmdDestroy _ => none
  | .ctxCmdMaquette _ => none
  | .ctxCfgWrite _ _ => none
  | .ctxXscrWrite _ _ => none
  | .ctxAddressWrite _ _ _ => none
  | .ctxMaqiWrite _ _ => none
  | .evdoneRetry _ _ => none
  | .evdoneSkip _ _ => none
  | .evdoneFatal _ _ => none
  | .contextLoad _ => none
  | .timeSliceBegin _ => none
  | .timeSliceEnd _ => none
  | .contextSaveComplete _ => none
  | .maquetteTimer _ => none
  | .maquettePageStreamed _ _ => none
  | .maquetteCommit _ => none
  | .maquetteStreamError _ => none
  | .containmentEvent _ _ => none
  | .rollbackComplete _ => none
  | .vfReset _ => none
  | .vfResetComplete _ => none
  | .tapBypass => none
  | .tapSamplePreload => none
  | .tapExtest => none
  | .tapIdcode => none
  | .tapFrzsel _ => none
  | .tapFrzdata => none
  | .reliefRequest _ => none
  | .reliefAcceptReturn _ => none
  | .reliefResultReturn _ => none
  | .sealBlockCommit _ => none
  | .blockEvict _ _ => none
  | .rayRecordArrive _ _ => none
  | .rayNodeTest _ _ => none
  | .rayRecordReturn _ _ => none
  | .isecNodeRequest _ _ => none
  | .isecResultReturn _ => none
  | .strmBaseWrite _ _ _ => none
  | .strmCfgWrite _ _ => none
  | .strmUnbWrite _ _ => none
  | .srcWpWrite _ _ _ _ => none
  | .ringRecordRead _ _ _ => none
  | .sourceIdleTimeout _ _ _ => none
  | .instanceEnd _ _ => none
  | .recordDelivery _ => none
  | .linkIdWrite _ => none
  | .linkEnSet _ => none
  | .linkEnClear _ => none
  | .linkTrained _ => none
  | .linkTrainTimeout _ => none
  | .linkNegotiated _ _ => none
  | .linkFailure _ => none
  | .linkPortError _ => none
  | .inboundRead _ => none
  | .inboundWrite _ _ => none
  | .inboundAtomic _ _ _ _ => none
  | .inboundFaultTimeout _ => none
  | .switchInvalidation _ => none
  | .collectiveAbort _ _ => none
  | .ethMessageReceive _ _ => none
  | .rdmaPlacement _ _ => none
  | .streamDatagram _ _ _ => none
  | .hostBar2Access _ _ _ _ => none
  | .registerWrite _ _ _ => none
  | .powerLoss => none
  | .enginePageFault _ => none

/-- The word of an instruction, 0 for an event: what TRAPA receives at an illegal-encoding trap at issue (R41, R46). -/
def encodeWord (i : Instr) : Word := (encode i).getD 0#32

end Sys2Proof
end

