-- ==== Sys2Proof/Machine/Memory.lean ====
section
/-!
DEFINITION. Operations on the bytes of one address space. A list of bytes is kept in canonical form: addresses strictly
rising, no entry that holds 0. Multi-byte values are little-endian (R4).
-/

namespace Sys2Proof.Machine

/-- The byte at an address; a byte that is not listed reads as 0 (notes/assumptions/5.md). -/
def memGet : Mem → Nat → Byte
  | [], _ => 0
  | (k, v) :: rest, a => if k = a then v else memGet rest a

/-- Stores one byte and keeps the canonical form. -/
def memSet : Mem → Nat → Byte → Mem
  | [], a, b => if b = 0 then [] else [(a, b)]
  | (k, v) :: rest, a, b =>
    if a < k then (if b = 0 then (k, v) :: rest else (a, b) :: (k, v) :: rest)
    else if a = k then (if b = 0 then rest else (a, b) :: rest)
    else (k, v) :: memSet rest a b

/-- Addresses strictly rising from lo, no zero byte. -/
def memSorted : Nat → Mem → Bool
  | _, [] => true
  | lo, (k, v) :: rest => lo ≤ k && v != 0 && memSorted (k + 1) rest

/-- The canonical form. -/
def Memory.wf (m : Mem) : Bool := memSorted 0 m

/-- n bytes from an address on. -/
def memRead (m : Mem) (a : Nat) : Nat → List Byte
  | 0 => []
  | n + 1 => memGet m a :: memRead m (a + 1) n

/-- Stores bytes at consecutive addresses. -/
def memWrite (m : Mem) (a : Nat) : List Byte → Mem
  | [] => m
  | b :: bs => memWrite (memSet m a b) (a + 1) bs

/-- The little-endian value of bytes. -/
def leNat : List Byte → Nat
  | [] => 0
  | b :: bs => b.toNat + 256 * leNat bs

/-- The n low bytes of a value, little-endian. -/
def leBytes : Nat → Nat → List Byte
  | 0, _ => []
  | n + 1, v => BitVec.ofNat 8 v :: leBytes n (v / 256)

/-- A word's four bytes. -/
def wordBytes (w : Word) : List Byte := leBytes 4 w.toNat

/-- The 32-bit words of a list of bytes. -/
def bytesWords : List Byte → List Word
  | a :: b :: c :: d :: rest => BitVec.ofNat 32 (leNat [a, b, c, d]) :: bytesWords rest
  | _ => []

/-- The bytes of a list of words. -/
def wordsBytes (ws : List Word) : List Byte := ws.flatMap wordBytes

def memWord (m : Mem) (a : Nat) : Word := BitVec.ofNat 32 (leNat (memRead m a 4))

def memDword (m : Mem) (a : Nat) : Dword := BitVec.ofNat 64 (leNat (memRead m a 8))

/-- Copies n bytes from one address space into another. -/
def memCopy (src : Mem) (a : Nat) (dst : Mem) (b n : Nat) : Mem := memWrite dst b (memRead src a n)

/-- The entries of a range, moved down to start at 0. -/
def memSlice (m : Mem) (a n : Nat) : Mem :=
  (m.filter fun c => a ≤ c.1 && c.1 < a + n).map fun c => (c.1 - a, c.2)

/-- Removes a range: every byte of it reads 0 again. -/
def memClear (m : Mem) (a n : Nat) : Mem := m.filter fun c => c.1 < a || a + n ≤ c.1

/-- The value of a bit field [hi:lo] of a number. -/
def bits (v hi lo : Nat) : Nat := v / 2 ^ lo % 2 ^ (hi + 1 - lo)

/-- Field [hi:lo] of a word. -/
def wfld (w : Word) (hi lo : Nat) : Nat := bits w.toNat hi lo

/-- Bit i of a word. -/
def wbit (w : Word) (i : Nat) : Bool := w.getLsbD i

/-- A list with position i replaced, when there is one. -/
def setAt {α : Type} (xs : List α) (i : Nat) (x : α) : List α := xs.set i x

end Sys2Proof.Machine
end

