-- ==== Sys2Proof/Machine/Operands.lean ====
section
/-!
DEFINITION. Every operand form: register fields of the window (R38), register values with their form (R72), the forwarding
window and vacancy (R75, R76), and the values of lanes.
-/

namespace Sys2Proof.Machine

/-! ## Lanes and masks -/

/-- The active lanes of a team, ascending (R6, R69). -/
def Team.lanes (t : Team) : List Nat := (List.range t.nlanes).filter fun l => t.mask.getLsbD l

/-- The lowest active lane. -/
def Team.low (t : Team) : Nat := t.lanes.headD 0

/-- The set of the given lanes. -/
def maskOf (ls : List Nat) : Mask := ls.foldl (fun m l => m ||| BitVec.ofNat 1024 (2 ^ l)) 0

/-- The lanes of a set, ascending. -/
def maskLanes (n : Nat) (m : Mask) : List Nat := (List.range n).filter fun l => m.getLsbD l

/-- Every lane of the team. -/
def Team.allLanes (t : Team) : Mask := BitVec.ofNat 1024 (2 ^ t.nlanes - 1)

/-- Every lane of the team is active. -/
def Team.allActive (t : Team) : Bool := t.mask == t.allLanes

/-- The group of lane l, and the active lanes of a group (R68). -/
def Team.groupOf (t : Team) (l : Nat) : Nat := l / t.g

def Team.groupLanes (t : Team) (g : Nat) : List Nat := t.lanes.filter fun l => l / t.g == g

/-- The number of groups. -/
def Team.groups (t : Team) : Nat := t.nlanes / t.g

/-! ## Register values -/

/-- A value in lane l. -/
def RegVal.lane : RegVal → Nat → Word
  | .uni v, _ => v
  | .per vs, l => vs.getD l 0

/-- The form that a value is held in (R72). -/
def RegVal.isUni : RegVal → Bool
  | .uni _ => true
  | .per _ => false

/-- An empty frame register does not exist outside the frame: reads of one never happen (R39). -/
def Reg.zero : Reg := { full := true, uniform := true, bank := .uni 0 }

def Team.reg (t : Team) (r : Nat) : Reg := t.frame.getD r Reg.zero

/-- The newest value of a register in the forwarding window (R75). -/
def windowFind : List (List (Nat × RegVal)) → Nat → Option RegVal
  | [], _ => none
  | e :: rest, r =>
    match e.find? fun x => x.1 == r with
    | some x => some x.2
    | none => windowFind rest r

/-- What a reader of frame register r sees: the window's newest value, else the banks (R75, R76). -/
def Team.regVal (t : Team) (r : Nat) : RegVal :=
  match windowFind t.window r with
  | some v => v
  | none => (t.reg r).bank

/-- The frame register that field f names (R38, R39). -/
def Team.fieldReg (t : Team) (f : Fld) : Nat := t.wbase + f.toNat

/-- Field f names a register of the frame. -/
def isFrame (f : Fld) : Bool := f.toNat ≤ 119

/-- Field f names k0 to k3. -/
def isK (f : Fld) : Bool := 124 ≤ f.toNat

/-- The value that field f names (R38). -/
def Team.field (t : Team) (f : Fld) : RegVal :=
  if isFrame f then t.regVal (t.fieldReg f)
  else if f.toNat = 121 then .per ((List.range t.nlanes).map fun l => BitVec.ofNat 32 l)
  else if f.toNat = 122 then .per ((List.range t.nlanes).map fun l => BitVec.ofNat 32 (l / t.g))
  else if f.toNat = 123 then .uni (BitVec.ofNat 32 t.tid)
  else if isK f then .uni (t.k.getD (f.toNat - 124) 0)
  else .uni 0

/-- Field f in lane l. -/
def Team.get (t : Team) (f : Fld) (l : Nat) : Word := (t.field f).lane l

/-- Field f in the lowest active lane. -/
def Team.getLow (t : Team) (f : Fld) : Word := t.get f t.low

/-- Field f + n: the n-th register of a run (R6, R41). -/
def fplus (f : Fld) (n : Nat) : Fld := BitVec.ofNat 7 (f.toNat + n)

/-- The n fields of a run from f on. -/
def run (f : Fld) (n : Nat) : List Fld := (List.range n).map (fplus f)

/-- A value is equal in every active lane (R73). -/
def Team.uniform (t : Team) (f : Nat → Word) : Bool := t.lanes.all fun l => f l == f t.low

/-- The form bit that ISUNI reports for a field (R130). -/
def Team.formBit (t : Team) (f : Fld) : Bool :=
  if isFrame f then (t.reg (t.fieldReg f)).uniform
  else !(f.toNat == 121 || f.toNat == 122)

/-! ## Writing registers -/

/-- The value of a register after a write of vals in the lanes of m, over its value old (R72): uniform when every lane is
written with one value. -/
def merge (n : Nat) (all : Bool) (m : Mask) (vals : Nat → Word) (old : RegVal) : RegVal :=
  if all && ((List.range n).all fun l => vals l == vals 0) then .uni (vals 0)
  else .per ((List.range n).map fun l => if m.getLsbD l then vals l else old.lane l)

/-- Replaces the banks and form of a register. -/
def Team.setBank (t : Team) (r : Nat) (v : RegVal) : Team :=
  { t with frame := t.frame.set r { t.reg r with bank := v } }

/-- Sets the form bit of a register. -/
def Team.setForm (t : Team) (r : Nat) (u : Bool) : Team :=
  { t with frame := t.frame.set r { t.reg r with uniform := u } }

/-- Removes a register from the window: what it held there never reaches the banks (R75). -/
def windowDrop (w : List (List (Nat × RegVal))) (r : Nat) : List (List (Nat × RegVal)) :=
  w.map fun e => e.filter fun x => x.1 != r

/-- A last-use read leaves the register vacant (R75, R76). -/
def Team.vacate (t : Team) (f : Fld) : Team :=
  if isFrame f then { t with window := windowDrop t.window (t.fieldReg f) } else t

/-- Writes the entry that leaves the window to the banks, but for registers with a newer write (R75). -/
def retire (t : Team) (newer : List (List (Nat × RegVal))) : List (Nat × RegVal) → Team
  | [] => t
  | (r, v) :: rest =>
    match windowFind newer r with
    | some _ => retire t newer rest
    | none => retire (t.setBank r v) newer rest

/-- Enters the results of one instruction into the window, whose oldest entry leaves when it holds eight (R75). -/
def Team.push (t : Team) (e : List (Nat × RegVal)) : Team :=
  match e with
  | [] => t
  | _ =>
    let t1 := e.foldl (fun u x => u.setForm x.1 x.2.isUni) t
    let w := e :: t.window
    if w.length ≤ 8 then { t1 with window := w }
    else
      let kept := w.take 8
      { retire t1 kept (w.getD 8 []) with window := kept }

/-- Writes the whole window to the banks (R77, R78, R100). -/
def Team.drain (t : Team) : Team :=
  let rec go (u : Team) : List (List (Nat × RegVal)) → Team
    | [] => u
    | e :: newer => go (e.foldl (fun v x => v.setBank x.1 x.2) u) newer
  { go t t.window.reverse with window := [] }

/-- Marks a destination of a long-latency producer empty (R74). What an older instruction left in the window never reaches
the banks in the lanes that the return will write (R75); the other lanes keep their value. -/
def Team.markEmpty (t : Team) (r : Nat) : Team :=
  let b := (t.reg r).bank
  let v :=
    match windowFind t.window r with
    | none => b
    | some w => .per ((List.range t.nlanes).map fun l => if t.mask.getLsbD l then b.lane l else w.lane l)
  { t with
    window := windowDrop t.window r
    frame := t.frame.set r { t.reg r with bank := v, full := false } }

/-- A long-latency result lands in the lanes of m and the register becomes full (R74, R75). -/
def Team.land (t : Team) (r : Nat) (m : Mask) (vals : Nat → Word) : Team :=
  let v := merge t.nlanes (m == t.allLanes) m vals (t.reg r).bank
  { t with frame := t.frame.set r { full := true, uniform := v.isUni, bank := v } }

/-- The register becomes full with what its banks hold (R95). -/
def Team.fill (t : Team) (r : Nat) : Team :=
  { t with frame := t.frame.set r { t.reg r with full := true } }

/-- Writes one lane slot of a register through the aperture (R77). -/
def Team.setSlot (t : Team) (r l : Nat) (v : Word) : Team :=
  let g := t.reg r
  let vs := ((List.range t.nlanes).map fun i => g.bank.lane i).set l v
  { t with frame := t.frame.set r { g with uniform := false, bank := .per vs } }

/-- Writes k0 to k3. -/
def Team.setK (t : Team) (f : Fld) (v : Word) : Team := { t with k := t.k.set (f.toNat - 124) v }

/-- A destination of an instruction with the value of each lane. -/
abbrev Dest := Fld × (Nat → Word)

/-- The window entry of the frame registers among the destinations, made from the values before the instruction. An entry holds the whole
register under a partial mask as well: the spec does not say whether it carries only the active lanes (notes/assumptions/103.md). -/
def Team.images (t : Team) (ds : List Dest) : List (Nat × RegVal) :=
  (ds.filter fun d => isFrame d.1).map fun d =>
    (t.fieldReg d.1, merge t.nlanes t.allActive t.mask d.2 (t.regVal (t.fieldReg d.1)))

/-- Writes the destinations of one instruction in the active lanes; old is the team before the instruction (R72, R75, R119).
A destination of zero discards (R40). -/
def Team.write (t old : Team) (ds : List Dest) : Team :=
  let t1 := t.push (old.images ds)
  ds.foldl (fun u d => if isK d.1 then u.setK d.1 (d.2 old.low) else u) t1

/-- The first k destination whose value is not uniform (R73). -/
def Team.badK (t : Team) (ds : List Dest) : Option Fld :=
  (ds.find? fun d => isK d.1 && !t.uniform d.2).map (·.1)

/-! ## Control bits -/

/-- The last-use marks of an instruction word (R35, R37). -/
def ctlLa : Ctl → Bool
  | .v0 la _ => la
  | .v1 _ _ => false
  | .v2 la _ => la

def ctlLb : Ctl → Bool
  | .v0 _ lb => lb
  | _ => false

/-- The trap-if-empty marks (R35, R74). -/
def ctlTa : Ctl → Bool
  | .v1 ta _ => ta
  | _ => false

def ctlTb : Ctl → Bool
  | .v1 _ tb => tb
  | _ => false

/-- The yield bit (R35, R94). -/
def ctlYld : Ctl → Bool
  | .v2 _ y => y
  | _ => false

/-- No control bits: the reading of words without them (R36). -/
def ctlNone : Ctl := .v0 false false

/-- Leaves the operands that are marked as last uses vacant. -/
def Team.useMarks (t : Team) (c : Ctl) (as bs : List Fld) : Team :=
  let t1 := if ctlLa c then as.foldl Team.vacate t else t
  if ctlLb c then bs.foldl Team.vacate t1 else t1

/-! ## What an instruction needs before it may issue -/

/-- The answer of the checks on the register operands. -/
inductive Ready where
  | ok
  /-- A field is not in frame (R39): the frame register number. -/
  | outOfFrame (r : Nat)
  /-- An empty register under TA or TB (R74). -/
  | emptyRead (r : Nat)
  /-- The registers that the team waits for (R74). -/
  | wait (rs : List Nat)
  deriving DecidableEq, Repr

/-- The frame registers that fields name. -/
def Team.regsOf (t : Team) (fs : List Fld) : List Nat := (fs.filter isFrame).map t.fieldReg

/-- The checks on register operands, in the order of R45 and R74: a field out of frame; an empty register that a TA or TB bit
covers; registers to wait for, the destinations among them. as and bs are the operands that LA, TA and LB, TB cover, ds the
other sources, dd the destinations. The spec does not order the empty-read trap against the wait on another empty register; the trap
comes first (notes/assumptions/91.md). -/
def Team.ready (t : Team) (c : Ctl) (as bs ds dd : List Fld) : Ready :=
  match (t.regsOf (dd ++ ds ++ as ++ bs)).find? fun r => t.p ≤ r with
  | some r => .outOfFrame r
  | none =>
    match (t.regsOf ((if ctlTa c then as else []) ++ (if ctlTb c then bs else []))).find? fun r => !(t.reg r).full with
    | some r => .emptyRead r
    | none =>
      match (t.regsOf (as ++ bs ++ ds ++ dd)).filter fun r => !(t.reg r).full with
      | [] => .ok
      | rs => .wait rs

end Sys2Proof.Machine
end

