-- ==== Sys2Proof/Machine/Flags.lean ====
section
/-!
DEFINITION. The machine has no flag register: a compare writes 1 or 0 into its destination (R124, R126), and FCLASS writes a
mask (R133). These are the words that stand for truth values, and the status words that instructions read as flags.
-/

namespace Sys2Proof.Machine

/-- 1 for true, 0 for false (R124, R126, R130). -/
def flagWord (b : Bool) : Word := if b then 1 else 0

/-- A word read as a condition: nonzero is true (R89, R90, R96, R124). -/
def isTrue (w : Word) : Bool := w != 0

/-- The signed integer that a word holds, S32 (R123). -/
def s32 (w : Word) : Int := w.toInt

/-- MASKW: the summary of an active set, bit w set when mask word w holds an active lane (R69, R87). -/
def summary (m : Mask) : Word :=
  (List.range 32).foldl (fun acc w =>
    if (m.extractLsb' (32 * w) 32) != 0 then acc ||| BitVec.ofNat 32 (2 ^ w) else acc) 0

/-- TRAPC of a cause and a detail (R84, R87). -/
def trapcWord (cause detail : Nat) : Word := BitVec.ofNat 32 (cause + 256 * detail)

end Sys2Proof.Machine
end

