-- ==== Sys2Proof/Machine/Ops.lean ====
section
/-!
DEFINITION. The named operations that the meanings share: reaching the issuing team and its context, service events, taking
an exception and returning from one, the reconvergence stack, barrier circuits, leaving, and completing an instruction.
-/

namespace Sys2Proof.Machine

/-- The answer of a meaning. -/
abbrev Res := Host.Outcome State Fault Refusal

/-! ## Teams, contexts, kernels -/

def State.team? (s : State) (id : Nat) : Option Team := s.teams.find? fun t => t.id == id

/-- The team that issues. -/
def State.focusTeam (s : State) : Option Team :=
  match s.focus with
  | none => none
  | some id => s.team? id

def State.putTeam (s : State) (t : Team) : State :=
  { s with teams := s.teams.map fun u => if u.id = t.id then t else u }

def State.modTeam (s : State) (id : Nat) (f : Team → Team) : State :=
  { s with teams := s.teams.map fun u => if u.id = id then f u else u }

def State.ctx? (s : State) (n : Nat) : Option Ctx := s.ctxs.find? fun c => c.num == n

def State.modCtx (s : State) (n : Nat) (f : Ctx → Ctx) : State :=
  { s with ctxs := s.ctxs.map fun c => if c.num = n then f c else c }

def Ctx.kernel? (c : Ctx) (k : Nat) : Option Kernel := c.kernels.find? fun x => x.id == k

def Ctx.modKernel (c : Ctx) (k : Nat) (f : Kernel → Kernel) : Ctx :=
  { c with kernels := c.kernels.map fun x => if x.id = k then f x else x }

def State.kernelOf (s : State) (t : Team) : Option Kernel :=
  match s.ctx? t.ctx with
  | none => none
  | some c => c.kernel? t.kernel

/-- Moves a team to the young end of its quadrant's age order (R94, R259). -/
def State.youngest (s : State) (id : Nat) : State :=
  { s with order := (s.order.filter fun x => x != id) ++ [id] }

/-- A fresh number for a request, command, team or kernel. -/
def State.fresh (s : State) : Nat × State := (s.nextId, { s with nextId := s.nextId + 1 })

/-- The next free value (R2; notes/assumptions/3.md). -/
def State.freeWord (s : State) : Word × State :=
  (Config.freeWord s.freeCtr, { s with freeCtr := s.freeCtr + 1 })

/-- The local duration counter of a core, in ns (R18). -/
def State.coreTime (s : State) (core : Nat) : Nat :=
  s.clock - s.released + ((s.coreSkew.find? fun x => x.1 == core).map (·.2)).getD 0

/-- Adds an answer to the outside. -/
def State.say (s : State) (o : Out) : State := { s with outbox := o :: s.outbox }

/-- A team that no lane of remains in, and that has not reached Exited: it waits for its requests (R66, R94). -/
def Team.exiting (t : Team) : Bool := t.mask == 0 && t.st != .exited && t.st != .placed

/-- The partition that holds a slice: its first slice and its size (R297). -/
def State.partOf (s : State) (slice : Nat) : Option (Nat × Nat) :=
  ((List.range 12).find? fun f =>
    let w := s.part.getD f 0
    wbit w 31 && f ≤ slice && slice < f + wfld w 3 0).map fun f => (f, wfld (s.part.getD f 0) 3 0)

/-- The first slice and size of a context's partition (R299). -/
def State.ctxPart (s : State) (ctx : Nat) : Nat × Nat :=
  let f := ctx / 16
  (f, wfld (s.part.getD f 0) 3 0)

/-! ## Pages marked by a maquette and the queue entries of a context -/

def Ctx.queue? (c : Ctx) (q : Nat) : Option Queue := c.queues.find? fun x => x.q == q

def Ctx.modQueue (c : Ctx) (q : Nat) (f : Queue → Queue) : Ctx :=
  { c with queues := c.queues.map fun x => if x.q = q then f x else x }

def Queue.modEntry (x : Queue) (n : Nat) (f : QEntry → QEntry) : Queue :=
  { x with entries := x.entries.map fun e => if e.n = n then f e else e }

/-- A queue entry's own work has ended with a status; it completes by ENTRY_COMPLETE (R269). The first status stands. -/
def State.endEntry (s : State) (ctx : Nat) (e : Option (Nat × Nat)) (status : Nat) : State :=
  match e with
  | none => s
  | some (q, n) =>
    s.modCtx ctx fun c => c.modQueue q fun x => x.modEntry n fun y =>
      { y with status := match y.status with | some v => some v | none => some status }

/-! ## Service events (R306) -/

/-- The translation register at placement (R142). -/
def Attr.none : Attr := { w := false, wi := false, rlf := false, raw := false, ss := false, nx := false, home := 0 }

def Xl.reset : Xl := { vbase := 0, frame := 0, limit := 0, attr := Attr.none }

/-- A team as R66, R87 and R258 place it, before its kernel's own values are set. -/
def Team.blank : Team :=
  { id := 0, ctx := 0, kernel := 0, kind := .ordinary, privileged := false, tid := 0, depth := 0, parent := none,
    codeBase := 0, g := 32, nlanes := 32, p := 32, core := 0, quad := 0, slot := 0, pairSlot := none, base := 0, base2 := 0, parts := [], scrSize := 0,
    privSize := 0, cset := 0, st := .placed, prev := .placed, hold := none, finish := .none, pc := 0, wbase := 0,
    mask := 0, leaving := 0, stack := [], fmt := 0x781E000#32, gangLo := 1, gangHi := 0, trapv := 0, trapc := 0, trapa := 0,
    faultm := 0, surf := 0, bvh := 0, k := [0, 0, 0, 0], xl := List.replicate 8 Xl.reset, frame := [], window := [],
    gen := 0, cnt := [], sealed := 0, openBatch := [], batches := [], handles := [], nextHandle := 1, arvs := [],
    scratch := [], lanePriv := [], streak := 0, record := [], upto := 0 }

/-- The smallest event number that no open event has; it fits the 16 bits of CTX.EVDONE (R306). -/
def State.eventNum (s : State) : Nat :=
  ((List.range (s.events.length + 1)).find? fun n => !(s.events.any fun e => e.num == n + 1)).getD 0 + 1

/-- The team that a service event starts (R306): 32 lanes on a service core, with privilege. Service cores are numbered from
384 on, and P and G of the team are the model's (notes/assumptions/7.md). -/
def handlerTeam (id num core slot : Nat) (c : Ctx) (e : SvcEvent) : Team :=
  let r (v : Word) : Reg := { full := true, uniform := true, bank := .uni v }
  let pf := e.kind == 2 || e.kind == 5
  let va (n : Nat) : Word := if pf then BitVec.ofNat 32 n else 0
  { Team.blank with
    id := id, ctx := c.num, kind := .handler num, privileged := true, codeBase := c.svec.toNat, p := 128, core := 384 + num % 32,
    slot := num / 32, st := .ready, mask := BitVec.ofNat 1024 (2 ^ 32 - 1),
    k := [BitVec.ofNat 32 num, BitVec.ofNat 32 (e.kind + 256 * e.cause + 65536 * e.detail),
          (if e.kind = 5 then 0xFFFFFFFF#32 else BitVec.ofNat 32 (256 * core + slot)), e.trapa],
    frame := r (va e.va) :: r (va (e.va / 2 ^ 32)) :: r (va e.access) :: List.replicate 125 (r 0) }

/-- The circuits of a team's groups, Open: group barrier 0 is always usable (R210, R211). -/
def Team.groupCircuits (t : Team) : List Circuit :=
  (List.range t.groups).map fun g =>
    { key := .group t.id g, phase := 0, count := 0, expected := none, membership := t.g, arrived := [] }

/-- Opens a service event and starts its handler (R306). The event's number is e.num. -/
def State.openEvent (s : State) (e : SvcEvent) (core slot : Nat) : State :=
  match s.ctx? e.ctx with
  | none => s
  | some c =>
    let h := handlerTeam s.nextId e.num core slot c e
    { s with nextId := s.nextId + 1, events := e :: s.events, teams := s.teams ++ [h], order := s.order ++ [h.id] }.modCtx e.ctx
      fun c => { c with circuits := c.circuits ++ h.groupCircuits }

/-! ## Taking an exception (R83) and the reconvergence stack (R79 to R82, R85) -/

/-- The team is parked and a service event tells its context's handler (R83, R288). -/
def State.park (s : State) (t : Team) (kind cause detail : Nat) (f : Mask) (trapa : Word) (va access : Nat) : State :=
  let num := s.eventNum
  let s1 := s.putTeam { t with st := .parked (.event num) }
  s1.openEvent { num := num, ctx := t.ctx, what := .team t.id, kind := kind, cause := cause, detail := detail, f := f,
                 trapa := trapa, va := va, access := access } t.core t.slot

/-! ### Barrier circuits (R212, R213, R216) -/

/-- Completion (R213). -/
def Circuit.complete (c : Circuit) : Circuit :=
  { c with phase := c.phase + 1, count := 0, expected := none, arrived := [] }

/-- Completion when the count has reached the expected count. -/
def Circuit.check (c : Circuit) : Circuit :=
  match c.expected with
  | none => c
  | some e => if e ≤ c.count then c.complete else c

/-- Members arrive, naming count e (R213, R219). -/
def Circuit.arrive (c : Circuit) (ms : List Nat) (e : Nat) : Circuit :=
  { c with
    arrived := c.arrived ++ ms
    count := c.count + ms.length
    expected := match c.expected with | some x => some x | none => some e }.check

/-- n members leave (R216). -/
def Circuit.leave (c : Circuit) (n : Nat) : Circuit :=
  let m := c.membership - n
  { c with
    membership := m
    expected := match c.expected with | none => none | some e => some (min e m) }.check

/-- The circuits that the teams of a context reach; the firmware's teams belong to none (R26, R211). -/
def State.circuitsOf (s : State) (ctx : Nat) : List Circuit :=
  match s.ctx? ctx with
  | none => s.fwCircuits
  | some c => c.circuits

def modCircuit (cs : List Circuit) (k : CKey) (f : Circuit → Circuit) : List Circuit :=
  cs.map fun x => if x.key = k then f x else x

def State.modCircuits (s : State) (ctx : Nat) (f : List Circuit → List Circuit) : State :=
  match s.ctx? ctx with
  | none => { s with fwCircuits := f s.fwCircuits }
  | some _ => s.modCtx ctx fun c => { c with circuits := f c.circuits }

def State.circuit? (s : State) (ctx : Nat) (k : CKey) : Option Circuit :=
  (s.circuitsOf ctx).find? fun x => x.key == k

/-- A phase has completed; a circuit that has been freed holds nobody back (R213). -/
def State.phaseDone (s : State) (ctx : Nat) (w : BWait) : Bool :=
  match s.circuit? ctx w.key with
  | none => true
  | some c => w.phase < c.phase

/-- Every lane that the team still has, on any path. -/
def Team.alive (t : Team) : Mask := t.stack.foldl (fun m e => m ||| e.mask) t.mask

/-- The lanes that a return may still write: those the team has, and those of the EXIT that left none (R66, R95). -/
def Team.landing (t : Team) : Mask := t.alive ||| t.leaving

/-- The lanes in gone leave the group and team barriers of the team (R216); before is the set of lanes it had. -/
def State.leaveLanes (s : State) (t : Team) (before gone : Mask) : State :=
  let after := before &&& ~~~gone
  s.modCircuits t.ctx fun cs => cs.map fun x =>
    match x.key with
    | .group tm g =>
      if tm = t.id then
        x.leave ((maskLanes t.nlanes (before &&& gone)).filter fun l => l / t.g == g).length
      else x
    | .team tm _ =>
      if tm = t.id then
        x.leave ((List.range t.groups).filter fun g =>
          ((maskLanes t.nlanes before).any fun l => l / t.g == g) &&
          !((maskLanes t.nlanes after).any fun l => l / t.g == g)).length
      else x
    | _ => x

/-! ### Popping and pushing -/

/-- Takes the path of a stack entry: its mask, PC and FMT (R80). A yielded path goes on waiting for its phase, beside the
yielded path that is then on top (R82). -/
def Team.takePath (t : Team) (e : Entry) (rest : List Entry) : Team :=
  { t with
    stack := rest, mask := e.mask, pc := e.pc, fmt := e.fmt
    st := match e.kind with
      | .yielded w =>
        match rest with
        | { kind := .yielded w2, .. } :: _ => .waitingBarrier [w, w2]
        | _ => .waitingBarrier [w]
      | _ => .ready }

/-- Pops the top entry, discarding entries whose mask is empty (R80). With no entry left, no lane runs. -/
def Team.popFrom (t : Team) : List Entry → Team
  | [] => { t with stack := [], mask := 0, st := .issuing }
  | e :: rest => if e.mask = 0 then t.popFrom rest else t.takePath e rest

def Team.pop (t : Team) : Team := t.popFrom t.stack

/-- The lanes of m leave every path (R94). -/
def Team.removeLanes (t : Team) (m : Mask) : Team :=
  { t with
    mask := t.mask &&& ~~~m
    stack := t.stack.map fun e => { e with mask := e.mask &&& ~~~m } }

/-- EXIT of the lanes of m (R94): they leave every path, and one pop follows when the active set is empty. When no lane is left
anywhere, that takes effect once what is outstanding has completed (R66): returns to the lanes of m still land. -/
def State.exitLanes (s : State) (t : Team) (m : Mask) : State :=
  let s1 := s.leaveLanes t t.alive m
  let u := t.removeLanes m
  let v := if u.mask = 0 then u.pop else u
  s1.putTeam (if v.mask = 0 then { v with leaving := m } else v)

/-- A team is removed as if by EXIT in every lane (R95, R250, R310): it issues nothing more. -/
def State.removeTeam (s : State) (id : Nat) : State :=
  match s.team? id with
  | none => s
  | some t =>
    if t.st = .exited then s
    else
      (s.leaveLanes t t.alive t.alive).putTeam
        { t with mask := 0, leaving := t.alive ||| t.leaving, stack := [], st := .issuing, hold := none, finish := .none, arvs := [] }

/-- The circuit belongs to a kernel: to one of its teams, to one of its cluster sets, or to its grid (R213). -/
def CKey.ofKernel (ids sets : List Nat) (k : Nat) : CKey → Bool
  | .group t _ => ids.contains t
  | .team t _ => ids.contains t
  | .cluster i _ => sets.contains i
  | .grid j _ => j == k

/-- The kernel becomes Failed, its remaining teams are removed, and its circuits are freed (R213, R250). Its children that still wait for
placement are dropped and return no quota, which the spec leaves open (notes/assumptions/109.md). -/
def State.failKernel (s : State) (ctx k : Nat) : State :=
  match s.ctx? ctx with
  | none => s
  | some c =>
    match c.kernel? k with
    | none => s
    | some x =>
      if x.st = .done ∨ x.st = .failed then s
      else
        let ids := (s.teams.filter fun t => t.ctx == ctx && t.kernel == k).map (·.id)
        let s1 := ids.foldl State.removeTeam s
        let sets := (c.csets.filter fun x => x.kernel == k).map (·.id)
        let s2 := s1.modCtx ctx fun c =>
          { (c.modKernel k fun x => { x with st := .failed }) with
            children := c.children.filter fun y => y.kernel != k
            csets := c.csets.map fun x => if x.kernel = k then { x with circuits := 0 } else x
            circuits := c.circuits.filter fun x => !x.key.ofKernel ids sets k
            insts := c.insts.filter fun y => y.kernel != k
            bindings := c.bindings.filter fun b => b.kernel != k }
        s2.endEntry ctx x.entry 1

/-- Pushes an entry; beyond 1,024 entries the team parks with event "stack overflow" and its kernel becomes Failed (R79). -/
def State.pushEntry (s : State) (t : Team) (e : Entry) (k : Team → State) : State :=
  if t.stack.length < 1024 then k { t with stack := e :: t.stack }
  else
    (s.park { t with st := .parked .overflow } 3 0 0 t.mask t.trapa 0 0).failKernel t.ctx t.kernel

/-- TAKING AN EXCEPTION (R83): cause, detail, the faulting set F and the datum for TRAPA. Every meaning that traps calls
this. No lane of the trapping instruction has written anything. The trap registers are written before the push, so where the push
overflows the event tells the new TRAPA; the spec does not speak of that case (notes/assumptions/102.md). -/
def State.trap (s : State) (t : Team) (cause detail : Nat) (f : Mask) (trapa : Word) : State :=
  let u := { t with trapc := trapcWord cause detail, trapa := trapa }
  if t.trapv = 0 ∨ cause = 2 then s.park u 1 cause detail f trapa 0 0
  else
    s.pushEntry u { kind := .trap f, mask := t.mask, pc := t.pc, fmt := t.fmt } fun v =>
      s.putTeam { v with mask := f, pc := t.trapv, st := .ready }

/-- The illegal-encoding trap of a word (R44, R46). -/
def State.illegal (s : State) (t : Team) (w : Word) : State := s.trap t 1 0 t.mask w

/-- RETURNING FROM AN EXCEPTION, TRET (R85): the trapped instruction is executed again with the entry's active set. -/
def Team.tret (t : Team) (e : Entry) (rest : List Entry) : Team :=
  { t with stack := rest, mask := e.mask, pc := e.pc, fmt := e.fmt, st := .ready }

/-- Removes the skip entries on top that were pushed for the instruction before next (R85), giving the stack, active set
and FMT that are left. -/
def popSkips (next : Word) : List Entry → Mask → Word → List Entry × Mask × Word
  | [], m, f => ([], m, f)
  | e :: rest, m, f =>
    if e.kind = .skip ∧ e.pc = next then popSkips next rest e.mask e.fmt else (e :: rest, m, f)

/-- The instruction at PC has completed: the team continues at next, with the lanes that TSKIP held back (R85). -/
def Team.advance (t : Team) (next : Word) : Team :=
  let r := popSkips (t.pc + 4) t.stack t.mask t.fmt
  { t with
    stack := r.1, mask := r.2.1
    fmt := if r.1.length = t.stack.length then t.fmt else r.2.2
    pc := next, st := .ready }

/-- A skip of the instruction at pc with the lanes F (R85, R306): a skip entry holds the whole active set m, and the
instruction is executed in the lanes of m that F does not name; when there are none, the entry is popped at once. -/
def State.skip (s : State) (t : Team) (m f : Mask) (pc fmt : Word) : State :=
  if m &&& ~~~f = 0 then
    s.putTeam (({ t with mask := m, pc := pc, fmt := fmt }).advance (pc + 4))
  else
    s.pushEntry t { kind := .skip, mask := m, pc := pc + 4, fmt := fmt } fun v =>
      s.putTeam { v with mask := m &&& ~~~f, pc := pc, fmt := fmt, st := .ready }

/-! ## Issuing and completing -/

/-- Runs k on the issuing team. -/
def State.withTeam (s : State) (k : Team → State) : Res :=
  match s.focusTeam with
  | none => .fault .noTeam
  | some t => .next (k t)

/-- The checks on register operands, then k (R45, R74). -/
def State.checked (s : State) (t : Team) (c : Ctl) (as bs ds dd : List Fld) (k : State) : State :=
  match t.ready c as bs ds dd with
  | .ok => k
  | .outOfFrame r => s.trap t 6 0 t.mask (BitVec.ofNat 32 r)
  | .emptyRead r => s.trap t 3 0 t.mask (BitVec.ofNat 32 r)
  | .wait rs => s.putTeam { t with st := .waitingEmpty rs }

/-- Issue of an instruction: its team, its register operands, its effect. -/
def State.issue (s : State) (c : Ctl) (as bs ds dd : List Fld) (k : Team → State) : Res :=
  s.withTeam fun t => s.checked t c as bs ds dd (k t)

/-- The yield bit after its instruction (R35, R94). -/
def State.yieldIf (s : State) (c : Ctl) (id : Nat) : State := if ctlYld c then s.youngest id else s

/-- The team u has executed its instruction and goes on at the next one. -/
def State.complete (s : State) (c : Ctl) (u : Team) : State :=
  (s.putTeam (u.advance (u.pc + 4))).yieldIf c u.id

/-- Writes the destinations in the active lanes and completes; a k destination with values that differ takes the
nonuniform-write trap and nothing is written (R73, R119). -/
def State.finishWrite (s : State) (c : Ctl) (as bs : List Fld) (t : Team) (ds : List Dest) : State :=
  match t.badK ds with
  | some d => s.trap t 5 0 t.mask (BitVec.ofNat 32 d.toNat)
  | none => s.complete c ((t.useMarks c as bs).write t ds)

/-- The shared shape of the instructions that work on registers alone (R119): check the operands, compute a value for each
lane, write. -/
def State.compute (s : State) (c : Ctl) (as bs ds : List Fld) (d : Fld) (f : Team → Nat → Word) : Res :=
  s.issue c as bs ds [d] fun t => s.finishWrite c as bs t [(d, f t)]

/-- Uniform operands (R261, R307 and others): the first field that is not uniform takes the nonuniform-write trap. -/
def State.uniforms (s : State) (t : Team) (fs : List Fld) (k : State) : State :=
  match fs.find? fun f => !t.uniform (t.get f) with
  | some f => s.trap t 5 0 t.mask (BitVec.ofNat 32 f.toNat)
  | none => k

/-- The protection trap for the whole team with a datum. -/
def State.protect (s : State) (t : Team) (trapa : Word) : State := s.trap t 9 0 t.mask trapa

/-- The privileged-instruction trap of a team without privilege (R52); w is the word. -/
def State.privilegedOnly (s : State) (t : Team) (w : Word) (k : State) : State :=
  if t.privileged then k else s.trap t 2 0 t.mask w

end Sys2Proof.Machine
end

