-- ==== Sys2Proof/Machine/Group.lean ====
section
/-!
DEFINITION. Operations across the lanes of a group (R96 to R98).
-/

namespace Sys2Proof.Machine

/-- The active lanes of lane l's group, ascending: g(l) (R96). -/
def Team.peers (t : Team) (l : Nat) : List Nat := t.groupLanes (t.groupOf l)

/-- Lane bits of the given lanes: bit i set for group lane i (R96). -/
def Team.laneBits (t : Team) (ls : List Nat) : Nat := ls.foldl (fun n l => n ||| 2 ^ (l % t.g)) 0

/-- One level of the pairwise tree (R97, R118). -/
def pairUp : List Word → List Word
  | x :: y :: rest => fadd x y :: pairUp rest
  | [x] => [x]
  | [] => []

/-- The tree's levels (R97, R118). -/
def treeSum : Nat → List Word → List Word
  | 0, xs => xs
  | n + 1, xs => treeSum n (pairUp xs)

/-- The pairwise tree sum of a group's A: +0 at the leaves of lanes that are not active (R97). -/
def Team.treeOf (t : Team) (a : Fld) (l : Nat) : Word :=
  let base := l / t.g * t.g
  let leaves := (List.range t.g).map fun i => if t.mask.getLsbD (base + i) then t.get a (base + i) else 0
  (treeSum (Nat.log2 t.g) leaves).headD 0

/-- The FMAX of values; NaN only when all are NaN, and then canonical (R96). -/
def maxOf : List Word → Word
  | [] => nan32
  | x :: rest => let m := rest.foldl fmax x; if (F m).isNan then nan32 else m

/-- The words of a result that needs D+1 when G = 64 (R96). -/
def Team.laneBitDests (t : Team) (d : Fld) (f : Nat → Nat) : List Dest :=
  let lo : Dest := (d, fun l => BitVec.ofNat 32 (f l))
  if t.g = 64 then [lo, (fplus d 1, fun l => BitVec.ofNat 32 (f l / 2 ^ 32))] else [lo]

/-- BALLOT and MATCH: when G = 64, D must be 0 to 118 (R41, R96), which is checked at issue because the word does not name G. -/
def State.laneBitOp (s : State) (c : Ctl) (d a : Fld) (w : Word) (f : Team → Nat → Nat) : Res :=
  s.withTeam fun t =>
    if t.g = 64 ∧ 118 < d.toNat then s.illegal t w
    else
      s.checked t c [a] [] [] (if t.g = 64 then [d, fplus d 1] else [d])
        (s.finishWrite c [a] [] t (t.laneBitDests d (f t)))

/-- VOTE.ANY (R96). -/
def execVoteAny (c : Ctl) (d a : Fld) (s : State) : Res :=
  s.compute c [a] [] [] d fun t l => flagWord ((t.peers l).any fun i => isTrue (t.get a i))

/-- VOTE.ALL (R96). -/
def execVoteAll (c : Ctl) (d a : Fld) (s : State) : Res :=
  s.compute c [a] [] [] d fun t l => flagWord ((t.peers l).all fun i => isTrue (t.get a i))

/-- GRED.IADD (R96). -/
def execGredIadd (c : Ctl) (d a : Fld) (s : State) : Res :=
  s.compute c [a] [] [] d fun t l => (t.peers l).foldl (fun x i => x + t.get a i) 0

/-- GRED.IMIN.S (R96). -/
def execGredIminS (c : Ctl) (d a : Fld) (s : State) : Res :=
  s.compute c [a] [] [] d fun t l => (t.peers l).foldl (fun x i => if s32 (t.get a i) < s32 x then t.get a i else x) 0x7FFFFFFF#32

/-- GRED.IMAX.S (R96). -/
def execGredImaxS (c : Ctl) (d a : Fld) (s : State) : Res :=
  s.compute c [a] [] [] d fun t l => (t.peers l).foldl (fun x i => if s32 x < s32 (t.get a i) then t.get a i else x) 0x80000000#32

/-- GRED.FADD (R97). -/
def execGredFadd (c : Ctl) (d a : Fld) (s : State) : Res :=
  s.compute c [a] [] [] d fun t l => t.treeOf a l

/-- GRED.FMAX (R96). -/
def execGredFmax (c : Ctl) (d a : Fld) (s : State) : Res :=
  s.compute c [a] [] [] d fun t l => maxOf ((t.peers l).map fun i => t.get a i)

/-- GSCAN.IADD: inclusive (R96). -/
def execGscanIadd (c : Ctl) (d a : Fld) (s : State) : Res :=
  s.compute c [a] [] [] d fun t l => ((t.peers l).filter fun i => i ≤ l).foldl (fun x i => x + t.get a i) 0

/-- BCAST (R96). -/
def execBcast (c : Ctl) (d a : Fld) (s : State) : Res :=
  s.compute c [a] [] [] d fun t l => t.get a ((t.peers l).headD l)

/-- FIRSTL (R96). -/
def execFirstl (c : Ctl) (d : Fld) (s : State) : Res :=
  s.compute c [] [] [] d fun t l => BitVec.ofNat 32 ((t.peers l).headD l % t.g)

/-- BALLOT (R96). -/
def execBallot (c : Ctl) (d a : Fld) (s : State) : Res :=
  s.laneBitOp c d a (encodeWord (.ballot c d a)) fun t l =>
    t.laneBits ((t.peers l).filter fun i => isTrue (t.get a i))

/-- MATCH (R96). -/
def execMatchG (c : Ctl) (d a : Fld) (s : State) : Res :=
  s.laneBitOp c d a (encodeWord (.matchG c d a)) fun t l =>
    t.laneBits ((t.peers l).filter fun i => t.get a i == t.get a l)

/-- SHFL: the source lane is read whether or not it is active (R98). -/
def execShfl (c : Ctl) (d a b : Fld) (s : State) : Res :=
  s.compute c [a] [b] [] d fun t l => t.get a (l / t.g * t.g + (t.get b l).toNat % t.g)

/-- SHFLX (R98). -/
def execShflx (c : Ctl) (d a b : Fld) (s : State) : Res :=
  s.compute c [a] [b] [] d fun t l =>
    t.get a (l / t.g * t.g + ((l % t.g) ^^^ ((t.get b l).toNat % t.g)))

end Sys2Proof.Machine
end

