-- ==== Sys2Proof/Machine/Translate.lean ====
section
/-!
DEFINITION. Physical memory, page tables, the TLB, first-touch installs, and the checks that every global access makes before
any lane acts (R143, R279 to R293).
-/

namespace Sys2Proof.Machine

/-! ## Physical memory (R14, R383) -/

/-- Where DRAM ends, and where the addresses across the links begin and end (R14, R283, R383). -/
def dramEnd : Nat := 0xC000000000
def linkBase : Nat := 0x10000000000
def linkEnd : Nat := 0x410000000000

/-- An address across a link. -/
def isRemote (pa : Nat) : Bool := linkBase ≤ pa

/-- Where the request for a remote address goes: the partner DEST of its window, and the link address (LBASE << 40) | PA[39:0] (R383). -/
def State.linkAddr (s : State) (pa : Nat) : Nat :=
  let w := s.lmap.getD (pa / 2 ^ 40 - 1) (0, 0)
  2 ^ 48 * wfld w.1 25 16 + 2 ^ 40 * wfld w.2 7 0 + pa % 2 ^ 40

/-- The bytes that the home of an address holds. -/
def State.phys (s : State) (pa n : Nat) : List Byte :=
  if isRemote pa then memRead s.fabric (s.linkAddr pa) n else memRead s.mem pa n

def State.physWord (s : State) (pa : Nat) : Word := BitVec.ofNat 32 (leNat (s.phys pa 4))

def State.physDword (s : State) (pa : Nat) : Dword := BitVec.ofNat 64 (leNat (s.phys pa 8))

/-- A line of n bytes at pa that is poisoned (R209). -/
def State.poisonIn (s : State) (pa n : Nat) : Option Nat :=
  ((List.range ((pa + n - 1) / 64 - pa / 64 + 1)).map fun i => pa / 64 + i).find? s.poisoned.contains

/-- The slice, home bank and 8-byte word of a physical address (R12 to R14, R150); slice n holds cores 32 n on, cluster m cores 8 m on. -/
def sliceOf (pa : Nat) : Nat := pa / 2 ^ 36
def bankOf (pa : Nat) : Nat := pa / 2 ^ 12 % 16
def wordIx (pa : Nat) : Nat := pa / 8

/-- The 8-byte words that n bytes at pa touch. -/
def wordsOf (pa n : Nat) : List Nat :=
  if n = 0 then [] else (List.range ((pa + n - 1) / 8 - pa / 8 + 1)).map fun i => pa / 8 + i

/-! ### Windows across the links (R383) -/

/-- The Up ports of an outbound window, ascending. -/
def State.upPorts (s : State) (win : Nat) : List Nat :=
  let w := (s.lmap.getD win (0, 0)).1
  (List.range 16).filter fun p => wbit w p && (s.ports.getD p Port.reset).st == .up

/-- The port that carries requests to a line: the k-th Up port of the window, k = PA[15:6] modulo their number. -/
def State.portOf (s : State) (pa : Nat) : Option Nat :=
  let win := pa / 2 ^ 40 - 1
  let w := (s.lmap.getD win (0, 0)).1
  if pa < linkBase ∨ linkEnd ≤ pa ∨ !wbit w 31 then none
  else
    let ps := s.upPorts win
    if ps = [] then none else ps[bits pa 15 6 % ps.length]?

/-- A write or message of a context leaves by a port: with MSEQ it carries the next number of the context's outbound sequence (R389). -/
def State.tagSent (s : State) (ctx port : Nat) : State :=
  match s.ctx? ctx with
  | none => s
  | some c =>
    if (s.ports.getD port Port.reset).cap.getLsbD 3 then
      (s.modCtx ctx fun c => { c with seq := c.seq + 1 }).say (.sent port s.linkId ctx c.maqn.toNat (c.seq + 1))
    else s

/-- A remote address that no port carries. -/
def State.unreachable (s : State) (pa : Nat) : Bool := isRemote pa && (s.portOf pa).isNone

/-! ## Page-table entries (R281 to R283) -/

def pteP (e : Dword) : Bool := e.getLsbD 0
def pteW (e : Dword) : Bool := e.getLsbD 1
def pteNx (e : Dword) : Bool := e.getLsbD 2
def pteRlf (e : Dword) : Bool := e.getLsbD 3
def pteRaw (e : Dword) : Bool := e.getLsbD 4
def pteFm (e : Dword) : Nat := bits e.toNat 6 5
def pteFt (e : Dword) : Bool := e.getLsbD 7
def pteSs (e : Dword) : Bool := e.getLsbD 8
def pteLg (e : Dword) : Bool := e.getLsbD 9
def pteWi (e : Dword) : Bool := e.getLsbD 10
def pteHome (e : Dword) : Nat := bits e.toNat 14 11
def pteFrame (e : Dword) : Nat := bits e.toNat 51 16 * 65536

/-- The attributes of a leaf (R142, R282). -/
def pteAttr (e : Dword) : Attr :=
  { w := pteW e, wi := pteWi e, rlf := pteRlf e, raw := pteRaw e, ss := pteSs e, nx := pteNx e, home := pteHome e }

/-- A reserved bit is set. -/
def pteReserved (e : Dword) : Bool := bits e.toNat 59 52 != 0 || e.getLsbD 15

/-- FRAME names addresses that no DRAM backs. -/
def pteHole (e : Dword) : Bool := dramEnd ≤ pteFrame e && pteFrame e < linkBase

/-- A present entry that points to a table is bad (R283). -/
def badTable (e : Dword) : Bool :=
  pteReserved e || bits e.toNat 14 1 != 0 || pteHole e || linkBase ≤ pteFrame e

/-- A present leaf is bad (R283); large: a level-2 leaf. -/
def badLeaf (e : Dword) (large : Bool) : Bool :=
  pteReserved e || (pteRlf e && pteRaw e) || pteHole e ||
  (if large then pteFrame e % 2 ^ 29 != 0 || pteFt e else pteLg e)

/-- What a walk finds (R281). -/
inductive Walk where
  /-- A present leaf: its frame, whether the page is large, and its attributes. -/
  | leaf (frame : Nat) (large : Bool) (a : Attr)
  /-- A non-present entry, where it lies, and whether it is a level-3 entry. -/
  | absent (e : Dword) (at_ : Nat) (level3 : Bool)
  | bad
  deriving DecidableEq, Repr

/-- A page-table entry that a walk for va reads (R281): an Undefined value where a TLBINV of the address has found a write of it
unseen (R1, R296). -/
def State.entryAt (s : State) (root va a : Nat) : Dword :=
  match s.unseenPte.find? fun u => u.root == root && u.lo ≤ va && va < u.hi && u.pa < a + 8 && a < u.pa + u.n with
  | none => s.physDword a
  | some u =>
    let i := u.num + 2 * ((a + 8 - u.pa) / 8)
    Config.freeWord i ++ Config.freeWord (i + 1)

/-- The walk of a context's tables (R281). A root outside local DRAM is treated as a bad entry (notes/assumptions/8.md). An entry in a
poisoned line is none: who meets it contains the context (R209, R310). -/
def State.walk (s : State) (root va : Nat) : Walk :=
  if dramEnd ≤ root then .bad
  else
    let a1 := root + 8 * bits va 54 42
    let e1 := s.entryAt root va a1
    if (s.poisonIn a1 8).isSome then .absent 0 a1 false
    else if !pteP e1 then .absent e1 a1 false
    else if badTable e1 then .bad
    else
      let a2 := pteFrame e1 + 8 * bits va 41 29
      let e2 := s.entryAt root va a2
      if (s.poisonIn a2 8).isSome then .absent 0 a2 false
      else if !pteP e2 then .absent e2 a2 false
      else if pteLg e2 then (if badLeaf e2 true then .bad else .leaf (pteFrame e2) true (pteAttr e2))
      else if badTable e2 then .bad
      else
        let a3 := pteFrame e2 + 8 * bits va 28 16
        let e3 := s.entryAt root va a3
        if (s.poisonIn a3 8).isSome then .absent 0 a3 true
        else if !pteP e3 then .absent e3 a3 true
        else if badLeaf e3 false then .bad
        else .leaf (pteFrame e3) false (pteAttr e3)

/-- The poisoned line that a walk ends at (R209). -/
def State.walkPoison (s : State) (root va : Nat) : Option Nat :=
  match s.walk root va with
  | .absent _ at_ _ => s.poisonIn at_ 8
  | _ => none

/-- The effective fault mode of a non-present entry (R286). -/
inductive FMode where
  | park
  | user
  | pool (e : Dword) (at_ : Nat)
  deriving DecidableEq, Repr

/-- The effective mode; faultm is the team's FAULTM.MODE, none for an agent that is not a team (R286, R417). -/
def effMode (e : Dword) (at_ : Nat) (level3 : Bool) (faultm : Option Nat) : FMode :=
  let m := if pteFm e = 3 then faultm.getD 0 else pteFm e
  if m = 1 then (if faultm.isNone then .park else .user)
  else if m = 2 ∧ pteFt e ∧ level3 then .pool e at_
  else .park

/-- The outcome of translating one address. -/
inductive Seg where
  | ok (pa : Nat) (a : Attr)
  | fault (m : FMode)
  | bad
  deriving DecidableEq, Repr

def State.rootOf (s : State) (ctx : Nat) : Nat :=
  match s.ctx? ctx with
  | none => dramEnd
  | some c => c.root.toNat

/-- The TLB's translation of an address (R143, R284). -/
def State.tlbHit (s : State) (core ctx va : Nat) : Option Tlb :=
  s.tlb.find? fun e => e.core == core && e.ctx == ctx &&
    (if e.large then e.page == va / 2 ^ 29 else e.page == va / 65536)

/-- Translation for an engine, which holds no translations (R143, R284). No page lies from 2^55 on. -/
def State.engineSeg (s : State) (ctx va : Nat) : Seg :=
  if 2 ^ 55 ≤ va then .bad
  else
    match s.walk (s.rootOf ctx) va with
    | .bad => .bad
    | .absent e at_ l3 => .fault (effMode e at_ l3 none)
    | .leaf f large a => .ok (f + if large then va % 2 ^ 29 else va % 65536) a

/-- Translation through the core's TLB, else by a walk (R143). -/
def State.coreSeg (s : State) (core ctx faultm va : Nat) : Seg :=
  match s.tlbHit core ctx va with
  | some e => .ok (e.frame + if e.large then va % 2 ^ 29 else va % 65536) e.attr
  | none =>
    match s.walk (s.rootOf ctx) va with
    | .bad => .bad
    | .absent e at_ l3 => .fault (effMode e at_ l3 (some faultm))
    | .leaf f large a => .ok (f + if large then va % 2 ^ 29 else va % 65536) a

/-- Enters the translation of an address in the core's TLB, whose oldest entry leaves when it holds 4,096 (R143, R284). -/
def State.tlbFill (s : State) (core ctx va : Nat) : State :=
  match s.tlbHit core ctx va with
  | some _ => s
  | none =>
    match s.walk (s.rootOf ctx) va with
    | .leaf f large a =>
      let e : Tlb := { core := core, ctx := ctx, page := if large then va / 2 ^ 29 else va / 65536, large := large,
                       frame := f, attr := a }
      let mine := s.tlb.filter fun x => x.core == core
      let rest := s.tlb.filter fun x => x.core != core
      { s with tlb := rest ++ (mine ++ [e]).drop (mine.length + 1 - 4096) }
    | _ => s

/-! ## Writes at the home (R161, R308, R310) -/

/-- Marks a page of a context dirty since its last committed maquette (R308). -/
def State.markDirty (s : State) (ctx page : Nat) : State :=
  if s.dirty.contains (ctx, page) then s else { s with dirty := (ctx, page) :: s.dirty }

/-- The pages that n bytes at a physical address touch. -/
def pagesOf (pa n : Nat) : List Nat := (List.range ((pa + n - 1) / 65536 - pa / 65536 + 1)).map fun i => pa / 65536 + i

/-- A page of a streaming maquette keeps the bytes it had at the capture, when no staging frame holds them yet (R308). -/
def State.keepPage (s : State) (ctx page : Nat) : State :=
  { s with maqs := s.maqs.map fun m =>
      if m.ctx = ctx ∧ m.streaming ∧ m.todo.contains page ∧ !(m.staged.any fun x => x.1 == page) then
        { m with staged := (page, memRead s.mem (page * 65536) 65536) :: m.staged }
      else m }

/-- Stores bytes at their home: memory, poisoned lines that are written whole are clean again (R209), the page is dirty (R308). -/
def State.physWrite (s : State) (ctx pa : Nat) (bs : List Byte) : State :=
  if isRemote pa then { s with fabric := memWrite s.fabric (s.linkAddr pa) bs }
  else
    let s0 := (pagesOf pa bs.length).foldl (fun u p => u.keepPage ctx p) s
    let s1 := { s0 with mem := memWrite s0.mem pa bs }
    let s2 := { s1 with poisoned := s1.poisoned.filter fun l => !(decide (pa ≤ 64 * l) && decide (64 * l + 64 ≤ pa + bs.length)) }
    (pagesOf pa bs.length).foldl (fun u p => u.markDirty ctx p) s2

def State.bankWord (s : State) (w : Nat) : BankWord :=
  (s.banks.find? fun b => b.word == w).getD { word := w, expiry := 0, owner := none }

def State.setBankWord (s : State) (b : BankWord) : State :=
  { s with banks := (if b.expiry = 0 ∧ b.owner = none then [] else [b]) ++ s.banks.filter fun x => x.word != b.word }

/-- The cores that own one of the words, other than a given one. -/
def State.owners (s : State) (ws : List Nat) (but : Option Nat) : List Nat :=
  (ws.filterMap fun w => (s.bankWord w).owner).filter (fun c => some c != but) |>.eraseDups

/-- The write completion delay: the latest expiry the bank has granted for the words, less its present time (R161). -/
def State.completionDelay (s : State) (ws : List Nat) : Nat :=
  ws.foldl (fun d w => max d ((s.bankWord w).expiry - (s.clock - s.released))) 0

/-- Copies of words that leave an L1. -/
def State.dropCopies (s : State) (core : Nat) (ws : List Nat) : State :=
  { s with l1 := s.l1.filter fun c => !(c.core == core && ws.contains c.word) }

/-- Sets the owner of words (R161 step 3). -/
def State.setOwner (s : State) (ws : List Nat) (o : Option Nat) : State :=
  ws.foldl (fun u w => u.setBankWord { u.bankWord w with owner := o }) s

/-- A write by an engine or at the home itself (R161 as a strong store): owners' copies are revoked, no owner is left. -/
def State.engineWrite (s : State) (ctx pa : Nat) (bs : List Byte) : State :=
  let ws := wordsOf pa bs.length
  let s1 := (s.owners ws none).foldl (fun u c => u.dropCopies c ws) s
  (s1.setOwner ws none).physWrite ctx pa bs

/-! ## Free-page pools and first-touch install (R289, R290) -/

def State.pool (s : State) (sl : Nat) : Pool := s.pools.getD sl Pool.reset

def State.setPool (s : State) (sl : Nat) (p : Pool) : State := { s with pools := s.pools.set sl p }

/-- LOWF becomes 1, with the pool-low event (R290). -/
def State.poolLow (s : State) (sl : Nat) : State :=
  let p := s.pool sl
  if p.lowf then s else (s.setPool sl { p with lowf := true }).say (.poolLow sl)

/-- LOWF when TAIL - HEAD is below LOW (R290). -/
def State.checkLow (s : State) (sl : Nat) : State :=
  let p := s.pool sl
  if (p.tail - p.head).toNat < wfld p.cfg 25 5 then s.poolLow sl else s

/-- Takes the first good frame of a pool, counting the bad entries before it; fuel is the number of entries (R290). -/
def State.takeFrame (s : State) (sl first size : Nat) : Nat → Option Nat × State
  | 0 => (none, s)
  | fuel + 1 =>
    let p := s.pool sl
    if !wbit p.cfg 31 ∨ p.head = p.tail then (none, s)
    else
      let e := s.physDword (p.base.toNat + 8 * (p.head.toNat % 2 ^ wfld p.cfg 4 0))
      let f := bits e.toNat 51 16 * 65536
      let good := e.toNat == f && first ≤ sliceOf f && sliceOf f < first + size
      let p1 := { p with head := p.head + 1, bad := if good then p.bad else min 255 (p.bad + 1) }
      let s1 := (s.setPool sl p1).checkLow sl
      if good then (some f, s1) else s1.takeFrame sl first size fuel

/-- Takes a frame from the first pool of a list that has one. -/
def State.takeFrom (s : State) (first size : Nat) : List Nat → Option Nat × State
  | [] => (none, s)
  | sl :: rest =>
    match s.takeFrame sl first size 1048577 with
    | (some f, s1) => (some f, s1)
    | (none, s1) => s1.takeFrom first size rest

/-- First-touch install of a leaf (R289); sl is the faulting agent's slice. The compare always holds here, because a step
is indivisible. False when every pool of the partition is empty. -/
def State.install (s : State) (ctx sl : Nat) (e : Dword) (at_ : Nat) : Bool × State :=
  let (first, size) := s.ctxPart ctx
  let home := pteHome e
  let here := if 1 ≤ home ∧ first ≤ home - 1 ∧ home - 1 < first + size then home - 1 else sl
  let others := (List.range size).map (fun i => first + i) |>.filter fun x => x != here
  match s.takeFrom first size (here :: others) with
  | (some f, s1) =>
    let e1 : Dword := (e &&& ~~~(BitVec.ofNat 64 (0xFFFFFFFFF * 65536))) ||| BitVec.ofNat 64 f ||| 1
    (true, s1.engineWrite ctx at_ (leBytes 8 e1.toNat))
  | (none, s1) =>
    let p := s1.pool sl
    (false, (s1.setPool sl { p with fallbk := min 255 (p.fallbk + 1) }).poolLow sl)

/-! ## The checks of a global access (R143, R287, R292) -/

/-- What an instruction asks of its lanes: bytes, alignment, whether it writes, and what else forbids the bytes of a lane in one page,
given their address, physical address, number and attributes. -/
structure Access where
  n : Nat
  align : Nat
  write : Bool
  forbid : Nat → Nat → Nat → Attr → Bool
  kind : Nat

/-- The pieces of n bytes at va, one for each 64 KiB page they touch; fuel is more than the pages. -/
def piecesFrom : Nat → Nat → Nat → List (Nat × Nat)
  | 0, _, _ => []
  | fuel + 1, va, n =>
    let c := 65536 - va % 65536
    if n ≤ c then [(va, n)] else (va, c) :: piecesFrom fuel (va + c) (n - c)

def pieces (va n : Nat) : List (Nat × Nat) := piecesFrom (n / 65536 + 2) va n

/-- The address of a lane through a translation register (R143). -/
def Xl.va (x : Xl) (off : Word) : Int := (x.vbase.toNat : Int) + s32 off

/-- The fast path (R143). -/
def Xl.fast (x : Xl) (off : Word) (n : Nat) : Option Nat :=
  if 0 ≤ s32 off ∧ s32 off + n ≤ x.limit.toNat then some (x.frame + (s32 off).toNat) else none

/-- The translations of a lane, one for each page; none: the address is out of range (R143). A lane of an LDA whose bytes run past 2^55
is out of range although its first address is not (notes/assumptions/89.md). -/
def State.laneSegs (s : State) (t : Team) (x : Xl) (acc : Access) (off : Word) : Option (List (Nat × Seg)) :=
  let v := x.va off
  if v < 0 ∨ 2 ^ 55 < v + acc.n then none
  else
    let va := v.toNat
    match x.fast off acc.n with
    | some pa => some ((pieces va acc.n).map fun p => (p.1, .ok (pa + (p.1 - va)) x.attr))
    | none => some ((pieces va acc.n).map fun p => (p.1, s.coreSeg t.core t.ctx t.faultm.toNat p.1))

/-- The chisel table of a context meets n bytes at pa: no program address reaches it (R193, notes/assumptions/84.md). -/
def State.tableAt (s : State) (pa n : Nat) : Bool :=
  s.ctxs.any fun c => (c.chtSet || c.cht != 0) && c.cht.toNat < pa + n && pa < c.cht.toNat + 16384

/-- A present page forbids the access (R291): a store without W and without write intercept, an unreachable remote
address, a chisel table, a bad entry, or what the instruction forbids; start is where the lane's bytes begin. -/
def State.segForbidden (s : State) (acc : Access) (start : Nat) : Nat × Seg → Bool
  | (_, .bad) => true
  | (_, .fault _) => false
  | (va, .ok pa a) =>
    let n := min (start + acc.n - va) (65536 - va % 65536)
    (acc.write && !a.w && !a.wi) || s.unreachable pa || s.tableAt pa n || acc.forbid va pa n a

def segFaults : Nat × Seg → Bool
  | (_, .fault _) => true
  | _ => false

/-- The lane meets a write intercept (R293). -/
def segIntercepts (acc : Access) : Nat × Seg → Bool
  | (_, .ok _ a) => acc.write && !a.w && a.wi
  | _ => false

/-- The pages among some pieces that are Pooled, each once. -/
def pooledPages (segs : List (Nat × Seg)) : List Nat :=
  (segs.filterMap fun g => match g.2 with | .fault (.pool _ _) => some (g.1 / 65536) | _ => none).eraseDups

/-- Tries to install each of some pages once (R287 step 1). -/
def State.installPages (s : State) (t : Team) : List Nat → State
  | [] => s
  | p :: rest =>
    match s.coreSeg t.core t.ctx t.faultm.toNat (65536 * p) with
    | .fault (.pool e at_) => (s.install t.ctx (t.core / 32) e at_).2.installPages t rest
    | _ => s.installPages t rest

/-- The page that holds an address, large or not. -/
def pageAt (va : Nat) (large : Bool) : Nat × Nat :=
  if large then (va / 2 ^ 29 * 2 ^ 29, 2 ^ 29) else (va / 65536 * 65536, 65536)

/-- The page that a walk translates an address in. -/
def State.walkRange (s : State) (ctx va : Nat) : Nat × Nat :=
  pageAt va (match s.walk (s.rootOf ctx) va with | .leaf _ l _ => l | _ => false)

/-- The page that a core translates an address in. -/
def State.pageRange (s : State) (core ctx va : Nat) : Nat × Nat :=
  match s.tlbHit core ctx va with
  | some e => pageAt va e.large
  | none => s.walkRange ctx va

/-- The translations that a lane of n bytes uses: the run of its translation register, or pages (R143, R295). -/
def State.viaOf (s : State) (t : Team) (x : Xl) (off : Word) (n : Nat) : List (Nat × Nat) :=
  match x.fast off n with
  | some _ => [(x.vbase.toNat, x.limit.toNat)]
  | none => (pieces (x.va off).toNat n).map fun p => s.pageRange t.core t.ctx p.1

/-- The outcome of the checks. -/
inductive Checked where
  | trap (cause : Nat) (f : Mask) (trapa : Word)
  | park (f : Mask) (va : Nat)
  | intercept (f : Mask) (va : Nat)
  | ok (lanes : List Lane)

/-- A lane's request record. -/
def mkLane (l : Nat) (acc : Access) (via : List (Nat × Nat)) (segs : List (Nat × Seg)) : Lane :=
  match segs with
  | [(va, .ok pa a)] =>
    { lane := l, va := va, pa := pa, pa2 := pa + acc.n, cut := acc.n, attr := a, dst := 0, via := via, data := [], got := [], spoil := [],
      st := .pending }
  | [(va, .ok pa a), (vb, .ok pb b)] =>
    { lane := l, va := va, pa := pa, pa2 := pb, cut := vb - va, attr := a, attr2 := b, dst := 0, via := via, data := [], got := [], spoil := [],
      st := .pending }
  | _ =>
    { lane := l, va := 0, pa := 0, pa2 := 0, cut := 0, attr := Attr.none, dst := 0, via := [], data := [], got := [], spoil := [],
      st := .pending }

/-- The checks of a global access in the given lanes, in the order of R141, R287 and R292. offs gives each lane's offset;
mis and oob add the lanes that an LDA's local side refuses, and datum says what TRAPA holds for a lane (R152). -/
def State.globalCheck (s : State) (t : Team) (x : Xl) (acc : Access) (ls : List Nat) (offs : Nat → Word)
    (mis oob : Nat → Bool) (datum : Nat → Bool → Word) : State × Checked :=
  let gmis (l : Nat) : Bool := (x.va (offs l)) % acc.align != 0
  let m := ls.filter fun l => gmis l || mis l
  match m with
  | l :: _ => (s, .trap 7 (maskOf m) (datum l (gmis l)))
  | [] =>
    let gprot (u : State) (l : Nat) : Bool :=
      match u.laneSegs t x acc (offs l) with
      | none => true
      | some sg => sg.any (u.segForbidden acc (x.va (offs l)).toNat)
    let p := ls.filter fun l => gprot s l || oob l
    match p with
    | l :: _ => (s, .trap 9 (maskOf p) (datum l (gprot s l)))
    | [] =>
      let s1 := s.installPages t (pooledPages (ls.flatMap fun l => (s.laneSegs t x acc (offs l)).getD []))
      let segs (l : Nat) := (s1.laneSegs t x acc (offs l)).getD []
      let f := ls.filter fun l => (segs l).any segFaults
      match f with
      | l :: _ =>
        let userOnly := f.all fun i => (segs i).all fun g =>
          match g.2 with
          | .fault .user => true
          | .fault _ => false
          | _ => true
        if userOnly then (s1, .trap 8 (maskOf f) (offs l)) else (s1, .park (maskOf f) (x.va (offs l)).toNat)
      | [] =>
        let p2 := ls.filter (gprot s1)
        match p2 with
        | l :: _ => (s1, .trap 9 (maskOf p2) (datum l true))
        | [] =>
          let i := ls.filter fun l => (segs l).any (segIntercepts acc)
          match i with
          | l :: _ => (s1, .intercept (maskOf i) (x.va (offs l)).toNat)
          | [] =>
            let s2 := ls.foldl (fun u l =>
              match x.fast (offs l) acc.n with
              | some _ => u
              | none => (segs l).foldl (fun v g => v.tlbFill t.core t.ctx g.1) u) s1
            (s2, .ok (ls.map fun l => mkLane l acc (s1.viaOf t x (offs l) acc.n) (segs l)))

/-- A failing function is fenced. Core-store banks, L2 ways and channels, executors and engines that fail again within one hour are removed
from service (R300, R310 step 1, notes/assumptions/96.md). -/
def State.fence (s : State) (f : Fn) : State :=
  let now := s.clock - s.released
  let port : Bool := match f with | .port _ => true | _ => false
  let again := !port && s.fenced.any fun x => x.1 == f && decide (now < x.2 + 3600000000000)
  { s with
    fenced := (f, now) :: s.fenced.filter fun x => x.1 != f
    removed := if again && !s.removed.contains f then f :: s.removed else s.removed }

/-- The L2 bank and channel that serve a line; a line across a link has none here. -/
def lineFn (line : Nat) : Option Fn := if isRemote (64 * line) then none else some (.l2 (sliceOf (64 * line)) (bankOf (64 * line)))

/-- The outstanding requests of a context are dropped and its teams stop without saving; its entries complete with status
"reset" (R310 step 2); the relief engines drop its surfaces (R340). The failing function f is fenced, and a struck line is
poisoned (step 1). -/
def State.strike (s : State) (ctx : Nat) (f : Option Fn) (line : Option Nat) : State :=
  match s.ctx? ctx with
  | none => s
  | some c =>
    if c.st = .reset then s
    else
      let s0 : State := match f with | some k => s.fence k | none => s
      let s1 := s0.modCtx ctx fun c =>
        { c with
          st := .rollingBack
          queues := c.queues.map fun q =>
            { q with entries := q.entries.map fun e =>
                { e with status := match e.status with | some v => some v | none => some 2 } } }
      { s1 with
        poisoned := match line with
          | none => s1.poisoned
          | some l => if s1.poisoned.contains l then s1.poisoned else l :: s1.poisoned
        reqs := s1.reqs.filter fun r => r.ctx != ctx
        deadlines := s1.deadlines.filter fun d => d.ctx != ctx
        copies := s1.copies.filter fun k => k.ctx != ctx
        surfaces := s1.surfaces.filter fun f => f.ctx != ctx
        teams := s1.teams.map fun t =>
          if t.ctx = ctx ∧ t.st ≠ .exited then { t with st := .preempted, prev := t.st, gen := t.gen + 1 } else t }

/-- A containment event that an access finds at a line (R209, R310). -/
def State.contain (s : State) (ctx : Nat) (line : Option Nat) : State := s.strike ctx (line.bind lineFn) line

/-- The kinds that become replay packets (R302). -/
def ReqKind.isPacket : ReqKind → Bool
  | .ldg _ _ _ _ => true
  | .ldl _ _ _ => true
  | .lda _ _ _ => true
  | .relief op _ _ => op == 0 || op == 4
  | .isec _ _ _ _ => true
  | .trace => true
  | .strm op _ => op == 1 || op == 6
  | _ => false

/-- The request as a replay packet of a generation: nothing of it has been served (R302, R303). -/
def Req.packet (r : Req) (gen : BitVec 16) : Req :=
  let placed : Bool := match r.kind with | .isec _ _ _ _ => true | .relief _ _ _ => true | .ldg _ _ _ _ => true | _ => false
  let back (x : Lane) : Lane := { x with got := [], st := .pending, dst := if placed then 0 else x.dst }
  let again (y : Ray) : Ray :=
    { y with best := none, stack := [BitVec.ofNat 32 (((r.lanes.find? fun x => x.lane == y.lane).map (·.dst)).getD 0)], visits := 0, bad := 0,
             came := 0, st := .travelling }
  { r with gen := gen, lanes := r.lanes.map back, rays := r.rays.map again }

/-- Park-and-swap (R288): the window is drained, the requests of empty registers become replay packets (R78), and the event "page fault"
names the lowest faulting lane's address. A walk that met a poisoned line contains the context instead (R209). -/
def State.pageFault (s : State) (t : Team) (f : Mask) (va kind : Nat) : State :=
  match s.walkPoison (s.rootOf t.ctx) va with
  | some l => s.contain t.ctx (some l)
  | none =>
    let s1 : State := { s with reqs := s.reqs.map fun r =>
      if r.team = t.id ∧ r.kind.isPacket ∧ r.dests ≠ [] then r.packet t.gen else r }
    s1.park t.drain 2 0 0 f t.trapa va kind

/-- The number of a new write intercept: the smallest that none has. -/
def State.interceptNum (s : State) : Nat :=
  ((List.range (s.intercepts.length + 1)).find? fun n => !(s.intercepts.any fun e => e.num == n + 1)).getD 0 + 1

/-- A write intercept parks the team and tells the hypervisor (R293). -/
def State.writeIntercept (s : State) (t : Team) (f : Mask) (va : Nat) (data : List Word) : State :=
  let n := s.interceptNum
  let s1 := s.putTeam { t with st := .parked (.intercept n) }
  { s1 with intercepts := { num := n, ctx := t.ctx, team := t.id, f := f, va := va, data := data } :: s1.intercepts }.say
    (.intercept n)

/-- The shared shape of the global accesses (R143): the checks through translation register x with offsets from field a,
then k with the lanes. data gives the words of a lane for an intercept. -/
def State.global (s : State) (t : Team) (x : Nat) (acc : Access) (ls : List Nat) (offs : Nat → Word)
    (data : Nat → List Word) (k : State → List Lane → State) : State :=
  match s.globalCheck t (t.xl.getD x Xl.reset) acc ls offs (fun _ => false) (fun _ => false) (fun l _ => offs l) with
  | (s1, .trap cause f d) => s1.trap t cause 0 f d
  | (s1, .park f va) => s1.pageFault t f va acc.kind
  | (s1, .intercept f va) => s1.writeIntercept t f va (data ((maskLanes t.nlanes f).headD 0))
  | (s1, .ok lanes) => k s1 lanes

end Sys2Proof.Machine
end

