-- ==== Sys2Proof/Machine/Access.lean ====
section
/-!
DEFINITION. Accesses in flight: the L1 copies and their leases, requests and what orders them, registration at the home,
acknowledgements, deadlines, the release and acquire conditions, and the local levels
(spec/06_memory.md, spec/07_ordering.md).
-/

namespace Sys2Proof.Machine

/-! ## L1 copies (R159, R160) -/

/-- λ of a context in ns (R159, R301). -/
def State.leaseNs (s : State) (ctx : Nat) : Nat :=
  match s.ctx? ctx with
  | none => 2000
  | some c => 250 * wfld c.cfg 30 23

/-- A copy that the core may use: owned, or leased and not expired on its own clock. -/
def State.usable (s : State) (c : Copy) : Bool := c.owned || s.coreTime c.core < c.expiry

/-- The copy of a word that a team may use. -/
def State.l1Word (s : State) (team core w : Nat) : Option Dword :=
  (s.l1.find? fun c => c.core == core && c.word == w && s.usable c && !c.seen.contains team).map (·.val)

/-- n bytes from the copies of a core's L1, when the team may use one of every word of them. -/
def State.l1Read (s : State) (team core pa n : Nat) : Option (List Byte) :=
  let ws := (wordsOf pa n).map fun w => s.l1Word team core w
  if ws.all (·.isSome) then
    some ((((ws.flatMap fun w => leBytes 8 (w.getD 0).toNat).drop (pa % 8))).take n)
  else none

/-- Puts a copy of a word into a core's L1, in place of an older one. -/
def State.putCopy (s : State) (c : Copy) : State :=
  { s with l1 := c :: s.l1.filter fun x => !(x.core == c.core && x.word == c.word) }

/-- An acquire drops every word that the core does not own (R167). -/
def State.dropUnowned (s : State) (core : Nat) : State :=
  { s with l1 := s.l1.filter fun c => c.core != core || c.owned }

/-! ## The lost-locality detector (R260) -/

def State.detector (s : State) (core : Nat) : Locality :=
  (s.detectors.find? fun d => d.core == core).getD { core := core, victims := [], loads := 0, hits := 0, ended := [] }

def State.putDetector (s : State) (d : Locality) : State :=
  { s with detectors := d :: s.detectors.filter fun x => x.core != d.core }

/-- A line that the L1 evicts becomes the newest of 1,024 victim tags. -/
def Locality.evicted (d : Locality) (line : Nat) : Locality :=
  { d with victims := (line :: d.victims.filter fun l => l != line).take 1024 }

/-- A global load of some lines is counted; with the 4,096th the window ends. -/
def Locality.loaded (d : Locality) (lines : List Nat) : Locality :=
  let h := d.hits + if lines.any d.victims.contains then 1 else 0
  if d.loads + 1 < 4096 then { d with loads := d.loads + 1, hits := h } else { d with loads := 0, hits := 0, ended := d.ended ++ [h] }

/-- An L1 gives a copy up, and with it ownership (R150, R161); the detector records the line (R260). -/
def State.evictCopy (s : State) (core w : Nat) : State :=
  let b := s.bankWord w
  let held := s.l1.any fun c => c.core == core && c.word == w
  let s1 := if held then (s.dropCopies core [w]).putDetector ((s.detector core).evicted (w / 8)) else s
  if b.owner = some core then s1.setBankWord { b with owner := none } else s1

/-! ## Requests -/

def State.req? (s : State) (id : Nat) : Option Req := s.reqs.find? fun r => r.id == id

def Req.lane? (r : Req) (l : Nat) : Option Lane := r.lanes.find? fun x => x.lane == l

def Req.setLane (r : Req) (x : Lane) : Req :=
  { r with lanes := r.lanes.map fun y => if y.lane = x.lane then x else y }

def State.putReq (s : State) (r : Req) : State :=
  { s with reqs := s.reqs.map fun x => if x.id = r.id then r else x }

def State.dropReq (s : State) (id : Nat) : State := { s with reqs := s.reqs.filter fun r => r.id != id }

/-- Adds a request of a team with a fresh number, later than every request before it. -/
def State.addReq (s : State) (t : Team) (k : ReqKind) (dests : List Nat) (lanes : List Lane) (rays : List Ray) : State :=
  { s with
    nextId := s.nextId + 1
    reqs := s.reqs ++ [{ id := s.nextId, ctx := t.ctx, team := t.id, gen := t.gen, core := t.core, kind := k,
                         at_ := s.coreTime t.core, pc := t.pc, dests := dests, mask := t.mask, lanes := lanes, rays := rays }] }

/-- Bytes of an access. -/
def sizeBytes : Size → Nat
  | .b => 1
  | .h => 2
  | .w => 4
  | .q => 16

/-- The bytes that each lane of a request reads or writes in global memory; 0: none there. -/
def ReqKind.globalBytes : ReqKind → Nat
  | .ldg sz _ _ _ => sizeBytes sz
  | .stg sz _ _ => sizeBytes sz
  | .atom op _ => if op = .add64 ∨ op = .xchg64 then 8 else 4
  | .chx _ _ _ _ => 64
  | .drain => 4
  | _ => 0

def ReqKind.isLda : ReqKind → Bool
  | .lda _ _ _ => true
  | _ => false

def ReqKind.isStore : ReqKind → Bool
  | .stg _ _ _ => true
  | .stl _ _ => true
  | .strm op _ => 2 ≤ op && op ≤ 4
  | _ => false

/-- Atomics and chisels, and the drain of a matrix tile, which counts as an atomic (R244). -/
def ReqKind.isAtomic : ReqKind → Bool
  | .atom _ _ => true
  | .chx _ _ _ _ => true
  | .drain => true
  | .tile (some _) _ => true
  | _ => false

/-- Accesses that count as loads (R180, R339, R346, R377). -/
def ReqKind.isLoad : ReqKind → Bool
  | .ldg _ _ _ _ => true
  | .ldl _ _ _ => true
  | .relief op _ _ => op == 0 || op == 4
  | .isec op _ _ _ => op == 1 || op == 2
  | .trace => true
  | .strm op _ => op == 1 || op == 6
  | _ => false

def overlaps (a n b m : Nat) : Bool := a < b + m && b < a + n

/-- Two runs of bytes have an 8-byte word in common (R185 note 4). -/
def sameWord (a n b m : Nat) : Bool :=
  n != 0 && m != 0 && overlaps (a / 8) ((a + n - 1) / 8 - a / 8 + 1) (b / 8) ((b + m - 1) / 8 - b / 8 + 1)

/-- Where a node of a tree lies, or the status that refuses it (R343, R344, R349). -/
def nodeAt (frame limit : Nat) (a : Attr) (r : Word) : Except Nat Nat :=
  let o := 64 * wfld r 31 1
  if limit < o + 64 then .error 2
  else if a.rlf ∨ a.raw ∨ isRemote (frame + o) then .error 3
  else .ok (frame + o)

/-- The node that BOXT (1) or TRIT (2) names in A+8: a reference of the other kind counts as not reachable (R353). -/
def isecNodeAt (op frame limit : Nat) (a : Attr) (r : Word) : Except Nat Nat :=
  if op ≠ 1 ∧ op ≠ 2 ∨ wbit r 0 ≠ (op == 2) then .error 2 else nodeAt frame limit a r

/-- The runs of global bytes that a lane of a request names; both runs of an LDA lane that crosses a page, the node of a BOXT or
TRIT (R152, R346). -/
def ReqKind.laneSpans (k : ReqKind) (x : Lane) : List (Nat × Nat) :=
  match k with
  | .lda _ n _ => [(x.pa, x.cut), (x.pa2, n - x.cut)]
  | .isec op frame limit a =>
    match isecNodeAt op frame limit a (x.data.getD 8 0) with
    | .ok pa => [(pa, 64)]
    | .error _ => []
  | _ => if k.globalBytes = 0 then [] else [(x.pa, k.globalBytes)]

/-- The runs that a request names as a whole: the drain word of a tile, the run of the translation register of a TRACE, any node of
which its records may read (R244, R346). -/
def Req.wholeSpans (r : Req) : List (Nat × Nat) :=
  match r.kind with
  | .tile (some d) _ => [(d.pa, 4)]
  | .trace => r.rays.filterMap fun y => if y.st == .gone then none else some (y.frame, y.limit)
  | _ => []

/-- An atomic that reads at its execution point and is registered later: team and cluster scope (R169, R190). -/
def ReqKind.twoStep : ReqKind → Bool
  | .atom _ .team => true
  | .atom _ .cluster => true
  | _ => false

/-- The lane has not had its effect where it is served: it is on its way, or what it computed is. -/
def Req.laneOpen (r : Req) (x : Lane) : Bool := x.st == .pending || (r.kind.twoStep && x.st == .bound)

/-- The lane meets a word of n bytes at pa that request r names and has not served; what r names as a whole counts until r ends. -/
def Req.openOn (r : Req) (pa n : Nat) : Bool :=
  (r.lanes.any fun x => r.laneOpen x && (r.kind.laneSpans x).any fun p => sameWord p.1 p.2 pa n) ||
  r.wholeSpans.any fun p => sameWord p.1 p.2 pa n

/-- The request is a replay packet of a pre-empted team: no return of it is on its way, and none comes before the restore (R302). -/
def State.packetHeld (s : State) (r : Req) : Bool :=
  r.kind.isPacket && match s.team? r.team with | some t => t.st == .preempted && t.gen == r.gen | none => false

/-- An earlier RNEXT or LATEQ of the team has not landed, so its acquire has not been made: nothing later may come before it (R377). -/
def State.acqAhead (s : State) (team id : Nat) : Bool :=
  s.reqs.any fun r => r.team == team && r.id < id && !s.packetHeld r &&
    match r.kind with
    | .strm op _ => op == 1 || op == 6
    | _ => false

/-- An earlier access of the team to a word of these bytes has not been served: R149 and note 4 of R185 hold the access back; so does an
acquire that is still to be made. An LDA orders its bytes by its counter alone (R154). -/
def State.blocked (s : State) (team id pa n : Nat) : Bool :=
  (s.reqs.any fun r => r.team == team && r.id < id && !r.kind.isLda && r.openOn pa n) || s.acqAhead team id

/-- The runs that a request reads at their home although the core's L1 may hold older copies of their words (R150, R170, R190, R346). -/
def Req.homeRuns (r : Req) : List (Nat × Nat) :=
  let lanes := r.lanes.flatMap r.kind.laneSpans
  match r.kind with
  | .ldg _ _ strong stream => if strong || stream then lanes else []
  | .atom _ sc => if sc == .team then [] else lanes
  | .chx _ _ _ _ => lanes
  | .drain => lanes
  | .isec _ _ _ _ => lanes
  | .trace => r.rays.map fun y => (y.frame, y.limit)
  | _ => []

/-- An earlier access of the team reads a word of these bytes at its home and has not returned: a later load asks the home too, and takes
no older copy (R185 note 4). -/
def State.homeAhead (s : State) (team id pa n : Nat) : Bool :=
  s.reqs.any fun r => r.team == team && r.id < id && r.homeRuns.any fun p => sameWord p.1 p.2 pa n

/-- The request has read words at their home: its team uses the older copies of them no more (R185 note 4). -/
def State.seeHome (s : State) (r : Req) : State :=
  let runs := r.homeRuns
  if runs = [] then s
  else
    { s with l1 := s.l1.map fun c =>
        if c.core = r.core ∧ !c.owned ∧ !c.seen.contains r.team ∧ (runs.any fun p => sameWord p.1 p.2 (8 * c.word) 8) then
          { c with seen := r.team :: c.seen }
        else c }

/-- An earlier load of the team, an LDA among them, names a word of these bytes and has not been written (R185 note 5, R303). -/
def State.loadAhead (s : State) (team pa n : Nat) : Bool :=
  s.reqs.any fun r => r.team == team && (r.kind.isLoad || r.kind.isLda) &&
    ((r.lanes.any fun x => (r.kind.laneSpans x).any fun p => sameWord p.1 p.2 pa n) ||
     r.wholeSpans.any fun p => sameWord p.1 p.2 pa n)

/-- The same in a local level, for requests before id: offset o of lane l. -/
def State.localLoadAhead (s : State) (team id : Nat) (lvl : Level) (l o n : Nat) : Bool :=
  s.reqs.any fun r => r.team == team && r.id < id &&
    match r.kind with
    | .ldl lv sz _ => lv == lvl && r.lanes.any fun x => (lvl != .lane || x.lane == l) && overlaps x.va (sizeBytes sz) o n
    | _ => false

/-- The words that the bytes of a load give (R148). -/
def loadWords (sz : Size) (sx : Bool) (bs : List Byte) : List Word :=
  let v := leNat bs
  match sz with
  | .b => [if sx then sext32 (BitVec.ofNat 8 v) else BitVec.ofNat 32 v]
  | .h => [if sx then sext32 (BitVec.ofNat 16 v) else BitVec.ofNat 32 v]
  | .w => [BitVec.ofNat 32 v]
  | .q => bytesWords bs

/-- The bytes that the data words of a store give (R148). -/
def storeBytes (sz : Size) (ws : List Word) : List Byte := (wordsBytes ws).take (sizeBytes sz)

/-! ## Path counters (R153) -/

def Team.count (t : Team) (p : Path) : Nat := (t.cnt.filter fun e => e.1 == p).length

/-- Entries leave in issue order once they have landed (R153). -/
def leaveCnt (live : Nat → Bool) : List (Path × Nat) → List Path → List (Path × Nat)
  | [], _ => []
  | (p, id) :: rest, held =>
    if held.contains p ∨ live id then (p, id) :: leaveCnt live rest (p :: held) else leaveCnt live rest held

def State.settleCnt (s : State) (team : Nat) : State :=
  s.modTeam team fun t => { t with cnt := leaveCnt (fun id => s.reqs.any fun r => r.id == id) t.cnt [] }

/-! ## Landing (R74, R95, R148) -/

/-- The values of a request land in its registers: lane by lane, in the lanes that the team still has or is leaving with (R66, R95). -/
def Team.landAll (t : Team) (r : Req) : Team :=
  let m := r.mask &&& t.landing
  ((List.range r.dests.length).zip r.dests).foldl (fun u x =>
    let vals (l : Nat) : Word := match r.lane? l with | some y => y.got.getD x.1 0 | none => 0
    if m = 0 then u.fill x.2 else u.land x.2 m vals) t

/-- A request whose lanes have all landed leaves; its team has seen the words that it read at their home. -/
def State.landReq (s : State) (r : Req) : State :=
  (((s.modTeam r.team fun t => t.landAll r).seeHome r).dropReq r.id).settleCnt r.team

/-- The request carries the team's present generation (R302). -/
def State.current (s : State) (r : Req) : Bool :=
  match s.team? r.team with
  | some t => t.gen == r.gen
  | none => false

/-! ## Registration (R161, R162) -/

/-- Pages of a streaming maquette that a write reaches first get a copy in a staging frame (R308). None: no frame is free. -/
def State.stage (s : State) (ctx pa : Nat) : Option State :=
  let page := pa / 65536
  match s.maqs.find? fun m => m.ctx == ctx && m.streaming && m.todo.contains page with
  | none => some s
  | some m =>
    if m.staged.any fun x => x.1 == page then some s
    else
      let (first, size) := s.ctxPart ctx
      match s.takeFrom first size ((List.range size).map fun i => first + i) with
      | (none, _) => none
      | (some _, s1) =>
        some { s1 with maqs := s1.maqs.map fun x =>
          if x.ctx = ctx ∧ x.streaming then { x with staged := (page, s1.phys (page * 65536) 65536) :: x.staged } else x }

/-- A page among the lanes' that a streaming maquette has marked and that no free staging frame can hold (R308). -/
def State.stagePage (s : State) (ctx : Nat) (lanes : List Lane) : Option Nat :=
  lanes.findSome? fun x => if (s.stage ctx x.pa).isNone then some (x.pa / 65536) else none

/-- A store of one lane is registered at its home (R161 steps 1 to 3): keep says that the writing core keeps the words as
owned. Answers the cores whose copies are revoked. -/
def State.register (s : State) (ctx core pa : Nat) (bs : List Byte) (keep : Bool) : List Nat × State :=
  let ws := wordsOf pa bs.length
  if isRemote pa then ([], (s.dropCopies core ws).physWrite ctx pa bs)
  else
    let os := s.owners ws (some core)
    let s1 := (os.foldl (fun u c => u.dropCopies c ws) s).dropCopies core ws
    let s2 := (s1.setOwner ws (if keep then some core else none)).physWrite ctx pa bs
    let s3 := if keep then ws.foldl (fun u w =>
        u.putCopy { core := core, word := w, val := u.physDword (8 * w), owned := true, expiry := 0 }) s2 else s2
    (os, s3)

/-- The acknowledgement leaves once no revocation is outstanding, carrying the completion delay of that moment (R161). -/
def State.ackLane (s : State) (pa n : Nat) (owners : List Nat) : LaneSt :=
  if owners = [] then .acked (if isRemote pa then 0 else s.completionDelay (wordsOf pa n)) else .registered owners 0

/-- An acknowledgement arrives and sets a local deadline (R162). -/
def State.setDeadline (s : State) (r : Req) (d : Nat) : State :=
  { s with
    nextId := s.nextId + 1
    deadlines := { id := s.nextId, via := r.lanes.flatMap (·.via), req := r.id, ctx := r.ctx, team := r.team, core := r.core,
                   at_ := s.coreTime r.core + d + 10 } :: s.deadlines }

/-! ## Release and acquire (R166, R167) -/

/-- The value of every lane is bound. -/
def Req.boundAll (r : Req) : Bool := r.lanes.all fun x => x.st != .pending

/-- Every load, ATOM and CHX of the team before upto has bound its value. A load that pre-emption has dropped holds nothing back: every
pending ARV counts before the save completes (R224; notes/assumptions/83.md). -/
def State.boundDone (s : State) (team upto : Nat) : Bool :=
  s.reqs.all fun r => r.team != team || upto ≤ r.id || !(r.kind.isLoad || r.kind.isAtomic) || r.boundAll || s.packetHeld r

/-- The conditions of R166 for the team's accesses before upto; at team scope they hold at once. -/
def State.releaseDone (s : State) (team : Nat) (sc : Scope) (upto : Nat) : Bool :=
  sc == .team ||
  (s.boundDone team upto &&
   (s.reqs.all fun r => r.team != team || upto ≤ r.id || !(r.kind.isStore || r.kind.isAtomic)) &&
   (s.deadlines.all fun d => d.team != team || upto ≤ d.req))

/-- Every store, ATOM and CHX before upto has been registered (R173). -/
def State.registeredDone (s : State) (team upto : Nat) : Bool :=
  s.reqs.all fun r => r.team != team || upto ≤ r.id || !(r.kind.isStore || r.kind.isAtomic) || !r.lanes.any r.laneOpen

/-- The effect of an acquire on the issuing core's L1 (R167). -/
def State.acquire (s : State) (core : Nat) (sc : Scope) : State := if sc = .team then s else s.dropUnowned core

/-! ## Local levels (R137 to R141) -/

def State.cset? (s : State) (t : Team) : Option CSet :=
  match s.ctx? t.ctx with
  | none => none
  | some c => c.csets.find? fun x => x.id == t.cset

/-- The size of a level for a team, in bytes (R137). -/
def State.levelSize (s : State) (t : Team) : Level → Nat
  | .lane => t.privSize
  | .core => t.scrSize
  | .aperture => 0
  | .clm => match s.cset? t with | some x => x.size | none => 0
  | .chip => match s.ctx? t.ctx with | some c => 4096 * c.xscr | none => 0

def State.levelRead (s : State) (t : Team) (lvl : Level) (l o n : Nat) : List Byte :=
  match lvl with
  | .lane => memRead t.lanePriv (65536 * l + o) n
  | .core => memRead t.scratch o n
  | .aperture => []
  | .clm => match s.cset? t with | some x => memRead x.mem o n | none => []
  | .chip => match s.ctx? t.ctx with | some c => memRead c.chip o n | none => []

def State.levelWrite (s : State) (t : Team) (lvl : Level) (l o : Nat) (bs : List Byte) : State :=
  match lvl with
  | .lane => s.modTeam t.id fun u => { u with lanePriv := memWrite u.lanePriv (65536 * l + o) bs }
  | .core => s.modTeam t.id fun u => { u with scratch := memWrite u.scratch o bs }
  | .aperture => s
  | .clm => s.modCtx t.ctx fun c =>
      { c with csets := c.csets.map fun x => if x.id = t.cset then { x with mem := memWrite x.mem o bs } else x }
  | .chip => s.modCtx t.ctx fun c => { c with chip := memWrite c.chip o bs }

/-- A free byte for each of n Undefined bytes (R154, R173). -/
def State.freeBytes (s : State) : Nat → List Byte × State
  | 0 => ([], s)
  | n + 1 =>
    let r := { s with freeCtr := s.freeCtr + 1 }.freeBytes n
    (Config.freeByte s.freeCtr :: r.1, r.2)

/-- The level of an LDA destination. -/
def ldaLevel : LdaLevel → Level
  | .lane => .lane
  | .core => .core
  | .clm => .clm
  | .chip => .chip

/-- Replaces the bytes of a store that fall on bytes for which bad holds by free ones. -/
def State.blur (s : State) (o : Nat) (bad : Nat → Bool) : List Byte → List Byte × State
  | [] => ([], s)
  | b :: bs =>
    if bad o then
      let r := { s with freeCtr := s.freeCtr + 1 }.blur (o + 1) bad bs
      (Config.freeByte s.freeCtr :: r.1, r.2)
    else
      let r := s.blur (o + 1) bad bs
      (b :: r.1, r.2)

/-- Byte o of a level, of lane l in lane-private memory, is a destination byte of a pending LDA of the team (R154). -/
def State.ldaTarget (s : State) (team : Nat) (lvl : Level) (l o : Nat) : Bool :=
  s.reqs.any fun r => r.team == team &&
    match r.kind with
    | .lda lv n _ => ldaLevel lv == lvl && r.lanes.any fun x => (lvl != .lane || x.lane == l) && x.dst ≤ o && o < x.dst + n
    | _ => false

/-- The team has stored to bytes o to o + n - 1 of a level: the LDA lanes that name them leave Undefined values there (R154). -/
def State.spoilLda (s : State) (team : Nat) (lvl : Level) (l o n : Nat) : State :=
  { s with reqs := s.reqs.map fun r =>
      match r.kind with
      | .lda lv m _ =>
        if r.team = team ∧ ldaLevel lv = lvl then
          { r with lanes := r.lanes.map fun x =>
              if (lvl ≠ .lane ∨ x.lane = l) ∧ overlaps x.dst m o n then
                { x with spoil := x.spoil ++ ((List.range n).map fun i => o + i) }
              else x }
        else r
      | _ => r }

/-- A store of the team reaches its level: bytes that a pending LDA names hold Undefined values (R154). -/
def State.levelStore (s : State) (t : Team) (lvl : Level) (l o : Nat) (bs : List Byte) : State :=
  if s.reqs.any fun r => r.team == t.id && match r.kind with | .lda _ _ _ => true | _ => false then
    let r := s.blur o (s.ldaTarget t.id lvl l) bs
    (r.2.levelWrite t lvl l o r.1).spoilLda t.id lvl l o bs.length
  else s.levelWrite t lvl l o bs

end Sys2Proof.Machine
end

