-- ==== Sys2Proof/Machine/Views.lean ====
section
/-!
DEFINITION. The views of relief surfaces (R314, R317, R325): which surface an address belongs to, and the blocks that an access
names, which are the words of the ordering rules (R339).
-/

namespace Sys2Proof.Machine

/-- The frame of the leaf that maps an address: for a raw view, the frame of the surface descriptor (R325). -/
def State.leafFrame (s : State) (ctx va pa : Nat) : Nat :=
  match s.walk (s.rootOf ctx) va with
  | .leaf f _ _ => f
  | _ => pa - va % 65536

/-- The held surface whose descriptor lies at a frame (R314). -/
def State.surface? (s : State) (frame : Nat) : Option Surface := s.surfaces.find? fun f => f.frame == frame

/-- Word i of a surface's descriptor, as the engine holds it or as it stands in memory. -/
def State.descWord (s : State) (frame i : Nat) : Word :=
  match s.surface? frame with
  | some f => memWord f.coded (4 * i)
  | none => s.physWord (frame + 4 * i)

/-- Bytes per pixel (R317). -/
def descBpp (w0 : Word) : Nat := if wfld w0 1 0 = 0 then 4 else 1

/-! ## Descriptors (R317) -/

def Surface.word (f : Surface) (i : Nat) : Word := memWord f.coded (4 * i)
def Surface.width (f : Surface) : Nat := wfld (f.word 1) 15 0
def Surface.height (f : Surface) : Nat := wfld (f.word 1) 31 16
def Surface.bpp (f : Surface) : Nat := descBpp (f.word 0)
def Surface.nref (f : Surface) : Nat := wfld (f.word 0) 7 5
def Surface.addr (f : Surface) (i : Nat) : Nat := (f.word i).toNat + 2 ^ 32 * wfld (f.word (i + 1)) 22 0
def Surface.heapva (f : Surface) : Nat := f.addr 4
def Surface.rawva (f : Surface) : Nat := f.addr 8
def Surface.openva (f : Surface) : Nat := f.addr 10
def Surface.heapsz (f : Surface) : Nat := (f.word 6).toNat
def Surface.hfill (f : Surface) : Nat := (f.word 7).toNat
def Surface.blocks (f : Surface) : Nat := (f.width / 4) * (f.height / 4)
def Surface.blockOf (f : Surface) (x y : Nat) : Nat := y / 4 * (f.width / 4) + x / 4
/-- A raw-view address outside the view, or of a surface without one (R325). -/
def State.rawOutside (s : State) (ctx va pa : Nat) (n : Nat) : Bool :=
  let f := s.leafFrame ctx va pa
  let rawva := (s.descWord f 8).toNat + 2 ^ 32 * wfld (s.descWord f 9) 22 0
  let size := wfld (s.descWord f 1) 15 0 * wfld (s.descWord f 1) 31 16 * descBpp (s.descWord f 0)
  rawva == 0 || va < rawva || rawva + size < va + n

/-! ## The coded view -/

/-- The held surface whose coded view covers a physical address, and the offset in it. -/
def State.codedAt (s : State) (pa : Nat) : Option (Surface × Nat) :=
  (s.surfaces.find? fun f => f.frame ≤ pa && pa < f.frame + 128 + 16 * f.blocks).map fun f => (f, pa - f.frame)

/-! ## Blocks (R339) -/

/-- The blocks of the raw view of the surface at frame f that n bytes at va name. -/
def State.rawBlocks (s : State) (f va n : Nat) : List (Nat × Nat) :=
  let rawva := (s.descWord f 8).toNat + 2 ^ 32 * wfld (s.descWord f 9) 22 0
  let w := wfld (s.descWord f 1) 15 0
  ((List.range n).map fun i =>
    let p := (va + i - rawva) / descBpp (s.descWord f 0)
    (f, p / w / 4 * (w / 4) + p % w / 4)).eraseDups

/-- The blocks whose descriptors lie among n bytes of a coded view that is held. -/
def State.codedBlocks (s : State) (pa n : Nat) : List (Nat × Nat) :=
  ((List.range n).filterMap fun i =>
    match s.codedAt (pa + i) with
    | some (f, o) => if o < 128 then none else some (f.frame, (o - 128) / 16)
    | none => none).eraseDups

/-- The blocks that n bytes on a page name. -/
def State.viewBlocks (s : State) (ctx va pa n : Nat) (a : Attr) : List (Nat × Nat) :=
  if a.raw then s.rawBlocks (s.leafFrame ctx va pa) va n else if a.rlf then s.codedBlocks pa n else []

/-- The block of surface f that the coordinates in a name: clamped for a load, none outside for a store (R328, R330). -/
def State.coordBlocks (s : State) (f op : Nat) (a : Word) : List (Nat × Nat) :=
  let w := wfld (s.descWord f 1) 15 0
  let h := wfld (s.descWord f 1) 31 16
  let x := wfld a 13 0
  let y := wfld a 29 16
  if op = 0 ∨ op = 4 then [(f, min y (h - 1) / 4 * (w / 4) + min x (w - 1) / 4)]
  else if w ≤ x ∨ h ≤ y then []
  else [(f, y / 4 * (w / 4) + x / 4)]

/-- The blocks that a lane of a request names. -/
def State.laneBlocks (s : State) (r : Req) (x : Lane) : List (Nat × Nat) :=
  match r.kind with
  | .relief op f _ => s.coordBlocks f op (x.data.getD 0 0)
  | .lda _ n _ => s.viewBlocks r.ctx x.va x.pa x.cut x.attr ++ s.viewBlocks r.ctx (x.va + x.cut) x.pa2 (n - x.cut) x.attr2
  | k => s.viewBlocks r.ctx x.va x.pa k.globalBytes x.attr

/-- An earlier load of the team names one of some blocks and has not been written (R185 note 5, R303, R339). -/
def State.blockLoadAhead (s : State) (team : Nat) (bs : List (Nat × Nat)) : Bool :=
  bs != [] && s.reqs.any fun r => r.team == team && (r.kind.isLoad || r.kind.isLda) &&
    r.lanes.any fun x => (s.laneBlocks r x).any bs.contains

/-- An earlier access of the team names a block of this lane, and its engine has not served it, or an acquire of the team is still to be
made (R185 note 4, R339, R377). -/
def State.blockAhead (s : State) (r : Req) (x : Lane) : Bool :=
  let bs := s.laneBlocks r x
  bs != [] && ((s.reqs.any fun q => q.team == r.team && q.id < r.id && !q.kind.isLda &&
    q.lanes.any fun y => y.st == .pending && (s.laneBlocks q y).any bs.contains) || s.acqAhead r.team r.id)

end Sys2Proof.Machine
end

