-- ==== Sys2Proof/Machine/LoadStore.lean ====
section
/-!
DEFINITION. The loads and stores of every level and LDA (R137 to R156): the checks, the requests they send, and what happens
at issue. How the requests go on is in the events of AccessEv.
-/

namespace Sys2Proof.Machine

/-- The load-issue cap of a core for a context (R260). -/
def State.capOf (s : State) (ctx core : Nat) : Nat :=
  match s.ctx? ctx with
  | none => 256
  | some c => ((c.caps.find? fun x => x.1 == core).map (·.2)).getD 256

/-- The team's slot is at or above the cap: it is held at an LDG or LDA (R260). Handler teams run on service cores, which have
no detector. -/
def State.capped (s : State) (t : Team) : Bool := !t.privileged && s.capOf t.ctx t.core ≤ t.slot

/-- Destinations of a load: none for zero (R40). -/
def loadDests (d : Fld) (sz : Size) : List Fld := if d = f120 then [] else if sz = .q then run d 4 else [d]

/-- The data registers of a store (R147). -/
def storeRegs (d : Fld) (sz : Size) : List Fld := if sz = .q then run d 4 else [d]

/-- Issue of a long-latency load: last uses, destinations empty, a path counter when it has one, the request (R74, R153). -/
def State.launch (s : State) (t : Team) (c : Ctl) (as : List Fld) (k : ReqKind) (dests : List Fld) (lanes : List Lane)
    (p : Option Path) : State :=
  let rs := t.regsOf dests
  let u := rs.foldl Team.markEmpty (t.useMarks c as [])
  let v := match p with | none => u | some q => { u with cnt := u.cnt ++ [(q, s.nextId)] }
  (s.addReq t k rs lanes []).complete c v

/-- Issue of a store: the request goes out, the team goes on. -/
def State.send (s : State) (t : Team) (c : Ctl) (as : List Fld) (k : ReqKind) (lanes : List Lane) : State :=
  (s.addReq t k [] lanes []).complete c (t.useMarks c as [])

/-- The team waits in Waiting-counter; the waiting instruction is executed again afterwards. -/
def State.waitCounter (s : State) (t : Team) (w : WaitFor) : State :=
  s.putTeam { t with st := .waitingCounter w, finish := .none }

/-- A writer waits in Waiting-counter while a marked page of its lanes has no staging frame (R308); otherwise k. -/
def State.staged (s : State) (t : Team) (lanes : List Lane) (k : State) : State :=
  match s.stagePage t.ctx lanes with
  | some p => s.waitCounter t (.staging p)
  | none => k

/-- A served lane has its value. -/
def Lane.bind (x : Lane) (ws : List Word) : Lane := { x with got := ws, st := .bound }

/-- LDG binds a lane from the core's L1 when it may (R150, R159, R160, R185 note 4); otherwise the lane misses. -/
def State.ldgLane (s : State) (t : Team) (sz : Size) (sx strong : Bool) (x : Lane) : Lane :=
  if strong || x.attr.rlf || x.attr.raw || isRemote x.pa || s.blocked t.id s.nextId x.pa (sizeBytes sz) ||
      s.homeAhead t.id s.nextId x.pa (sizeBytes sz) then x
  else
    match s.l1Read t.id t.core x.pa (sizeBytes sz) with
    | some bs => x.bind (loadWords sz sx bs)
    | none => x

/-- The core's detector counts a global load (R260). An LDG or LDA is one load, which hits when a line of any lane of it is among the
victim tags; service cores have no detector. -/
def State.countLoad (s : State) (t : Team) (k : ReqKind) (lanes : List Lane) : State :=
  let lines (p : Nat × Nat) : List Nat :=
    if p.2 = 0 then [] else (List.range ((p.1 + p.2 - 1) / 64 - p.1 / 64 + 1)).map fun i => p.1 / 64 + i
  if t.privileged then s
  else s.putDetector ((s.detector t.core).loaded (lanes.flatMap fun x => (k.laneSpans x).flatMap lines))

/-- LDG (R143, R148, R150, R153). -/
def execLdg (c : Ctl) (d a : Fld) (x : BitVec 3) (sz : Size) (sx strong stream : Bool) (s : State) : Res :=
  s.issue c [a] [] [] (loadDests d sz) fun t =>
    if s.capped t then s.putTeam { t with st := .ready }
    else
      let n := sizeBytes sz
      let acc : Access := { n := n, align := n, write := false, kind := 0,
                            forbid := fun va pa m at_ => at_.raw && s.rawOutside t.ctx va pa m }
      s.global t x.toNat acc t.lanes (t.get a) (fun _ => []) fun s1 lanes =>
        if 255 ≤ t.count .g then s1.waitCounter t (.room .g)
        else
          let k : ReqKind := .ldg sz sx strong stream
          (s1.countLoad t k lanes).launch t c [a] k (loadDests d sz) (lanes.map (s1.ldgLane t sz sx strong)) (some .g)

/-- Some lane of a store, atomic or chisel meets a byte, or a block of a relief surface, that an earlier load of the team names (R303,
R339). -/
def State.anyLoadAhead (s : State) (t : Team) (lanes : List Lane) (n : Nat) : Bool :=
  lanes.any fun x => s.loadAhead t.id x.pa n || s.blockLoadAhead t.id (s.viewBlocks t.ctx x.va x.pa n x.attr)

/-- A copy of the team that is not over, neither complete nor failed, writes bytes a to a + n - 1 of global memory, or of chip scratch
(R173, R174). -/
def Copyc.meets (k : Copyc) (t : Team) (chip : Bool) (a n : Nat) : Bool :=
  k.team == some t.id && k.chip == chip && !k.complete && !k.failed && overlaps k.dst k.n a n

/-- The team stores to destination bytes of its incomplete copies: they hold Undefined values (R173), whichever of the two lands
last, so the copies and the store both keep which bytes they are. -/
def State.markSpoil (s : State) (t : Team) (chip : Bool) (n : Nat) (ls : List Lane) : List Lane × State :=
  let hit (k : Copyc) : List Nat :=
    ls.flatMap fun x => if k.meets t chip x.va n then (List.range n).map fun i => x.va + i - k.dst else []
  (ls.map fun x => { x with spoil := (List.range n).filter fun i => s.copies.any fun k => k.meets t chip (x.va + i) 1 },
   { s with copies := s.copies.map fun k => { k with spoil := k.spoil ++ hit k } })

/-- STG (R148, R150, R161). Lanes on a raw view hold the team until their engines answer (R326). -/
def execStg (c : Ctl) (d a : Fld) (x : BitVec 3) (sz : Size) (strong stream : Bool) (s : State) : Res :=
  let ds := storeRegs d sz
  s.issue c [a] [] ds [] fun t =>
    let n := sizeBytes sz
    let acc : Access := { n := n, align := n, write := true, kind := 1,
                          forbid := fun va pa m at_ => at_.rlf || (at_.raw && s.rawOutside t.ctx va pa m) }
    let data (l : Nat) : List Word := ds.map fun f => t.get f l
    s.global t x.toNat acc t.lanes (t.get a) data fun s1 lanes =>
      if s1.anyLoadAhead t lanes n then s1.waitCounter t (.loads s1.nextId)
      else
        s1.staged t lanes
          (let m := s1.markSpoil t false n (lanes.map fun y => { y with data := data y.lane })
           if m.1.any fun y => y.attr.raw then
             (m.2.addReq t (.stg sz strong stream) [] m.1 []).putTeam
               { t with hold := some (.relief c a m.2.nextId), st := .ready }
           else m.2.send t c [a] (.stg sz strong stream) m.1)

/-! ## Local levels -/

/-- The checks of R141 on the lanes' offsets: misalignment first, then bounds. -/
def State.localCheck (s : State) (t : Team) (off : Nat → Word) (n size : Nat) (k : State) : State :=
  let mis := t.lanes.filter fun l => (off l).toNat % n != 0
  match mis with
  | l :: _ => s.trap t 7 0 (maskOf mis) (off l)
  | [] =>
    let oob := t.lanes.filter fun l => size < (off l).toNat + n
    match oob with
    | l :: _ => s.trap t 9 0 (maskOf oob) (off l)
    | [] => k

/-- A lane of a local access. -/
def localLane (l o : Nat) (ws : List Word) (bound : Bool) : Lane :=
  { lane := l, va := o, pa := 0, pa2 := 0, cut := 0, attr := Attr.none, dst := 0, via := [], data := if bound then [] else ws,
    got := if bound then ws else [], spoil := [], st := if bound then .bound else .pending }

/-- A load of a local level: core scratch and lane-private slices bind at issue, because the team alone reaches them (R149);
cluster memory and chip scratch bind when the load arrives at the backing store (R164). -/
def State.localLoad (s : State) (c : Ctl) (d a : Fld) (lvl : Level) (sz : Size) (sx : Bool) : Res :=
  s.issue c [a] [] [] (loadDests d sz) fun t =>
    let n := sizeBytes sz
    s.localCheck t (t.get a) n (s.levelSize t lvl)
      (s.launch t c [a] (.ldl lvl sz sx) (loadDests d sz)
        (t.lanes.map fun l =>
          let o := (t.get a l).toNat
          if lvl = .clm ∨ lvl = .chip then localLane l o [] false
          else localLane l o (loadWords sz sx (s.levelRead t lvl l o n)) true)
        none)

/-- A store to core scratch or lane-private memory takes effect at once; two lanes on one byte leave the higher lane's (R149). -/
def State.storeNow (s : State) (t : Team) (lvl : Level) (sz : Size) (off : Nat → Word) (ds : List Fld) : State :=
  t.lanes.foldl (fun u l => u.levelStore t lvl l (off l).toNat (storeBytes sz (ds.map fun f => t.get f l))) s

/-- The team stores to destination bytes of LDAs in flight: they hold Undefined values whichever lands last, so the LDAs and the store
both keep which bytes they are (R154). -/
def State.spoilIssue (s : State) (t : Team) (lvl : Level) (n : Nat) (ls : List Lane) : List Lane × State :=
  (ls.map fun x => { x with spoil := x.spoil ++ (List.range n).filter fun i => s.ldaTarget t.id lvl x.lane (x.va + i) },
   ls.foldl (fun u x => u.spoilLda t.id lvl x.lane x.va n) s)

/-- Stores to local levels (R148, R154, R164). -/
def State.localStore (s : State) (c : Ctl) (d a : Fld) (lvl : Level) (sz : Size) : Res :=
  let ds := storeRegs d sz
  s.issue c [a] [] ds [] fun t =>
    let n := sizeBytes sz
    s.localCheck t (t.get a) n (s.levelSize t lvl)
      (if t.lanes.any fun l => s.localLoadAhead t.id s.nextId lvl l (t.get a l).toNat n then s.waitCounter t (.loads s.nextId)
       else if lvl = .clm ∨ lvl = .chip then
         let ls := t.lanes.map fun l => localLane l (t.get a l).toNat (ds.map fun f => t.get f l) false
         let m := if lvl = .chip then s.markSpoil t true n ls else (ls, s)
         let p := m.2.spoilIssue t lvl n m.1
         p.2.send t c [a] (.stl lvl sz) p.1
       else
         let s1 := s.storeNow t lvl sz (t.get a) ds
         match s1.team? t.id with
         | some u => s1.complete c (u.useMarks c [a] [])
         | none => s1)

/-! ## The register aperture (R77, R140) -/

/-- The team whose frame an aperture offset names: SEL 0 is the issuing team, otherwise a resident team slot of its core. -/
def State.apTeam (s : State) (t : Team) (o : Word) : Option Team :=
  let sel := wfld o 31 21
  if sel = 0 then some t
  else if !t.privileged then none
  else s.teams.find? fun u => u.st != .exited &&
    ((u.core == t.core && u.slot == sel - 1) ||
     (u.core / 2 == t.core / 2 && u.core != t.core && u.pairSlot == some (sel - 1)))

/-- The aperture offset is forbidden (R140). -/
def State.apBad (s : State) (t : Team) (o : Word) : Bool :=
  match s.apTeam t o with
  | none => true
  | some u => u.p ≤ wfld o 20 12 || u.nlanes ≤ wfld o 11 2

/-- The checks of R140 and R141 on aperture offsets. -/
def State.apCheck (s : State) (t : Team) (off : Nat → Word) (k : State) : State :=
  let mis := t.lanes.filter fun l => (off l).toNat % 4 != 0
  match mis with
  | l :: _ => s.trap t 7 0 (maskOf mis) (off l)
  | [] =>
    let bad := t.lanes.filter fun l => s.apBad t (off l)
    match bad with
    | l :: _ => s.trap t 9 0 (maskOf bad) (off l)
    | [] => k

/-- What the banks of the named frame hold in the named lane slot (R77); t is the issuing team, its window drained. -/
def State.apRead (s : State) (t : Team) (o : Word) : Word :=
  match s.apTeam t o with
  | none => 0
  | some u => ((u.reg (wfld o 20 12)).bank).lane (wfld o 11 2)

/-- A load through the aperture: the issuing team's window is drained first (R77). The drain comes before the access's own
last-use read of A, so A's window result reaches the banks; the spec does not order the two (notes/assumptions/78.md). -/
def State.apLoad (s : State) (c : Ctl) (d a : Fld) : Res :=
  s.issue c [a] [] [] (loadDests d .w) fun t =>
    s.apCheck t (t.get a)
      (let u := t.drain
       s.launch u c [a] (.ldl .aperture .w false) (loadDests d .w)
         (t.lanes.map fun l => localLane l (t.get a l).toNat [(s.putTeam u).apRead u (t.get a l)] true) none)

/-- A store through the aperture writes lane slots of the named frames, the issuing team's window drained first (R77). -/
def State.apStore (s : State) (c : Ctl) (d a : Fld) : Res :=
  s.issue c [a] [] [d] [] fun t =>
    s.apCheck t (t.get a)
      (if t.lanes.any fun l => s.localLoadAhead t.id s.nextId .aperture l (t.get a l).toNat 4 then s.waitCounter t (.loads s.nextId)
       else
         let s1 := s.putTeam t.drain
         let s2 := t.lanes.foldl (fun v l =>
           let o := t.get a l
           match s.apTeam t o with
           | none => v
           | some u => v.modTeam u.id fun w => w.setSlot (wfld o 20 12) (wfld o 11 2) (t.get d l)) s1
         match s2.team? t.id with
         | some u => s2.complete c (u.useMarks c [a] [])
         | none => s2)

/-- LDS: core scratch or the register aperture (R139, R140, R148). -/
def execLds (c : Ctl) (d a : Fld) (ap : Bool) (sz : Size) (sx : Bool) (s : State) : Res :=
  if ap then s.apLoad c d a else s.localLoad c d a .core sz sx

/-- STS (R139, R140, R148). -/
def execSts (c : Ctl) (d a : Fld) (ap : Bool) (sz : Size) (s : State) : Res :=
  if ap then s.apStore c d a else s.localStore c d a .core sz

/-- LDCL: cluster memory (R148, R164). -/
def execLdcl (c : Ctl) (d a : Fld) (sz : Size) (sx : Bool) (s : State) : Res := s.localLoad c d a .clm sz sx

/-- STCL (R148, R164). -/
def execStcl (c : Ctl) (d a : Fld) (sz : Size) (s : State) : Res := s.localStore c d a .clm sz

/-- LDXS: chip scratch (R148, R164). -/
def execLdxs (c : Ctl) (d a : Fld) (sz : Size) (sx : Bool) (s : State) : Res := s.localLoad c d a .chip sz sx

/-- STXS (R148, R164). -/
def execStxs (c : Ctl) (d a : Fld) (sz : Size) (s : State) : Res := s.localStore c d a .chip sz

/-- LDL: lane-private memory (R139, R148). -/
def execLdl (c : Ctl) (d a : Fld) (sz : Size) (sx : Bool) (s : State) : Res := s.localLoad c d a .lane sz sx

/-- STL (R139, R148). -/
def execStl (c : Ctl) (d a : Fld) (sz : Size) (s : State) : Res := s.localStore c d a .lane sz

/-! ## Asynchronous loads (R152) -/

/-- The path of an LDA (R152). -/
def ldaPath : LdaLevel → Path
  | .lane => .l
  | .core => .s
  | .clm => .c
  | .chip => .x

/-- Bytes per lane of an LDA: 4, 16, 64 or 256 (R59). -/
def ldaBytes (n : BitVec 2) : Nat := 4 ^ (n.toNat + 1)

/-- LDA (R152, R153): the checks of both sides, the counter, the request. -/
def execLda (c : Ctl) (d a : Fld) (x : BitVec 3) (lvl : LdaLevel) (n : BitVec 2) (stream : Bool) (s : State) : Res :=
  s.issue c [a] [] [d] [] fun t =>
    if s.capped t then s.putTeam { t with st := .ready }
    else
      let nb := ldaBytes n
      let al := min nb 16
      let size := s.levelSize t (ldaLevel lvl)
      let acc : Access := { n := nb, align := al, write := false, kind := 0,
                            forbid := fun va pa m at_ => at_.raw && s.rawOutside t.ctx va pa m }
      match s.globalCheck t (t.xl.getD x.toNat Xl.reset) acc t.lanes (t.get a)
          (fun l => (t.get d l).toNat % al != 0) (fun l => size < (t.get d l).toNat + nb)
          (fun l g => if g then t.get a l else t.get d l) with
      | (s1, .trap cause f w) => s1.trap t cause 0 f w
      | (s1, .park f va) => s1.pageFault t f va acc.kind
      | (s1, .intercept f va) => s1.writeIntercept t f va []
      | (s1, .ok lanes) =>
        if 255 ≤ t.count (ldaPath lvl) then s1.waitCounter t (.room (ldaPath lvl))
        else
          let k : ReqKind := .lda lvl nb stream
          (s1.countLoad t k lanes).launch t c [a] k [] (lanes.map fun y => { y with dst := (t.get d y.lane).toNat })
            (some (ldaPath lvl))

end Sys2Proof.Machine
end

