-- ==== Sys2Proof/Machine/Atomic.lean ====
section
/-!
DEFINITION. ATOM (R186 to R192): the twenty operations, the checks at issue, and the request they send.
-/

namespace Sys2Proof.Machine

/-- What an operation stores, if anything (R188): old is the value read, v and w the operands. Values are 32 bits wide, but for
ADD64 and XCHG64, whose v and old hold 64. -/
def AtomOp.stored (op : AtomOp) (old v w : Nat) : Option Nat :=
  let o : Word := BitVec.ofNat 32 old
  let x : Word := BitVec.ofNat 32 v
  match op with
  | .ld => none
  | .st => some v
  | .xchg => some v
  | .cas => if old = v then some w else none
  | .add => some ((o + x).toNat)
  | .and => some ((o &&& x).toNat)
  | .or => some ((o ||| x).toNat)
  | .xor => some ((o ^^^ x).toNat)
  | .minS => some (if s32 o ≤ s32 x then old else v)
  | .maxS => some (if s32 o ≤ s32 x then v else old)
  | .minN => some (min old v)
  | .maxN => some (max old v)
  | .incw => some (if v ≤ old then 0 else old + 1)
  | .decw => some (if old = 0 ∨ v < old then v else old - 1)
  | .addb => if old + v ≤ w then some (old + v) else none
  | .fadd => some (Machine.fadd o x).toNat
  | .fmin => some (Machine.fmin o x).toNat
  | .fmax => some (Machine.fmax o x).toNat
  | .add64 => some ((old + (v + 2 ^ 32 * w)) % 2 ^ 64)
  | .xchg64 => some (v + 2 ^ 32 * w)

/-- The operation uses D and D+1 (R60). -/
def AtomOp.two : AtomOp → Bool
  | .cas => true
  | .addb => true
  | .add64 => true
  | .xchg64 => true
  | _ => false

/-- Bytes of the access (R186). -/
def AtomOp.bytes : AtomOp → Nat
  | .add64 => 8
  | .xchg64 => 8
  | _ => 4

/-- The D result and, where there is one, the D+1 result (R188). -/
def AtomOp.results (op : AtomOp) (old v w : Nat) : List Word :=
  match op with
  | .st => [BitVec.ofNat 32 v]
  | .cas => [BitVec.ofNat 32 old, flagWord (op.stored old v w).isSome]
  | .addb => [BitVec.ofNat 32 old, flagWord (op.stored old v w).isSome]
  | .add64 => [BitVec.ofNat 32 old, BitVec.ofNat 32 (old / 2 ^ 32)]
  | .xchg64 => [BitVec.ofNat 32 old, BitVec.ofNat 32 (old / 2 ^ 32)]
  | _ => [BitVec.ofNat 32 old]

/-- Travels as a UALink atomic without XATOM (R385). -/
def AtomOp.plain : AtomOp → Bool
  | .incw => false
  | .decw => false
  | .addb => false
  | .fadd => false
  | .fmin => false
  | .fmax => false
  | _ => true

/-- A remote lane is forbidden: a scope below system, or an operation that the line's port does not carry (R187, R385). -/
def State.atomRemoteBad (s : State) (op : AtomOp) (sc : Scope) (pa : Nat) : Bool :=
  isRemote pa && (sc != .system || (!op.plain &&
    match s.portOf pa with
    | none => true
    | some p => !(s.ports.getD p Port.reset).cap.getLsbD 4))

/-- The shared shape of the ATOM rows (R186 to R188): D, and D+1 where the operation uses it, are read as sources (but for LD)
and marked empty; every lane's operation goes to the execution point. -/
def State.atom (s : State) (op : AtomOp) (d a : Fld) (x : BitVec 3) (sc : Scope) : Res :=
  let ds := if op.two then [d, fplus d 1] else [d]
  s.issue ctlNone [a] [] (if op = .ld then [] else ds) ds fun t =>
    let acc : Access := { n := op.bytes, align := op.bytes, write := op != .ld, kind := 2,
                          forbid := fun _ pa _ at_ => at_.rlf || at_.raw || s.atomRemoteBad op sc pa }
    let data (l : Nat) : List Word := if op = .ld then [] else ds.map fun f => t.get f l
    s.global t x.toNat acc t.lanes (t.get a) data fun s1 lanes =>
      if s1.anyLoadAhead t lanes op.bytes then s1.waitCounter t (.loads s1.nextId)
      else if op = .ld then s1.launch t ctlNone [a] (.atom op sc) ds lanes none
      else
        s1.staged t lanes
          (let m := s1.markSpoil t false op.bytes (lanes.map fun y => { y with data := data y.lane })
           m.2.launch t ctlNone [a] (.atom op sc) ds m.1 none)

/-- ATOM.LD (R188). -/
def execAtomLd (d a : Fld) (x : BitVec 3) (sc : Scope) (s : State) : Res := s.atom .ld d a x sc

/-- ATOM.ST (R188). -/
def execAtomSt (d a : Fld) (x : BitVec 3) (sc : Scope) (s : State) : Res := s.atom .st d a x sc

/-- ATOM.XCHG (R188). -/
def execAtomXchg (d a : Fld) (x : BitVec 3) (sc : Scope) (s : State) : Res := s.atom .xchg d a x sc

/-- ATOM.CAS (R188). -/
def execAtomCas (d a : Fld) (x : BitVec 3) (sc : Scope) (s : State) : Res := s.atom .cas d a x sc

/-- ATOM.ADD (R188). -/
def execAtomAdd (d a : Fld) (x : BitVec 3) (sc : Scope) (s : State) : Res := s.atom .add d a x sc

/-- ATOM.AND (R188). -/
def execAtomAnd (d a : Fld) (x : BitVec 3) (sc : Scope) (s : State) : Res := s.atom .and d a x sc

/-- ATOM.OR (R188). -/
def execAtomOr (d a : Fld) (x : BitVec 3) (sc : Scope) (s : State) : Res := s.atom .or d a x sc

/-- ATOM.XOR (R188). -/
def execAtomXor (d a : Fld) (x : BitVec 3) (sc : Scope) (s : State) : Res := s.atom .xor d a x sc

/-- ATOM.MINS (R188). -/
def execAtomMinS (d a : Fld) (x : BitVec 3) (sc : Scope) (s : State) : Res := s.atom .minS d a x sc

/-- ATOM.MAXS (R188). -/
def execAtomMaxS (d a : Fld) (x : BitVec 3) (sc : Scope) (s : State) : Res := s.atom .maxS d a x sc

/-- ATOM.MINN (R188). -/
def execAtomMinN (d a : Fld) (x : BitVec 3) (sc : Scope) (s : State) : Res := s.atom .minN d a x sc

/-- ATOM.MAXN (R188). -/
def execAtomMaxN (d a : Fld) (x : BitVec 3) (sc : Scope) (s : State) : Res := s.atom .maxN d a x sc

/-- ATOM.INCW (R188). -/
def execAtomIncw (d a : Fld) (x : BitVec 3) (sc : Scope) (s : State) : Res := s.atom .incw d a x sc

/-- ATOM.DECW (R188). -/
def execAtomDecw (d a : Fld) (x : BitVec 3) (sc : Scope) (s : State) : Res := s.atom .decw d a x sc

/-- ATOM.ADDB (R188). -/
def execAtomAddb (d a : Fld) (x : BitVec 3) (sc : Scope) (s : State) : Res := s.atom .addb d a x sc

/-- ATOM.FADD (R188). -/
def execAtomFadd (d a : Fld) (x : BitVec 3) (sc : Scope) (s : State) : Res := s.atom .fadd d a x sc

/-- ATOM.FMIN (R188). -/
def execAtomFmin (d a : Fld) (x : BitVec 3) (sc : Scope) (s : State) : Res := s.atom .fmin d a x sc

/-- ATOM.FMAX (R188). -/
def execAtomFmax (d a : Fld) (x : BitVec 3) (sc : Scope) (s : State) : Res := s.atom .fmax d a x sc

/-- ATOM.ADD64 (R188). -/
def execAtomAdd64 (d a : Fld) (x : BitVec 3) (sc : Scope) (s : State) : Res := s.atom .add64 d a x sc

/-- ATOM.XCHG64 (R188). -/
def execAtomXchg64 (d a : Fld) (x : BitVec 3) (sc : Scope) (s : State) : Res := s.atom .xchg64 d a x sc

end Sys2Proof.Machine
end

