-- ==== Sys2Proof/Machine/ArithFloat.lean ====
section
/-!
DEFINITION. The floating-point instructions (R126, R127, R131 to R133): one meaning for each, over the functions of Float.
-/

namespace Sys2Proof.Machine

/-- FADD (R126). -/
def execFadd (c : Ctl) (d a b : Fld) (s : State) : Res :=
  s.compute c [a] [b] [] d fun t l => fadd (t.get a l) (t.get b l)

/-- FSUB (R126). -/
def execFsub (c : Ctl) (d a b : Fld) (s : State) : Res :=
  s.compute c [a] [b] [] d fun t l => fsub (t.get a l) (t.get b l)

/-- FMUL (R126). -/
def execFmul (c : Ctl) (d a b : Fld) (s : State) : Res :=
  s.compute c [a] [b] [] d fun t l => fmul (t.get a l) (t.get b l)

/-- FMIN (R127). -/
def execFmin (c : Ctl) (d a b : Fld) (s : State) : Res :=
  s.compute c [a] [b] [] d fun t l => fmin (t.get a l) (t.get b l)

/-- FMAX (R127). -/
def execFmax (c : Ctl) (d a b : Fld) (s : State) : Res :=
  s.compute c [a] [b] [] d fun t l => fmax (t.get a l) (t.get b l)

/-- FCMPEQ (R126). -/
def execFcmpeq (c : Ctl) (d a b : Fld) (s : State) : Res :=
  s.compute c [a] [b] [] d fun t l => fcmpeq (t.get a l) (t.get b l)

/-- FCMPLT (R126). -/
def execFcmplt (c : Ctl) (d a b : Fld) (s : State) : Res :=
  s.compute c [a] [b] [] d fun t l => fcmplt (t.get a l) (t.get b l)

/-- FCMPLE (R126). -/
def execFcmple (c : Ctl) (d a b : Fld) (s : State) : Res :=
  s.compute c [a] [b] [] d fun t l => fcmple (t.get a l) (t.get b l)

/-- FCMPUN (R126). -/
def execFcmpun (c : Ctl) (d a b : Fld) (s : State) : Res :=
  s.compute c [a] [b] [] d fun t l => fcmpun (t.get a l) (t.get b l)

/-- FDIV (R126). -/
def execFdiv (c : Ctl) (d a b : Fld) (s : State) : Res :=
  s.compute c [a] [b] [] d fun t l => fdiv (t.get a l) (t.get b l)

/-- FFMA: D is read as a source; one rounding (R120, R126). -/
def execFfma (c : Ctl) (d a b : Fld) (s : State) : Res :=
  s.compute c [a] [b] [d] d fun t l => ffma (t.get a l) (t.get b l) (t.get d l)

/-- FNEG (R131, R132). -/
def execFneg (c : Ctl) (d a : Fld) (s : State) : Res :=
  s.compute c [a] [] [] d fun t l => fneg (t.get a l)

/-- FABS (R131, R132). -/
def execFabs (c : Ctl) (d a : Fld) (s : State) : Res :=
  s.compute c [a] [] [] d fun t l => fabs (t.get a l)

/-- FSQRT (R131). -/
def execFsqrt (c : Ctl) (d a : Fld) (s : State) : Res :=
  s.compute c [a] [] [] d fun t l => fsqrt (t.get a l)

/-- FRCP (R131). -/
def execFrcp (c : Ctl) (d a : Fld) (s : State) : Res :=
  s.compute c [a] [] [] d fun t l => frcp (t.get a l)

/-- FRSQ (R131). -/
def execFrsq (c : Ctl) (d a : Fld) (s : State) : Res :=
  s.compute c [a] [] [] d fun t l => frsq (t.get a l)

/-- FEX2 (R131). -/
def execFex2 (c : Ctl) (d a : Fld) (s : State) : Res :=
  s.compute c [a] [] [] d fun t l => fex2 (t.get a l)

/-- FLG2 (R131). -/
def execFlg2 (c : Ctl) (d a : Fld) (s : State) : Res :=
  s.compute c [a] [] [] d fun t l => flg2 (t.get a l)

/-- FSIN: the argument is in half-turns (R131). -/
def execFsin (c : Ctl) (d a : Fld) (s : State) : Res :=
  s.compute c [a] [] [] d fun t l => fsin (t.get a l)

/-- FCOS (R131). -/
def execFcos (c : Ctl) (d a : Fld) (s : State) : Res :=
  s.compute c [a] [] [] d fun t l => fcos (t.get a l)

/-- FFLOOR (R131). -/
def execFfloor (c : Ctl) (d a : Fld) (s : State) : Res :=
  s.compute c [a] [] [] d fun t l => fround .floor (t.get a l)

/-- FCEIL (R131). -/
def execFceil (c : Ctl) (d a : Fld) (s : State) : Res :=
  s.compute c [a] [] [] d fun t l => fround .ceil (t.get a l)

/-- FTRUNC (R131). -/
def execFtrunc (c : Ctl) (d a : Fld) (s : State) : Res :=
  s.compute c [a] [] [] d fun t l => fround .trunc (t.get a l)

/-- FRINT (R131). -/
def execFrint (c : Ctl) (d a : Fld) (s : State) : Res :=
  s.compute c [a] [] [] d fun t l => fround .nearest (t.get a l)

/-- FSAT (R131). -/
def execFsat (c : Ctl) (d a : Fld) (s : State) : Res :=
  s.compute c [a] [] [] d fun t l => fsat (t.get a l)

/-- FCLASS (R133). -/
def execFclass (c : Ctl) (d a : Fld) (s : State) : Res :=
  s.compute c [a] [] [] d fun t l => fclass (t.get a l)

end Sys2Proof.Machine
end

