-- ==== Sys2Proof/Machine/ArithInt.lean ====
section
/-!
DEFINITION. The integer instructions (R119 to R125, R128 to R130): one meaning for each, over the shared shape of Ops.
-/

namespace Sys2Proof.Machine

/-- Rotates left by n of 0 to 31. -/
def rotl (a : Word) (n : Nat) : Word := a.rotateLeft n

/-- The shift count of a two-source shift: bits [4:0] (R124). -/
def shiftCount (b : Word) : Nat := b.toNat % 32

/-- The signed quotient (R125). -/
def quotS (a b : Word) : Word :=
  if b = 0 then 0xFFFFFFFF#32 else wordOfInt (Int.tdiv (s32 a) (s32 b))

/-- The signed remainder (R125). -/
def remS (a b : Word) : Word := if b = 0 then a else wordOfInt (Int.tmod (s32 a) (s32 b))

/-- The unsigned quotient (R125). -/
def quotN (a b : Word) : Word := if b = 0 then 0xFFFFFFFF#32 else BitVec.ofNat 32 (a.toNat / b.toNat)

/-- The unsigned remainder (R125). -/
def remN (a b : Word) : Word := if b = 0 then a else BitVec.ofNat 32 (a.toNat % b.toNat)

/-- The number of 1 bits (R130). -/
def popCount (a : Word) : Nat := ((List.range 32).filter fun i => a.getLsbD i).length

/-- The number of leading 0 bits (R130). -/
def leadZeros (a : Word) : Nat := ((List.range 32).find? fun i => a.getLsbD (31 - i)).getD 32

/-- The number of trailing 0 bits (R130). -/
def trailZeros (a : Word) : Nat := ((List.range 32).find? fun i => a.getLsbD i).getD 32

/-- Bit i moved to bit 31 - i (R130). -/
def bitReverse (a : Word) : Word :=
  BitVec.ofNat 32 ((List.range 32).foldl (fun n i => n + (if a.getLsbD i then 2 ^ (31 - i) else 0)) 0)

/-- IADD (R124). -/
def execIadd (c : Ctl) (d a b : Fld) (s : State) : Res :=
  s.compute c [a] [b] [] d fun t l => t.get a l + t.get b l

/-- ISUB (R124). -/
def execIsub (c : Ctl) (d a b : Fld) (s : State) : Res :=
  s.compute c [a] [b] [] d fun t l => t.get a l - t.get b l

/-- IMUL: bits [31:0] of the product (R124). -/
def execImul (c : Ctl) (d a b : Fld) (s : State) : Res :=
  s.compute c [a] [b] [] d fun t l => t.get a l * t.get b l

/-- IMAD: D is read as a source (R120, R124). -/
def execImad (c : Ctl) (d a b : Fld) (s : State) : Res :=
  s.compute c [a] [b] [d] d fun t l => t.get d l + t.get a l * t.get b l

/-- IMULH.S: the high word of the signed product (R124). -/
def execImulhS (c : Ctl) (d a b : Fld) (s : State) : Res :=
  s.compute c [a] [b] [] d fun t l => wordOfInt ((s32 (t.get a l) * s32 (t.get b l)) / 2 ^ 32)

/-- IMULH.N: the high word of the unsigned product (R124). -/
def execImulhN (c : Ctl) (d a b : Fld) (s : State) : Res :=
  s.compute c [a] [b] [] d fun t l => BitVec.ofNat 32 ((t.get a l).toNat * (t.get b l).toNat / 2 ^ 32)

/-- AND (R124). -/
def execAnd (c : Ctl) (d a b : Fld) (s : State) : Res :=
  s.compute c [a] [b] [] d fun t l => t.get a l &&& t.get b l

/-- ANDN (R124). -/
def execAndn (c : Ctl) (d a b : Fld) (s : State) : Res :=
  s.compute c [a] [b] [] d fun t l => t.get a l &&& ~~~(t.get b l)

/-- OR (R124). -/
def execOr (c : Ctl) (d a b : Fld) (s : State) : Res :=
  s.compute c [a] [b] [] d fun t l => t.get a l ||| t.get b l

/-- XOR (R124). -/
def execXor (c : Ctl) (d a b : Fld) (s : State) : Res :=
  s.compute c [a] [b] [] d fun t l => t.get a l ^^^ t.get b l

/-- SHL (R124). -/
def execShl (c : Ctl) (d a b : Fld) (s : State) : Res :=
  s.compute c [a] [b] [] d fun t l => (t.get a l) <<< shiftCount (t.get b l)

/-- ROL (R124). -/
def execRol (c : Ctl) (d a b : Fld) (s : State) : Res :=
  s.compute c [a] [b] [] d fun t l => rotl (t.get a l) (shiftCount (t.get b l))

/-- SHR: zeros come in (R124). -/
def execShr (c : Ctl) (d a b : Fld) (s : State) : Res :=
  s.compute c [a] [b] [] d fun t l => (t.get a l) >>> shiftCount (t.get b l)

/-- SAR: the sign comes in (R124). -/
def execSar (c : Ctl) (d a b : Fld) (s : State) : Res :=
  s.compute c [a] [b] [] d fun t l => (t.get a l).sshiftRight (shiftCount (t.get b l))

/-- IMIN.S (R124). -/
def execIminS (c : Ctl) (d a b : Fld) (s : State) : Res :=
  s.compute c [a] [b] [] d fun t l => if s32 (t.get a l) ≤ s32 (t.get b l) then t.get a l else t.get b l

/-- IMIN.N (R124). -/
def execIminN (c : Ctl) (d a b : Fld) (s : State) : Res :=
  s.compute c [a] [b] [] d fun t l => if (t.get a l).toNat ≤ (t.get b l).toNat then t.get a l else t.get b l

/-- IMAX.S (R124). -/
def execImaxS (c : Ctl) (d a b : Fld) (s : State) : Res :=
  s.compute c [a] [b] [] d fun t l => if s32 (t.get a l) ≤ s32 (t.get b l) then t.get b l else t.get a l

/-- IMAX.N (R124). -/
def execImaxN (c : Ctl) (d a b : Fld) (s : State) : Res :=
  s.compute c [a] [b] [] d fun t l => if (t.get a l).toNat ≤ (t.get b l).toNat then t.get b l else t.get a l

/-- CMPEQ (R124). -/
def execCmpeq (c : Ctl) (d a b : Fld) (s : State) : Res :=
  s.compute c [a] [b] [] d fun t l => flagWord (t.get a l == t.get b l)

/-- CMPNE (R124). -/
def execCmpne (c : Ctl) (d a b : Fld) (s : State) : Res :=
  s.compute c [a] [b] [] d fun t l => flagWord (t.get a l != t.get b l)

/-- CMPLT.S (R124). -/
def execCmpltS (c : Ctl) (d a b : Fld) (s : State) : Res :=
  s.compute c [a] [b] [] d fun t l => flagWord (decide (s32 (t.get a l) < s32 (t.get b l)))

/-- CMPLT.N (R124). -/
def execCmpltN (c : Ctl) (d a b : Fld) (s : State) : Res :=
  s.compute c [a] [b] [] d fun t l => flagWord (decide ((t.get a l).toNat < (t.get b l).toNat))

/-- CMPLE.S (R124). -/
def execCmpleS (c : Ctl) (d a b : Fld) (s : State) : Res :=
  s.compute c [a] [b] [] d fun t l => flagWord (decide (s32 (t.get a l) ≤ s32 (t.get b l)))

/-- CMPLE.N (R124). -/
def execCmpleN (c : Ctl) (d a b : Fld) (s : State) : Res :=
  s.compute c [a] [b] [] d fun t l => flagWord (decide ((t.get a l).toNat ≤ (t.get b l).toNat))

/-- SEL: the condition is D (R120, R124). -/
def execSel (c : Ctl) (d a b : Fld) (s : State) : Res :=
  s.compute c [a] [b] [d] d fun t l => if isTrue (t.get d l) then t.get a l else t.get b l

/-- IABSD: the absolute signed difference as N32 (R124). -/
def execIabsd (c : Ctl) (d a b : Fld) (s : State) : Res :=
  s.compute c [a] [b] [] d fun t l => BitVec.ofNat 32 (s32 (t.get a l) - s32 (t.get b l)).natAbs

/-- IDIV.S (R125). -/
def execIdivS (c : Ctl) (d a b : Fld) (s : State) : Res :=
  s.compute c [a] [b] [] d fun t l => quotS (t.get a l) (t.get b l)

/-- IDIV.N (R125). -/
def execIdivN (c : Ctl) (d a b : Fld) (s : State) : Res :=
  s.compute c [a] [b] [] d fun t l => quotN (t.get a l) (t.get b l)

/-- IREM.S (R125). -/
def execIremS (c : Ctl) (d a b : Fld) (s : State) : Res :=
  s.compute c [a] [b] [] d fun t l => remS (t.get a l) (t.get b l)

/-- IREM.N (R125). -/
def execIremN (c : Ctl) (d a b : Fld) (s : State) : Res :=
  s.compute c [a] [b] [] d fun t l => remN (t.get a l) (t.get b l)

/-- MOV (R130). -/
def execMov (c : Ctl) (d a : Fld) (s : State) : Res :=
  s.compute c [a] [] [] d fun t l => t.get a l

/-- NOT (R130). -/
def execNot (c : Ctl) (d a : Fld) (s : State) : Res :=
  s.compute c [a] [] [] d fun t l => ~~~(t.get a l)

/-- NEG (R130). -/
def execNeg (c : Ctl) (d a : Fld) (s : State) : Res :=
  s.compute c [a] [] [] d fun t l => 0 - t.get a l

/-- IABS: bits [31:0] of the absolute value (R130). -/
def execIabs (c : Ctl) (d a : Fld) (s : State) : Res :=
  s.compute c [a] [] [] d fun t l => BitVec.ofNat 32 (s32 (t.get a l)).natAbs

/-- POPC (R130). -/
def execPopc (c : Ctl) (d a : Fld) (s : State) : Res :=
  s.compute c [a] [] [] d fun t l => BitVec.ofNat 32 (popCount (t.get a l))

/-- CLZ (R130). -/
def execClz (c : Ctl) (d a : Fld) (s : State) : Res :=
  s.compute c [a] [] [] d fun t l => BitVec.ofNat 32 (leadZeros (t.get a l))

/-- CTZ (R130). -/
def execCtz (c : Ctl) (d a : Fld) (s : State) : Res :=
  s.compute c [a] [] [] d fun t l => BitVec.ofNat 32 (trailZeros (t.get a l))

/-- BREV (R130). -/
def execBrev (c : Ctl) (d a : Fld) (s : State) : Res :=
  s.compute c [a] [] [] d fun t l => bitReverse (t.get a l)

/-- SEXT8 (R130). -/
def execSext8 (c : Ctl) (d a : Fld) (s : State) : Res :=
  s.compute c [a] [] [] d fun t l => sext32 ((t.get a l).setWidth 8)

/-- SEXT16 (R130). -/
def execSext16 (c : Ctl) (d a : Fld) (s : State) : Res :=
  s.compute c [a] [] [] d fun t l => sext32 ((t.get a l).setWidth 16)

/-- ZEXT8 (R130). -/
def execZext8 (c : Ctl) (d a : Fld) (s : State) : Res :=
  s.compute c [a] [] [] d fun t l => zext32 ((t.get a l).setWidth 8)

/-- ZEXT16 (R130). -/
def execZext16 (c : Ctl) (d a : Fld) (s : State) : Res :=
  s.compute c [a] [] [] d fun t l => zext32 ((t.get a l).setWidth 16)

/-- ISUNI: the form bit as it stands when A is read, the same in every active lane (R72, R130). -/
def execIsuni (c : Ctl) (d a : Fld) (s : State) : Res :=
  s.compute c [a] [] [] d fun t _ => flagWord (t.formBit a)

/-- IADDI (R128). -/
def execIaddi (c : Ctl) (d a : Fld) (imm : BitVec 8) (s : State) : Res :=
  s.compute c [a] [] [] d fun t l => t.get a l + sext32 imm

/-- SHLI (R128). -/
def execShli (c : Ctl) (d a : Fld) (n : BitVec 5) (s : State) : Res :=
  s.compute c [a] [] [] d fun t l => (t.get a l) <<< n.toNat

/-- SHRI (R128). -/
def execShri (c : Ctl) (d a : Fld) (n : BitVec 5) (s : State) : Res :=
  s.compute c [a] [] [] d fun t l => (t.get a l) >>> n.toNat

/-- SARI (R128). -/
def execSari (c : Ctl) (d a : Fld) (n : BitVec 5) (s : State) : Res :=
  s.compute c [a] [] [] d fun t l => (t.get a l).sshiftRight n.toNat

/-- ROLI (R128). -/
def execRoli (c : Ctl) (d a : Fld) (n : BitVec 5) (s : State) : Res :=
  s.compute c [a] [] [] d fun t l => rotl (t.get a l) n.toNat

/-- LDI (R128). -/
def execLdi (d : Fld) (imm : BitVec 17) (s : State) : Res :=
  s.compute ctlNone [] [] [] d fun _ _ => sext32 imm

/-- LDHI: D[15:0] is kept, and D is read as a source (R120, R128). -/
def execLdhi (d : Fld) (imm : BitVec 16) (s : State) : Res :=
  s.compute ctlNone [] [] [d] d fun t l => imm ++ (t.get d l).setWidth 16

end Sys2Proof.Machine
end

