-- ==== Sys2Proof/Machine/Chisel.lean ====
section
/-!
DEFINITION. Chisels (R193 to R209): the table in memory, which words a routine may hold, running a routine on a line, and the
instructions CHX and CHINST. CHK is legal in chisel code only.
-/

namespace Sys2Proof.Machine

/-! ## Chisel code (R197, R198) -/

/-- An F3 major of the chisel subset (R197). -/
def chiselF3 (op : Nat) : Bool := op == 1 || (4 ≤ op && op ≤ 14) || (16 ≤ op && op ≤ 18)

/-- The word belongs to the subset by its V, C, OP and, for F3 majors, S (R197). LDI has no C bits. -/
def chiselSubset (w : Word) : Bool :=
  let op := (fOp w).toNat
  fV w == 0 && (op == 32 || ((fC w == 0) && (chiselF3 op || op == 29 || op == 30 || op == 31)))

/-- A destination of a chisel word: L, Q, Y or zero (R198). -/
def chiselDest (f : Fld) : Bool := f.toNat ≤ 15 || (20 ≤ f.toNat && f.toNat ≤ 31) || f == f120

/-- A source of a chisel word (R198). -/
def chiselSource (f : Fld) : Bool := f.toNat ≤ 31 || f == f120

/-- The fields of a word of the subset obey R198. IMM8 is bits [9:2]. -/
def chiselFields (w : Word) : Bool :=
  let op := (fOp w).toNat
  let imm := (fFn w).toNat
  if chiselF3 op then
    chiselDest (fD w) && chiselSource (fA w) && chiselSource (fB w) &&
      (if op = 13 ∧ fS w = 0 then chiselSource (fD w) else true)
  else if op = 29 then chiselDest (fD w) && chiselSource (fA w)
  else if op = 30 then chiselDest (fD w) && chiselSource (fA w) && imm / 32 % 2 == 0
  else if op = 31 then fD w == f120 && chiselSource (fA w) && 2 ≤ imm
  else chiselDest (fD w)

/-- The word is CHK. -/
def isChk (w : Word) : Bool := (fOp w).toNat == 31

/-- The chisel registers: 32 words, L0 to L15, P0 to P3, Q0 to Q7, Y0 to Y3 (R43). -/
abbrev ChRegs := List Word

def chGet (r : ChRegs) (f : Fld) : Word := if f.toNat ≤ 31 then r.getD f.toNat 0 else 0

def chSet (r : ChRegs) (f : Fld) (v : Word) : ChRegs := if f.toNat ≤ 31 then r.set f.toNat v else r

/-- The value that an F3 word of the subset writes (R124, R126, R127). -/
def chF3 (op : Nat) (s1 : Bool) (a b d : Word) : Word :=
  match op, s1 with
  | 1, false => a + b
  | 1, true => a - b
  | 4, false => a &&& b
  | 4, true => a &&& ~~~b
  | 5, false => a ||| b
  | 5, true => a ^^^ b
  | 6, false => a <<< shiftCount b
  | 6, true => rotl a (shiftCount b)
  | 7, false => a >>> shiftCount b
  | 7, true => a.sshiftRight (shiftCount b)
  | 8, false => if s32 a ≤ s32 b then a else b
  | 8, true => if a.toNat ≤ b.toNat then a else b
  | 9, false => if s32 a ≤ s32 b then b else a
  | 9, true => if a.toNat ≤ b.toNat then b else a
  | 10, false => flagWord (a == b)
  | 10, true => flagWord (a != b)
  | 11, false => flagWord (decide (s32 a < s32 b))
  | 11, true => flagWord (decide (a.toNat < b.toNat))
  | 12, false => flagWord (decide (s32 a ≤ s32 b))
  | 12, true => flagWord (decide (a.toNat ≤ b.toNat))
  | 13, false => if isTrue d then a else b
  | 13, true => BitVec.ofNat 32 (s32 a - s32 b).natAbs
  | 14, false => fadd a b
  | 14, true => fsub a b
  | 16, false => fmin a b
  | 16, true => fmax a b
  | 17, false => fcmpeq a b
  | 17, true => fcmplt a b
  | 18, false => fcmple a b
  | _, _ => fcmpun a b

/-- The value that SHI writes (R128). -/
def chShi (imm : Nat) (a : Word) : Word :=
  let n := imm % 32
  match imm / 64 with
  | 0 => a <<< n
  | 1 => a >>> n
  | 2 => a.sshiftRight n
  | _ => rotl a n

/-- What a routine answers. -/
inductive ChEnd where
  | abort (code : Nat)
  /-- The registers, and the line words that some word wrote (R199). -/
  | done (r : ChRegs) (changed : List Nat)
  deriving DecidableEq, Repr

/-- Runs the words of a routine in order (R199, R205). -/
def chRun : List Word → ChRegs → List Nat → ChEnd
  | [], r, ch => .done r ch
  | w :: ws, r, ch =>
    let op := (fOp w).toNat
    let d := fD w
    let a := chGet r (fA w)
    let imm := fFn w
    if op = 31 then (if a ≠ 0 then .abort imm.toNat else chRun ws r ch)
    else
      let v :=
        if op = 29 then a + sext32 imm
        else if op = 30 then chShi imm.toNat a
        else if op = 32 then sext32 (w.extractLsb' 0 17)
        else chF3 op (bit1 (fS w)) a (chGet r (fB w)) (chGet r d)
      chRun ws (chSet r d v) (if d.toNat ≤ 15 then d.toNat :: ch else ch)

/-- The registers at the start (R199). -/
def chInit (line : List Word) (p : List Word) : ChRegs := line ++ p ++ List.replicate 12 0

/-- Words of the line that a routine reads before it writes them: none where the whole line is written unread (R209). -/
def chReads : List Word → List Nat → List Nat
  | [], _ => []
  | w :: ws, wrote =>
    let op := (fOp w).toNat
    let d := (fD w).toNat
    let srcs := if op = 32 then [] else if op < 29 then [(fA w).toNat, (fB w).toNat] else [(fA w).toNat]
    let all := if op = 13 ∧ fS w = 0 then d :: srcs else srcs
    (all.filter fun i => i ≤ 15 && !wrote.contains i) ++ chReads ws (if op ≠ 31 ∧ d ≤ 15 then d :: wrote else wrote)

/-! ## The table (R193, R194) -/

/-- The header word of entry i of a context. -/
def State.chHeader (s : State) (ctx i : Nat) : Word :=
  match s.ctx? ctx with
  | none => 0
  | some c => s.physWord (c.cht.toNat + 128 * i)

def chValid (h : Word) : Bool := wbit h 15
def chChkp (h : Word) : Bool := wbit h 14
def chLen (h : Word) : Nat := wfld h 12 8
def chGen (h : Word) : Nat := wfld h 7 0

/-- The routine of entry i. -/
def State.chCode (s : State) (ctx i : Nat) : List Word :=
  match s.ctx? ctx with
  | none => []
  | some c => (bytesWords (s.phys (c.cht.toNat + 128 * i + 4) 64)).take (chLen (s.chHeader ctx i))

/-- A header word (R194). -/
def chHead (valid chkp refused : Bool) (len gen : Nat) : Word :=
  BitVec.ofNat 32 (0x01000000 + (if valid then 32768 else 0) + (if chkp then 16384 else 0) + (if refused then 8192 else 0) +
    256 * len + gen % 256)

/-- The poisoned line of entry i of the table (R209). -/
def State.chPoison (s : State) (ctx i : Nat) : Option Nat :=
  match s.ctx? ctx with
  | none => none
  | some c => s.poisonIn (c.cht.toNat + 128 * i) 128

/-- Writes entry i (R196): its header, and a routine when one is installed. -/
def State.chWrite (s : State) (ctx i : Nat) (h : Word) (code : List Word) : State :=
  match s.ctx? ctx with
  | none => s
  | some c =>
    let s1 := s.engineWrite ctx (c.cht.toNat + 128 * i) (wordBytes h)
    if code = [] then s1 else s1.engineWrite ctx (c.cht.toNat + 128 * i + 4) (wordsBytes code)

/-! ## CHX (R203, R204) -/

/-- CHX: the checks of R203 (a poisoned line of the table contains the context, R209), then one request for each lane to its line's home bank. With CHKP the team is held until the
outcome returns (R204); the request keeps the offset for the trap of an abort, and the destinations are marked with the result. -/
def execChx (d a : Fld) (x : BitVec 3) (idx : BitVec 7) (s : State) : Res :=
  let ds := run d 4
  s.issue ctlNone [a] [] ds ds fun t =>
    let h := s.chHeader t.ctx idx.toNat
    if (s.chPoison t.ctx idx.toNat).isSome then s.contain t.ctx (s.chPoison t.ctx idx.toNat)
    else if !chValid h then s.trap t 11 0 t.mask (t.getLow a)
    else if chChkp h ∧ 1 < t.lanes.length then s.trap t 11 1 t.mask (t.getLow a)
    else
      let acc : Access := { n := 64, align := 64, write := true, kind := 3,
                            forbid := fun _ pa _ at_ => at_.rlf || at_.raw || isRemote pa }
      let data (l : Nat) : List Word := ds.map fun f => t.get f l
      s.global t x.toNat acc t.lanes (t.get a) data fun s1 lanes =>
        if s1.anyLoadAhead t lanes 64 then s1.waitCounter t (.loads s1.nextId)
        else
          s1.staged t lanes
            (let k : ReqKind := .chx idx.toNat (chGen h) (s1.chCode t.ctx idx.toNat) (chChkp h)
             let m := s1.markSpoil t false 64 (lanes.map fun y => { y with data := data y.lane ++ [t.get a y.lane] })
             if chChkp h then
               (m.2.addReq t k (t.regsOf ds) m.1 []).putTeam { t with hold := some (.chx s1.nextId), st := .ready }
             else m.2.launch t ctlNone [a] k ds m.1 none)

/-! ## CHINST (R200, R201) -/

/-- The status of a routine: 0, or 3 or 4 with the first refused word (R201). -/
def chStatus : Nat → List Word → Nat × Nat
  | _, [] => (0, 0)
  | j, w :: ws =>
    if !chiselSubset w then (3, j)
    else if !chiselFields w then (4, j)
    else chStatus (j + 1) ws

/-- The entry that CHINST leaves for a status (R196, R201). CHKP of an entry that status 3 or 4 leaves Refused is 0: such an entry
holds no routine (notes/assumptions/79.md). -/
def State.chInstall (s : State) (ctx i st : Nat) (code : List Word) : State :=
  let g := chGen (s.chHeader ctx i) + 1
  if st = 0 then s.chWrite ctx i (chHead true (code.any isChk) false code.length g) code
  else if st = 1 then s.chWrite ctx i (chHead false false false 0 g) []
  else s.chWrite ctx i (chHead false false true 0 g) []

/-- The context holds the chisel-install right (R301). -/
def State.chi (s : State) (ctx : Nat) : Bool :=
  match s.ctx? ctx with
  | none => false
  | some c => wbit c.cfg 31

/-- The entry is written and the team is held until the requests of the old generation have completed; the status lands then
(R201). -/
def State.chFinish (s : State) (t : Team) (c : Ctl) (d a : Fld) (i st k : Nat) (code : List Word) : State :=
  let old := chGen (s.chHeader t.ctx i)
  (s.chInstall t.ctx i st code).putTeam
    { t with hold := some (.chinst c d a (BitVec.ofNat 32 (st + 256 * k)) i old), st := .ready }

/-- CHINST is a release at device scope (R202): it reads the routine and writes the entry once the conditions of R166 hold for the
team's earlier accesses. Until then the team is held, its state unchanged (R201). -/
def State.installed (s : State) (t : Team) (k : State) : State :=
  if s.releaseDone t.id .device s.nextId then k else s.putTeam { t with hold := some (.install s.nextId), st := .ready }

/-- CHINST (R200, R201). -/
def execChinst (c : Ctl) (d a : Fld) (s : State) : Res :=
  let a1 := fplus a 1
  s.issue c [a, a1] [] [] [d] fun t =>
    s.uniforms t [a, a1]
      (let w := t.getLow a
       let o := t.getLow a1
       if !s.chi t.ctx then s.protect t 0
       else if wfld w 31 15 ≠ 0 then s.protect t w
       else
         let i := wfld w 6 0
         let n := wfld w 11 7
         if (s.chPoison t.ctx i).isSome then s.contain t.ctx (s.chPoison t.ctx i)
         else if 16 < n then s.installed t (s.chFinish t c d a i 2 0 [])
         else if n = 0 then s.installed t (s.chFinish t c d a i 1 0 [])
         else
           let acc : Access := { n := 4 * n, align := 4, write := false, kind := 0,
                                 forbid := fun _ _ _ at_ => at_.rlf || at_.raw }
           match s.globalCheck t (t.xl.getD (wfld w 14 12) Xl.reset) acc [t.low] (fun _ => o) (fun _ => false)
               (fun _ => false) (fun _ _ => o) with
           | (s1, .trap cause _ v) => s1.trap t cause 0 t.mask v
           | (s1, .park _ va) => s1.pageFault t t.mask va 0
           | (s1, .intercept _ va) => s1.writeIntercept t t.mask va []
           | (s1, .ok lanes) =>
             match lanes with
             | [] => s1
             | y :: _ =>
               s1.installed t
                 (match (s1.poisonIn y.pa y.cut).or (if y.cut < 4 * n then s1.poisonIn y.pa2 (4 * n - y.cut) else none) with
                  | some l => s1.contain t.ctx (some l)
                  | none =>
                    let code := bytesWords (s1.phys y.pa y.cut ++ s1.phys y.pa2 (4 * n - y.cut))
                    let r := chStatus 0 code
                    s1.chFinish t c d a i r.1 r.2 code))

/-- CHK is chisel code; in a team's instruction stream its word is illegal (R44, R198). -/
def execChk (a : Fld) (code : BitVec 8) (s : State) : Res :=
  s.withTeam fun t => s.illegal t (encodeWord (.chk a code))

end Sys2Proof.Machine
end

