-- ==== Sys2Proof/Machine/Convert.lean ====
section
/-!
DEFINITION. The CVT class (R134, R135).
-/

namespace Sys2Proof.Machine

/-- Byte n of a word. -/
def byteOf (w : Word) (n : BitVec 2) : Byte := w.extractLsb' (8 * n.toNat) 8

/-- A word with byte n replaced. -/
def setByte (w : Word) (n : BitVec 2) (b : Byte) : Word :=
  (w &&& ~~~((0xFF#32) <<< (8 * n.toNat))) ||| ((zext32 b) <<< (8 * n.toNat))

/-- CVT.F32.I32 (R134). -/
def execCvtF32I32 (c : Ctl) (d a : Fld) (s : State) : Res :=
  s.compute c [a] [] [] d fun t l => cvtF32I32 (t.get a l)

/-- CVT.F32.N32 (R134). -/
def execCvtF32N32 (c : Ctl) (d a : Fld) (s : State) : Res :=
  s.compute c [a] [] [] d fun t l => cvtF32N32 (t.get a l)

/-- CVT.I32.F32 (R134). -/
def execCvtI32F32 (c : Ctl) (d a : Fld) (s : State) : Res :=
  s.compute c [a] [] [] d fun t l => cvtI32F32 (t.get a l)

/-- CVT.N32.F32 (R134). -/
def execCvtN32F32 (c : Ctl) (d a : Fld) (s : State) : Res :=
  s.compute c [a] [] [] d fun t l => cvtN32F32 (t.get a l)

/-- CVT.F32.B16 (R134). -/
def execCvtF32B16 (c : Ctl) (d a : Fld) (s : State) : Res :=
  s.compute c [a] [] [] d fun t l => ofB16 ((t.get a l).setWidth 16)

/-- CVT.F32.B16H (R134). -/
def execCvtF32B16h (c : Ctl) (d a : Fld) (s : State) : Res :=
  s.compute c [a] [] [] d fun t l => ofB16 ((t.get a l).extractLsb' 16 16)

/-- CVT.B16.F32: D[31:16] is kept (R134). -/
def execCvtB16F32 (c : Ctl) (d a : Fld) (s : State) : Res :=
  s.compute c [a] [] [d] d fun t l => (t.get d l).extractLsb' 16 16 ++ toB16 (t.get a l)

/-- CVT.B16H.F32: D[15:0] is kept (R134). -/
def execCvtB16hF32 (c : Ctl) (d a : Fld) (s : State) : Res :=
  s.compute c [a] [] [d] d fun t l => toB16 (t.get a l) ++ (t.get d l).setWidth 16

/-- CVT.E4.F32 into byte n; the other bytes are kept (R134). -/
def execCvtE4F32 (c : Ctl) (n : BitVec 2) (d a : Fld) (s : State) : Res :=
  s.compute c [a] [] [d] d fun t l => setByte (t.get d l) n (toE4 (t.get a l))

/-- CVT.E5.F32 into byte n; the other bytes are kept (R134). -/
def execCvtE5F32 (c : Ctl) (n : BitVec 2) (d a : Fld) (s : State) : Res :=
  s.compute c [a] [] [d] d fun t l => setByte (t.get d l) n (toE5 (t.get a l))

/-- CVT.F32.E4 from byte n (R134). -/
def execCvtF32E4 (c : Ctl) (n : BitVec 2) (d a : Fld) (s : State) : Res :=
  s.compute c [a] [] [] d fun t l => ofE4 (byteOf (t.get a l) n)

/-- CVT.F32.E5 from byte n (R134). -/
def execCvtF32E5 (c : Ctl) (n : BitVec 2) (d a : Fld) (s : State) : Res :=
  s.compute c [a] [] [] d fun t l => ofE5 (byteOf (t.get a l) n)

/-- CVT.F32.Q4 from nibble n (R108, R134). -/
def execCvtF32Q4 (c : Ctl) (n : BitVec 3) (d a : Fld) (s : State) : Res :=
  s.compute c [a] [] [] d fun t l => rne32 (q4Value ((t.get a l).extractLsb' (4 * n.toNat) 4))

/-- QSCALE: the group scale is in D (R135). -/
def execQscale (c : Ctl) (d a : Fld) (s : State) : Res :=
  s.compute c [a] [] [d] d fun t l => qscale (t.get d l) ((t.get a l).setWidth 8)

/-- QENC: the block scale is in D (R135). -/
def execQenc (c : Ctl) (d a : Fld) (s : State) : Res :=
  s.compute c [a] [] [d] d fun t l => qenc (t.get a l) (t.get d l)

end Sys2Proof.Machine
end

