-- ==== Sys2Proof/Machine/Flow.lean ====
section
/-!
DEFINITION. Branches (R88 to R92) and the FLOW class (R93, R94): PC, the active set and the reconvergence stack.
-/

namespace Sys2Proof.Machine

/-- The target of an FB word (R34). -/
def fbTarget (pc : Word) (disp : BitVec 17) : Word := pc + 4 + 4 * sext32 disp

/-- The instruction has completed and the team goes on at next. -/
def State.jump (s : State) (c : Ctl) (t : Team) (next : Word) : State :=
  (s.putTeam (t.advance next)).yieldIf c t.id

/-- The nonuniform-branch trap unless the tested value is uniform (R73, R84). -/
def State.branchUniform (s : State) (t : Team) (a : Fld) (k : State) : State :=
  if t.uniform (t.get a) then k else s.trap t 4 0 t.mask (t.getLow a)

/-- BRA (R89). -/
def execBra (a : Fld) (disp : BitVec 17) (s : State) : Res :=
  s.issue ctlNone [] [] [a] [] fun t =>
    s.branchUniform t a (s.jump ctlNone t (if isTrue (t.getLow a) then fbTarget t.pc disp else t.pc + 4))

/-- BRZ (R89). -/
def execBrz (a : Fld) (disp : BitVec 17) (s : State) : Res :=
  s.issue ctlNone [] [] [a] [] fun t =>
    s.branchUniform t a (s.jump ctlNone t (if isTrue (t.getLow a) then t.pc + 4 else fbTarget t.pc disp))

/-- BDIV (R90). -/
def execBdiv (a : Fld) (disp : BitVec 17) (s : State) : Res :=
  s.issue ctlNone [] [] [a] [] fun t =>
    let taken := t.lanes.filter fun l => isTrue (t.get a l)
    let stay := t.lanes.filter fun l => !isTrue (t.get a l)
    if taken = [] then s.jump ctlNone t (t.pc + 4)
    else if stay = [] then s.jump ctlNone t (fbTarget t.pc disp)
    else
      s.pushEntry t { kind := .pending, mask := maskOf stay, pc := t.pc + 4, fmt := t.fmt } fun u =>
        s.putTeam { u with mask := maskOf taken, pc := fbTarget t.pc disp, st := .ready }

/-- JPT (R91). -/
def execJpt (disp : BitVec 17) (s : State) : Res :=
  s.withTeam fun t =>
    s.pushEntry t { kind := .join, mask := t.mask, pc := fbTarget t.pc disp, fmt := t.fmt } fun u =>
      s.putTeam { u with pc := t.pc + 4, st := .ready }

/-- CALL: the return address goes to A as a uniform value (R92). -/
def execCall (a : Fld) (disp : BitVec 17) (s : State) : Res :=
  s.issue ctlNone [] [] [] [a] fun t =>
    s.jump ctlNone (t.write t [(a, fun _ => t.pc + 4)]) (fbTarget t.pc disp)

/-- Stack misuse or handler misuse: the barrier-misuse trap with TRAPA 0 (R81). -/
def State.misuse (s : State) (t : Team) (detail : Nat) : State := s.trap t 12 detail t.mask 0

/-- JOIN (R80, R81). -/
def execJoin (c : Ctl) (s : State) : Res :=
  s.withTeam fun t =>
    match t.stack with
    | [] => s.misuse t 1
    | { kind := .trap _, .. } :: _ => s.misuse t 1
    | _ => (s.putTeam t.pop).yieldIf c t.id

/-- A join entry lies above the innermost trap entry (R81). -/
def joinAbove : List Entry → Bool
  | [] => false
  | { kind := .trap _, .. } :: _ => false
  | { kind := .join, .. } :: _ => true
  | _ :: rest => joinAbove rest

/-- BRK: the active lanes wait at the innermost join entry (R81, R94). -/
def execBrk (c : Ctl) (s : State) : Res :=
  s.withTeam fun t =>
    if joinAbove t.stack then (s.putTeam t.pop).yieldIf c t.id else s.misuse t 1

/-- EXIT: the active lanes leave every path (R94). -/
def execExitI (c : Ctl) (s : State) : Res :=
  s.withTeam fun t => (s.exitLanes t t.mask).yieldIf c t.id

/-- The checks of RET, JMPR and CALLR: a target that is not uniform, then one that is not aligned (R94). -/
def State.target (s : State) (t : Team) (a : Fld) (k : State) : State :=
  s.branchUniform t a (if (t.getLow a).toNat % 4 ≠ 0 then s.trap t 7 0 t.mask (t.getLow a) else k)

/-- RET (R94). -/
def execRet (c : Ctl) (a : Fld) (s : State) : Res :=
  s.issue c [a] [] [] [] fun t => s.target t a (s.jump c (t.useMarks c [a] []) (t.getLow a))

/-- JMPR (R94). -/
def execJmpr (c : Ctl) (a : Fld) (s : State) : Res :=
  s.issue c [a] [] [] [] fun t => s.target t a (s.jump c (t.useMarks c [a] []) (t.getLow a))

/-- CALLR: the old A is the target even when D names the same register (R94). -/
def execCallr (c : Ctl) (d a : Fld) (s : State) : Res :=
  s.issue c [a] [] [] [d] fun t =>
    s.target t a (s.jump c ((t.useMarks c [a] []).write t [(d, fun _ => t.pc + 4)]) (t.getLow a))

/-- YIELD: the team becomes the youngest of its quadrant (R94). -/
def execYield (c : Ctl) (s : State) : Res :=
  s.withTeam fun t => (s.complete c t).youngest t.id

/-- Setting WBASE to b (R71, R94). -/
def State.setWbase (s : State) (c : Ctl) (t : Team) (as : List Fld) (b : Word) : State :=
  if b.toNat % 8 ≠ 0 ∨ t.p - 8 < b.toNat then s.trap t 6 0 t.mask b
  else s.complete c { t.useMarks c as [] with wbase := b.toNat }

/-- WINB: A is read under the old WBASE (R94). -/
def execWinb (c : Ctl) (a : Fld) (s : State) : Res :=
  s.issue c [a] [] [] [] fun t =>
    if t.uniform (t.get a) then s.setWbase c t [a] (t.getLow a) else s.trap t 5 0 t.mask 259

/-- NOP (R94). -/
def execNop (c : Ctl) (s : State) : Res := s.withTeam fun t => s.complete c t

/-- TRET (R85). -/
def execTret (c : Ctl) (s : State) : Res :=
  s.withTeam fun t =>
    match t.stack with
    | e :: rest =>
      match e.kind with
      | .trap _ => (s.putTeam (t.tret e rest)).yieldIf c t.id
      | _ => s.misuse t 2
    | [] => s.misuse t 2

/-- TSKIP (R85). -/
def execTskip (c : Ctl) (s : State) : Res :=
  s.withTeam fun t =>
    match t.stack with
    | e :: rest =>
      match e.kind with
      | .trap f => (s.skip { t with stack := rest } e.mask f e.pc e.fmt).yieldIf c t.id
      | _ => s.misuse t 2
    | [] => s.misuse t 2

end Sys2Proof.Machine
end

