-- ==== Sys2Proof/Machine/Barrier.lean ====
section
/-!
DEFINITION. The SYNC class (R210 to R225): which circuits and members an instruction reaches, the checks of R218, arrivals,
waits and path yield.
-/

namespace Sys2Proof.Machine

/-- The scope of a barrier level (R157, R210). -/
def levelScope : SyncLevel → Scope
  | .group => .team
  | .team => .team
  | .cluster => .cluster
  | .grid => .device

/-- The scope of the level of a barrier. -/
def keyScope : CKey → Scope
  | .group _ _ => .team
  | .team _ _ => .team
  | .cluster _ _ => .cluster
  | .grid _ _ => .device

/-- An earlier ARV of the team has not counted, or the release of an earlier REMIT, WMARK or SIDLE is still waiting for its conditions: a
later store, atomic or chisel is not registered before it (R182, R183, R222, R377). -/
def State.relAhead (s : State) (team id : Nat) : Bool :=
  (match s.team? team with
   | some t => t.arvs.any fun a => a.upto ≤ id && keyScope a.key != .team
   | none => false) ||
  s.reqs.any fun r => r.team == team && r.id < id &&
    match r.kind with
    | .strm op _ => 2 ≤ op && op ≤ 4 && !s.releaseDone team .device r.id
    | _ => false

/-- FN of a SYNC word (R53). -/
def syncFn (lvl : SyncLevel) (n : BitVec 4) (mode : Nat) : Nat := 64 * (levelBits lvl).toNat + 4 * n.toNat + mode

/-- The groups with an active lane. -/
def Team.activeGroups (t : Team) : List Nat := (List.range t.groups).filter fun g => t.groupLanes g != []

/-- The circuits that a SYNC of the active path reaches, each with its active members (R210). -/
def Team.reach (t : Team) (lvl : SyncLevel) (n : BitVec 4) : List (CKey × List Nat) :=
  match lvl with
  | .group => t.activeGroups.map fun g => (.group t.id g, t.groupLanes g)
  | .team => [(.team t.id n.toNat, t.activeGroups)]
  | .cluster => [(.cluster t.cset n.toNat, [t.id])]
  | .grid => [(.grid t.kernel n.toNat, [t.id])]

/-- The barrier is usable (R211): its circuit was given at placement; children and instances have no grid barriers (R262). -/
def State.usableBarrier (s : State) (t : Team) (lvl : SyncLevel) (n : BitVec 4) : Bool :=
  (lvl != .grid || t.kind == .ordinary) && (t.reach lvl n).all fun x => (s.circuit? t.ctx x.1).isSome

/-- The expected count that an arrival names at a circuit; 0 is the membership (R215). -/
def expCount (c : Circuit) (e : Nat) : Nat := if e = 0 then c.membership else e

/-- An arrival passes checks 2 and 3 of R218 at a circuit. -/
def arrivalOk (c : Circuit) (e : Nat) : Bool :=
  expCount c e ≤ c.membership && (c.expected == none || c.expected == some (expCount c e))

/-- Some of the members have their arrived bit set. -/
def State.anyArrived (s : State) (t : Team) (rs : List (CKey × List Nat)) : Bool :=
  rs.any fun x =>
    match s.circuit? t.ctx x.1 with
    | none => false
    | some c => x.2.any c.arrived.contains

/-- An arrival of the team to one of the circuits has not counted yet (R219). -/
def Team.pendingArv (t : Team) (rs : List (CKey × List Nat)) : Bool := rs.any fun x => t.arvs.any fun a => a.key == x.1

/-- An arrival that completes its phase at once (R221). -/
def completesNow (c : Circuit) (ms : List Nat) (e : Nat) : Bool := expCount c e ≤ c.count + ms.length

/-- The members arrive at every circuit (R219). -/
def State.arriveAll (s : State) (ctx : Nat) (rs : List (CKey × List Nat)) (e : Nat) : State :=
  s.modCircuits ctx fun cs => rs.foldl (fun u x => modCircuit u x.1 fun k => k.arrive x.2 (expCount k e)) cs

/-- The present phase of the first circuit. -/
def State.phaseOf (s : State) (ctx : Nat) (key : CKey) : Nat :=
  match s.circuit? ctx key with
  | none => 0
  | some c => c.phase

/-- The team acquires at the scope of a level, waiting first until its earlier loads have bound their values (R167). u is the
team after its instruction. -/
def State.acquireThen (s : State) (c : Ctl) (u : Team) (sc : Scope) : State :=
  if sc == .team || s.boundDone u.id s.nextId then ((s.putTeam u).acquire u.core sc).yieldIf c u.id
  else (s.putTeam { u with st := .waitingCounter (.bound sc s.nextId), finish := .acquire sc }).yieldIf c u.id

/-- Path yield, or a wait in Waiting-barrier (R82, R219). u is the team after its SYNC, w the phase it awaits. -/
def State.waitPhase (s : State) (u : Team) (lvl : SyncLevel) (w : BWait) : State :=
  let stay := s.putTeam { u with st := .waitingBarrier [w] }
  if lvl = .team then
    match u.stack with
    | e :: rest =>
      let mine : Entry := { kind := .yielded w, mask := u.mask, pc := u.pc, fmt := u.fmt }
      match e.kind with
      | .pending => s.putTeam (u.takePath e (mine :: rest))
      | .yielded _ => s.putTeam (u.takePath e (mine :: rest))
      | _ => stay
    | [] => stay
  else stay

/-- The checks of R218, in order; mode as R53 numbers it. -/
def State.syncChecks (s : State) (t : Team) (lvl : SyncLevel) (n : BitVec 4) (mode e : Nat) (k : State) : State :=
  let rs := t.reach lvl n
  let bad := s.trap t 12 0 t.mask (BitVec.ofNat 32 (syncFn lvl n mode))
  if !s.usableBarrier t lvl n then bad
  else if mode ≤ 1 ∧ !(rs.all fun x => match s.circuit? t.ctx x.1 with | none => false | some c => arrivalOk c e) then bad
  else if lvl = .group ∧ mode = 1 ∧ (s.anyArrived t rs ∨ !(rs.all fun x =>
      match s.circuit? t.ctx x.1 with | none => false | some c => completesNow c x.2 e)) then bad
  else if lvl = .group ∧ mode = 2 ∧ s.anyArrived t rs then bad
  else k

/-- A held arrival waits for the phase to flip, without path yield, and is then reissued (R219). -/
def State.holdArrival (s : State) (t : Team) (rs : List (CKey × List Nat)) : State :=
  let key := ((rs.head?).map (·.1)).getD (.team t.id 0)
  let key := ((rs.find? fun x => s.anyArrived t [x] || t.pendingArv [x]).map (·.1)).getD key
  s.putTeam { t with st := .waitingHeld { key := key, phase := s.phaseOf t.ctx key } }

/-- ARV: the arrival counts once the conditions of R166 hold; the team issues on (R219). -/
def execArv (c : Ctl) (lvl : SyncLevel) (n : BitVec 4) (a : Fld) (s : State) : Res :=
  s.issue c [a] [] [] [] fun t =>
    let e := (t.getLow a).toNat
    let rs := t.reach lvl n
    s.syncChecks t lvl n 0 e
      (if s.anyArrived t rs || t.pendingArv rs then s.holdArrival t rs
       else
         let u := t.useMarks c [a] []
         if s.releaseDone t.id (levelScope lvl) s.nextId then (s.arriveAll t.ctx rs e).complete c u
         else s.complete c
           { u with arvs := u.arvs ++ rs.map fun x => { key := x.1, members := x.2, exp := e, upto := s.nextId } })

/-- SYN: an arrival, then a wait for its phase and an acquire (R219, R82). -/
def execSyn (c : Ctl) (lvl : SyncLevel) (n : BitVec 4) (a : Fld) (s : State) : Res :=
  s.issue c [a] [] [] [] fun t =>
    let e := (t.getLow a).toNat
    let rs := t.reach lvl n
    s.syncChecks t lvl n 1 e
      (if s.anyArrived t rs || t.pendingArv rs then s.holdArrival t rs
       else
         let u := (t.useMarks c [a] []).advance (t.pc + 4)
         if s.releaseDone t.id (levelScope lvl) s.nextId then
           let s1 := s.arriveAll t.ctx rs e
           if s1.anyArrived t rs then
             match rs with
             | x :: _ => (s1.waitPhase u lvl { key := x.1, phase := s1.phaseOf t.ctx x.1 }).yieldIf c t.id
             | [] => s1.putTeam u
           else s1.acquireThen c u (levelScope lvl)
         else
           match rs with
           | x :: _ =>
             (s.putTeam { u with
               st := .waitingArrival x.1 false
               arvs := u.arvs ++ rs.map fun y => { key := y.1, members := y.2, exp := e, upto := s.nextId } }).yieldIf c t.id
           | [] => s.putTeam u)

/-- WT: waits for the phase in which the members have arrived (R219, R82). An arrival of the team that has not counted yet
counts first, and WT is then reissued (notes/assumptions/9.md). -/
def execWt (c : Ctl) (lvl : SyncLevel) (n : BitVec 4) (s : State) : Res :=
  s.withTeam fun t =>
    let rs := t.reach lvl n
    s.syncChecks t lvl n 2 0
      (match rs with
       | [] => s.complete c t
       | x :: _ =>
         if t.pendingArv rs then s.putTeam { t with st := .waitingArrival x.1 true }
         else if s.anyArrived t rs then
           (s.waitPhase (t.advance (t.pc + 4)) lvl { key := x.1, phase := s.phaseOf t.ctx x.1 }).yieldIf c t.id
         else s.acquireThen c (t.advance (t.pc + 4)) (levelScope lvl))

/-- The predicate of TRY: no active member has arrived, nor an arrival that has not counted (R220). -/
def State.tryPred (s : State) (t : Team) (lvl : SyncLevel) (n : BitVec 4) : Bool :=
  !s.anyArrived t (t.reach lvl n) && !t.pendingArv (t.reach lvl n)

/-- TRY ends with predicate p: an acquire when it is 1, and D (R220). -/
def State.tryEnd (s : State) (t : Team) (c : Ctl) (d : Fld) (lvl : SyncLevel) (p : Bool) : State :=
  let s1 := if p then s.acquire t.core (levelScope lvl) else s
  s1.finishWrite c [] [] t [(d, fun _ => flagWord p)]

/-- TRY: tests the phase, suspending the team for at most its hint (R220). -/
def execTrySync (c : Ctl) (lvl : SyncLevel) (n : BitVec 4) (d : Fld) (s : State) : Res :=
  s.issue c [] [] [d] [d] fun t =>
    let h := (t.getLow d).toNat
    s.syncChecks t lvl n 3 0
      (if s.tryPred t lvl n then
         (if levelScope lvl == .team || s.boundDone t.id s.nextId then s.tryEnd t c d lvl true
          else s.waitCounter t (.bound (levelScope lvl) s.nextId))
       else if h = 0 ∨ lvl = .group then s.tryEnd t c d lvl false
       else
         match t.reach lvl n with
         | [] => s.tryEnd t c d lvl true
         | x :: _ =>
           s.putTeam { t with
             st := .suspended { key := x.1, phase := s.phaseOf t.ctx x.1 } (s.coreTime t.core + h)
             finish := .tryDone c d lvl n })

end Sys2Proof.Machine
end

