-- ==== Sys2Proof/Machine/Order.lean ====
section
/-!
DEFINITION. Fences (R165 to R168), copy batches (CPY, SEAL, WAITB: R172 to R177), WAITC (R155) and XLT (R145).
-/

namespace Sys2Proof.Machine

/-! ## Fences -/

/-- The team u, past its instruction, waits for the release conditions of its accesses so far, then acquires at acq. -/
def State.releaseThen (s : State) (c : Ctl) (u : Team) (sc acq : Scope) : State :=
  if s.releaseDone u.id sc s.nextId then ((s.putTeam u).acquire u.core acq).yieldIf c u.id
  else (s.putTeam { u with st := .waitingCounter (.release sc s.nextId), finish := .acquire acq }).yieldIf c u.id

/-- FENCE.ACQ (R167). -/
def execFenceAcq (c : Ctl) (sc : Scope) (s : State) : Res :=
  s.withTeam fun t => s.acquireThen c (t.advance (t.pc + 4)) sc

/-- FENCE.REL (R166). -/
def execFenceRel (c : Ctl) (sc : Scope) (s : State) : Res :=
  s.withTeam fun t => s.releaseThen c (t.advance (t.pc + 4)) sc .team

/-- FENCE.AR: FENCE.REL, then FENCE.ACQ (R168). -/
def execFenceAr (c : Ctl) (sc : Scope) (s : State) : Res :=
  s.withTeam fun t => s.releaseThen c (t.advance (t.pc + 4)) sc sc

/-! ## Ring control blocks (R272, R273) -/

/-- A ring control block after reset (R272). -/
def Rcb.reset (k : RcbKey) : Rcb :=
  { key := k, cfg := 0x04010000#32, base := 0, ovf := 0, head := 0, tail := 0,
    slots := List.replicate 2 { st := .empty, credit := 0, exp := 0, fail := false } }

def Rcb.en (r : Rcb) : Bool := wbit r.cfg 31
def Rcb.log2s (r : Rcb) : Nat := wfld r.cfg 28 24
def Rcb.count (r : Rcb) : Nat := wfld r.cfg 23 16 + 1
def Rcb.slot (r : Rcb) (n : Nat) : Slot := r.slots.getD n { st := .empty, credit := 0, exp := 0, fail := false }
def Rcb.setSlot (r : Rcb) (n : Nat) (x : Slot) : Rcb := { r with slots := r.slots.set n x }
def Rcb.overflow (r : Rcb) : Rcb := { r with ovf := min 255 (r.ovf + 1) }

def Ctx.rcb (c : Ctx) (k : RcbKey) : Rcb := (c.rcbs.find? fun r => r.key == k).getD (Rcb.reset k)

def Ctx.putRcb (c : Ctx) (r : Rcb) : Ctx := { c with rcbs := r :: c.rcbs.filter fun x => x.key != r.key }

def State.rcb (s : State) (ctx : Nat) (k : RcbKey) : Rcb :=
  match s.ctx? ctx with
  | none => Rcb.reset k
  | some c => c.rcb k

def State.putRcb (s : State) (ctx : Nat) (r : Rcb) : State := s.modCtx ctx fun c => c.putRcb r

/-- An arriving credit of n bytes (R273). -/
def Rcb.credit (r : Rcb) (n : Nat) (sl bytes : Nat) (failed : Bool) : Rcb :=
  let x := r.slot sl
  if n ≤ sl then r.overflow
  else
    match x.st with
    | .acquired =>
      let v := x.credit + bytes
      let y := { x with credit := min v 0xFFFFFF, fail := x.fail || failed }
      if 0xFFFFFF < v then (r.setSlot sl y).overflow else r.setSlot sl y
    | .pendingBytes =>
      let v := x.credit + bytes
      let lim := min x.exp 0xFFFFFF
      let y := { x with credit := min v lim, fail := x.fail || failed }
      let z := if y.credit = x.exp then { y with st := .full } else y
      if lim < v then (r.setSlot sl z).overflow else r.setSlot sl z
    | _ => r.overflow

/-- The credit of a copy command reaches its ring (R273); a command without one credits nothing. -/
def State.creditRing (s : State) (ctx : Nat) (dest : Option (RcbKey × Nat)) (n : Nat) (failed : Bool) : State :=
  match dest with
  | none => s
  | some (k, sl) => s.putRcb ctx ((s.rcb ctx k).credit (s.rcb ctx k).count sl n failed)

/-! ## Copy batches -/

def State.copy? (s : State) (id : Nat) : Option Copyc := s.copies.find? fun k => k.id == id

/-- A command of a batch is over: complete, or stopped and its batch failed (R173, R174). -/
def State.copyOver (s : State) (id : Nat) : Bool :=
  match s.copy? id with
  | none => true
  | some k => k.complete || k.failed

def State.copyFailed (s : State) (id : Nat) : Bool :=
  match s.copy? id with
  | none => false
  | some k => k.failed

/-- Every command of a batch is over. -/
def State.batchOver (s : State) (b : Batch) : Bool := b.cmds.all s.copyOver

/-- Batch b was sealed no later than number n (R176). -/
def Batch.upTo (b : Batch) (n : Word) : Bool := decide ((n - BitVec.ofNat 32 b.num).toNat < 2 ^ 31)

/-- Every batch up to n is over. -/
def State.batchesOver (s : State) (t : Team) (n : Word) : Bool := t.batches.all fun b => !b.upTo n || s.batchOver b

/-- BATCH (R177): the last number before the first batch that is not over. -/
def State.batchDone (s : State) (t : Team) : Word :=
  BitVec.ofNat 32 (((t.batches.takeWhile s.batchOver).getLast?.map (·.num)).getD 0)

/-- SEAL (R175). -/
def execSeal (c : Ctl) (d : Fld) (s : State) : Res :=
  s.issue c [] [] [] [d] fun t =>
    let l := if t.sealed + 1 = 2 ^ 32 then 1 else t.sealed + 1
    s.finishWrite c [] [] { t with sealed := l, openBatch := [],
                                   batches := t.batches ++ [{ num := l, cmds := t.openBatch, reported := false }] }
      [(d, fun _ => BitVec.ofNat 32 l)]

/-- The copies that batches of the team up to n wrote leave the issuing core's L1, but for owned words (R176). -/
def State.dropBatchWords (s : State) (t : Team) (n : Word) : State :=
  let ids := (t.batches.filter fun b => b.upTo n).flatMap (·.cmds)
  let rs := (s.copies.filter fun k => ids.contains k.id).flatMap (·.wrote)
  { s with l1 := s.l1.filter fun x => x.core != t.core || x.owned || !(rs.any fun r => overlaps (8 * x.word) 8 r.1 r.2) }

/-- WAITB's batches are over: the failed ones are reported (R176). -/
def State.waitbEnd (s : State) (t : Team) (c : Ctl) (a : Fld) (n : Word) : State :=
  let s1 := s.dropBatchWords t n
  let bad (b : Batch) : Bool := b.upTo n && !b.reported && b.cmds.any s.copyFailed
  match t.batches.find? bad with
  | some b =>
    s1.trap { t with batches := t.batches.map fun x => if bad x then { x with reported := true } else x } 9 0 t.mask
      (BitVec.ofNat 32 b.num)
  | none => s1.complete c (t.useMarks c [a] [])

/-- WAITB (R176). -/
def execWaitb (c : Ctl) (a : Fld) (s : State) : Res :=
  s.issue c [a] [] [] [] fun t =>
    let n := t.getLow a
    let l : Word := BitVec.ofNat 32 t.sealed
    if n = 0 then s.complete c (t.useMarks c [a] [])
    else
      let m := if 2 ^ 31 ≤ (l - n).toNat then l else n
      if s.batchesOver t m then s.waitbEnd t c a m
      else s.putTeam { t with st := .waitingCounter (.batches m), finish := .reportBatches c a m }

/-- The incomplete CPY commands of a team. -/
def State.copiesOf (s : State) (team : Nat) : List Copyc :=
  s.copies.filter fun k => k.team == some team && !(k.complete || k.failed)

/-- The ring control block that CPY credits: A+3 names one of the team's cluster or of the slice (R172, R271). -/
def cpyRcb (t : Team) (w : Word) : RcbKey :=
  if wbit w 8 then .slice (wfld w 14 9) else .cluster (t.core / 8) (wfld w 14 9)

/-- An end of a copy in global memory (R173): VBASE plus the offset read as I32, or none outside the address space. -/
def cpyEnd (t : Team) (x : Nat) (off : Word) (n : Nat) : Option Nat :=
  let v := (t.xl.getD x Xl.reset).va off
  if v < 0 ∨ 2 ^ 55 < v + n then none else some v.toNat

/-- Appends a command to the team's open batch; a channel starts it at once (R173). -/
def State.startCopy (s : State) (c : Ctl) (t : Team) (a : Fld) (src dst : Nat) (chip : Bool) (n : Nat) (w : Word) : State :=
  let k : Copyc :=
    { id := s.nextId, ctx := t.ctx, team := some t.id, entry := none, src := src, dst := dst, chip := chip, n := n,
      credit := if wbit w 7 then some (cpyRcb t w, wfld w 22 15) else none, failed := false, complete := n == 0,
      ready := none, spoil := [], wrote := [], via := [] }
  let s1 : State := { s with nextId := s.nextId + 1, copies := s.copies ++ [k] }
  (if n = 0 then s1.creditRing t.ctx k.credit 0 false else s1).complete c
    { t.useMarks c (run a 4) [] with openBatch := t.openBatch ++ [s.nextId] }

/-- The context owns a copy-engine channel (R298). -/
def State.ownsChannel (s : State) (ctx : Nat) : Bool := s.ceOwn.any fun w => wbit w 31 && wfld w 7 0 == ctx

/-- CPY (R172, R173, R298). The protection trap of a context without a channel stands after the check that the operands are uniform
and before the checks on their values (notes/assumptions/92.md). -/
def execCpy (c : Ctl) (a : Fld) (s : State) : Res :=
  let fs := run a 4
  s.issue c fs [] [] [] fun t =>
    s.uniforms t fs
      (let o := t.getLow a
       let p := t.getLow (fplus a 1)
       let n := (t.getLow (fplus a 2)).toNat
       let w := t.getLow (fplus a 3)
       if !s.ownsChannel t.ctx then s.protect t 0
       else if wfld w 31 23 ≠ 0 then s.protect t w
       else if 0x4000000 < n then s.protect t (BitVec.ofNat 32 n)
       else if wbit w 6 && wfld w 5 3 != 0 then s.protect t w
       else
         match cpyEnd t (wfld w 2 0) o n with
         | none => s.protect t o
         | some src =>
           let dst : Option Nat :=
             if wbit w 6 then (if s.levelSize t .chip < p.toNat + n then none else some p.toNat)
             else cpyEnd t (wfld w 5 3) p n
           match dst with
           | none => s.protect t p
           | some dst =>
             if 256 ≤ (s.copiesOf t.id).length then s.waitCounter t .cpyRoom
             else if !(s.boundDone t.id s.nextId && s.registeredDone t.id s.nextId) then
               s.waitCounter t (.cpyEarlier s.nextId)
             else s.startCopy c t a src dst (wbit w 6) n w)

/-! ## WAITC (R155) -/

/-- The shared shape of the WAITC rows: the threshold is A in the lowest active lane. -/
def State.waitc (s : State) (c : Ctl) (a : Fld) (p : Path) : Res :=
  s.issue c [a] [] [] [] fun t =>
    let n := (t.getLow a).toNat
    let u := t.useMarks c [a] []
    if t.count p ≤ n then s.complete c u
    else
      (s.putTeam { u.advance (t.pc + 4) with st := .waitingCounter (.cnt p n), finish := .acquire .team }).yieldIf c t.id

/-- WAITC on path L (R155). -/
def execWaitcL (c : Ctl) (a : Fld) (s : State) : Res := s.waitc c a .l

/-- WAITC on path S (R155). -/
def execWaitcS (c : Ctl) (a : Fld) (s : State) : Res := s.waitc c a .s

/-- WAITC on path C (R155). -/
def execWaitcC (c : Ctl) (a : Fld) (s : State) : Res := s.waitc c a .c

/-- WAITC on path X (R155). -/
def execWaitcX (c : Ctl) (a : Fld) (s : State) : Res := s.waitc c a .x

/-- WAITC on path G (R155). -/
def execWaitcG (c : Ctl) (a : Fld) (s : State) : Res := s.waitc c a .g

/-! ## XLT (R145) -/

/-- What the walk of XLT leaves in its register: LIMIT runs to the end of the page that holds the base. -/
def State.xltWalk (s : State) (ctx vb : Nat) : Xl :=
  let v : BitVec 55 := BitVec.ofNat 55 vb
  match s.walk (s.rootOf ctx) vb with
  | .leaf f large a =>
    let sz := if large then 2 ^ 29 else 65536
    { vbase := v, frame := f + vb % sz, limit := BitVec.ofNat 30 (sz - vb % sz), attr := a }
  | _ => { vbase := v, frame := 0, limit := 0, attr := Attr.none }

/-- The shared shape of the XLT rows: the checks, then the team is held until the walk has finished. -/
def State.xlt (s : State) (c : Ctl) (a : Fld) (n : Nat) : Res :=
  let a1 := fplus a 1
  s.issue c [a, a1] [] [] [] fun t =>
    if !(t.uniform (t.get a) && t.uniform (t.get a1)) then s.trap t 5 0 t.mask (BitVec.ofNat 32 (288 + 2 * n))
    else
      let lo := t.getLow a
      let hi := t.getLow a1
      if wfld hi 31 23 ≠ 0 then s.protect t hi
      else s.putTeam { t with hold := some (.walk c a n (lo.toNat + 2 ^ 32 * hi.toNat)), st := .ready }

/-- XLT into x0 (R145). -/
def execXltX0 (c : Ctl) (a : Fld) (s : State) : Res := s.xlt c a 0

/-- XLT into x1 (R145). -/
def execXltX1 (c : Ctl) (a : Fld) (s : State) : Res := s.xlt c a 1

/-- XLT into x2 (R145). -/
def execXltX2 (c : Ctl) (a : Fld) (s : State) : Res := s.xlt c a 2

/-- XLT into x3 (R145). -/
def execXltX3 (c : Ctl) (a : Fld) (s : State) : Res := s.xlt c a 3

/-- XLT into x4 (R145). -/
def execXltX4 (c : Ctl) (a : Fld) (s : State) : Res := s.xlt c a 4

/-- XLT into x5 (R145). -/
def execXltX5 (c : Ctl) (a : Fld) (s : State) : Res := s.xlt c a 5

/-- XLT into x6 (R145). -/
def execXltX6 (c : Ctl) (a : Fld) (s : State) : Res := s.xlt c a 6

/-- XLT into x7 (R145). -/
def execXltX7 (c : Ctl) (a : Fld) (s : State) : Res := s.xlt c a 7

end Sys2Proof.Machine
end

