-- ==== Sys2Proof/Machine/Matrix.lean ====
section
/-!
DEFINITION. The matrix arrays: the accumulation rules (R112 to R117), FMT (R234, R235), tiles (R236), MMA and MMS (R238 to R244),
gangs and their latches (R226 to R233, R249), and the MTILE class (R245, R246).
-/

namespace Sys2Proof.Machine

/-! ## FMT -/

def fmtAf (f : Word) : Nat := wfld f 2 0
def fmtBf (f : Word) : Nat := wfld f 5 3
def fmtCf (f : Word) : Bool := wbit f 6
def fmtSyn (f : Word) : Nat := wfld f 8 7
def fmtSat (f : Word) : Bool := wbit f 9
def fmtGsr (f : Word) : Fld := f.extractLsb' 10 7
def fmtDx (f : Word) : Nat := wfld f 19 17
def fmtDoff (f : Word) : Fld := f.extractLsb' 20 7

/-- A row of the table of R235: dense K, A registers, MMA and MMS quarter registers (0: no MMS). -/
structure Combo where
  k : Nat
  na : Nat
  nq : Nat
  nqs : Nat
  deriving DecidableEq, Repr

/-- The combination that FMT[9:0] forms, if it is legal (R235). -/
def fmtCombo (f : Word) : Option Combo :=
  let a := fmtAf f
  let b := fmtBf f
  if a = 0 ∧ b = 0 ∧ !fmtCf f ∧ fmtSyn f = 0 ∧ !fmtSat f then some ⟨32, 16, 4, 8⟩
  else if (a = 1 ∨ a = 2) ∧ (b = 1 ∨ b = 2) ∧ !fmtCf f ∧ fmtSyn f = 0 ∧ !fmtSat f then some ⟨64, 16, 4, 8⟩
  else if a = 3 ∧ b = 3 ∧ fmtCf f ∧ fmtSyn f = 0 then some ⟨64, 16, 4, 8⟩
  else if a = 1 ∧ b = 4 ∧ !fmtCf f ∧ fmtSyn f = 0 ∧ !fmtSat f then some ⟨256, 64, 9, 18⟩
  else if a = 5 ∧ b = 5 ∧ !fmtCf f ∧ (fmtSyn f = 1 ∨ fmtSyn f = 2) ∧ !fmtSat f then some ⟨32, 32, 8, 0⟩
  else none

/-! ## Elements (R106, R236) -/

/-- Element k of the packed run that the words ws hold, in a format code: 0 BF16, 1 E4, 2 E5, 3 I8, 4 Q4, 5 F32. -/
def elem (code : Nat) (ws : Nat → Word) (k : Nat) : FVal :=
  match code with
  | 0 => fmtB16.value (bits (ws (k / 2)).toNat (16 * (k % 2) + 15) (16 * (k % 2)))
  | 1 => fmtE4.value (bits (ws (k / 4)).toNat (8 * (k % 4) + 7) (8 * (k % 4)))
  | 2 => fmtE5.value (bits (ws (k / 4)).toNat (8 * (k % 4) + 7) (8 * (k % 4)))
  | 3 => FVal.ofInt (BitVec.ofNat 8 (bits (ws (k / 4)).toNat (8 * (k % 4) + 7) (8 * (k % 4)))).toInt
  | 4 => q4Value (BitVec.ofNat 4 (bits (ws (k / 8)).toNat (4 * (k % 8) + 3) (4 * (k % 8))))
  | _ => F (ws k)

/-- The BF16 slices of an FP32 value: hi, mid, lo (R116). -/
def slices (x : FVal) : FVal × FVal × FVal :=
  let bf (v : FVal) : Nat := fmtB16.rne v
  match x with
  | .fin _ _ _ =>
    let h0 := fmtB16.value (bf x)
    let hi := match h0 with
      | .inf s => fmtB16.value (fmtB16.signed s 0x7F7F)
      | v => v
    let mid := fmtB16.value (bf (sumExact [x, hi.neg]))
    let lo := fmtB16.value (bf (sumExact [x, hi.neg, mid.neg]))
    (hi, mid, lo)
  | _ => (fmtB16.value (bf x), .fin false 0 0, .fin false 0 0)

def sliceHi (x : FVal) : FVal := (slices x).1
def sliceMid (x : FVal) : FVal := (slices x).2.1
def sliceLo (x : FVal) : FVal := (slices x).2.2

/-! ## Accumulation -/

/-- A product of an element of A and one of B: an element absent from the 2:4 pattern contributes +0 whatever B holds
(R112). -/
def matProd : Option FVal → FVal → FVal
  | none, _ => .fin false 0 0
  | some x, y => x.mul y

/-- The exact sum of the sixteen products of chunk j (R112, R115). -/
def chunkSum (a : Nat → Option FVal) (b : Nat → FVal) (j : Nat) : FVal :=
  sumExact ((List.range 16).map fun i => matProd (a (16 * j + i)) (b (16 * j + i)))

/-- FP32 accumulation over n chunks from chunk j on (R112). -/
def accum (a : Nat → Option FVal) (b : Nat → FVal) : Nat → Nat → Word → Word
  | 0, _, c => c
  | n + 1, j, c => accum a b n (j + 1) (rne32 (sumExact [F c, chunkSum a b j]))

/-- The same with the block scale of each chunk (R113). -/
def accumScaled (a : Nat → Option FVal) (b : Nat → FVal) (s : Nat → Word) : Nat → Nat → Word → Word
  | 0, _, c => c
  | n + 1, j, c =>
    let u := rne32 ((chunkSum a b j).mul (F (s (j / 4))))
    accumScaled a b s n (j + 1) (rne32 (sumExact [F c, F u]))

/-- The integer of an I8 element or a sum of such elements. -/
def intOf (v : FVal) : Int := v.scaled 0

/-- The integer of an element of A that may be absent. -/
def intOf? : Option FVal → Int
  | none => 0
  | some v => intOf v

/-- SAT_i32 (R6). -/
def satI32 (v : Int) : Word := wordOfInt (max (-2147483648) (min 2147483647 v))

/-- I32 accumulation (R114). -/
def accumInt (sat : Bool) (a : Nat → Option FVal) (b : Nat → FVal) : Nat → Nat → Word → Word
  | 0, _, c => c
  | n + 1, j, c =>
    let t := (List.range 16).foldl (fun acc i => acc + intOf? (a (16 * j + i)) * intOf (b (16 * j + i))) (0 : Int)
    accumInt sat a b n (j + 1) (if sat then satI32 (s32 c + t) else wordOfInt (s32 c + t))

/-- The passes of a synthesised product, in order (R117). -/
def synPasses (syn : Nat) : List ((FVal → FVal) × (FVal → FVal)) :=
  if syn = 2 then
    [(sliceLo, sliceHi), (sliceHi, sliceLo), (sliceMid, sliceMid), (sliceMid, sliceHi), (sliceHi, sliceMid), (sliceHi, sliceHi)]
  else [(sliceMid, sliceHi), (sliceHi, sliceMid), (sliceHi, sliceHi)]

/-- One element of C: k is the logical length, a the row (none: an absent element), b the column, s the block scales of the column (R112 to R117). -/
def matElem (f : Word) (k : Nat) (a : Nat → Option FVal) (b : Nat → FVal) (s : Nat → Word) (c : Word) : Word :=
  if fmtCf f then accumInt (fmtSat f) a b (k / 16) 0 c
  else if fmtBf f = 4 then accumScaled a b s (k / 16) 0 c
  else if fmtSyn f ≠ 0 then
    (synPasses (fmtSyn f)).foldl (fun c p => accum (fun i => (a i).map p.1) (fun i => p.2 (b i)) (k / 16) 0 c) c
  else accum a b (k / 16) 0 c

/-! ## MMA and MMS as one operation -/

/-- The fields of an MMA or MMS. -/
structure MatOp where
  d : Fld
  a : Fld
  b : Fld
  z : Bool
  x : Bool
  /-- The index selector of an MMS. -/
  sel : Option Nat
  deriving DecidableEq, Repr

/-- The fields of a latch member's instruction. -/
def matOf : Instr → MatOp
  | .mma d a b z x => { d := d, a := a, b := b, z := z, x := x, sel := none }
  | .mms d a b sl x => { d := d, a := a, b := b, z := false, x := x, sel := some sl.toNat }
  | _ => { d := 0, a := 0, b := 0, z := true, x := false, sel := none }

/-- The quarters that position p of a gang of n holds, ascending (R232). For a COUNT of 0 the spec's q mod 0 has no value: here position p
holds quarter p (notes/assumptions/107.md). -/
def quartersOf (n p : Nat) : List Nat := (List.range 4).filter fun q => q % min n 4 == p

/-- The index registers that follow the A tile (R241). -/
def MatOp.nidx (m : MatOp) (k : Nat) : Nat :=
  match m.sel with
  | none => 0
  | some 0 => k / 16
  | some 1 => 1
  | some _ => k / 8

def MatOp.quarterRegs (m : MatOp) (c : Combo) : Nat := if m.sel.isSome then c.nqs else c.nq

def MatOp.logicalK (m : MatOp) (c : Combo) : Nat := if m.sel.isSome then 2 * c.k else c.k

/-- COUNT, POS, TAG and the slots of the gang register (R228). -/
def Team.gang (t : Team) : Nat := t.gangLo.toNat + 2 ^ 32 * t.gangHi.toNat
def Team.gangCount (t : Team) : Nat := bits t.gang 2 0
def Team.gangPos (t : Team) : Nat := bits t.gang 5 3
def Team.gangTag (t : Team) : Nat := bits t.gang 13 6
def Team.gangSlot (t : Team) (i : Nat) : Nat := bits t.gang (20 + 7 * i) (14 + 7 * i)
def Team.gangSlots (t : Team) : List Nat := (List.range t.gangCount).map t.gangSlot

/-- The number of members an instruction is for, and the team's position: solo is a gang of one (R230). -/
def Team.matPos (t : Team) : Nat := if t.gangCount = 1 then 0 else t.gangPos

/-- The fields of the quarters of B that the team holds. -/
def Team.bRun (t : Team) (m : MatOp) (c : Combo) : Nat := (quartersOf t.gangCount t.matPos).length * m.quarterRegs c

/-- The index of stored element j of row i (R241). -/
def Team.sparseIx (t : Team) (m : MatOp) (c : Combo) (i j : Nat) : Nat :=
  let h := j / 16
  let w := match m.sel with
    | some 0 => t.get (fplus m.a (c.na + h)) i
    | some 1 => t.get (fplus m.a c.na) h
    | _ => t.get (fplus m.a (c.na + i % 2 * (c.k / 16) + h)) (i / 2)
  bits w.toNat (2 * (j % 16) + 1) (2 * (j % 16))

/-- Row i of A, the logical row A′ for an MMS (R241, R242); none: no stored element stands there. -/
def Team.aRow (t : Team) (m : MatOp) (c : Combo) (i k : Nat) : Option FVal :=
  let ws (n : Nat) : Word := t.get (fplus m.a n) i
  match m.sel with
  | none => some (elem (fmtAf t.fmt) ws k)
  | some _ =>
    let g := k / 4
    match [2 * g, 2 * g + 1].filter fun j => t.sparseIx m c i j == k % 4 with
    | [] => none
    | js => some (sumExact (js.map (elem (fmtAf t.fmt) ws)))

/-- A member of an instruction at release: its team, its fields and its drain word. -/
abbrev Member := Team × MatOp × Option Drain

/-- The member that holds quarter q of n positions. -/
def holderOf (ms : List Member) (n q : Nat) : Option Member := ms.find? fun x => x.1.matPos == q % min n 4

/-- The first field of quarter q in its holder. -/
def quarterBase (m : MatOp) (c : Combo) (n q : Nat) : Fld := fplus m.b (m.quarterRegs c * (q / min n 4))

/-- Element k of column j of B, of logical length kk (R232, R233, R236). -/
def bCol (ms : List Member) (c : Combo) (n kk j k : Nat) : FVal :=
  let q := k / (kk / 4)
  match holderOf ms n q with
  | none => .fin false 0 0
  | some (t, m, _) => elem (fmtBf t.fmt) (fun r => t.get (fplus (quarterBase m c n q) r) j) (k % (kk / 4))

/-- The block scale of block b of column j, formed by the holder of its quarter (R110, R236, R239). -/
def blockScale (ms : List Member) (c : Combo) (n kk j b : Nat) : Word :=
  let q := 64 * b / (kk / 4)
  match holderOf ms n q with
  | none => 0
  | some (t, m, _) =>
    let blocks := kk / 4 / 64
    let r := m.quarterRegs c - blocks + b % blocks
    qscale (t.get (fmtGsr t.fmt) j) (byteOf (t.get (fplus (quarterBase m c n q) r) j) 0)

/-- The mask of the rows that take part (R236). -/
def Team.rowMask (t : Team) : Mask := t.mask &&& BitVec.ofNat 1024 (2 ^ 32 - 1)

/-- The rows that a member computes, each with its 32 elements, from the registers as they stand before any tile is written (R237, R239). -/
def tileRows (ms : List Member) (c : Combo) (n : Nat) (x : Member) : List (Nat × List Word) :=
  let t := x.1
  let m := x.2.1
  let kk := m.logicalK c
  (t.lanes.filter fun i => i < 32).map fun i =>
    (i, (List.range 32).map fun j =>
      matElem t.fmt kk (t.aRow m c i) (bCol ms c n kk j) (blockScale ms c n kk j)
        (if m.z then 0 else t.get (fplus m.d j) i))

/-- The value that a member drains (R243). -/
def drainOf (cf : Bool) (ws : List Word) : Word :=
  ws.foldl (fun m c =>
    let e : Word := if cf then BitVec.ofNat 32 (s32 c).natAbs else if (F c).isNan then nan32 else c &&& 0x7FFFFFFF#32
    if m.toNat < e.toNat then e else m) 0

/-- Marks a register empty, in the lanes of m (R74, R239). -/
def Team.markEmptyIn (t : Team) (m : Mask) (r : Nat) : Team :=
  { ({ t with mask := m }).markEmpty r with mask := t.mask }

/-- A lane of a request without an address. -/
def valueLane (l : Nat) (ws : List Word) : Lane :=
  { lane := l, va := 0, pa := 0, pa2 := 0, cut := 0, attr := Attr.none, dst := 0, via := [], data := [], got := ws, spoil := [], st := .pending }

/-- Issue of a member at release: its C registers become empty, its tile is on its way (R239). dst of a lane keeps FMT.CF. -/
def State.issueTile (s : State) (ms : List Member) (c : Combo) (n : Nat) (latch : Option (Nat × Nat)) (x : Member) : State :=
  let t := x.1
  let rs := t.regsOf (run x.2.1.d 32)
  let rows := tileRows ms c n x
  let s1 := s.addReq { t with mask := t.rowMask } (.tile x.2.2 latch) rs
    (rows.map fun r => { valueLane r.1 r.2 with dst := if fmtCf t.fmt then 1 else 0 }) []
  (s1.putTeam { (rs.foldl (fun u r => u.markEmptyIn t.rowMask r) t).advance (t.pc + 4) with hold := none, finish := .none })

/-! ## Latches -/

/-- The team occupies its slots: it has not exited, and its context is on the cores, neither Saved nor Halted (R254, R302 step 6). -/
def State.resident (s : State) (u : Team) : Bool :=
  u.st != .exited &&
  match s.ctx? u.ctx with
  | some c => c.st != .saved && c.st != .halted && c.st != .created
  | none => false

/-- The team in a resident slot that a gang slot value names, seen from the core of position 0 (R229). -/
def State.slotTeam (s : State) (core0 v : Nat) : Option Team :=
  s.teams.find? fun u => u.core == (if v < 64 then core0 else core0 ^^^ 1) && u.slot == v % 64 && s.resident u

/-- The core of position 0 for an arriving team. -/
def Team.core0 (t : Team) : Nat := if t.gangPos < 4 then t.core else t.core ^^^ 1

/-- Checks 1 to 5 of R230 pass. -/
def State.gangOk (s : State) (t : Team) : Bool :=
  let n := t.gangCount
  let sl := t.gangSlots
  let noPos (u : Team) : Nat := u.gang - 8 * u.gangPos
  n != 0 && n != 7 && t.gangPos < n && t.slot < 64 &&
  (match s.slotTeam t.core0 (t.gangSlot t.gangPos) with
   | some u => u.id == t.id
   | none => false) &&
  ((List.range n).all fun i => if i < 4 then t.gangSlot i < 64 else 64 ≤ t.gangSlot i) &&
  sl.eraseDups.length == n &&
  sl.all fun v =>
    match s.slotTeam t.core0 v with
    | none => false
    | some u => u.ctx == t.ctx && u.kernel == t.kernel && noPos u == noPos t

/-- A latch is removed: it becomes Idle. -/
def State.dropLatch (s : State) (ctx pair tag : Nat) : State :=
  s.modCtx ctx fun c => { c with latches := c.latches.filter fun x => !(x.pair == pair && x.tag == tag) }

/-- A team takes the gang-broken trap (R227). -/
def State.gangTrap (s : State) (tag id : Nat) : State :=
  match s.team? id with
  | none => s
  | some t => s.trap { t with finish := .none } 10 0 t.mask (BitVec.ofNat 32 tag)

/-- An arrived member takes the gang-broken trap: one that waits, one that was restored and has not reissued its instruction yet,
and one that a pre-emption has stopped, which is found trapped when it is restored (R227, R248). -/
def State.breakMember (s : State) (tag id : Nat) : State :=
  match s.team? id with
  | none => s
  | some t =>
    match t.st with
    | .exited => s
    | .preempted => ((s.putTeam { t with st := .ready }).gangTrap tag id).modTeam id fun u => { u with st := .preempted, prev := u.st }
    | _ => s.gangTrap tag id

/-- Every arrived member takes the gang-broken trap and the latch becomes Idle (R227). -/
def State.breakLatch (s : State) (l : Latch) : State :=
  l.members.foldl (fun u m => u.breakMember l.tag m.1) (s.dropLatch l.ctx l.pair l.tag)

/-- A named member reached Exited or wrote its gang register: the Gathering latches that name it break (R227, R249). -/
def State.breakNamed (s : State) (t : Team) : State :=
  match s.ctx? t.ctx with
  | none => s
  | some c =>
    (c.latches.filter fun l =>
      l.computing.isNone && l.slots.any fun v =>
        t.core == (if v < 64 then l.core else l.core ^^^ 1) && t.slot == v % 64).foldl State.breakLatch s

/-- The latch of a core pair that holds a tag. -/
def State.latch? (s : State) (ctx pair tag : Nat) : Option Latch :=
  match s.ctx? ctx with
  | none => none
  | some c => c.latches.find? fun x => x.pair == pair && x.tag == tag

/-- Latches of a pair in use, of the contexts that are not saved (R226). -/
def State.latchesOf (s : State) (pair : Nat) : Nat :=
  (s.ctxs.map fun c => if c.st = .running ∨ c.st = .switchingOut then (c.latches.filter fun x => x.pair == pair).length else 0).sum

/-- The members of a complete latch, by position. -/
def State.latchMembers (s : State) (l : Latch) : List Member :=
  let ms : List Member := l.members.filterMap fun m => (s.team? m.1).map fun t => (t, matOf m.2.1, m.2.2)
  (List.range l.count).filterMap fun p => ms.find? fun x => x.1.matPos == p

/-- Release: the instruction issues in every member at once (R233, R239). -/
def State.releaseLatch (s : State) (l : Latch) (c : Combo) : State :=
  let ms := s.latchMembers l
  let ids := (List.range ms.length).map fun i => s.nextId + i
  let s1 := ms.foldl (fun u x => u.issueTile ms c l.count (some (l.pair, l.tag)) x) s
  s1.modCtx l.ctx fun k => { k with latches := k.latches.map fun x =>
    if x.pair = l.pair ∧ x.tag = l.tag then { x with computing := some ids } else x }

/-- The latch that an arrival opens. -/
def newLatch (t : Team) (m : MatOp) : Latch :=
  { pair := t.core / 2, core := t.core0, tag := t.gangTag, ctx := t.ctx, count := t.gangCount, slots := t.gangSlots,
    sparse := m.sel.isSome, fmt := wfld t.fmt 9 0, selector := m.sel.getD 0, members := [], computing := none }

/-- Check 6 of R230: the arrival matches the record. -/
def Latch.matches (l : Latch) (t : Team) (m : MatOp) : Bool :=
  { l with members := [], computing := none } == newLatch t m

/-- The team waits to arrive (R227). -/
def State.holdGang (s : State) (t : Team) (i : Instr) : State :=
  s.putTeam { t with st := .waitingLatch (.gangHeld (t.core / 2) t.gangTag), finish := .again i }

/-- An arrival joins a latch, which is released when it completes COUNT (R227). A restored member counts as it was recorded, before it has
reissued, which the spec leaves open (notes/assumptions/108.md). -/
def State.joinLatch (s : State) (t : Team) (l : Latch) (i : Instr) (c : Combo) (drain : Option Drain) : State :=
  let l1 := { l with members := (l.members.filter fun x => x.1 != t.id) ++ [(t.id, i, drain)] }
  let s1 := s.modCtx t.ctx fun k =>
    { k with latches := l1 :: k.latches.filter fun x => !(x.pair == l.pair && x.tag == l.tag) }
  if l1.members.length = l1.count then s1.releaseLatch l1 c
  else s1.putTeam { t with st := .waitingLatch (.gang l.pair l.tag), finish := .none }

/-- An arrival (R227, R230). -/
def State.arrive (s : State) (t : Team) (i : Instr) (m : MatOp) (c : Combo) (drain : Option Drain) : State :=
  let pair := t.core / 2
  let tag := t.gangTag
  let fails : State :=
    match s.latch? t.ctx pair tag with
    | some l => ((if l.computing.isNone then s.breakLatch l else s)).gangTrap tag t.id
    | none => s.gangTrap tag t.id
  if !s.gangOk t then fails
  else
    match s.latch? t.ctx pair tag with
    | none =>
      if 32 ≤ s.latchesOf pair then s.holdGang t i else s.joinLatch t (newLatch t m) i c drain
    | some l =>
      if l.computing.isSome then s.holdGang t i
      else if l.matches t m then s.joinLatch t l i c drain
      else fails

/-! ## MMA and MMS -/

/-- The check of the drain word (R243), then k with its virtual and physical address. -/
def State.drainCheck (s : State) (t : Team) (m : MatOp) (k : State → Option Drain → State) : State :=
  if !m.x then k s none
  else
    let d := fmtDoff t.fmt
    if !t.uniform (t.get d) then s.trap t 5 0 t.mask (BitVec.ofNat 32 d.toNat)
    else
      let v := t.getLow d
      let acc : Access := { n := 4, align := 4, write := true, kind := 2,
                            forbid := fun _ pa _ at_ => !at_.w || at_.rlf || at_.raw || isRemote pa }
      match s.globalCheck t (t.xl.getD (fmtDx t.fmt) Xl.reset) acc [t.low] (fun _ => v) (fun _ => false) (fun _ => false)
          (fun _ _ => v) with
      | (s1, .trap cause _ w) => s1.trap t cause 0 t.mask w
      | (s1, .park _ va) => s1.pageFault t t.mask va acc.kind
      | (s1, .intercept _ va) => s1.writeIntercept t t.mask va []
      | (s1, .ok lanes) =>
        if s1.anyLoadAhead t lanes 4 then s1.waitCounter t (.loads s1.nextId)
        else
          match lanes with
          | y :: _ => k s1 (some { va := y.va, pa := y.pa, via := y.via, came := s1.nextId })
          | [] => k s1 none

/-- The shared shape of MMA and MMS (R238, R242). GSR is checked in every member, and read by the members that hold quarters. -/
def State.matrix (s : State) (i : Instr) : Res :=
  s.withTeam fun t =>
    let m := matOf i
    match fmtCombo t.fmt with
    | none => s.illegal t (encodeWord i)
    | some c =>
      let nb := t.bRun m c
      let na := c.na + m.nidx c.k
      let gsr := if fmtBf t.fmt = 4 then [fmtGsr t.fmt] else []
      if t.nlanes < 32 ∨ (m.sel.isSome ∧ c.nqs = 0) ∨ 120 < m.a.toNat + na ∨ (nb ≠ 0 ∧ 120 < m.b.toNat + nb) ∨
          (gsr.any fun f => 120 ≤ f.toNat) then
        s.illegal t (encodeWord i)
      else
        let doff := if m.x then [fmtDoff t.fmt] else []
        match (t.regsOf (run m.d 32 ++ run m.a na ++ run m.b nb ++ gsr)).find? fun r => t.p ≤ r with
        | some r => s.trap t 6 0 t.mask (BitVec.ofNat 32 r)
        | none =>
          s.checked t ctlNone [] [] (run m.a na ++ run m.b nb ++ (if nb = 0 then [] else gsr) ++ doff) (run m.d 32)
            (s.drainCheck t m fun s1 drain =>
              if t.gangCount = 1 then s1.issueTile [(t, m, drain)] c 1 none (t, m, drain)
              else s1.arrive t i m c drain)

/-- MMA (R238 to R240). -/
def execMma (d a b : Fld) (z x : Bool) (s : State) : Res := s.matrix (.mma d a b z x)

/-- MMS (R241, R242). -/
def execMms (d a b : Fld) (sl : BitVec 2) (x : Bool) (s : State) : Res := s.matrix (.mms d a b sl x)

/-! ## The MTILE class -/

/-- MCLR (R246). -/
def execMclr (c : Ctl) (d : Fld) (s : State) : Res :=
  let ds := run d 32
  s.issue c [] [] [] ds fun t => s.finishWrite c [] [] t (ds.map fun f => (f, fun _ => (0 : Word)))

/-- The MTILE functs that read FMT: an FMT outside R235 is illegal, before the checks on register operands (R45, R235). -/
def State.fmtIssue (s : State) (i : Instr) (legal : Word → Bool) (k : Team → State) : Res :=
  s.withTeam fun t => if (fmtCombo t.fmt).isSome && legal t.fmt then k t else s.illegal t (encodeWord i)

/-- One element of MSCL. -/
def msclElem (cf : Bool) (x a : Word) : Word := rne32 ((if cf then FVal.ofInt (s32 x) else F x).mul (F a))

/-- MSCL (R246). -/
def execMscl (c : Ctl) (d a : Fld) (s : State) : Res :=
  let ds := run d 32
  s.fmtIssue (.mscl c d a) (fun _ => true) fun t =>
    s.checked t c [a] [] ds ds
      (s.finishWrite c [a] [] t (ds.map fun f => (f, fun l => msclElem (fmtCf t.fmt) (t.get f l) (t.get a l))))

/-- MABS (R246): the result is formed at issue and lands later. -/
def execMabs (c : Ctl) (d a : Fld) (s : State) : Res :=
  let as := run a 32
  s.fmtIssue (.mabs c d a) (fun _ => true) fun t =>
    s.checked t c as [] [] [d]
      (let m := drainOf (fmtCf t.fmt) (t.lanes.flatMap fun l => as.map fun f => t.get f l)
       s.launch t c as .mabs [d] (t.lanes.map fun l => valueLane l [m]) none)

/-- MQPK (R246). -/
def execMqpk (c : Ctl) (d a : Fld) (s : State) : Res :=
  let as := run a 8
  s.issue c as [] [] [d] fun t =>
    s.finishWrite c as [] t [(d, fun l =>
      (List.range 8).foldl (fun w i => w ||| ((t.get (fplus a i) l &&& 15) <<< (4 * i))) 0)]

/-- The registers of the D run of MCVT (R245). -/
def mcvtRegs (f : Word) : Nat := if fmtAf f = 0 then 16 else 8

/-- One element of MCVT (R246), as the pattern of its target. -/
def mcvtElem (af : Nat) (x : Word) : Nat :=
  match af with
  | 0 => (toB16 x).toNat
  | 1 => (toE4 x).toNat
  | 2 => (toE5 x).toNat
  | _ => (BitVec.ofInt 8 (max (-128) (min 127 (s32 x)))).toNat

/-- Word w of the packed run at D. -/
def mcvtWord (af : Nat) (xs : Nat → Word) (w : Nat) : Word :=
  if af = 0 then BitVec.ofNat 32 (mcvtElem af (xs (2 * w)) + 65536 * mcvtElem af (xs (2 * w + 1)))
  else
    BitVec.ofNat 32 (mcvtElem af (xs (4 * w)) + 256 * mcvtElem af (xs (4 * w + 1)) + 65536 * mcvtElem af (xs (4 * w + 2)) +
      16777216 * mcvtElem af (xs (4 * w + 3)))

/-- AF and CF allow MCVT. -/
def mcvtLegal (f : Word) : Bool := (fmtAf f ≤ 2 && !fmtCf f) || (fmtAf f == 3 && fmtCf f)

/-- MCVT (R245, R246): the size of the D run depends on AF, and R41 checks it at issue. -/
def execMcvt (c : Ctl) (d a : Fld) (s : State) : Res :=
  let as := run a 32
  s.fmtIssue (.mcvt c d a) (fun f => mcvtLegal f && d.toNat + mcvtRegs f ≤ 120) fun t =>
    s.checked t c as [] [] (run d (mcvtRegs t.fmt))
      (s.finishWrite c as [] t ((List.range (mcvtRegs t.fmt)).map fun w =>
        (fplus d w, fun l => mcvtWord (fmtAf t.fmt) (fun n => t.get (fplus a n) l) w)))

end Sys2Proof.Machine
end

