-- ==== Sys2Proof/Machine/Control.lean ====
section
/-!
DEFINITION. The control registers of a team: RDC and WRC (R54, R86, R87, R146, R177, R228, R234, R260, R286, R316, R342).
-/

namespace Sys2Proof.Machine

/-- The value of a control register; numbers as R54 gives them. -/
def State.readCtl (s : State) (t : Team) (r : Nat) : Word :=
  match r with
  | 0 => t.fmt
  | 1 => t.gangLo
  | 2 => t.gangHi
  | 3 => BitVec.ofNat 32 t.wbase
  | 4 => summary t.mask
  | 5 => BitVec.ofNat 32 t.nlanes
  | 6 => BitVec.ofNat 32 t.g
  | 7 => t.trapv
  | 8 => t.trapc
  | 9 => t.trapa
  | 10 => zext32 t.faultm
  | 11 => s.batchDone t
  | 12 => BitVec.ofNat 32 (t.count .l)
  | 13 => BitVec.ofNat 32 (t.count .s)
  | 14 => BitVec.ofNat 32 (t.count .c)
  | 15 => BitVec.ofNat 32 (t.count .x)
  | 16 => BitVec.ofNat 32 (t.count .g)
  | 17 => t.surf
  | 18 => t.bvh
  | 19 => BitVec.ofNat 32 (s.capOf t.ctx t.core)
  | _ =>
    let x := t.xl.getD ((r - 32) / 2) Xl.reset
    if r % 2 = 0 then x.vbase.setWidth 32 else x.limit.setWidth 32

/-- RDC: the control register goes to D as a uniform value (R86). -/
def execRdc (c : Ctl) (d : Fld) (r : BitVec 8) (s : State) : Res :=
  s.issue c [] [] [] [d] fun t => s.finishWrite c [] [] t [(d, fun _ => s.readCtl t r.toNat)]

/-- A write of XLn.BASE or XLn.LIM (R146). -/
def Xl.write (x : Xl) (base : Bool) (v : Word) : Xl :=
  if base then { x with vbase := x.vbase.extractLsb' 32 23 ++ v, limit := 0 }
  else { x with limit := BitVec.ofNat 30 (min v.toNat x.limit.toNat) }

/-- The control registers after a write of v; read-only fields keep their values (R8, R55), and a FAULTM.MODE of 3 is Ignored
(R1, R3). WBASE is written by WINB's operation. -/
def Team.writeCtl (t : Team) (r : Nat) (v : Word) : Team :=
  match r with
  | 0 => { t with fmt := v &&& 0x7FFFFFF#32 }
  | 1 => { t with gangLo := v }
  | 2 => { t with gangHi := v &&& 0xFFFFFF#32 }
  | 7 => { t with trapv := v &&& 0xFFFFFFFC#32 }
  | 10 => if wfld v 1 0 = 3 then t else { t with faultm := v.setWidth 2 }
  | 17 => { t with surf := v &&& 0xFFFF0007#32 }
  | 18 => { t with bvh := v &&& 0xFFFFFFC7#32 }
  | _ =>
    if 32 ≤ r then
      let n := (r - 32) / 2
      { t with xl := t.xl.set n ((t.xl.getD n Xl.reset).write (r % 2 == 0) v) }
    else t

/-- WRC (R86). A write of GANG.LO or GANG.HI breaks the Gathering latches that name the team (R227). -/
def execWrc (c : Ctl) (a : Fld) (r : BitVec 8) (s : State) : Res :=
  s.issue c [a] [] [] [] fun t =>
    if !t.uniform (t.get a) then s.trap t 5 0 t.mask (BitVec.ofNat 32 (256 + r.toNat))
    else
      let v := t.getLow a
      if r = 3 then s.setWbase c t [a] v
      else
        let s1 := s.complete c ((t.useMarks c [a] []).writeCtl r.toNat v)
        if r = 1 ∨ r = 2 then s1.breakNamed t else s1

end Sys2Proof.Machine
end

