-- ==== Sys2Proof/Machine/Place.lean ====
section
/-!
DEFINITION. Where teams fit (R70, R138, R254, R257): footprints in granules of the core store, runs for frames, and the free
resident team slots and cores of a partition.
-/

namespace Sys2Proof.Machine

/-- 16 KiB granules that bytes take. -/
def granules (n : Nat) : Nat := (n + 16383) / 16384

/-- Granules of a core that teams may take: 256, less the 32 that stay with the L1 cache (R138). -/
def coreGranules : Nat := 224

/-- The lanes that a paired team keeps on its home core (R70). -/
def homeLanes (nlanes g : Nat) : Nat :=
  let words := (nlanes + 31) / 32
  min nlanes ((32 * ((words + 1) / 2) + g - 1) / g * g)

/-- What a team needs of a core: lanes there, registers of a lane, lane-private bytes of a lane, scratch bytes there. -/
structure Need where
  lanes : Nat
  p : Nat
  priv : Nat
  scr : Nat
  deriving DecidableEq, Repr

def Need.frame (n : Need) : Nat := granules (n.lanes * n.p * 4)

/-- The footprint without the cluster contribution (R254). -/
def Need.total (n : Need) : Nat := n.frame + granules (n.lanes * n.priv) + granules n.scr

/-- What a team placed on a core takes of it: the home core, or the pair core of a paired team. -/
def Team.needOn (t : Team) (core : Nat) : Need :=
  match t.pairSlot with
  | none => { lanes := t.nlanes, p := t.p, priv := t.privSize, scr := t.scrSize }
  | some _ =>
    if core = t.core then { lanes := homeLanes t.nlanes t.g, p := t.p, priv := t.privSize, scr := t.scrSize }
    else { lanes := t.nlanes - homeLanes t.nlanes t.g, p := t.p, priv := t.privSize, scr := 0 }

/-- The team occupies a core. -/
def Team.onCore (t : Team) (core : Nat) : Bool := t.core == core || (t.pairSlot.isSome && t.core ^^^ 1 == core)

/-- The ordinary teams, children and instances that take room on a core. -/
def State.residents (s : State) (core : Nat) : List Team := s.teams.filter fun t => t.onCore core && s.resident t && core < 384

/-- What the context holds on the cores has been saved off them (R302 step 6). -/
def Ctx.away (c : Ctx) : Bool := c.st == .saved || c.st == .halted

/-- Granules of cluster contributions on a core (R254). -/
def State.clusterGranules (s : State) (core : Nat) : Nat :=
  (s.ctxs.map fun c =>
    if c.away then 0
    else ((c.csets.filter fun x => x.cluster == core / 8).map fun x => granules (x.size / 8)).sum).sum

/-- Bytes that a core contributes to the cluster sets of its cluster: at most 512 KiB over all of them (R138). The bound counts bytes and
not the granules that they are rounded up to, which the spec leaves open (notes/assumptions/101.md). -/
def State.contribution (s : State) (core : Nat) : Nat :=
  (s.ctxs.map fun c =>
    if c.away then 0 else ((c.csets.filter fun x => x.cluster == core / 8).map fun x => x.size / 8).sum).sum

/-- The lowest power of two that is at least n. -/
def pow2Above (n : Nat) : Nat := if n ≤ 1 then 1 else 2 ^ (Nat.log2 (n - 1) + 1)

/-- The lowest start of a run of n granules, aligned to n rounded up to a power of two, that misses the given runs (R254). -/
def findRun (taken : List (Nat × Nat)) (n : Nat) : Option Nat :=
  let a := pow2Above n
  ((List.range (256 / a)).map fun i => a * i).find? fun x => x + n ≤ 256 && !(taken.any fun r => x < r.1 + r.2 && r.1 < x + n)

/-- The run of a resident's frame on a core. -/
def Team.runOn (t : Team) (core : Nat) : Nat × Nat := (if t.core = core then t.base else t.base2, (t.needOn core).frame)

/-- The granules of the store banks of a core that have been removed from service: bank b holds granules 4 b to 4 b + 3 (R310,
notes/assumptions/96.md). -/
def State.deadRuns (s : State) (core : Nat) : List (Nat × Nat) :=
  s.removed.filterMap fun f => match f with | .storeBank c b => if c = core then some (4 * b, 4) else none | _ => none

/-- The granules of a core that scratch, lane-private slices and cluster contributions take, as runs of one granule (R254), with those out
of service. -/
def State.partsOn (s : State) (core : Nat) : List (Nat × Nat) :=
  let on (ps : List (Nat × Nat)) : List (Nat × Nat) := (ps.filter fun p => p.1 == core).map fun p => (p.2, 1)
  ((s.residents core).flatMap fun t => on t.parts) ++
    s.ctxs.flatMap (fun c => if c.away then [] else c.csets.flatMap fun x => on x.parts) ++ s.deadRuns core

/-- n granules of a core for a part beside the taken runs: the highest that are free (notes/assumptions/16.md). -/
def freeParts (taken : List (Nat × Nat)) (core n : Nat) : List (Nat × Nat) :=
  (((List.range 256).reverse.filter fun g => !(taken.any fun r => r.1 ≤ g && g < r.1 + r.2)).take n).map fun g => (core, g)

/-- The starts of runs of n granules that miss the given runs, ascending. -/
def runStarts (taken : List (Nat × Nat)) (n : Nat) : List Nat :=
  let a := pow2Above n
  ((List.range (256 / a)).map fun i => a * i).filter fun x => x + n ≤ 256 && !(taken.any fun r => x < r.1 + r.2 && r.1 < x + n)

/-- Starts for some frames (team, granules) beside the taken runs, when there are any: every start of every frame is tried. -/
def refit (taken : List (Nat × Nat)) : List (Nat × Nat) → Option (List (Nat × Nat))
  | [] => some []
  | (id, n) :: rest =>
    (runStarts taken n).findSome? fun y => (refit ((y, n) :: taken) rest).map fun m => (id, y) :: m

/-- A start for a frame of n granules on a core: a free run, else one that moving frames of Parked teams makes (R257), the lowest
for which the moved frames find runs; frames that need not move stay, if that suffices. With it the new starts of the moved
frames. The other parts of footprints have granules of their own and stay (notes/assumptions/16.md). -/
def State.frameRun (s : State) (core n : Nat) : Option (Nat × List (Nat × Nat)) :=
  let rs := s.residents core
  let parts := s.partsOn core
  match findRun (rs.map (fun t => t.runOn core) ++ parts) n with
  | some x => some (x, [])
  | none =>
    let parked := rs.filter fun t => match t.st with | .parked _ => true | _ => false
    let fixed := parts ++ (rs.filter fun t => !(parked.any fun u => u.id == t.id)).map fun t => t.runOn core
    (runStarts fixed n).findSome? fun x =>
      let hit (t : Team) : Bool := let r := t.runOn core; x < r.1 + r.2 && r.1 < x + n
      let stay := (parked.filter fun t => !hit t).map fun t => t.runOn core
      let frames (ts : List Team) := ts.map fun t => (t.id, (t.needOn core).frame)
      ((refit ((x, n) :: stay ++ fixed) (frames (parked.filter hit))).or
        (refit ((x, n) :: fixed) (frames parked))).map fun m => (x, m)

/-- The free granules of a core. -/
def State.freeGranules (s : State) (core : Nat) : Nat :=
  coreGranules - (((s.residents core).map fun t => (t.needOn core).total).sum + s.clusterGranules core + 4 * (s.deadRuns core).length)

/-- The runs of a core that are taken. -/
def State.takenRuns (s : State) (core : Nat) : List (Nat × Nat) :=
  (s.residents core).map (fun t => t.runOn core) ++ s.partsOn core

/-- The lowest free resident team slot of a core (R254, R256). -/
def State.freeSlot (s : State) (core : Nat) : Option Nat :=
  let used := (s.residents core).map fun t => if t.core = core then t.slot else t.pairSlot.getD 0
  (List.range 256).find? fun n => !used.contains n

/-- A need fits a core: granules, an aligned run, a slot. Answers the slot, the run and the frames to move (R254, R257). -/
def State.fits (s : State) (core : Nat) (n : Need) : Option (Nat × Nat × List (Nat × Nat)) :=
  if s.freeGranules core < n.total then none
  else
    match s.freeSlot core, s.frameRun core n.frame with
    | some sl, some (x, moved) => some (sl, x, moved)
    | _, _ => none

/-- The quadrant with the fewest resident teams, the lowest on ties (R256). -/
def State.bestQuad (s : State) (core : Nat) : Nat :=
  let n (q : Nat) : Nat := ((s.residents core).filter fun t => t.quad == q).length
  ((List.range 4).find? fun q => (List.range 4).all fun r => n q ≤ n r).getD 0

/-- The context holds granules. -/
def State.holdGranules (s : State) (ctx : Nat) (gs : List (Nat × Nat)) : State :=
  { s with holders := gs.map (fun g => (g, some ctx)) ++ s.holders.filter fun h => !gs.contains h.1 }

/-- The granules of a run on a core. -/
def runGranules (core : Nat) (r : Nat × Nat) : List (Nat × Nat) := (List.range r.2).map fun i => (core, r.1 + i)

/-- Everything that a context's teams and cluster sets hold of the core store is its own again (R27, R305). -/
def State.holdAll (s : State) (ctx : Nat) : State :=
  let mine := s.teams.filter fun t => t.ctx == ctx && t.core < 384 && t.st != .exited
  let frames := mine.flatMap fun t =>
    runGranules t.core (t.runOn t.core) ++ if t.pairSlot.isSome then runGranules (t.core ^^^ 1) (t.runOn (t.core ^^^ 1)) else []
  let sets := ((s.ctx? ctx).map fun c => c.csets.flatMap (·.parts)).getD []
  s.holdGranules ctx (frames ++ mine.flatMap (·.parts) ++ sets)

end Sys2Proof.Machine
end

