-- ==== Sys2Proof/Machine/Task.lean ====
section
/-!
DEFINITION. The TASK class: SPAWN and JOINC (R261 to R263), the ring instructions (R271 to R276), SYSC and SYSCT (R277, R278), and
REORD (R99, R100).
-/

namespace Sys2Proof.Machine

/-! ## SPAWN and JOINC -/

/-- The operands of SPAWN (R261). -/
structure SpawnOps where
  entry : Word
  p : Nat
  lanes : Nat
  scr : Nat
  count : Nat
  rlen : Nat
  roff : Nat
  deriving DecidableEq, Repr

def spawnOps (e f g h : Word) : SpawnOps :=
  { entry := e, p := 8 * wfld f 22 16, lanes := wfld f 10 0, scr := 256 * wfld g 29 16, count := wfld g 11 0,
    rlen := wfld h 31 16, roff := wfld h 15 0 }

/-- The operands pass the checks that give status 3 (R261, R262). -/
def spawnOk (t : Team) (k : Desc) (f g : Word) (o : SpawnOps) : Bool :=
  wfld f 31 23 == 0 && wfld f 15 11 == 0 && wfld g 31 30 == 0 && wfld g 15 12 == 0 &&
  o.entry.toNat % 4 == 0 && 32 ≤ o.p && o.p ≤ 512 &&
  t.g ≤ o.lanes && o.lanes ≤ 1024 && o.lanes % t.g == 0 && o.scr ≤ 2097152 && 1 ≤ o.count &&
  o.rlen % 16 == 0 && o.rlen ≤ 4096 && o.roff % 16 == 0 && o.roff + o.rlen ≤ t.scrSize && o.rlen ≤ o.scr &&
  ({ lanes := o.lanes, p := o.p, priv := k.priv, scr := o.scr } : Need).total + granules (k.clm / 8) ≤ coreGranules

/-- The next free handle of the team: ascending from nextHandle with wrap, 1 to 65535 (R262). -/
def Team.freeHandle (t : Team) : Nat :=
  (((List.range 65).map fun i => (t.nextHandle - 1 + i) % 65535 + 1).find? fun h => !(t.handles.any fun x => x.hd == h)).getD 1

/-- The children of a SPAWN, waiting for placement. -/
def childrenOf (t : Team) (o : SpawnOps) (hd first upto : Nat) (status : Word) : List Child :=
  (List.range o.count).map fun i =>
    { id := first + i, kernel := t.kernel, parent := t.id, parentTid := t.tid, parentCore := t.core, handle := hd,
      status := status, index := i, entry := o.entry, p := o.p, lanes := o.lanes, scr := o.scr,
      record := memRead t.scratch o.roff o.rlen, depth := t.depth + 1, upto := upto }

/-- SPAWN (R262). A team of no kernel, a handler's or the firmware's, gets status 3: the spec does not speak of it
(notes/assumptions/110.md). -/
def execSpawn (c : Ctl) (d a : Fld) (s : State) : Res :=
  let as := run a 4
  s.issue c as [] [] [d] fun t =>
    s.uniforms t as
      (match s.ctx? t.ctx with
       | none => s.finishWrite c as [] t [(d, fun _ => 3)]
       | some x =>
         match x.kernel? t.kernel with
         | none => s.finishWrite c as [] t [(d, fun _ => 3)]
         | some k =>
           let f := t.getLow (fplus a 1)
           let g := t.getLow (fplus a 2)
           let o := spawnOps (t.getLow a) f g (t.getLow (fplus a 3))
           let code : Nat :=
             if !spawnOk t k.desc f g o then 3
             else if k.desc.nest < t.depth + 1 then 2
             else if x.quota < o.count then 1
             else if 64 ≤ t.handles.length then 4
             else 0
           if code ≠ 0 then s.finishWrite c as [] t [(d, fun _ => BitVec.ofNat 32 code)]
           else
             let hd := t.freeHandle
             let status : Word := BitVec.ofNat 32 (65536 * hd)
             let kids := childrenOf t o hd s.nextId s.nextId status
             let s1 := ({ s with nextId := s.nextId + o.count }).modCtx t.ctx fun y =>
               { y with quota := y.quota - o.count, children := y.children ++ kids }
             s1.finishWrite c as [] { t with nextHandle := hd % 65535 + 1,
                                             handles := t.handles ++ [{ hd := hd, children := kids.map (·.id) }] }
               [(d, fun _ => status)])

/-- Every child of a handle has exited, and its accesses meet the conditions of R166 at device scope (R263). -/
def State.childrenDone (s : State) (t : Team) (hd : Nat) : Bool :=
  match t.handles.find? fun x => x.hd == hd with
  | none => true
  | some h => h.children.all fun id =>
      !(s.ctxs.any fun c => c.children.any fun y => y.id == id) &&
      (match s.team? id with | none => true | some u => u.st == .exited) && s.releaseDone id .device s.nextId

/-- JOINC ends: it acquires at device scope and retires the handle (R263). -/
def State.joinEnd (s : State) (t : Team) (c : Ctl) (a : Fld) (hd : Nat) : State :=
  (s.acquire t.core .device).complete c
    { t.useMarks c [a] [] with handles := t.handles.filter fun x => x.hd != hd }

/-- JOINC (R263). -/
def execJoinc (c : Ctl) (a : Fld) (s : State) : Res :=
  s.issue c [a] [] [] [] fun t =>
    let hd := wfld (t.getLow a) 31 16
    if hd = 0 ∨ !(t.handles.any fun x => x.hd == hd) then s.protect t (t.getLow a)
    else if s.childrenDone t hd && s.boundDone t.id s.nextId then s.joinEnd t c a hd
    else s.putTeam { t with st := .waitingCounter (.children hd), finish := .retireHandle c a hd }

/-! ## Ring control blocks -/

/-- The RCB that a ring reference names (R271). -/
def ringKey (t : Team) (w : Word) : RcbKey :=
  if wbit w 6 then .slice (wfld w 5 0) else .cluster (t.core / 8) (wfld w 5 0)

/-- A ring's scope (R271). -/
def ringScope (w : Word) : Scope := if wbit w 6 then .device else .cluster

/-- A commit that expects e bytes (R273). -/
def Rcb.commit (r : Rcb) (sl e : Nat) : Rcb :=
  let x := r.slot sl
  if x.st = .acquired then r.setSlot sl { x with exp := e, st := if x.credit = e then .full else .pendingBytes } else r

/-- RACQ (R274, R275). -/
def execRacq (c : Ctl) (d a : Fld) (s : State) : Res :=
  let d1 := fplus d 1
  s.issue c [a] [] [] [d, d1] fun t =>
    s.uniforms t [a]
      (let w := t.getLow a
       let key := ringKey t w
       let r := s.rcb t.ctx key
       if wfld w 31 7 ≠ 0 ∨ !r.en then s.protect t w
       else
         let n := r.tail
         if (r.slot n).st = .empty then
           let r1 := (r.setSlot n { st := .acquired, credit := 0, exp := 0, fail := false })
           (s.putRcb t.ctx { r1 with tail := (n + 1) % r.count }).finishWrite c [a] [] t
             [(d, fun _ => BitVec.ofNat 32 n), (d1, fun _ => BitVec.ofNat 32 (n * 2 ^ r.log2s))]
         else s.putTeam { t with st := .parked (.racq key) })

/-- The checks that RCOM and RREL share on a slot operand, then k with the RCB and the slot (R274). -/
def State.slotOperand (s : State) (t : Team) (w : Word) (more : Bool) (k : RcbKey → Rcb → Nat → State) : State :=
  let key := ringKey t w
  let r := s.rcb t.ctx key
  if wfld w 31 16 ≠ 0 ∨ wbit w 7 ∨ more ∨ !r.en ∨ r.count ≤ wfld w 15 8 then s.protect t w else k key r (wfld w 15 8)

/-- RCOM ends: the commit reaches the RCB (R275). -/
def State.rcomEnd (s : State) (t : Team) (c : Ctl) (a : Fld) (key : RcbKey) (sl e : Nat) : State :=
  (s.putRcb t.ctx ((s.rcb t.ctx key).commit sl e)).complete c (t.useMarks c (run a 2) [])

/-- RCOM (R274, R275): it waits for the conditions of R166 at the ring's scope. -/
def execRcom (c : Ctl) (a : Fld) (s : State) : Res :=
  let as := run a 2
  s.issue c as [] [] [] fun t =>
    s.uniforms t as
      (let w := t.getLow a
       let e := (t.getLow (fplus a 1)).toNat
       s.slotOperand t w (decide (0xFFFFFF < e)) fun key r sl =>
         if (r.slot sl).st ≠ .acquired then s.protect t w
         else if s.releaseDone t.id (ringScope w) s.nextId then s.rcomEnd t c a key sl e
         else s.putTeam { t with st := .waitingCounter (.release (ringScope w) s.nextId), finish := .rcom c a key sl e })

/-- RPEEK (R274, R275): it never waits, and its acquire drops the copies of this moment (R167). -/
def execRpeek (c : Ctl) (d a : Fld) (s : State) : Res :=
  let d1 := fplus d 1
  s.issue c [a] [] [] [d, d1] fun t =>
    s.uniforms t [a]
      (let w := t.getLow a
       let r := s.rcb t.ctx (ringKey t w)
       if wfld w 31 7 ≠ 0 ∨ !r.en then s.protect t w
       else
         let n := r.head
         let x := r.slot n
         if x.st ≠ .full then s.finishWrite c [a] [] t [(d, fun _ => 0xFFFFFFFF#32), (d1, fun _ => 0)]
         else
           let r1 := { r.setSlot n { x with st := .peeked } with head := (n + 1) % r.count }
           ((s.putRcb t.ctx r1).acquire t.core (ringScope w)).finishWrite c [a] [] t
             [(d, fun _ => BitVec.ofNat 32 (n + if x.fail then 256 else 0)), (d1, fun _ => BitVec.ofNat 32 (n * 2 ^ r.log2s))])

/-- RREL (R274, R275). -/
def execRrel (c : Ctl) (a : Fld) (s : State) : Res :=
  s.issue c [a] [] [] [] fun t =>
    s.uniforms t [a]
      (let w := t.getLow a
       s.slotOperand t w false fun _ r sl =>
         let x := r.slot sl
         let r1 := if x.st = .peeked then r.setSlot sl { x with st := .empty } else r.overflow
         (s.putRcb t.ctx r1).complete c (t.useMarks c [a] []))

/-! ## The syscall ring -/

/-- The lowest Free entry of a context's syscall ring (R277). -/
def State.syscFree (s : State) (ctx : Nat) : Option Nat :=
  match s.ctx? ctx with
  | none => none
  | some c => (List.range 256).find? fun n => !(c.sysc.any fun e => e.n == n)

/-- Posts D to D+3 of the lowest active lane; D to D+3 become empty (R278). A message takes its place in the outbound sequence of the
context (R389). -/
def State.syscPost (s : State) (t : Team) (c : Ctl) (d : Fld) (n : Nat) : State :=
  let ds := run d 4
  let e : SyscEntry :=
    { n := n, st := .posted, reply := [], team := t.id, words := ds.map t.getLow, dests := t.regsOf ds, mask := t.mask }
  let s1 := s.modCtx t.ctx fun x => { x with sysc := x.sysc ++ [e] }
  let s2 := match Config.message e.words with | some p => s1.tagSent t.ctx p | none => s1
  s2.complete c ((t.regsOf ds).foldl Team.markEmpty t)

/-- The shared shape of SYSC and SYSCT: a release at system scope, then the post; full says what a full ring does. -/
def State.sysc (s : State) (i : Instr) (c : Ctl) (d : Fld) (full : Team → State) : Res :=
  let ds := run d 4
  s.issue c [] [] ds ds fun t =>
    if !s.releaseDone t.id .system s.nextId then
      s.putTeam { t with st := .waitingCounter (.release .system s.nextId), finish := .again i }
    else
      match s.syscFree t.ctx with
      | none => full t
      | some n => s.syscPost t c d n

/-- SYSC: on a full ring the team parks with a service event of kind 4 (R66, R306) until an entry frees (R278). -/
def execSysc (c : Ctl) (d : Fld) (s : State) : Res :=
  s.sysc (.sysc c d) c d fun t => s.park t 4 0 0 t.mask t.trapa 0 0

/-- SYSCT: on a full ring D receives 0xFFFFFFFF (R278). -/
def execSysct (c : Ctl) (d : Fld) (s : State) : Res :=
  s.sysc (.sysct c d) c d fun t => s.finishWrite c [] [] t [(d, fun _ => 0xFFFFFFFF#32)]

/-! ## REORD -/

/-- The live fields that k0 to k3 select (R99). -/
def Team.liveFields (t : Team) : List Fld :=
  ((List.range 120).filter fun n => wbit (t.k.getD (n / 32) 0) (n % 32)).map fun n => BitVec.ofNat 7 n

/-- Two teams belong to one reorder set (R99, R256 step 3). -/
def sameSet (k : Desc) (t u : Team) : Bool :=
  t.id == u.id ||
  (t.kind == .ordinary && u.kind == .ordinary && t.ctx == u.ctx && t.kernel == u.kernel && k.reord != 0 &&
   t.tid / k.reord == u.tid / k.reord &&
   (k.cset == 0 || k.reord % k.cset == 0 || k.cset % k.reord == 0 || t.tid / k.cset == u.tid / k.cset))

/-- The participants of a team's REORD that have not exited (R99, R100). -/
def State.reordSet (s : State) (t : Team) : List Team :=
  match s.kernelOf t with
  | none => [t]
  | some k => s.teams.filter fun u => sameSet k.desc t u && u.st != .exited && u.mask != 0

/-- An active lane of a participant in a list of REORD. -/
structure RLane where
  key : Nat
  tid : Nat
  lid : Nat
  id : Nat
  deriving DecidableEq, Repr

def RLane.before (a b : RLane) : Bool :=
  a.key < b.key || (a.key == b.key && (a.tid < b.tid || (a.tid == b.tid && a.lid ≤ b.lid)))

/-- Insertion into a list that ascends. -/
def insertLane (x : RLane) : List RLane → List RLane
  | [] => [x]
  | y :: rest => if x.before y then x :: y :: rest else y :: insertLane x rest

def sortLanes (ls : List RLane) : List RLane := ls.foldr insertLane []

/-- The fields of the REORD that a waiting participant executes. -/
def reordFields (t : Team) : Ctl × Fld × Fld :=
  match t.finish with
  | .again (.reord c d a) => (c, d, a)
  | _ => (ctlNone, f120, f120)

/-- The active lanes of a participant with their keys; O has every key 0. -/
def Team.rlanes (t : Team) (key : Nat → Nat) : List RLane :=
  t.lanes.map fun l => { key := key l, tid := t.tid, lid := l, id := t.id }

/-- A team after REORD: from gives the lane that each of its active slots receives (R100 step 5). -/
def Team.reordered (t : Team) (ts : List Team) (source : Nat → Option RLane) : Team :=
  let (_, d, _) := reordFields t
  let lane (u : Team) (r l : Nat) : Word :=
    match source l with
    | none => (t.reg r).bank.lane l
    | some x => match ts.find? fun v => v.id == x.id with
      | some v => (v.reg (v.wbase + (r - u.wbase))).bank.lane x.lid
      | none => (t.reg r).bank.lane l
  let put (u : Team) (r : Nat) (f : Nat → Word) : Team :=
    { u with frame := u.frame.set r { u.reg r with uniform := false, bank := .per ((List.range t.nlanes).map f) } }
  let u1 := (t.regsOf t.liveFields).foldl (fun u r => put u r (lane t r)) t
  let u2 := (t.regsOf [d]).foldl (fun u r => put u r fun l =>
    match source l with
    | some x => BitVec.ofNat 32 (1024 * x.tid + x.lid)
    | none => (u1.reg r).bank.lane l) u1
  { u2 with gen := u2.gen + 1, finish := .none }

/-- A register that becomes full with an Undefined value (R100 step 6). -/
def State.undefReg (s : State) (id r : Nat) : State :=
  match s.team? id with
  | none => s
  | some t =>
    let v : RegVal := .per ((List.range t.nlanes).map fun l => Config.freeWord (s.freeCtr + l))
    ({ s with freeCtr := s.freeCtr + t.nlanes }).putTeam
      { t with frame := t.frame.set r { full := true, uniform := false, bank := v } }

/-- Pending returns of a participant are dropped, and their registers hold Undefined values; requests that do more than return
a value go on without their return (R100 step 6). -/
def State.dropReturns (s : State) (t : Team) : State :=
  let mine := s.reqs.filter fun r => r.team == t.id
  let sys := (s.ctxs.flatMap (·.sysc)).filter fun e => e.team == t.id && e.st != .delivered
  let s1 := (mine.flatMap (·.dests) ++ sys.flatMap (·.dests)).foldl (fun u r => u.undefReg t.id r) s
  let gone (r : Req) : Bool := r.team == t.id && r.dests != [] &&
    match r.kind with
    | .ldg _ _ _ _ => true
    | .ldl _ _ _ => true
    | .mabs => true
    | .isec _ _ _ _ => true
    | .trace => true
    | .relief _ _ _ => true
    | _ => false
  let keep (r : Req) : Req := if r.team = t.id then { r with dests := [], gen := t.gen + 1 } else r
  let s2 := { s1 with reqs := (s1.reqs.filter fun r => !gone r).map keep }
  let cut (e : SyscEntry) : SyscEntry := if e.team = t.id then { e with dests := [] } else e
  let s3 := s2.modCtx t.ctx fun c => { c with sysc := c.sysc.map cut }
  s3.settleCnt t.id

/-- REORD takes effect in every participant (R100 steps 3 to 7). -/
def State.reordAll (s : State) (ts : List Team) : State :=
  let sorted := sortLanes (ts.flatMap fun t => t.rlanes fun l => (t.get (reordFields t).2.2 l).toNat)
  let slots := sortLanes (ts.flatMap fun t => t.rlanes fun _ => 0)
  let pairs : List (RLane × RLane) := slots.zip sorted
  let s1 := ts.foldl (fun u t => u.dropReturns t) s
  ts.foldl (fun u t =>
    match u.team? t.id with
    | none => u
    | some v =>
      let (c, _, a) := reordFields t
      u.complete c ((v.useMarks c [a] []).reordered ts fun l =>
        (pairs.find? fun p => p.1.id == t.id && p.1.lid == l).map (·.2))) s1

/-- The last participant has arrived: a mismatch traps in every participant, otherwise the lanes are reordered (R100). -/
def State.reordTry (s : State) (t : Team) : State :=
  let ts := s.reordSet t
  if ts = [] ∨ !(ts.all fun u => u.st == .waitingLatch .reord) then s
  else if ts.all fun u => u.pc == t.pc && u.liveFields == t.liveFields then s.reordAll ts
  else ts.foldl (fun u v => u.trap { v with finish := .none } 13 0 v.mask 0) s

/-- REORD (R99, R100): the window is drained and the team arrives. -/
def execReord (c : Ctl) (d a : Fld) (s : State) : Res :=
  s.withTeam fun t =>
    s.checked t c [a] [] t.liveFields [d]
      (let u := { t.drain with st := .waitingLatch .reord, finish := .again (.reord c d a) }
       (s.putTeam u).reordTry u)

end Sys2Proof.Machine
end

