-- ==== Sys2Proof/Machine/Surface.lean ====
section
/-!
DEFINITION. The relief engine: descriptors (R317, R319), registration (R315, R318), reconstruction (R322, R323), block events
(R321, R331 to R333), sealing (R336, R337), and page faults of engines (R417).
-/

namespace Sys2Proof.Machine

/-! ## Engines and absent pages (R417) -/

/-- What stops a read is an address below 2^55 on an absent page, or the mark of a poisoned line (R209). -/
def poisonMark (line : Nat) : Nat := 2 ^ 55 + line

/-- The poisoned line at which an engine stopped: in what it read, or in the tables (R209). -/
def State.stopPoison (s : State) (ctx va : Nat) : Option Nat :=
  if 2 ^ 55 ≤ va then some (va - 2 ^ 55) else s.walkPoison (s.rootOf ctx) va

/-- The event of an agent's absent page is open: the agent waits, and walks again only after its completion (R417). -/
def State.faulting (s : State) (what : EventOf) : Bool := s.events.any fun e => e.what == what

/-- The pages at which a skip or fatal completion has ended a wait of the agent: they count as forbidden (R417). -/
def State.skips (s : State) (what : EventOf) : List Nat := (s.giveUp.filter fun p => p.1 == what).map (·.2)

/-- The agent's skip or fatal completions have been used (R417). -/
def State.forgive (s : State) (what : EventOf) : State := { s with giveUp := s.giveUp.filter fun p => p.1 != what }

/-- What an engine does about the place where it stopped: the read of a poisoned line contains the context (R209); a pooled page
is installed; any other absent page holds the agent and raises an event. While its event is open the agent waits. -/
def State.engineFault (s : State) (ctx : Nat) (what : EventOf) (va kind : Nat) : State :=
  let raise (u : State) : State :=
    u.openEvent { num := u.eventNum, ctx := ctx, what := what, kind := 5, cause := 0, detail := 0, f := 0, trapa := 0,
                  va := va, access := kind } 0 0
  if s.faulting what then s
  else
    match s.stopPoison ctx va with
    | some l => s.contain ctx (some l)
    | none =>
      match s.engineSeg ctx va with
      | .fault (.pool e at_) =>
        let r := s.install ctx (s.ctxPart ctx).1 e at_
        if r.1 then r.2 else raise r.2
      | .fault _ => raise s
      | _ => s

/-- Translation for an agent that has given up some pages. -/
def State.agentSeg (s : State) (ctx : Nat) (skip : List Nat) (va : Nat) : Seg :=
  if skip.contains (va / 65536) then .bad else s.engineSeg ctx va

/-! ## Staging frames (R308) -/

/-- Pages that a write has copied to the staging area of the maquette that a context streams, on the way from s to u. -/
def State.newStaged (s u : State) (ctx : Nat) : List Nat :=
  let staged (v : State) : List Nat :=
    match v.maqs.find? fun m => m.ctx == ctx && m.streaming with
    | some m => m.staged.map (·.1)
    | none => []
  (staged u).filter fun p => !(staged s).contains p

/-- Takes n staging frames from the pools of a partition. -/
def State.payFrames (s : State) (first size : Nat) : Nat → Option State
  | 0 => some s
  | n + 1 =>
    match s.takeFrom first size ((List.range size).map fun i => first + i) with
    | (some _, u) => u.payFrames first size n
    | (none, _) => none

/-- The state u that writes of a context lead to from s, with a staging frame for each page that they reached first; none: a frame is
missing. -/
def State.paid (s u : State) (ctx : Nat) : Option State :=
  u.payFrames (u.ctxPart ctx).1 (u.ctxPart ctx).2 (s.newStaged u ctx).length

/-- An engine holds its command while a staging frame is missing. -/
def State.orHold (s u : State) (ctx : Nat) : State := (s.paid u ctx).getD s

/-- A team waits in Waiting-counter while a staging frame is missing. -/
def State.orWait (s u : State) (t : Team) : State :=
  match s.paid u t.ctx with
  | some v => v
  | none => s.waitCounter t (.staging ((s.newStaged u t.ctx).headD 0))

/-- What an engine reads (R322). -/
inductive Rd (α : Type) where
  /-- A value, with the frames of the surfaces that show a malformed block. -/
  | val (a : α) (bad : List Nat)
  | absent (va : Nat)

def Rd.bind {α β : Type} (x : Rd α) (f : α → Rd β) : Rd β :=
  match x with
  | .absent v => .absent v
  | .val a b => match f a with
    | .absent v => .absent v
    | .val c d => .val c (b ++ d)

def Rd.pure {α : Type} (a : α) : Rd α := .val a []

/-- Runs a list of reads in order. -/
def Rd.all {α : Type} : List (Rd α) → Rd (List α)
  | [] => .val [] []
  | x :: rest => x.bind fun a => (Rd.all rest).bind fun as => .val (a :: as) []

/-- n bytes of global memory as an engine reads them, none where a page forbids it, as the pages in skip do (R322, R417). -/
def State.engineRead (s : State) (ctx : Nat) (skip : List Nat) (va n : Nat) : Rd (Option (List Byte)) :=
  if n = 0 then Rd.pure (some []) else
  (Rd.all ((pieces va n).map fun p =>
    match s.agentSeg ctx skip p.1 with
    | .ok pa a =>
      if a.rlf || a.raw || isRemote pa || s.tableAt pa p.2 then Rd.pure none
      else
        match s.poisonIn pa p.2 with
        | some l => .absent (poisonMark l)
        | none => Rd.pure (some (s.phys pa p.2))
    | .bad => Rd.pure none
    | .fault _ => .absent p.1)).bind fun xs =>
      Rd.pure (if xs.all (·.isSome) then some (xs.flatMap fun x => x.getD []) else none)

/-- The pieces of an engine's write to plain memory, none where a page forbids it (R315, R321). -/
def State.engineSpan (s : State) (ctx : Nat) (skip : List Nat) (va n : Nat) : Rd (Option (List (Nat × Nat))) :=
  if n = 0 then Rd.pure (some []) else
  (Rd.all ((pieces va n).map fun p =>
    match s.agentSeg ctx skip p.1 with
    | .ok pa a =>
      if !a.w || a.rlf || a.raw || isRemote pa || s.tableAt pa p.2 then Rd.pure none else Rd.pure (some (pa, p.2))
    | .bad => Rd.pure none
    | .fault _ => .absent p.1)).bind fun xs =>
      Rd.pure (if xs.all (·.isSome) then some (xs.filterMap id) else none)

/-- Writes bytes to the pieces of a span. -/
def State.writeSpan (s : State) (ctx : Nat) : List (Nat × Nat) → List Byte → State
  | [], _ => s
  | (pa, n) :: rest, bs => (s.engineWrite ctx pa (bs.take n)).writeSpan ctx rest (bs.drop n)

/-! ## Descriptors -/

/-- Word i of block b's descriptor (R319). -/
def Surface.bword (f : Surface) (b i : Nat) : Word := memWord f.coded (128 + 16 * b + 4 * i)
def Surface.isDirty (f : Surface) (b : Nat) : Bool := wbit (f.bword b 0) 8

/-- The fields of a block descriptor (R319). -/
structure Blk where
  dirty : Bool
  qp : Nat
  ref : Nat
  mode : Nat
  mvy : Int
  mvx : Int
  hlen : Nat
  nz : List Nat
  hoff : Word
  reserved : Bool
  deriving DecidableEq, Repr

def Surface.blk (f : Surface) (b : Nat) : Blk :=
  let w0 := f.bword b 0
  let w1 := f.bword b 1
  let w2 := f.bword b 2
  { dirty := wbit w0 8, qp := wfld w0 7 4, ref := wfld w0 3 2, mode := wfld w0 1 0,
    mvy := (w1.extractLsb' 12 12).toInt, mvx := (w1.extractLsb' 0 12).toInt,
    hlen := wfld w2 27 20, nz := (List.range 4).map fun c => wfld w2 (5 * c + 4) (5 * c), hoff := f.bword b 3,
    reserved := wfld w0 31 9 != 0 || wfld w1 31 24 != 0 || wfld w2 31 28 != 0 }

/-- The four words of a block descriptor. -/
def Blk.words (k : Blk) : List Word :=
  [BitVec.ofNat 32 (256 * (if k.dirty then 1 else 0) + 16 * k.qp + 4 * k.ref + k.mode),
   BitVec.ofNat 32 (4096 * (BitVec.ofInt 12 k.mvy).toNat + (BitVec.ofInt 12 k.mvx).toNat),
   BitVec.ofNat 32 (2 ^ 20 * k.hlen + k.nz.getD 0 0 + 32 * k.nz.getD 1 0 + 1024 * k.nz.getD 2 0 + 32768 * k.nz.getD 3 0),
   k.hoff]

/-- The block breaks R319. -/
def Surface.malformed (f : Surface) (k : Blk) : Bool :=
  k.reserved || (2 ≤ k.mode && f.nref ≤ k.ref) || (k.nz.any fun n => 16 < n) ||
  (f.bpp == 1 && (k.nz.drop 1).any fun n => n != 0) ||
  k.hlen != (match k.mode with | 0 => 16 * f.bpp | 2 => 2 * k.nz.sum | _ => 0) ||
  (k.hlen != 0 && f.heapsz < k.hoff.toNat + k.hlen)

/-! ## Writing what the engine holds -/

def State.modSurface (s : State) (frame : Nat) (f : Surface → Surface) : State :=
  { s with surfaces := s.surfaces.map fun x => if x.frame = frame then f x else x }

/-- The engine changes bytes of a coded view: in what it holds and in memory. -/
def State.putCoded (s : State) (frame off : Nat) (bs : List Byte) : State :=
  match s.surface? frame with
  | none => s
  | some f =>
    (s.modSurface frame fun x => { x with coded := memWrite x.coded off bs }).engineWrite f.ctx (frame + off) bs

def State.putDescWord (s : State) (frame i : Nat) (w : Word) : State := s.putCoded frame (4 * i) (wordBytes w)

def State.putBlk (s : State) (frame b : Nat) (k : Blk) : State := s.putCoded frame (128 + 16 * b) (wordsBytes k.words)

/-- Replaces bits [hi:lo] of a word. -/
def setBits (w : Word) (hi lo v : Nat) : Word :=
  BitVec.ofNat 32 (w.toNat - bits w.toNat hi lo * 2 ^ lo + v % 2 ^ (hi + 1 - lo) * 2 ^ lo)

/-- BAD := 1 in the given surfaces (R322). -/
def State.markBad (s : State) (frames : List Nat) : State :=
  frames.eraseDups.foldl (fun u fr =>
    match u.surface? fr with
    | none => u
    | some f => if wbit (f.word 0) 12 then u else u.putDescWord fr 0 (setBits (f.word 0) 12 12 1)) s

/-- The pixels of an Open-dirty block in the reconstruction cache. -/
def State.setPixels (s : State) (frame b : Nat) (ps : List Byte) : State :=
  s.modSurface frame fun f => { f with dirty := (b, some ps) :: f.dirty.filter fun x => x.1 != b }

/-! ## Registration (R315, R318) -/

/-- Checks 1 and 2 of R318, with the versions of R20 and R21, on the 32 words of a descriptor: the RCODE of a failure, or 0. -/
def descCheck (w : Nat → Word) : Nat :=
  let w0 := w 0
  let dim (v : Nat) : Bool := v % 16 == 0 && 16 ≤ v && v ≤ 16384
  let al (i a : Nat) : Bool := (w i).toNat % a == 0 && wfld (w (i + 1)) 31 23 == 0
  if wfld w0 31 24 ≠ 1 then 1
  else if !(wfld w0 1 0 ≤ 1 && dim (wfld (w 1) 15 0) && dim (wfld (w 1) 31 16) && wfld w0 7 5 ≤ 4 &&
      wfld (w 2) 31 16 == 0 && wfld (w 2) 7 4 == 0 && al 4 16 && al 8 65536 && al 10 64 &&
      ([12, 13, 14, 15, 24, 25, 26, 27, 28, 29, 30, 31].all fun i => w i == 0) &&
      ((List.range 4).all fun r => wfld (w (17 + 2 * r)) 31 23 == 0 && (wfld w0 7 5 ≤ r || al (16 + 2 * r) 65536)) &&
      wfld w0 15 14 % 2 == 0 && (w 7).toNat ≤ (w 6).toNat &&
      (wfld w0 15 14 != 0 || w 10 != 0 || w 11 != 0)) then 2
  else 0

/-- What registration answers. -/
inductive SReg where
  | held
  | refused (rcode : Nat)
  | absent (va : Nat)
  deriving DecidableEq, Repr

/-- A failed registration writes RCODE (R315). -/
def State.refuseSurf (s : State) (ctx frame rcode : Nat) : State × SReg :=
  (s.engineWrite ctx frame (wordBytes (setBits (s.physWord frame) 11 8 rcode)), .refused rcode)

/-- A poisoned line that some bytes meet. -/
def State.poisonWithin (s : State) (pa n : Nat) : Option Nat := s.poisoned.find? fun l => pa < 64 * l + 64 && 64 * l < pa + n

/-- Registers the surface whose descriptor lies at a frame, its references first (R318), and the references of a held surface that a
rollback of their owner has dropped (R340). chain lists the surfaces that are being registered: a reference back to one of them does
not register as Sealed. fuel is more than the pages of DRAM, which a chain cannot pass. -/
def State.registerSurf (s : State) (ctx frame : Nat) (skip : List Nat) (chain : List Nat) : Nat → State × SReg
  | 0 => (s, .refused 4)
  | fuel + 1 =>
    if chain.contains frame then (s, .refused 3)
    else
    match s.surface? frame with
    | some f =>
      f.refs.foldl (fun (acc : State × SReg) r =>
        match acc.2 with
        | .absent _ => acc
        | _ =>
          match acc.1.registerSurf ctx r skip (frame :: chain) fuel with
          | (u, .absent va) => (u, .absent va)
          | (u, _) => (u, .held)) (s, .held)
    | none =>
      let w (i : Nat) : Word := s.physWord (frame + 4 * i)
      let size := 128 + 16 * (wfld (w 1) 15 0 / 4) * (wfld (w 1) 31 16 / 4)
      let c := descCheck w
      match s.poisonWithin frame (if c = 0 then size else 128) with
      | some l => (s, .absent (poisonMark l))
      | none =>
      if c ≠ 0 then s.refuseSurf ctx frame c
      else
        let nref := wfld (w 0) 7 5
        let step (acc : State × Except SReg (List Nat)) (r : Nat) : State × Except SReg (List Nat) :=
          match acc with
          | (u, .error e) => (u, .error e)
          | (u, .ok fs) =>
            let va := (w (16 + 2 * r)).toNat + 2 ^ 32 * wfld (w (17 + 2 * r)) 22 0
            match u.agentSeg ctx skip va with
            | .bad => (u, .error (.refused 3))
            | .fault _ => (u, .error (.absent va))
            | .ok pa a =>
              if !a.rlf || isRemote pa then (u, .error (.refused 3))
              else
                match u.registerSurf ctx pa skip (frame :: chain) fuel with
                | (v, .absent x) => (v, .error (.absent x))
                | (v, .refused _) => (v, .error (.refused 3))
                | (v, .held) =>
                  match v.surface? pa with
                  | none => (v, .error (.refused 3))
                  | some f =>
                    if f.st = .sealed ∧ wfld (f.word 0) 1 0 = wfld (w 0) 1 0 ∧ f.word 1 = w 1 then (v, .ok (fs ++ [pa]))
                    else (v, .error (.refused 3))
        match (List.range nref).foldl step (s, .ok []) with
        | (u, .error (.refused r)) => u.refuseSurf ctx frame r
        | (u, .error e) => (u, e)
        | (u, .ok fs) =>
          let depth := if fs = [] then 0 else
            1 + fs.foldl (fun m fr => max m (wfld (u.descWord fr 0) 4 2)) 0
          if 4 < depth then u.refuseSurf ctx frame 4
          else
            let f : Surface :=
              { frame := frame, ctx := ctx, st := if wfld (w 0) 15 14 = 0 then .open_ else .sealed,
                coded := memSlice u.mem frame size, dirty := [], refs := fs, progress := none }
            let v := { u with surfaces := f :: u.surfaces }
            (v.putDescWord frame 0 (setBits (w 0) 4 2 depth), .held)

/-- A first access to a surface. -/
def State.holdSurf (s : State) (ctx frame : Nat) (skip : List Nat) : State × SReg := s.registerSurf ctx frame skip [] 12582913

/-- The runs of memory (physical address, length, surface, heap offset) that hold the heap bytes below HFILL of the held surfaces. -/
def State.heapRuns (s : State) : List (Nat × Nat × Nat × Nat) :=
  s.surfaces.flatMap fun f =>
    if f.hfill = 0 then []
    else (pieces f.heapva f.hfill).filterMap fun p =>
      match s.engineSeg f.ctx p.1 with
      | .ok pa _ => some (pa, p.2, f.frame, p.1 - f.heapva)
      | _ => none

/-- The engines keep the heap bytes of their held surfaces that n bytes written by software at pa replace (R314). -/
def State.keepHeap (s : State) (pa n : Nat) : State :=
  (s.heapRuns.filter fun h => overlaps h.1 h.2.1 pa n).foldl (fun u h =>
    let lo := max pa h.1
    let hi := min (pa + n) (h.1 + h.2.1)
    u.modSurface h.2.2.1 fun f =>
      let new := ((List.range (hi - lo)).map fun i => (h.2.2.2 + (lo - h.1) + i, memGet s.mem (lo + i))).filter fun k =>
        !(f.kept.any fun x => x.1 == k.1)
      { f with kept := f.kept ++ new }) s

/-- The descriptor of the surface that is not held and whose coded view an address lies in: the nearest page at or before it whose
descriptor passes checks 1 and 2 and whose view reaches the address; else its own page when it names one of the first 128 bytes of
it, where a descriptor lies (R315, R317, notes/assumptions/82.md). -/
def State.codedFrame (s : State) (pa : Nat) : Option Nat :=
  let p := pa / 65536
  let w (i k : Nat) : Word := s.physWord ((p - i) * 65536 + 4 * k)
  let covers (i : Nat) : Bool :=
    descCheck (w i) == 0 &&
      decide (pa < (p - i) * 65536 + 128 + 16 * (wfld (w i 1) 15 0 / 4) * (wfld (w i 1) 31 16 / 4))
  if isRemote pa || (s.codedAt pa).isSome then none
  else
    match (List.range (min 4097 (p + 1))).find? covers with
    | some i => some ((p - i) * 65536)
    | none => if pa % 65536 < 128 then some (p * 65536) else none

/-- The surface that an access on a relief page names: by its raw view, or by a coded view that is not held yet (R314, R325). -/
def State.viewFrame (s : State) (ctx va pa : Nat) (a : Attr) : Option Nat :=
  if a.raw then some (s.leafFrame ctx va pa) else if a.rlf then s.codedFrame pa else none

/-- First accesses to several surfaces; the page that a registration waits for. -/
def State.holdFrames (s : State) (ctx : Nat) (skip : List Nat) : List Nat → State × Option Nat
  | [] => (s, none)
  | f :: rest =>
    match s.holdSurf ctx f skip with
    | (s1, .absent va) => (s1, some va)
    | (s1, _) => s1.holdFrames ctx skip rest

/-! ## Reconstruction (R322, R323) -/

/-- The level of position k among the entries of one channel (R320). -/
def levelAt (es : List Word) (k : Nat) : Int :=
  match es.find? fun e => wfld e 15 12 == k with
  | some e => (e.extractLsb' 0 12).toInt
  | none => 0

/-- The 16-bit entries of heap bytes. -/
def entriesOf : List Byte → List Word
  | a :: b :: rest => BitVec.ofNat 32 (leNat [a, b]) :: entriesOf rest
  | _ => []

/-- Positions rise strictly (R320). -/
def ascending : List Word → Bool
  | a :: b :: rest => wfld a 15 12 < wfld b 15 12 && ascending (b :: rest)
  | _ => true

/-- step(q) (R323). -/
def qstep (q : Nat) : Int := (16 + 4 * (q % 4)) * 2 ^ (q / 4)

/-- INV (R323). -/
def inv4 (d0 d1 d2 d3 : Int) : List Int :=
  let e0 := d0 + d2
  let e1 := d0 - d2
  let e2 := d1 / 2 - d3
  let e3 := d1 + d3 / 2
  [e0 + e3, e1 + e2, e1 - e2, e0 - e3]

/-- The residual of a block from its levels lv (position k), at u and w (R323). -/
def residual (lv : Nat → Int) (q u w : Nat) : Int :=
  let c (r c : Nat) : Int := lv (4 * r + c) * qstep q
  let g (r : Nat) : Int := (inv4 (c r 0) (c r 1) (c r 2) (c r 3)).getD u 0
  ((inv4 (g 0) (g 1) (g 2) (g 3)).getD w 0 + 32) / 64

/-- CLAMP(v, 0, 255). -/
def clamp255 (v : Int) : Nat := (max 0 (min 255 v)).toNat

/-- CLAMP of a coordinate. -/
def clampTo (v : Int) (hi : Nat) : Nat := (max 0 (min (hi : Int) v)).toNat

/-- n bytes of a surface's heap from an offset on: those that software has written over while the surface is held are as the engine
had them (R314). -/
def State.heapRead (s : State) (skip : List Nat) (f : Surface) (o n : Nat) : Rd (Option (List Byte)) :=
  (s.engineRead f.ctx skip (f.heapva + o) n).bind fun x =>
    Rd.pure (x.map fun bs =>
      if f.kept = [] then bs
      else ((List.range n).zip bs).map fun p => ((f.kept.find? fun k => k.1 == o + p.1).map (·.2)).getD p.2)

/-- The levels of a Clean INTER block in channel ch; none: the block counts as malformed. -/
def State.levels (s : State) (skip : List Nat) (f : Surface) (k : Blk) (ch : Nat) : Rd (Option (List Word)) :=
  let skipN := (k.nz.take ch).sum
  (s.heapRead skip f (k.hoff.toNat + 2 * skipN) (2 * k.nz.getD ch 0)).bind fun x =>
    match x with
    | none => Rd.pure none
    | some bs => Rd.pure (if ascending (entriesOf bs) then some (entriesOf bs) else none)

/-- The prediction of channel ch at pixel (x, y) from a reference whose pixels val gives (R322). -/
def predict (val : Nat → Nat → Rd Nat) (k : Blk) (width height x y : Nat) : Rd Int :=
  let xr : Int := x + k.mvx / 4
  let yr : Int := y + k.mvy / 4
  let fx := k.mvx % 4
  let fy := k.mvy % 4
  let px (i j : Int) : Rd Nat := val (clampTo (xr + i) (width - 1)) (clampTo (yr + j) (height - 1))
  (px 0 0).bind fun p00 => (px 1 0).bind fun p10 => (px 0 1).bind fun p01 => (px 1 1).bind fun p11 =>
    Rd.pure (((4 - fx) * (4 - fy) * p00 + fx * (4 - fy) * p10 + (4 - fx) * fy * p01 + fx * fy * p11 + 8) / 16)

/-- The 16-pixel bytes of an Open-dirty block: in the cache, else in the open area (R321). -/
def State.dirtyPixels (s : State) (skip : List Nat) (f : Surface) (b : Nat) : Rd (Option (List Byte)) :=
  match (f.dirty.find? fun x => x.1 == b).bind (·.2) with
  | some ps => Rd.pure (some ps)
  | none => s.engineRead f.ctx skip (f.openva + 16 * f.bpp * b) (16 * f.bpp)

/-- value(S, x, y, ch) (R322); fuel bounds the recursion through references. -/
def State.pixel (s : State) (skip : List Nat) : Nat → Nat → Nat → Nat → Nat → Rd Nat
  | 0, _, _, _, _ => Rd.pure 0
  | fuel + 1, frame, x, y, ch =>
    match s.surface? frame with
    | none => Rd.pure 0
    | some f =>
      let b := f.blockOf x y
      let k := f.blk b
      let i := (4 * (y % 4) + x % 4) * f.bpp + ch
      let bad : Rd Nat := .val 0 [frame]
      if k.dirty then
        (s.dirtyPixels skip f b).bind fun p =>
          match p with
          | some ps => Rd.pure (ps.getD i 0).toNat
          | none => bad
      else if f.malformed k then bad
      else if k.mode = 1 then Rd.pure (wfld k.hoff (8 * ch + 7) (8 * ch))
      else if k.mode = 0 then
        (s.heapRead skip f (k.hoff.toNat + i) 1).bind fun p =>
          match p with
          | some ps => Rd.pure (ps.getD 0 0).toNat
          | none => bad
      else
        (predict (fun px py => s.pixel skip fuel (f.refs.getD k.ref 0) px py ch) k f.width f.height x y).bind fun p =>
          if k.mode = 3 then Rd.pure p.toNat
          else
            (s.levels skip f k ch).bind fun ls =>
              match ls with
              | none => bad
              | some es => Rd.pure (clamp255 (p + residual (levelAt es) k.qp (x % 4) (y % 4)))

/-- The value with fuel for the deepest chain. -/
def State.value (s : State) (skip : List Nat) (frame x y ch : Nat) : Rd Nat := s.pixel skip 6 frame x y ch

/-- The bytes of the 16 pixels of block b, in raster order (R320). -/
def State.blockPixels (s : State) (skip : List Nat) (f : Surface) (b : Nat) : Rd (List Byte) :=
  let bx := b % (f.width / 4) * 4
  let by_ := b / (f.width / 4) * 4
  (Rd.all ((List.range (16 * f.bpp)).map fun i =>
    let p := i / f.bpp
    s.value skip f.frame (bx + p % 4) (by_ + p / 4) (i % f.bpp))).bind fun vs => Rd.pure (vs.map (BitVec.ofNat 8))

/-- The prediction of block b under its REF and motion, for pixel number p and channel ch. -/
def State.blockPredict (s : State) (skip : List Nat) (f : Surface) (k : Blk) (b p ch : Nat) : Rd Int :=
  let bx := b % (f.width / 4) * 4
  let by_ := b / (f.width / 4) * 4
  predict (fun x y => s.value skip (f.refs.getD k.ref 0) x y ch) k f.width f.height (bx + p % 4) (by_ + p / 4)

/-! ## Writing blocks (R321) -/

/-- What a lane's write does: the state after it, or the page that it waits for. -/
abbrev Wr := Rd State

/-- Makes a block Open-dirty with the given pixels and fields. -/
def State.dirtyBlock (s : State) (f : Surface) (b : Nat) (k : Blk) (ps : List Byte) : State :=
  (s.putBlk f.frame b { k with dirty := true }).setPixels f.frame b ps

/-- RSTP, or a raw-view store of n bytes at pixel byte i of block b (R321, R326, R331): materialise, then write. -/
def State.writePixels (s : State) (skip : List Nat) (raw : Bool) (frame b i : Nat) (bs : List Byte) : Wr :=
  match s.surface? frame with
  | none => Rd.pure s
  | some f =>
    let k := f.blk b
    (s.blockPixels skip f b).bind fun ps =>
      let ps1 := (List.range bs.length).foldl (fun p j => p.set (i + j) (bs.getD j 0)) ps
      Rd.pure (s.dirtyBlock f b { k with mode := if raw then 0 else k.mode } ps1)

/-- IGN rises by 1, saturating (R332, R333). -/
def State.ignLane (s : State) (frame : Nat) : State :=
  match s.surface? frame with
  | none => s
  | some f =>
    let w := f.word 2
    s.putDescWord frame 2 (setBits w 15 8 (min 255 (wfld w 15 8 + 1)))

/-- An entry of a level at a position (R320). -/
def entryOf (k : Nat) (v : Int) : List Byte := leBytes 2 (4096 * k + (BitVec.ofInt 12 v).toNat)

/-- The entries of 16 levels. -/
def encodeLevels (lv : Nat → Int) : List (List Byte) :=
  ((List.range 16).filter fun k => lv k != 0).map fun k => entryOf k (lv k)

/-- The levels of every channel of a Clean block: 0 for SKIP and for a malformed block (R321). -/
def State.allLevels (s : State) (skip : List Nat) (f : Surface) (k : Blk) : Rd (List (List Word)) :=
  Rd.all ((List.range f.bpp).map fun ch =>
    if k.mode ≠ 2 ∨ f.malformed k then Rd.pure []
    else (s.levels skip f k ch).bind fun x => Rd.pure (x.getD []))

/-- RSTC on one block: new levels lv of channel ch (R321, R332). -/
def State.writeLevels (s : State) (skip : List Nat) (frame b ch : Nat) (lv : Nat → Int) : Wr :=
  match s.surface? frame with
  | none => Rd.pure s
  | some f =>
    let k := f.blk b
    if (f.bpp = 1 ∧ ch ≠ 0) ∨ f.nref ≤ k.ref then Rd.pure (s.ignLane frame)
    else
      let toDirty : Wr :=
        (s.blockPixels skip f b).bind fun ps =>
          (Rd.all ((List.range 16).map fun p => s.blockPredict skip f k b p ch)).bind fun pr =>
            let ps1 := (List.range 16).foldl (fun q p =>
              q.set (p * f.bpp + ch)
                (BitVec.ofNat 8 (clamp255 (pr.getD p 0 + residual lv k.qp (p % 4) (p / 4))))) ps
            Rd.pure (s.dirtyBlock f b { k with mode := 2 } ps1)
      if k.dirty ∨ k.mode < 2 then toDirty
      else
        (s.allLevels skip f k).bind fun old =>
          let es := (List.range f.bpp).map fun c => encodeLevels (if c = ch then lv else levelAt (old.getD c []))
          let bs := (es.flatMap id).flatMap id
          if f.heapsz < f.hfill + bs.length then toDirty
          else
            (s.engineSpan f.ctx skip (f.heapva + f.hfill) bs.length).bind fun sp =>
              match sp with
              | none => toDirty
              | some ps =>
                let k1 := { k with mode := 2, hlen := bs.length, hoff := BitVec.ofNat 32 f.hfill,
                                   nz := (List.range 4).map fun c => (es.getD c []).length }
                let s1 := (s.writeSpan f.ctx ps bs).putBlk frame b k1
                Rd.pure (s1.putDescWord frame 7 (BitVec.ofNat 32 (f.hfill + bs.length)))

/-- RSTM on one block (R321, R333). -/
def State.writeMotion (s : State) (skip : List Nat) (frame b : Nat) (w : Word) : Wr :=
  match s.surface? frame with
  | none => Rd.pure s
  | some f =>
    let k := f.blk b
    let k1 := { k with mvx := (w.extractLsb' 0 12).toInt, mvy := (w.extractLsb' 12 12).toInt, mode := wfld w 25 24,
                       ref := wfld w 27 26, qp := wfld w 31 28 }
    if 2 ≤ k1.mode ∧ f.nref ≤ k1.ref then Rd.pure (s.ignLane frame)
    else if k.dirty then Rd.pure (s.putBlk frame b k1)
    else if 2 ≤ k1.mode then
      Rd.pure (s.putBlk frame b (if k1.mode = 3 ∨ k.mode ≠ 2 then { k1 with nz := [0, 0, 0, 0], hlen := 0 } else k1))
    else (s.blockPixels skip f b).bind fun ps => Rd.pure (s.dirtyBlock f b k1 ps)

/-! ## Sealing (R336, R337) -/

/-- Starts a seal or a flatten (R315). -/
def State.startSeal (s : State) (frame : Nat) (flatten : Bool) (entry : Option (Nat × Nat × Nat)) : State :=
  match s.surface? frame with
  | none => s
  | some f =>
    let todo := (List.range f.blocks).filter fun b => flatten || f.isDirty b
    let budget := min (f.word 3).toNat f.heapsz
    let p : Seal := { flatten := flatten, n := todo.length, j := 0, q := wfld (f.word 2) 3 0, h0 := f.hfill,
                      rb := budget - f.hfill, fallback := false, todo := todo, entry := entry }
    let s1 := s.putDescWord frame 0 (setBits (setBits (f.word 0) 15 14 1) 13 13 0)
    s1.modSurface frame fun x => { x with st := .sealing, progress := some p }

/-- RNA: the nearest integer to n / d, ties away from zero (R336). -/
def rna (n d : Int) : Int := if 0 ≤ n then (2 * n + d) / (2 * d) else -((2 * (-n) + d) / (2 * d))

/-- The forward transform's vectors and their norms (R336). -/
def fwdU (r i : Nat) : Int := (([[1, 1, 1, 1], [2, 1, -1, -2], [1, -1, -1, 1], [1, -2, 2, -1]] : List (List Int)).getD r []).getD i 0
def fwdN (r : Nat) : Int := if r % 2 = 0 then 4 else 5

/-- level[r][s] of the differences a(w, u) at QP q (R336). -/
def fwdLevel (a : Nat → Nat → Int) (q k : Nat) : Int :=
  let r := k / 4
  let c := k % 4
  let f := (List.range 4).foldl (fun acc w => (List.range 4).foldl (fun acc u => acc + fwdU r w * fwdU c u * a w u) acc) (0 : Int)
  max (-2048) (min 2047 (rna (64 * f) (fwdN r * fwdN c * qstep q)))

/-- Every channel is equal over the 16 pixels. -/
def flatBlock (bpp : Nat) (ps : List Byte) : Bool :=
  (List.range (16 * bpp)).all fun i => ps.getD i 0 == ps.getD (i % bpp) 0

/-- HOFF of a CONST block. -/
def constOff (bpp : Nat) (ps : List Byte) : Word := BitVec.ofNat 32 (leNat (ps.take bpp))

/-- A block encoded: its descriptor, Clean, and its heap bytes (HOFF still to be set when there are any). -/
abbrev Enc := Blk × List Byte

/-- Encodes an Open-dirty block with pixels ps and predictions pr (pixel p, channel ch) at QP q (R336). -/
def encodeBlock (f : Surface) (k : Blk) (ps : List Byte) (pr : Nat → Nat → Int) (q : Nat) : Enc :=
  let raw : Enc := ({ k with dirty := false, mode := 0, hlen := 16 * f.bpp, nz := [0, 0, 0, 0] }, ps)
  let const : Enc := ({ k with dirty := false, mode := 1, hlen := 0, nz := [0, 0, 0, 0], hoff := constOff f.bpp ps }, [])
  if k.mode = 0 then raw
  else if k.mode = 1 ∨ f.nref ≤ k.ref then (if flatBlock f.bpp ps then const else raw)
  else
    let lv (ch : Nat) : Nat → Int := fwdLevel (fun w u => (ps.getD ((4 * w + u) * f.bpp + ch) 0).toNat - pr (4 * w + u) ch) q
    let es := (List.range f.bpp).map fun ch => encodeLevels (lv ch)
    if es.all fun e => e.isEmpty then ({ k with dirty := false, mode := 3, hlen := 0, nz := [0, 0, 0, 0] }, [])
    else
      let bs := (es.flatMap id).flatMap id
      ({ k with dirty := false, mode := 2, qp := q, hlen := bs.length, nz := (List.range 4).map fun c => (es.getD c []).length }, bs)

/-- Raises q until the block meets its share of the budget (R337); fuel is 16. -/
def chooseQp (enc : Nat → Enc) (tooBig : Nat → Bool) : Nat → Nat → Nat
  | 0, q => q
  | fuel + 1, q => if tooBig (enc q).2.length && q < 15 then chooseQp enc tooBig fuel (q + 1) else q

/-- The fallback of a block that breaks the budget (R337). -/
def fallbackBlock (f : Surface) (k : Blk) (ps : List Byte) : Enc :=
  if k.ref < f.nref then ({ k with dirty := false, mode := 3, hlen := 0, nz := [0, 0, 0, 0] }, [])
  else ({ k with dirty := false, mode := 1, hlen := 0, nz := [0, 0, 0, 0], hoff := constOff f.bpp ps }, [])

/-- The seal of a surface is over (R315, R335): Sealed, or Open again with BAD; its queue entry gets a status. -/
def State.endSeal (s : State) (frame : Nat) (f : Surface) (p : Seal) (ok : Bool) : State :=
  let w := setBits (f.word 0) 15 14 (if ok then 2 else 0)
  let s1 := s.putDescWord frame 0 (if ok then w else setBits w 12 12 1)
  let s2 := s1.modSurface frame fun x => { x with st := if ok then .sealed else .open_, progress := none }
  match p.entry with
  | none => s2
  | some (c, q, n) => s2.endEntry c (some (q, n)) (if ok then 0 else 6)

/-- An Open-dirty block goes to the open area (R321, R340). A page that forbids writing leaves it in the cache, and stops a seal of the
surface (R315). -/
def State.evictBlock (s : State) (frame b : Nat) (skip : List Nat) : Wr :=
  match s.surface? frame with
  | none => Rd.pure s
  | some f =>
    match f.dirty.find? fun x => x.1 == b with
    | some (_, some ps) =>
      if f.openva = 0 then Rd.pure s
      else
        (s.engineSpan f.ctx skip (f.openva + 16 * f.bpp * b) ps.length).bind fun sp =>
          match sp, f.progress with
          | none, some p => Rd.pure (s.endSeal frame f p false)
          | none, none => Rd.pure s
          | some sp, _ =>
            Rd.pure ((s.writeSpan f.ctx sp ps).modSurface frame fun x =>
              { x with dirty := (b, none) :: x.dirty.filter fun y => y.1 != b })
    | _ => Rd.pure s

/-- Bytes of pixels in the reconstruction cache of the engine of a slice (R324). -/
def State.cached (s : State) (slice : Nat) : Nat :=
  ((s.surfaces.filter fun f => sliceOf f.frame == slice).map fun f =>
    ((f.dirty.filter fun d => d.2.isSome).map fun _ => 16 * f.bpp).sum).sum

/-- The cached blocks of the engine of a slice, oldest last within each surface. -/
def State.cachedBlocks (s : State) (slice : Nat) : List (Nat × Nat) :=
  (s.surfaces.filter fun f => sliceOf f.frame == slice).flatMap fun f =>
    ((f.dirty.filter fun d => d.2.isSome).reverse.map fun d => (f.frame, d.1))

/-- The cache of 4 MiB makes room for n more bytes: blocks go to their open areas (R324). An absent page is waited for (R417); a block whose
page forbids writing stays. -/
def State.makeRoom (s : State) (skip : List Nat) (slice n : Nat) : List (Nat × Nat) → Wr
  | [] => Rd.pure s
  | (fr, b) :: rest =>
    if s.cached slice + n ≤ 4194304 then Rd.pure s
    else (s.evictBlock fr b skip).bind fun u => u.makeRoom skip slice n rest

/-- Room in the cache of the engine of a surface for the blocks that some lanes or bytes may make Open-dirty (R324). -/
def State.roomFor (s : State) (skip : List Nat) (frame lanes : Nat) : Wr :=
  match s.surface? frame with
  | none => Rd.pure s
  | some f => s.makeRoom skip (sliceOf frame) (16 * f.bpp * lanes) (s.cachedBlocks (sliceOf frame))

/-- Commits one block: its heap bytes, HFILL and its descriptor (R337). -/
def State.commitBlock (s : State) (frame b : Nat) (f : Surface) (e : Enc) (sp : List (Nat × Nat)) (p : Seal) (tooBig : Bool) : State :=
  let k := if e.2 = [] then e.1 else { e.1 with hoff := BitVec.ofNat 32 f.hfill }
  let s1 := (s.writeSpan f.ctx sp e.2).putBlk frame b k
  let s2 := s1.putDescWord frame 7 (BitVec.ofNat 32 (f.hfill + e.2.length))
  let s3 := if tooBig then s2.putDescWord frame 0 (setBits (s2.descWord frame 0) 13 13 1) else s2
  s3.modSurface frame fun x => { x with progress := some p, dirty := x.dirty.filter fun y => y.1 != b }

/-- The pixels of an evicted block lie on a page that forbids the engine. -/
def State.openForbidden (s : State) (f : Surface) (b : Nat) : Bool :=
  f.isDirty b &&
  match s.dirtyPixels [] f b with
  | .val none _ => true
  | _ => false

/-- The next block of a seal or flatten commits, or the seal ends (R337, R338). -/
def State.sealNext (s : State) (frame : Nat) : Wr :=
  match s.surface? frame with
  | none => Rd.pure s
  | some f =>
    match f.progress with
    | none => Rd.pure s
    | some p =>
      match p.todo with
      | [] => Rd.pure (s.endSeal frame f p true)
      | b :: rest =>
        let k := f.blk b
        if s.openForbidden f b then Rd.pure (s.endSeal frame f p false)
        else if p.flatten ∧ f.heapsz < f.hfill + 16 * f.bpp then
          let s1 := s.putDescWord frame 0 (setBits (f.word 0) 13 13 1)
          Rd.pure (s1.modSurface frame fun x => { x with progress := some { p with todo := [] } })
        else
          (s.blockPixels [] f b).bind fun ps =>
            (if p.flatten ∨ k.mode < 2 ∨ f.nref ≤ k.ref then Rd.pure []
             else Rd.all ((List.range (16 * f.bpp)).map fun i => s.blockPredict [] f k b (i / f.bpp) (i % f.bpp))).bind fun pr =>
              let enc (q : Nat) : Enc :=
                if p.flatten then encodeBlock f { k with mode := 0 } ps (fun _ _ => 0) q
                else encodeBlock f k ps (fun i ch => pr.getD (i * f.bpp + ch) 0) q
              let j := p.j + 1
              let tooBig (n : Nat) : Bool := p.rb * j / p.n < f.hfill + n - p.h0
              let q := if p.flatten ∨ p.fallback then p.q else chooseQp enc tooBig 16 p.q
              let fb := !p.flatten && (p.fallback || tooBig (enc q).2.length)
              let e := if fb then fallbackBlock f k ps else enc q
              (s.engineSpan f.ctx [] (f.heapva + f.hfill) e.2.length).bind fun sp =>
                match sp with
                | none => Rd.pure (s.endSeal frame f p false)
                | some sp =>
                  Rd.pure (s.commitBlock frame b f e sp
                    { p with todo := rest, j := j, q := if fb then 15 else q, fallback := fb } fb)

/-- One step of a seal or flatten. A wait for an absent page that has ended by a skip or fatal completion stops the seal (R315, R417). -/
def State.sealStep (s : State) (frame : Nat) (skip : List Nat) : Wr :=
  match skip, (s.surface? frame).bind fun f => f.progress.map fun p => (f, p) with
  | _ :: _, some (f, p) => Rd.pure (s.endSeal frame f p false)
  | _, _ => s.sealNext frame

/-! ## Views (R325, R326) -/

/-- n bytes of a raw view at va, reconstructed; zeros when the surface cannot be held (R326). -/
def State.rawBytes (s : State) (skip : List Nat) (frame va n : Nat) : Rd (List Byte) :=
  match s.surface? frame with
  | none => Rd.pure (List.replicate n 0)
  | some f =>
    (Rd.all ((List.range n).map fun i =>
      let o := va + i - f.rawva
      let p := o / f.bpp
      s.value skip frame (p % f.width) (p / f.width) (o % f.bpp))).bind fun vs => Rd.pure (vs.map (BitVec.ofNat 8))

/-- n bytes of a coded view: as the engine holds them, else as they stand in memory (R326). -/
def State.codedBytes (s : State) (pa n : Nat) : List Byte :=
  (List.range n).map fun i =>
    match s.codedAt (pa + i) with
    | some (f, o) => memGet f.coded o
    | none => (s.phys (pa + i) 1).headD 0

end Sys2Proof.Machine
end

