-- ==== Sys2Proof/Machine/Relief.lean ====
section
/-!
DEFINITION. The RELF class (R316, R327 to R335).
-/

namespace Sys2Proof.Machine

/-- The check of the descriptor that SURF names, once for the team (R316); then k with the descriptor's frame and the lane that named it,
which holds its address and what translated it. -/
def State.surfaceCheck (s : State) (t : Team) (k : State → Nat → Lane → State) : State :=
  let off : Word := t.surf &&& 0xFFFF0000#32
  let acc : Access := { n := 128, align := 65536, write := false, kind := 0,
                        forbid := fun _ pa _ at_ => !at_.rlf || isRemote pa }
  match s.globalCheck t (t.xl.getD (wfld t.surf 2 0) Xl.reset) acc [t.low] (fun _ => off) (fun _ => false) (fun _ => false)
      (fun _ _ => off) with
  | (s1, .trap cause _ w) => s1.trap t cause 0 t.mask w
  | (s1, .park _ va) => s1.pageFault t t.mask va 0
  | (s1, .intercept _ va) => s1.writeIntercept t t.mask va []
  | (s1, .ok lanes) =>
    match lanes with
    | y :: _ => k s1 y.pa y
    | [] => s1

/-- The lanes of a relief request: the address of the descriptor, the coordinates, then the data registers. -/
def reliefLanes (t : Team) (a : Fld) (ds : List Fld) (y : Lane) : List Lane :=
  t.lanes.map fun l => { valueLane l [] with va := y.va, via := y.via, data := t.get a l :: ds.map fun f => t.get f l }

/-- The shared shape of RLD and RBLK (R330, R334). -/
def State.reliefLoad (s : State) (op : Nat) (c : Ctl) (d a : Fld) (n : Nat) : Res :=
  let ds := run d n
  s.issue c [a] [] [] ds fun t =>
    s.surfaceCheck t fun s1 fr y => s1.launch t c [a] (.relief op fr none) ds (reliefLanes t a [] y) none

/-- The shared shape of RSTP, RSTC and RSTM: the team is held until the engine answers (R329); first it waits, as a store does, for
its earlier loads of the same blocks (R303, R339). -/
def State.reliefStore (s : State) (op : Nat) (c : Ctl) (ds : List Fld) (a : Fld) : Res :=
  s.issue c [a] [] ds [] fun t =>
    s.surfaceCheck t fun s1 fr y =>
      if s1.blockLoadAhead t.id (t.lanes.flatMap fun l => s1.coordBlocks fr op (t.get a l)) then s1.waitCounter t (.loads s1.nextId)
      else
        (s1.addReq t (.relief op fr none) [] (reliefLanes t a ds y) []).putTeam
          { t with hold := some (.relief c a s1.nextId), st := .ready }

/-- RLD (R330). -/
def execRld (c : Ctl) (d a : Fld) (s : State) : Res := s.reliefLoad 0 c d a 1

/-- RSTP (R331). -/
def execRstp (c : Ctl) (d a : Fld) (s : State) : Res := s.reliefStore 1 c [d] a

/-- RSTC: eight registers of levels (R332). -/
def execRstc (c : Ctl) (d a : Fld) (s : State) : Res := s.reliefStore 2 c (run d 8) a

/-- RSTM (R333). -/
def execRstm (c : Ctl) (d a : Fld) (s : State) : Res := s.reliefStore 3 c [d] a

/-- RBLK (R334). -/
def execRblk (c : Ctl) (d a : Fld) (s : State) : Res := s.reliefLoad 4 c d a 4

/-- The surface is dropped; a retire writes STATE 3 (R315). -/
def State.retireSurf (s : State) (frame : Nat) : State :=
  let s1 := s.putDescWord frame 0 (setBits (s.descWord frame 0) 15 14 3)
  { s1 with surfaces := s1.surfaces.filter fun f => f.frame != frame }

/-- The effect of an action on a held surface, and its CODE (R335). -/
def State.sealAction (s : State) (f : Surface) (act : Nat) (entry : Option (Nat × Nat × Nat)) : State × Nat :=
  match act, f.st with
  | 0, .open_ => (s.startSeal f.frame false entry, 0)
  | 0, _ => (s, 1)
  | 1, .sealing => (s, 1)
  | 1, _ => (s.startSeal f.frame true entry, 0)
  | _, .sealing => (s, 2)
  | _, _ => if s.surfaces.any fun g => g.refs.contains f.frame then (s, 2) else (s.retireSurf f.frame, 0)

/-- The engine's part of RSEAL: the state after it and D, or the page that registration waits for (R335). RCODE is the field of the
descriptor's word 0 as the engine finds it. -/
def State.rseal (s : State) (ctx frame : Nat) (a : Word) (skip : List Nat) : State × Except Nat Word :=
  let answer (code rcode : Nat) : Except Nat Word := .ok (BitVec.ofNat 32 (code + 256 * rcode))
  if wfld a 31 2 ≠ 0 ∨ wfld a 1 0 = 3 then (s, answer 4 (wfld (s.descWord frame 0) 11 8))
  else
    match s.holdSurf ctx frame skip with
    | (s1, .absent va) => (s1, .error va)
    | (s1, .refused r) => (s1, answer 3 r)
    | (s1, .held) =>
      match s1.surface? frame with
      | none => (s1, answer 3 0)
      | some f =>
        let r := s1.sealAction f (wfld a 1 0) none
        (r.1, answer r.2 (wfld (f.word 0) 11 8))

/-- RSEAL: a release at device scope, then the engine acts once for the team (R335). -/
def execRseal (c : Ctl) (d a : Fld) (s : State) : Res :=
  s.issue c [a] [] [] [d] fun t =>
    s.surfaceCheck t fun s1 fr _ =>
      s1.uniforms t [a]
        (if !s1.releaseDone t.id .device s1.nextId then
           s1.putTeam { t with st := .waitingCounter (.release .device s1.nextId), finish := .again (.rseal c d a) }
         else if s1.faulting (.relief t.id) then s1.putTeam { t with st := .ready }
         else
           match s1.rseal t.ctx fr (t.getLow a) (s1.skips (.relief t.id)) with
           | (s2, .ok w) => s1.orWait ((s2.forgive (.relief t.id)).finishWrite c [a] [] t [(d, fun _ => w)]) t
           | (s2, .error va) => (s2.putTeam { t with st := .ready }).engineFault t.ctx (.relief t.id) va 0)

end Sys2Proof.Machine
end

