-- ==== Sys2Proof/Machine/Isec.lean ====
section
/-!
DEFINITION. The visibility unit (R341 to R353): box and triangle tests, ray records, screen-tile coverage, and the ISEC class.
-/

namespace Sys2Proof.Machine

/-! ## Tests (R345) -/

/-- A vector of three FP32 patterns. -/
abbrev V3 := Word × Word × Word

def v3 (ws : List Word) (i : Nat) : V3 := (ws.getD i 0, ws.getD (i + 1) 0, ws.getD (i + 2) 0)

def vsub (a b : V3) : V3 := (fsub a.1 b.1, fsub a.2.1 b.2.1, fsub a.2.2 b.2.2)

def dot3 (a b : V3) : Word := fadd (fadd (fmul a.1 b.1) (fmul a.2.1 b.2.1)) (fmul a.2.2 b.2.2)

def cross3 (a b : V3) : V3 :=
  (fsub (fmul a.2.1 b.2.2) (fmul a.2.2 b.2.1), fsub (fmul a.2.2 b.1) (fmul a.1 b.2.2), fsub (fmul a.1 b.2.1) (fmul a.2.1 b.1))

def fle (a b : Word) : Bool := fcmple a b == 1

def flt (a b : Word) : Bool := fcmplt a b == 1

def inf32 : Word := 0x7F800000#32

/-- A ray: origin, direction, tmin, tmax (R352). -/
def rayO (ws : List Word) : V3 := v3 ws 0
def rayD (ws : List Word) : V3 := v3 ws 3
def rayMin (ws : List Word) : Word := ws.getD 6 0
def rayMax (ws : List Word) : Word := ws.getD 7 0

/-- lo and hi of one axis of the box test. -/
def axisSpan (o d mn mx : Word) : Word × Word :=
  let r := frcp d
  let t0 := fmul (fsub mn o) r
  let t1 := fmul (fsub mx o) r
  (fmin t0 t1, fmax t0 t1)

/-- The box test under the limit tb: tn when the box is hit (R345). -/
def boxTest (ray : List Word) (mn mx : V3) (tb : Word) : Option Word :=
  let o := rayO ray
  let d := rayD ray
  let x := axisSpan o.1 d.1 mn.1 mx.1
  let y := axisSpan o.2.1 d.2.1 mn.2.1 mx.2.1
  let z := axisSpan o.2.2 d.2.2 mn.2.2 mx.2.2
  let tn := fmax (fmax (fmax x.1 y.1) z.1) (rayMin ray)
  let tf := fmin (fmin (fmin x.2 y.2) z.2) tb
  if fle tn tf then some tn else none

/-- The triangle test under the limit tb: t, u, v of a hit (R345). -/
def triTest (ray : List Word) (v0 v1 v2 : V3) (tb : Word) : Option (Word × Word × Word) :=
  let o := rayO ray
  let d := rayD ray
  let e1 := vsub v1 v0
  let e2 := vsub v2 v0
  let p := cross3 d e2
  let det := dot3 e1 p
  if (F det).isNan ∨ fcmpeq det 0 = 1 then none
  else
    let inv := frcp det
    let s := vsub o v0
    let u := fmul (dot3 s p) inv
    if !(fle 0 u && fle u 0x3F800000#32) then none
    else
      let q := cross3 s e1
      let v := fmul (dot3 d q) inv
      if !(fle 0 v && fle (fadd u v) 0x3F800000#32) then none
      else
        let t := fmul (dot3 e2 q) inv
        if fle (rayMin ray) t && fle t tb then some (t, u, v) else none

/-- The child of a box node: its reference, and tn when it is a node that the ray hits (R343, R347). -/
def childTest (ray node : List Word) (i : Nat) (tb : Word) : Word × Option Word :=
  let r := node.getD (12 + i) 0
  (r, if r = 0xFFFFFFFF#32 then none else boxTest ray (v3 node (6 * i)) (v3 node (6 * i + 3)) tb)

/-- The hit on a leaf: t, triangle id, instance id, u, v (R343, R349). -/
def leafTest (ray node : List Word) (tb : Word) : Option (List Word) :=
  (triTest ray (v3 node 0) (v3 node 3) (v3 node 6) tb).map fun h => [h.1, node.getD 12 0, node.getD 13 0, h.2.1, h.2.2]

/-! ## Nodes (R343, R344) -/

def refLeaf (r : Word) : Bool := wbit r 0


/-- The 64 bytes of a node (R346). -/
def State.nodeWords (s : State) (pa : Nat) : List Word := bytesWords (s.phys pa 64)

/-! ## Traversal (R341, R347 to R349) -/

/-- The limit of a ray's tests. -/
def Ray.tb (r : Ray) : Word :=
  match r.best with
  | some b => b.getD 0 0
  | none => rayMax r.words

/-- Pushes references, the last of the list on top; none when a push would make a 33rd entry. -/
def pushRefs (st : List Word) : List Word → Option (List Word)
  | [] => some st
  | r :: rest => if 32 ≤ st.length then none else pushRefs (r :: st) rest

/-- The references to push for a box node, far first (R347). -/
def boxPushes (ray node : List Word) (tb : Word) : List Word :=
  match childTest ray node 0 tb, childTest ray node 1 tb with
  | (a, some ta), (b, some tn) => if flt tn ta then [a, b] else [b, a]
  | (a, some _), (_, none) => [a]
  | (_, none), (b, some _) => [b]
  | (_, none), (_, none) => []

/-- The better of the hit held and a new one (R348). -/
def betterHit (old : Option (List Word)) (new : List Word) : Option (List Word) :=
  match old with
  | none => some new
  | some b =>
    let t := new.getD 0 0
    let tb := b.getD 0 0
    if flt t tb || (fcmpeq t tb == 1 && (new.getD 1 0).toNat < (b.getD 1 0).toNat) then some new else some b

/-- Where a record goes after a test: on to its next node, which may have the same bank, or back (R341). -/
def Ray.onward (r : Ray) (at_ : Nat) : Ray :=
  match r.stack with
  | [] => { r with st := .returning (if r.best.isSome then 1 else 0) }
  | x :: _ =>
    match nodeAt r.frame r.limit r.attr x with
    | .ok pa => { r with st := if sliceOf pa = sliceOf at_ ∧ bankOf pa = bankOf at_ then .queued else .travelling }
    | .error _ => { r with st := .travelling }

/-- The node that a reference names; one on a chisel table, which no program address reaches, is forbidden (R193, R344,
notes/assumptions/84.md). -/
def State.nodeOf (s : State) (n : Except Nat Nat) : Except Nat Nat :=
  match n with
  | .ok pa => if s.tableAt pa 64 then .error 3 else .ok pa
  | .error c => .error c

/-- Tests the node that a queued record pops (R341, R347, R348, R349). -/
def State.rayTest (s : State) (r : Ray) : Ray :=
  match r.stack with
  | [] => { r with st := .returning (if r.best.isSome then 1 else 0) }
  | x :: rest =>
    if 65535 ≤ r.visits then { r with st := .returning 5 }
    else
      match s.nodeOf (nodeAt r.frame r.limit r.attr x) with
      | .error c => { r with bad := x, st := .returning c }
      | .ok pa =>
        let node := s.nodeWords pa
        let r1 := { r with stack := rest, visits := r.visits + 1 }
        if refLeaf x then
          (match leafTest r.words node r.tb with
           | none => r1
           | some h => { r1 with best := betterHit r.best h }).onward pa
        else
          match pushRefs rest (boxPushes r.words node r.tb) with
          | none => { r1 with st := .returning 4 }
          | some st => { r1 with stack := st }.onward pa

/-- What a miss writes (R349). -/
def missWords : List Word := [inf32, 0xFFFFFFFF#32, 0xFFFFFFFF#32, 0, 0]

/-- D to D+7 of a record that returns with a status (R349). -/
def Ray.results (r : Ray) (status : Nat) : List Word :=
  (if status = 1 then r.best.getD missWords else missWords) ++
    [BitVec.ofNat 32 status, if status = 2 ∨ status = 3 then r.bad else BitVec.ofNat 32 r.visits, 0]

/-! ## Single tests (R353) -/

/-- The node that BOXT (1) or TRIT (2) names in A+8, when it is reachable, allowed and of the right kind. -/
def State.isecNode (s : State) (op frame limit : Nat) (a : Attr) (ws : List Word) : Option (List Word) :=
  match s.nodeOf (isecNodeAt op frame limit a (ws.getD 8 0)) with
  | .ok pa => some (s.nodeWords pa)
  | .error _ => none

/-- BOXT of one lane. -/
def State.boxtLane (s : State) (frame limit : Nat) (a : Attr) (ws : List Word) : List Word :=
  match s.isecNode 1 frame limit a ws with
  | none => [inf32, inf32, 0xFFFFFFFF#32, 0xFFFFFFFF#32]
  | some node =>
    let x := childTest ws node 0 (rayMax ws)
    let y := childTest ws node 1 (rayMax ws)
    [x.2.getD inf32, y.2.getD inf32, x.1, y.1]

/-- TRIT of one lane. -/
def State.tritLane (s : State) (frame limit : Nat) (a : Attr) (ws : List Word) : List Word :=
  match s.isecNode 2 frame limit a ws with
  | none => missWords
  | some node => (leafTest ws node (rayMax ws)).getD missWords

/-! ## Coverage (R350, R351) -/

/-- A coordinate: I32, Saturated to −2^23 … 2^23 − 1. -/
def coord (w : Word) : Int := max (-8388608) (min 8388607 (s32 w))

/-- A point. -/
abbrev Pt := Int × Int

/-- E_ij(p) (R350). -/
def edgeE (a b p : Pt) : Int := (b.1 - a.1) * (p.2 - a.2) - (b.2 - a.2) * (p.1 - a.1)

/-- The inside test of one edge (R350). -/
def edgeIn (a b p : Pt) : Bool :=
  let e := edgeE a b p
  let dx := b.1 - a.1
  let dy := b.2 - a.2
  0 < e || (e == 0 && (dy < 0 || (dy == 0 && 0 < dx)))

/-- The three edges of a prepared triangle; none when it covers nothing (R350). -/
def triEdges (ws : List Word) : List (Pt × Pt) :=
  let v (i : Nat) : Pt := (coord (ws.getD (2 * i) 0), coord (ws.getD (2 * i + 1) 0))
  let e := edgeE (v 0) (v 1) (v 2)
  if e = 0 then []
  else
    let b := if e < 0 then v 2 else v 1
    let c := if e < 0 then v 1 else v 2
    [(v 0, b), (b, c), (c, v 0)]

/-- The centre of pixel (x, y). -/
def centre (x y : Nat) : Pt := (256 * (x : Int) + 128, 256 * (y : Int) + 128)

def inside (es : List (Pt × Pt)) (p : Pt) : Bool := es.all fun e => edgeIn e.1 e.2 p

/-- The overlap and full bits of a child at (x, y) of size n, under COVR. -/
def covrChild (es : List (Pt × Pt)) (n x y : Nat) : Bool × Bool :=
  let cs := [centre x y, centre (x + n - 1) y, centre x (y + n - 1), centre (x + n - 1) (y + n - 1)]
  (es.all fun e => cs.any fun p => edgeIn e.1 e.2 p, cs.all (inside es))

/-- The same under BINT. -/
def bintChild (es : List (Pt × Pt)) (n x y : Nat) : Bool × Bool :=
  let ps := (List.range (n * n)).map fun i => centre (x + i % n) (y + i / n)
  (ps.any (inside es), ps.all (inside es))

/-- COVR or BINT of one lane: the two pairs of masks (R351). -/
def coverage (child : List (Pt × Pt) → Nat → Nat → Nat → Bool × Bool) (ws : List Word) : List Word :=
  let es := triEdges ws
  let w := ws.getD 6 0
  let lvl := wfld w 31 30
  if lvl = 3 ∨ es = [] then [0, 0, 0, 0]
  else
    let size := if lvl = 0 then 256 else if lvl = 1 then 32 else 8
    let n := if lvl = 0 then 32 else if lvl = 1 then 8 else 1
    let k := size / n
    let x := wfld w 13 0 / size * size
    let y := wfld w 29 16 / size * size
    let rs := (List.range (k * k)).map fun i => (i, child es n (x + i % k * n) (y + i / k * n))
    let m (f : Bool × Bool → Bool) : Nat := ((rs.filter fun r => f r.2).map fun r => 2 ^ r.1).sum
    let o := m (·.1)
    let f := m (·.2)
    [BitVec.ofNat 32 o, BitVec.ofNat 32 (o / 2 ^ 32), BitVec.ofNat 32 f, BitVec.ofNat 32 (f / 2 ^ 32)]

/-! ## The instructions (R352) -/

/-- Lanes that carry the n registers from A on. -/
def operandLanes (t : Team) (a : Fld) (n : Nat) : List Lane :=
  t.lanes.map fun l => { valueLane l [] with data := (run a n).map fun f => t.get f l }

/-- The translation register that BVH names. -/
def Team.bvhXl (t : Team) : Xl := t.xl.getD (wfld t.bvh 2 0) Xl.reset

/-- The misalignment trap of R344. -/
def State.bvhAligned (s : State) (t : Team) (k : State) : State :=
  if t.bvhXl.vbase.toNat % 64 ≠ 0 then s.trap t 7 0 t.mask (t.bvhXl.vbase.setWidth 32) else k

/-- TRACE: a ray record for each active lane (R341, R349). -/
def execTrace (c : Ctl) (d a : Fld) (s : State) : Res :=
  let ds := run d 8
  let as := run a 8
  s.issue c as [] [] ds fun t =>
    s.bvhAligned t
      (let x := t.bvhXl
       let root : Word := BitVec.ofNat 32 (2 * wfld t.bvh 31 6)
       let rays := t.lanes.map fun l =>
         ({ lane := l, words := as.map fun f => t.get f l, best := none, stack := [root], visits := 0, bad := 0,
            frame := x.frame, limit := x.limit.toNat, attr := x.attr, came := 0, st := .travelling } : Ray)
       let rs := t.regsOf ds
       let ls := t.lanes.map fun l =>
         { valueLane l [] with va := x.vbase.toNat, dst := root.toNat, via := [(x.vbase.toNat, x.limit.toNat)] }
       (s.addReq t .trace rs ls rays).complete c (rs.foldl Team.markEmpty (t.useMarks c as [])))

/-- The shared shape of BOXT, TRIT, COVR and BINT (R353). -/
def State.isec (s : State) (op : Nat) (c : Ctl) (d a : Fld) (n m : Nat) (nodes : Bool) : Res :=
  let ds := run d m
  let as := run a n
  s.issue c as [] [] ds fun t =>
    let x := t.bvhXl
    let ls := (operandLanes t a n).map fun (y : Lane) =>
      if nodes then { y with va := x.vbase.toNat, via := [(x.vbase.toNat, x.limit.toNat)] } else y
    let k := s.launch t c as (.isec op x.frame x.limit.toNat x.attr) ds ls none
    if nodes then s.bvhAligned t k else k

/-- BOXT (R353). -/
def execBoxt (c : Ctl) (d a : Fld) (s : State) : Res := s.isec 1 c d a 9 4 true

/-- TRIT (R353). -/
def execTrit (c : Ctl) (d a : Fld) (s : State) : Res := s.isec 2 c d a 9 5 true

/-- COVR (R351, R353). -/
def execCovr (c : Ctl) (d a : Fld) (s : State) : Res := s.isec 3 c d a 7 4 false

/-- BINT (R351, R353). -/
def execBint (c : Ctl) (d a : Fld) (s : State) : Res := s.isec 4 c d a 7 4 false

/-- The result of a lane of an ISEC request. -/
def State.isecLane (s : State) (op frame limit : Nat) (a : Attr) (ws : List Word) : List Word :=
  match op with
  | 1 => s.boxtLane frame limit a ws
  | 2 => s.tritLane frame limit a ws
  | 3 => coverage covrChild ws
  | _ => coverage bintChild ws

end Sys2Proof.Machine
end

