-- ==== Sys2Proof/Machine/Stream.lean ====
section
/-!
DEFINITION. The armature unit (R354 to R369) and the STRM class (R370 to R377).
-/

namespace Sys2Proof.Machine

/-! ## Registers of the stream table (R354) -/

def Ctx.nstr (c : Ctx) : Nat := wfld c.strmCfg 24 16
def Ctx.nbind (c : Ctx) : Nat := wfld c.strmCfg 12 0
def Ctx.strmEn (c : Ctx) : Bool := wbit c.strmCfg 31
def Ctx.stream? (c : Ctx) (i : Nat) : Option Stream := c.streams.find? fun x => x.idx == i
def Ctx.putStream (c : Ctx) (x : Stream) : Ctx := { c with streams := c.streams.map fun y => if y.idx = x.idx then x else y }
def Ctx.binding? (c : Ctx) (j : Nat) : Option Binding := c.bindings.find? fun b => b.idx == j
def Ctx.putBinding (c : Ctx) (b : Binding) : Ctx :=
  { c with bindings := c.bindings.map fun y => if y.idx = b.idx then b else y }
def Ctx.inst? (c : Ctx) (id : Nat) : Option Inst := c.insts.find? fun x => x.id == id

def State.stream? (s : State) (ctx i : Nat) : Option Stream :=
  match s.ctx? ctx with
  | none => none
  | some c => c.stream? i

def State.putStream (s : State) (ctx : Nat) (x : Stream) : State := s.modCtx ctx fun c => c.putStream x

def State.binding? (s : State) (ctx j : Nat) : Option Binding :=
  match s.ctx? ctx with
  | none => none
  | some c => c.binding? j

def State.putBinding (s : State) (ctx : Nat) (b : Binding) : State := s.modCtx ctx fun c => c.putBinding b

/-! ## Holding a stream (R355, R356) -/

/-- The least signed 64-bit value, at which watermarks start (R356). -/
def wmStart : Int := -(2 ^ 63)

/-- The signed value of two words. -/
def s64 (lo hi : Word) : Int := (hi ++ lo : BitVec 64).toInt

/-- The unsigned value of two words. -/
def u64 (lo hi : Word) : Nat := lo.toNat + 2 ^ 32 * hi.toNat

/-- A source entry from its eight words (R355, R356). -/
def srcOf (now : Nat) (w : Nat → Word) : Src :=
  { en := wbit (w 0) 31, kind := wfld (w 0) 30 29, st := .live, log2n := wfld (w 0) 4 0, rp := w 1, wp := w 1,
    disorder := u64 (w 2) (w 3), ringva := u64 (w 4) (w 5), swm := wmStart, top := none, seen := now, held := [], unseen := [] }

/-- The status that refuses a stream descriptor, or 0 (R20, R21, R355, R356). -/
def streamCheck (w : Nat → Word) : Nat :=
  let n := wfld (w 0) 5 0
  let entry (e : Nat) : Bool :=
    let v (i : Nat) : Word := w (16 + 8 * e + i)
    wfld (v 0) 26 5 == 0 && wfld (v 5) 31 23 == 0 &&
    (!wbit (v 0) 31 || (wfld (v 0) 30 29 != 3 &&
      (wfld (v 0) 30 29 != 0 || (1 ≤ wfld (v 0) 4 0 && wfld (v 0) 4 0 ≤ 16 && (v 4).toNat % 64 == 0))))
  if wfld (w 0) 31 24 ≠ 1 then 3
  else if !(wfld (w 0) 15 6 == 0 && 1 ≤ n && n ≤ 32 && ((List.range 11).all fun i => w (5 + i) == 0) &&
      (List.range n).all entry) then 4
  else 0

/-- What reading a descriptor answers. -/
inductive HoldAns where
  | held
  | refused (status : Nat)
  | absent (va : Nat)
  deriving DecidableEq, Repr

/-- Where stream i and binding j of a context lie (R354). -/
def Ctx.streamVa (c : Ctx) (i : Nat) : Nat := c.strmBase.toNat + 2048 * i
def Ctx.bindingVa (c : Ctx) (j : Nat) : Nat := c.strmBase.toNat + 0x80000 + 128 * j

/-- The unit holds stream i, reading its descriptor first when it does not (R356): the header, then the entries below NSRC, when a check of
the header leaves NSRC a value to go by (R355). -/
def State.holdStream (s : State) (ctx i : Nat) (skip : List Nat) : State × HoldAns :=
  match s.ctx? ctx with
  | none => (s, .refused 4)
  | some c =>
    if (c.stream? i).isSome then (s, .held)
    else
      let head := s.engineRead ctx skip (c.streamVa i) 64
      let nsrc (hd : List Byte) : Nat := wfld ((bytesWords hd).getD 0 0) 5 0
      let all := head.bind fun h =>
        match h with
        | none => Rd.pure none
        | some hd =>
          if 32 < nsrc hd ∨ wfld ((bytesWords hd).getD 0 0) 31 24 ≠ 1 then Rd.pure (some hd)
          else (s.engineRead ctx skip (c.streamVa i + 64) (32 * nsrc hd)).bind fun e => Rd.pure (e.map fun es => hd ++ es)
      match all with
      | .absent va => (s, .absent va)
      | .val none _ => (s, .refused 4)
      | .val (some bs) _ =>
        let ws := bytesWords bs
        let w (k : Nat) : Word := ws.getD k 0
        let r := streamCheck w
        if r ≠ 0 then (s, .refused r)
        else
          let x : Stream :=
            { idx := i, va := c.streamVa i, pa := match s.engineSeg ctx (c.streamVa i) with | .ok pa _ => pa | _ => 0
              idle := (w 1).toNat, wm := wmStart, badrec := wfld (w 4) 31 16, decr := wfld (w 4) 15 0,
              srcs := (List.range (wfld (w 0) 5 0)).map fun e => srcOf (s.clock - s.released) fun k => w (16 + 8 * e + k) }
          (s.modCtx ctx fun c => { c with streams := c.streams ++ [x] }, .held)

/-! ## Watermarks (R361 to R363) -/

def Stream.setSrc (x : Stream) (n : Nat) (y : Src) : Stream := { x with srcs := x.srcs.set n y }

/-- The minimum of SWM over the Live sources. -/
def Stream.liveMin (x : Stream) : Option Int :=
  (x.srcs.filter fun y => y.en && y.st == .live).foldl (fun m y =>
    match m with
    | none => some y.swm
    | some v => some (min v y.swm)) none

/-- WM after an event (R363). -/
def Stream.raise (x : Stream) : Stream :=
  match x.liveMin with
  | none => x
  | some v => { x with wm := max x.wm v }

/-- Rejoining sources that have caught up become Live (R362). -/
def Stream.rejoin (x : Stream) : Stream :=
  { x with srcs := x.srcs.map fun y => if y.st = .rejoining ∧ x.wm ≤ y.swm then { y with st := .live } else y }

/-- What R362 and R363 leave after an event of a source. -/
def Stream.settle (x : Stream) : Stream := x.raise.rejoin.raise

/-- A source proposes c (R361); counted: a c below SWM is counted in DECR. -/
def Stream.propose (x : Stream) (n : Nat) (c : Int) (counted : Bool) : Stream :=
  match x.srcs[n]? with
  | none => x
  | some y =>
    if y.swm < c then x.setSrc n { y with swm := c }
    else if c < y.swm ∧ counted then { x with decr := min 65535 (x.decr + 1) }
    else x

/-- A record, marker or WMARK has arrived from a source: it leaves Idle after R361 has been applied (R362). -/
def Stream.arrived (x : Stream) (n now : Nat) : Stream :=
  match x.srcs[n]? with
  | none => x
  | some y =>
    (x.setSrc n { y with seen := now, st := if y.st = .idle then (if x.wm ≤ y.swm then .live else .rejoining) else y.st }).settle

/-- SIDLE or the idle timeout (R362). -/
def Stream.idleSrc (x : Stream) (n : Nat) : Stream :=
  match x.srcs[n]? with
  | none => x
  | some y => (x.setSrc n { y with st := .idle }).settle

/-! ## Windows and panes (R364) -/

/-- Panes of a window. -/
def Binding.panesOf (b : Binding) : Nat := b.length / b.slide
def Binding.start (b : Binding) (k : Int) : Int := b.offset + k * b.slide
def Binding.end_ (b : Binding) (k : Int) : Int := b.start k + b.length
def Binding.pane (b : Binding) (t : Int) : Int := (t - b.offset) / b.slide
/-- The windows that contain a pane, ascending. -/
def Binding.windows (b : Binding) (p : Int) : List Int := (List.range b.panesOf).map fun (i : Nat) => p - b.panesOf + 1 + (i : Int)
def Binding.win? (b : Binding) (k : Int) : Option Win := b.wins.find? fun w => w.k == k
def Binding.putWin (b : Binding) (w : Win) : Binding := { b with wins := b.wins.filter (fun x => x.k != w.k) ++ [w] }
/-- Records that the pane area and the overflow region hold. -/
def Binding.room (b : Binding) : Nat := b.panesz / 64 + b.ovfsz / 64
/-- The result line of window k (R367). -/
def Binding.line (b : Binding) (k : Int) : Nat := b.resbase + 64 * (k % (2 ^ b.resn : Nat)).toNat

/-- The windows that have become due: what their fire instances will see is fixed, panes ascending and each pane in acceptance
order (R373, R377). -/
def Binding.markDue (b : Binding) (wm : Int) : Binding :=
  let recs (k : Int) : List (List Word) :=
    (List.range b.panesOf).flatMap fun (i : Nat) => (b.panes.filter fun p => p.pane == k + (i : Int)).map (·.words)
  { b with wins := b.wins.map fun w =>
      if w.st = .collecting ∧ !w.due ∧ b.end_ w.k ≤ wm then { w with due := true, deliver := recs w.k } else w }

/-- Window k is Collecting, or not yet started. -/
def Binding.collects (b : Binding) (wm : Int) (k : Int) : Bool :=
  match b.win? k with
  | some w => w.st == .collecting && !w.lateFire
  | none => wm < b.end_ k

/-- Window k may still fire, or its fire instance still reads its panes. -/
def Binding.mayFire (b : Binding) (wm : Int) (k : Int) : Bool :=
  match b.win? k with
  | some w => w.st == .collecting || w.st == .firing
  | none => wm < b.end_ k + b.late

/-- TIME and FLAGS of a record (R359). -/
def recTime (r : List Word) : Int := s64 (r.getD 0 0) (r.getD 1 0)
def recFlags (r : List Word) : Nat := wfld (r.getD 3 0) 31 16

/-- Word 3 with SRC set to the source index (R360). -/
def withSrc (r : List Word) (n : Nat) : List Word := r.set 3 (setBits (r.getD 3 0) 15 0 n)

/-- A data record needs room in a binding's panes that is not there. -/
def Binding.full (b : Binding) (wm : Int) (t : Int) : Bool :=
  !b.unbound && (b.windows (b.pane t)).any (b.collects wm) && b.room ≤ b.panes.length

/-- The bound bindings of an input stream. -/
def Ctx.bindingsOf (c : Ctx) (i : Nat) : List Binding := c.bindings.filter fun b => b.instr == i && !b.unbound

/-- The runs of memory that an engine or an armature unit owns while it holds them: coded views, heap bytes, descriptors (R314, R356,
R358). -/
def State.heldRuns (s : State) : List (Nat × Nat) :=
  (s.surfaces.map fun f => (f.frame, 128 + 16 * f.blocks)) ++ (s.heapRuns.map fun h => (h.1, h.2.1)) ++
    s.ctxs.flatMap fun c =>
      (c.streams.map fun x => (x.pa, 1088)) ++ (c.bindings.filter fun b => !b.unbound).map fun b => (b.pa, 128)

/-- A byte of memory belongs to such a run: software that writes it leaves an Undefined value there. -/
def State.heldAt (s : State) (pa : Nat) : Bool := s.heldRuns.any fun p => p.1 ≤ pa && pa < p.1 + p.2

/-- What software writes at a physical address, with Undefined values where an engine or unit holds the byte, or bad asks for one; the engines
keep the heap bytes that it replaces. -/
def State.blurSoft (s : State) (pa : Nat) (bad : Nat → Bool) (bs : List Byte) : List Byte × State :=
  let rs := s.heldRuns.filter fun p => overlaps p.1 p.2 pa bs.length
  (if rs = [] then s else s.keepHeap pa bs.length).blur pa (fun a => (rs.any fun p => p.1 ≤ a && a < p.1 + p.2) || bad a) bs

/-- The same where nothing else asks for an Undefined value. -/
def State.blurHeld (s : State) (pa : Nat) (bs : List Byte) : List Byte × State := s.blurSoft pa (fun _ => false) bs

/-! ## Logging (R369) -/

/-- Logs a record that is late beyond lateness; the unit writes LCOUNT back at a save (R356). A Pooled page is installed first (R417); what
meets a page fault or a forbidden page is dropped and counted. -/
def State.logRecord (s : State) (ctx : Nat) (b : Binding) (r : List Word) : State :=
  let va := b.logbase + 64 * (b.lcount.toNat % 2 ^ b.logn)
  let s0 : State :=
    match s.engineSeg ctx va with
    | .fault (.pool e at_) => (s.install ctx (s.ctxPart ctx).1 e at_).2
    | _ => s
  let s1 : State :=
    match s0.engineSpan ctx [] va 64 with
    | .val (some sp) _ => s0.writeSpan ctx sp (wordsBytes r)
    | _ =>
      match s0.stream? ctx b.instr with
      | some x => s0.putStream ctx { x with badrec := min 65535 (x.badrec + 1) }
      | none => s0
  s1.putBinding ctx { (s1.binding? ctx b.idx).getD b with lcount := b.lcount + 1 }

/-! ## Acceptance (R360, R361, R365, R368) -/

/-- A data record is judged against one window (R368). -/
def Binding.judge (b : Binding) (wm : Int) (r : List Word) (k : Int) : Binding :=
  match b.win? k with
  | some w => if w.st = .collecting ∧ !w.lateFire then b else b.putWin { w with late := w.late ++ [r] }
  | none =>
    let w : Win :=
      { k := k, st := .collecting, due := false, lateFire := false, revision := 0, deliver := [], late := [], published := false }
    if wm < b.end_ k then b.putWin w
    else if wm < b.end_ k + b.late then b.putWin { w with due := true, lateFire := true, deliver := [r] }
    else b

/-! ## Windows that are due (R364 to R367) -/

/-- A new instance, waiting for placement (R366). -/
def State.addInst (s : State) (ctx : Nat) (b : Binding) (w : Win) (amend : Bool) (recd : List Word) : State :=
  let x : Inst := { id := s.nextId, bind := b.idx, kernel := b.kernel, k := w.k, amend := amend, recd := recd, team := none }
  ({ s with nextId := s.nextId + 1 }.modCtx ctx fun c => { c.putBinding (b.putWin w) with insts := c.insts ++ [x] })

/-- An instance waits for placement, or its team is placed and has not exited (R366). -/
def State.instOpen (s : State) (x : Inst) : Bool :=
  match x.team with
  | none => true
  | some id => match s.team? id with | some t => t.st != .exited | none => false

/-- At most 64 instances of a binding are placed or waiting (R366). -/
def State.instRoom (s : State) (c : Ctx) (b : Binding) : Bool :=
  (c.insts.filter fun x => x.bind == b.idx && x.kernel == b.kernel && s.instOpen x).length < 64

/-- The window of least k among some. -/
def leastWin (ws : List Win) : Option Win :=
  ws.foldl (fun m w => match m with | none => some w | some v => if w.k < v.k then some w else some v) none

/-- The next window that is due fires, or the next one with late records is amended (R365, R366, R368). While the context is Saved the window
changes its state as well, and its instance waits until the context runs (R366, R378). -/
def State.launchWin (s : State) (c : Ctx) (b : Binding) : Option State :=
  if b.unbound || !s.instRoom c b then none
  else
    match leastWin (b.wins.filter fun w => w.st == .collecting && w.due) with
    | some w => some (s.addInst c.num b { w with st := .firing, revision := 0 } false [])
    | none =>
      match leastWin (b.wins.filter fun w => w.st == .fired && !w.late.isEmpty) with
      | some w => some (s.addInst c.num b { w with st := .amending, late := w.late.drop 1 } true (w.late.headD []))
      | none => none

/-- Windows that are over are Closed, and panes that no window may fire again are freed (R364, R365). -/
def Binding.tidy (b : Binding) (wm : Int) : Binding :=
  let b1 : Binding :=
    { b with wins := b.wins.filter fun w => !(w.st == .fired && w.late.isEmpty && decide (b.end_ w.k + b.late ≤ wm)) }
  { b1 with panes := b1.panes.filter fun p => (b1.windows p.pane).any (b1.mayFire wm) }

/-- Every window of a binding that is due fires, as far as instances allow; fuel bounds their number. -/
def State.launchAll (s : State) (ctx j : Nat) : Nat → State
  | 0 => s
  | fuel + 1 =>
    match s.ctx? ctx, s.binding? ctx j with
    | some c, some b =>
      match s.launchWin c b with
      | some u => u.launchAll ctx j fuel
      | none => s
    | _, _ => s

/-- The windows of one binding follow its stream's watermark: due ones fire, in ascending end, and ones that are over close. -/
def State.fireBinding (s : State) (ctx j : Nat) : State :=
  match s.binding? ctx j with
  | none => s
  | some b =>
    match s.stream? ctx b.instr with
    | none => s
    | some x =>
      let s1 := s.putBinding ctx (b.markDue x.wm)
      let s2 := s1.launchAll ctx j 64
      s2.putBinding ctx (((s2.binding? ctx j).getD b).tidy x.wm)

/-- The windows of every binding of an input stream follow its watermark, so that a record is judged on what they have become. -/
def State.fireStream (s : State) (ctx i : Nat) : State :=
  ((s.ctx? ctx).map fun c => (c.bindingsOf i).map (·.idx)).getD [] |>.foldl (fun u j => u.fireBinding ctx j) s

/-- The lowest slot of a binding's panes that is free (R364). -/
def Binding.freeSlot (b : Binding) : Nat :=
  ((List.range (b.panes.length + 1)).find? fun n => !(b.panes.any fun p => p.slot == n)).getD b.panes.length

/-- The agent that stores a binding's records in its overflow region (R417). -/
def overflowAgent (ctx j : Nat) : EventOf := .armature ctx j 257

/-- A record is stored in its pane: in the pane area of chip scratch, or in the overflow region when that is full (R364), whose page may
have to be waited for (R417). Where that page forbids writing, the record's bytes are not stored (notes/assumptions/112.md). -/
def State.storePane (s : State) (ctx : Nat) (b : Binding) (r : List Word) : Wr :=
  let n := b.freeSlot
  let bs := wordsBytes r
  let s1 := s.putBinding ctx { b with panes := b.panes ++ [{ pane := b.pane (recTime r), slot := n, words := r }] }
  if n < b.panesz / 64 then Rd.pure (s1.modCtx ctx fun c => { c with chip := memWrite c.chip (b.paneoff + 64 * n) bs })
  else
    (s1.engineSpan ctx (s.skips (overflowAgent ctx b.idx)) (b.ovfbase + 64 * (n - b.panesz / 64)) 64).bind fun sp =>
      Rd.pure ((match sp with | some sp => s1.writeSpan ctx sp bs | none => s1).forgive (overflowAgent ctx b.idx))

/-- Window k is Closed, or counts as such (R368). -/
def Binding.closed (b : Binding) (wm : Int) (k : Int) : Bool := (b.win? k).isNone && b.end_ k + b.late ≤ wm

/-- A data record enters the windows of one binding (R364, R368). -/
def State.placeRecord (s : State) (ctx j : Nat) (wm : Int) (r : List Word) : Wr :=
  match s.binding? ctx j with
  | none => Rd.pure s
  | some b =>
    let t := recTime r
    let ks := b.windows (b.pane t)
    if ks.all (b.closed wm) then Rd.pure (s.logRecord ctx b r)
    else
      let b1 := ks.foldl (fun x k => x.judge wm r k) b
      (if ks.any (b.collects wm) then s.storePane ctx b1 r else Rd.pure (s.putBinding ctx b1)).bind fun u =>
        Rd.pure (u.fireBinding ctx j)

/-- A data record enters the windows of some bindings. False: the page of an overflow region is waited for, and the record is still to be
accepted. -/
def State.placeAll (s : State) (ctx : Nat) (wm : Int) (r : List Word) : List Nat → State → Bool × State
  | [], u => (true, u)
  | j :: rest, u =>
    match u.placeRecord ctx j wm r with
    | .absent va => (false, s.engineFault ctx (overflowAgent ctx j) va 1)
    | .val v _ => s.placeAll ctx wm r rest v

/-- One item of a source, in its turn: a record, a marker, a WMARK (two words), a proposal of the unit's own (three, the last 0) or a SIDLE
(none). False: it waits for room. A proposal of the unit's own that is not above SWM is Ignored without count (R367). -/
def State.takeItem (s : State) (ctx i n : Nat) (item : List Word) : Bool × State :=
  match s.ctx? ctx with
  | none => (true, s)
  | some c =>
    match c.stream? i with
    | none => (true, s)
    | some x =>
      let now := s.clock - s.released
      match item with
      | [] => (true, (s.putStream ctx (x.idleSrc n)).fireStream ctx i)
      | [lo, hi] => (true, (s.putStream ctx ((x.propose n (s64 lo hi) true).arrived n now)).fireStream ctx i)
      | [lo, hi, _] =>
        if (x.srcs[n]?).any fun y => y.swm < s64 lo hi then
          (true, (s.putStream ctx ((x.propose n (s64 lo hi) false).arrived n now)).fireStream ctx i)
        else (true, s)
      | _ =>
        let t := recTime item
        if 4 ≤ recFlags item then (true, s.putStream ctx { x with badrec := min 65535 (x.badrec + 1) })
        else if recFlags item / 2 % 2 = 1 then
          (true, (s.putStream ctx ((x.propose n t true).arrived n now)).fireStream ctx i)
        else if (c.bindingsOf i).any fun b => b.full x.wm t || s.faulting (overflowAgent ctx b.idx) then (false, s)
        else
          match x.srcs[n]? with
          | none => (true, s)
          | some y =>
            let top : Int := match y.top with | none => t | some v => max v t
            let cand : Int := top - (y.disorder : Int)
            let x1 := x.setSrc n { y with top := some top }
            let x2 := (if cand < wmStart then x1 else x1.propose n cand false).arrived n now
            let s1 := (s.putStream ctx x2).fireStream ctx i
            let js := ((s1.ctx? ctx).map fun c => (c.bindingsOf i).map (·.idx)).getD []
            s.placeAll ctx x2.wm (withSrc item n) js s1

/-- An item arrives at a source; it waits behind what the source already holds (R360, R364). -/
def State.arriveItem (s : State) (ctx i n : Nat) (team : Option Nat) (item : List Word) : State :=
  match s.stream? ctx i with
  | none => s
  | some x =>
    match x.srcs[n]? with
    | none => s
    | some y =>
      let hold (u : State) : State :=
        match u.stream? ctx i with
        | none => u
        | some x => match x.srcs[n]? with
          | none => u
          | some y => u.putStream ctx (x.setSrc n { y with held := y.held ++ [(team, item)] })
      if y.held ≠ [] then hold s
      else
        match s.takeItem ctx i n item with
        | (true, s1) => s1
        | (false, s1) => hold s1

/-- A record that a team has emitted waits for room (R364). -/
def State.emittedWaits (s : State) (ctx team : Nat) : Bool :=
  match s.ctx? ctx with
  | none => false
  | some c => c.streams.any fun x => x.srcs.any fun y => y.held.any fun h => h.1 == some team

/-! ## The STRM class -/

/-- The instance that a team runs. -/
def State.instOf (s : State) (t : Team) : Option (Inst × Binding) :=
  match s.ctx? t.ctx with
  | none => none
  | some c =>
    let id := match t.kind with | .fire i => some i | .amend i => some i | _ => none
    match id with
    | none => none
    | some i =>
      match c.inst? i with
      | none => none
      | some x => (c.binding? x.bind).map fun b => (x, b)

/-- R371: an instruction outside its team kind. -/
def State.instance_ (s : State) (t : Team) (ok : Inst → Bool) (k : Inst → Binding → State) : State :=
  match s.instOf t with
  | some (x, b) => if ok x then k x b else s.protect t 0
  | none => s.protect t 0

/-- Low and high word of an integer. -/
def lo32 (v : Int) : Word := BitVec.ofInt 32 v
def hi32 (v : Int) : Word := BitVec.ofInt 32 (v / 2 ^ 32)

/-- WINFO (R372). -/
def execWinfo (c : Ctl) (d : Fld) (s : State) : Res :=
  let ds := run d 8
  s.issue c [] [] [] ds fun t =>
    s.instance_ t (fun _ => true) fun x b =>
      let a := b.start x.k
      let e := b.end_ x.k
      let va : Int := b.line x.k
      let rev : Word := ((b.win? x.k).map (·.revision)).getD 0
      let vs := [lo32 a, hi32 a, lo32 e, hi32 e, lo32 va, hi32 va, rev, flagWord x.amend]
      s.finishWrite c [] [] t ((ds.zip vs).map fun p => (p.1, fun _ => p.2))

/-- The shared shape of RNEXT and LATEQ (R373). -/
def State.nextRecord (s : State) (op : Nat) (c : Ctl) (d : Fld) (ok : Inst → Bool) : Res :=
  let ds := run d 16
  s.issue c [] [] [] ds fun t =>
    s.instance_ t ok fun x _ => s.launch t c [] (.strm op x.id) ds (t.lanes.map fun l => valueLane l []) none

/-- RNEXT (R373). -/
def execRnext (c : Ctl) (d : Fld) (s : State) : Res := s.nextRecord 1 c d fun _ => true

/-- LATEQ (R373). -/
def execLateq (c : Ctl) (d : Fld) (s : State) : Res := s.nextRecord 6 c d fun x => x.amend

/-- What a source reference names: ok, bad, or the page that its stream's descriptor waits for (R371). -/
inductive RefAns where
  | ok
  | bad
  | absent (i va : Nat)
  deriving DecidableEq, Repr

/-- Checks a source reference; the unit reads the stream's descriptor first when it does not hold it (R371). -/
def State.sourceRef (s : State) (ctx : Nat) (w : Word) : State × RefAns :=
  let i := wfld w 7 0
  let n := wfld w 12 8
  match s.ctx? ctx with
  | none => (s, .bad)
  | some c =>
    if wfld w 31 13 ≠ 0 ∨ c.nstr ≤ i then (s, .bad)
    else
      if s.faulting (.armature ctx i 300) then (s, .absent i 0)
      else
      match s.holdStream ctx i (s.skips (.armature ctx i 300)) with
      | (s1, .absent va) => (s1, .absent i va)
      | (s1, .refused _) => (s1.forgive (.armature ctx i 300), .bad)
      | (s1, .held) =>
        match (s1.stream? ctx i).bind fun x => x.srcs[n]? with
        | some y => (s1, if y.en && y.kind == 2 then .ok else .bad)
        | none => (s1, .bad)

/-- Checks the references of lanes in order. -/
def State.sourceRefs (s : State) (ctx : Nat) : List (Nat × Word) → State × List (Nat × RefAns)
  | [] => (s, [])
  | (l, w) :: rest =>
    let r := s.sourceRef ctx w
    let q := r.1.sourceRefs ctx rest
    (q.1, (l, r.2) :: q.2)

/-- An emission: one lane for each item, with its target. -/
def emitLane (l stream src : Nat) (ws : List Word) : Lane := { valueLane l [] with va := stream, dst := src, data := ws }

/-- REMIT, WMARK and SIDLE are held while an earlier record of the team waits for room (R364, R374). -/
def State.emitGate (s : State) (t : Team) (k : State) : State :=
  if s.emittedWaits t.ctx t.id then s.waitCounter t .emitted else k

/-- The unit waits for the page of a descriptor; the team issues the instruction again. -/
def State.refWait (s : State) (t : Team) (i va : Nat) : State :=
  (s.putTeam { t with st := .ready }).engineFault t.ctx (.armature t.ctx i 300) va 0

/-- REMIT (R371, R374). -/
def execRemit (c : Ctl) (a : Fld) (s : State) : Res :=
  let as := run a 16
  s.issue c as [] [] [] fun t =>
    let data (l : Nat) : List Word := as.map fun f => t.get f l
    match s.instOf t with
    | some (x, b) =>
      if b.out then
        s.emitGate t (s.send t c as (.strm 2 x.id) (t.lanes.map fun l => emitLane l b.outstr b.outsrc (data l)))
      else go s t as data
    | none => go s t as data
where
  /-- The target of each lane is the reference in A+3. -/
  go (s : State) (t : Team) (as : List Fld) (data : Nat → List Word) : State :=
    let ref (l : Nat) : Word := t.get (fplus a 3) l &&& 0x1FFF#32
    let r := s.sourceRefs t.ctx (t.lanes.map fun l => (l, ref l))
    match r.2.find? fun p => match p.2 with | .absent _ _ => true | _ => false with
    | some (_, .absent i va) => r.1.refWait t i va
    | _ =>
      let bad := (r.2.filter fun p => p.2 == .bad).map (·.1)
      match bad with
      | l :: _ => r.1.trap t 9 0 (maskOf bad) (ref l)
      | [] =>
        r.1.emitGate t (r.1.send t c as (.strm 2 0)
          (t.lanes.map fun l => emitLane l (wfld (ref l) 7 0) (wfld (ref l) 12 8) (data l)))

/-- The shared shape of WMARK and SIDLE: a uniform reference, then one item (R375). -/
def State.sourceItem (s : State) (op : Nat) (c : Ctl) (as : List Fld) (a : Fld) (item : Team → List Word) : Res :=
  s.issue c as [] [] [] fun t =>
    s.uniforms t as
      (match s.sourceRef t.ctx (t.getLow a) with
       | (s1, .absent i va) => s1.refWait t i va
       | (s1, .bad) => s1.trap t 9 0 t.mask (t.getLow a)
       | (s1, .ok) =>
         let w := t.getLow a
         s1.emitGate t (s1.send t c as (.strm op 0) [emitLane t.low (wfld w 7 0) (wfld w 12 8) (item t)]))

/-- WMARK (R375). -/
def execWmark (c : Ctl) (a : Fld) (s : State) : Res :=
  s.sourceItem 3 c (run a 3) a fun t => [t.getLow (fplus a 1), t.getLow (fplus a 2)]

/-- SIDLE (R375). -/
def execSidle (c : Ctl) (a : Fld) (s : State) : Res := s.sourceItem 4 c [a] a fun _ => []

/-- PUBL (R376): the line is written as a store of the team would be, in one step, with no owner left: after the loads that name its bytes
(R303), with a staging frame (R308), and with Undefined values where an engine holds it or a copy writes it (R173, R314, R356). -/
def execPubl (c : Ctl) (a : Fld) (s : State) : Res :=
  let as := run a 16
  s.issue c as [] [] [] fun t =>
    s.instance_ t (fun x => !x.amend) fun x b =>
      match b.win? x.k with
      | none => s.protect t 0
      | some w =>
        if w.published then s.protect t 0
        else if !s.releaseDone t.id .device s.nextId then
          s.putTeam { t with st := .waitingCounter (.release .device s.nextId), finish := .again (.publ c a) }
        else
          let acc : Access := { n := 64, align := 64, write := true, kind := 1,
                                forbid := fun _ pa _ at_ => at_.rlf || at_.raw || isRemote pa }
          let x0 : Xl := { Xl.reset with vbase := BitVec.ofNat 55 (b.line x.k) }
          match s.globalCheck t x0 acc [t.low] (fun _ => 0) (fun _ => false) (fun _ => false) (fun _ _ => 0) with
          | (s1, .trap cause _ v) => s1.trap t cause 0 t.mask v
          | (s1, .park _ va) => s1.pageFault t t.mask va 1
          | (s1, .intercept _ va) => s1.writeIntercept t t.mask va (as.map t.getLow)
          | (s1, .ok lanes) =>
            if s1.anyLoadAhead t lanes 64 then s1.waitCounter t (.loads s1.nextId)
            else
            match lanes with
            | [] => s1
            | y :: _ =>
              match s1.stage t.ctx y.pa with
              | none => s1.waitCounter t (.staging (y.pa / 65536))
              | some s0 =>
              let d := s0.completionDelay (wordsOf y.pa 64)
              let m := s0.markSpoil t false 64 [y]
              let bad (a : Nat) : Bool := m.1.any fun z => z.spoil.contains (a - y.pa)
              let line := m.2.blurSoft y.pa bad (wordsBytes (as.map t.getLow))
              let s2 := (line.2.engineWrite t.ctx y.pa line.1).dropCopies t.core (wordsOf y.pa 64)
              let s3 := s2.putBinding t.ctx (b.putWin { w with published := true })
              let s4 := { s3 with
                nextId := s3.nextId + 1
                deadlines := { id := s3.nextId, via := y.via, req := s3.nextId, ctx := t.ctx, team := t.id, core := t.core,
                               at_ := s3.coreTime t.core + d + 10 } :: s3.deadlines }
              s4.complete c (t.useMarks c as [])

end Sys2Proof.Machine
end

