-- ==== Sys2Proof/Machine/Preempt.lean ====
section
/-!
DEFINITION. What contexts share: the completion of service events (R306, R417), pre-emption and restore (R302 to R305), the
commands of CTX.CMD and the moves of R300 that are not events of their own.
-/

namespace Sys2Proof.Machine

/-! ## Pre-emption (R302) -/

/-- A team of firmware code: a handler (R306), or a service core's own (R26). It runs on a service core, and a switch of a context does
not stop it. -/
def Team.isHandler (t : Team) : Bool :=
  match t.kind with
  | .handler _ => true
  | .firmware => true
  | _ => false

/-- The number is that of an open page-fault event (R288). -/
def State.pageEvent (s : State) (num : Nat) : Bool := s.events.any fun e => e.num == num && e.kind == 2

/-- The request is a replay packet of a team that a park-and-swap fault has parked: one of the requests of its empty registers (R78). -/
def State.parkedPacket (s : State) (t : Team) (r : Req) : Bool :=
  r.team == t.id && r.kind.isPacket && r.dests != [] &&
  match t.st with
  | .parked (.event n) => s.pageEvent n
  | _ => false

/-- A lane of a replay packet has lost its page (notes/assumptions/44.md). -/
def Req.lost (r : Req) : Bool := r.lanes.any (·.lost)

/-- Steps 1 to 3 of R302 for one team, one that is leaving too. A CHINST that still waits for the conditions of R166 has not issued, and
is reissued. The packets of a parked team, and those that have lost a page, are packets already, so their returns are of no generation
(R78). -/
def State.preemptTeam (s : State) (t : Team) : State :=
  { s with reqs := s.reqs.map fun r =>
      if s.parkedPacket t r ∨ (r.team = t.id ∧ r.lost) then { r with gen := t.gen + 1 } else r }.putTeam
    { t.drain with st := .preempted, prev := t.st, gen := t.gen + 1, hold := none }

/-- An issued instruction holds its team, which stops only when it has completed (R302 step 1). -/
def Team.held (t : Team) : Bool :=
  match t.hold with
  | none => false
  | some (.install _) => false
  | some _ => true

/-- The teams of a context that may stop now: not those that an issued instruction holds (R302 step 1). -/
def State.stopTeams (s : State) (ctx : Nat) : State :=
  (s.teams.filter fun t => t.ctx == ctx && !t.isHandler && !t.held && t.st != .exited && t.st != .preempted).foldl
    State.preemptTeam s

/-- Pre-emption of a Running context starts (R300, R302). -/
def State.startPreempt (s : State) (ctx : Nat) (capture : Bool) : State :=
  (s.modCtx ctx fun c => { c with st := .switchingOut, capture := capture }).stopTeams ctx

/-- The request is in flight. A replay packet of a context that does not run, or of a team that a page fault has parked, is not: nothing
serves it (R78, R302, R305); nor is one of which a lane has lost its page (notes/assumptions/44.md). -/
def State.live (s : State) (r : Req) : Bool :=
  match s.team? r.team with
  | none => false
  | some t =>
    let goes : Bool :=
      match s.ctx? r.ctx with
      | none => t.isHandler
      | some c => t.isHandler || c.st == .running || (c.st == .switchingOut && (!r.kind.isPacket || t.gen != r.gen))
    goes && !s.parkedPacket t r && !r.lost

/-- A return under an old generation reaches its core and is dropped; the packet stays (R302 step 5). -/
def State.dropOld (s : State) (r : Req) : State :=
  match s.team? r.team with
  | none => s.dropReq r.id
  | some t => s.putReq (r.packet t.gen)

/-! ## Restore (R305) -/

/-- A lane of a packet is translated anew. One whose page is not present, is bad or forbids the read has lost it: it waits, and no longer
has the address of its first issue (notes/assumptions/44.md). -/
def State.retarget (s : State) (t : Team) (n : Nat) (x : Lane) : Lane :=
  let segs := (pieces x.va n).map fun p => (p.1, s.coreSeg t.core t.ctx 0 p.1)
  let acc : Access := { n := n, align := 1, write := false, kind := 0,
                        forbid := fun va pa m a => a.raw && s.rawOutside t.ctx va pa m }
  if (segs.all fun g => match g.2 with | .ok _ _ => true | _ => false) && !segs.any (s.segForbidden acc x.va) then
    let via := segs.map fun g => s.pageRange t.core t.ctx g.1
    { mkLane x.lane acc via segs with dst := x.dst, data := x.data, spoil := x.spoil }
  else { x with lost := true }

/-- The frame of the descriptor that a relief packet names, when its page still shows a coded view here (R316). -/
def State.descFrame (s : State) (t : Team) (va : Nat) : Option Nat :=
  match s.coreSeg t.core t.ctx 0 va with
  | .ok pa a => if a.rlf && !isRemote pa then some pa else none
  | _ => none

/-- A packet is reissued (R303, R305): global lanes are translated anew, and so is the descriptor of an RLD or RBLK and the run that a TRACE,
BOXT or TRIT walks, which is empty where its page is gone (R144); lanes of the team's own levels bind anew. -/
def State.reissue (s : State) (t : Team) (r : Req) : Req :=
  let run : Xl := s.xltWalk t.ctx ((r.lanes.map (·.va)).headD 0)
  match r.kind with
  | .ldg sz _ _ _ => { r with at_ := s.coreTime t.core, lanes := r.lanes.map (s.retarget t (sizeBytes sz)) }
  | .lda _ n _ => { r with at_ := s.coreTime t.core, lanes := r.lanes.map (s.retarget t n) }
  | .isec op _ n _ => if op = 1 ∨ op = 2 then { r with kind := .isec op run.frame (min n run.limit.toNat) run.attr } else r
  | .trace =>
    { r with rays := r.rays.map fun y =>
        { y with frame := run.frame, limit := min y.limit run.limit.toNat, attr := run.attr } }
  | .relief op fr a =>
    let va := (r.lanes.map (·.va)).headD 0
    match s.descFrame t va with
    | some pa =>
      let via := [s.pageRange t.core t.ctx va]
      { r with kind := .relief op pa a, lanes := r.lanes.map fun (x : Lane) => { x with via := via, lost := false } }
    | none => { r with kind := .relief op fr a, lanes := r.lanes.map fun (x : Lane) => { x with lost := true } }
  | .ldl lvl sz sx =>
    let bind (x : Lane) : Lane :=
      match lvl with
      | .aperture => x.bind [s.apRead t (BitVec.ofNat 32 x.va)]
      | .clm => x
      | .chip => x
      | _ => x.bind (loadWords sz sx (s.levelRead t lvl x.lane x.va (sizeBytes sz)))
    { r with lanes := r.lanes.map bind }
  | _ => r

/-! ## Service events (R306) -/

/-- The parked team of an event is reissued (R288). -/
def State.unpark (s : State) (id : Nat) (f : Team → State → State) : State :=
  match s.team? id with
  | none => s
  | some t => (f t s).youngest id

/-- A kernel that a fatal completion strikes becomes Failed (R250); a team of no kernel is removed. -/
def State.fatal (s : State) (t : Team) : State :=
  match s.kernelOf t with
  | some k => s.failKernel t.ctx k.id
  | none => s.removeTeam t.id

/-- What a completion does to the agent of an event (R306, R417); the packets of a team that a page fault parked are reissued (R78). -/
def State.endEvent (s : State) (e : SvcEvent) (action : Nat) : State :=
  match e.what with
  | .team id =>
    s.unpark id fun t u =>
      if t.st = .parked (.event e.num) ∨ (t.st = .preempted ∧ t.prev = .parked (.event e.num)) then
        let back (v : State) : State :=
          if t.st = .preempted then v.modTeam id fun x => { x with st := .preempted, prev := .ready } else v
        let u1 : State := { u with reqs := u.reqs.map fun r => if u.parkedPacket t r then u.reissue t r else r }
        match action with
        | 0 => back (u1.putTeam { t with st := .ready })
        | 1 => back (u1.skip t t.mask e.f t.pc t.fmt)
        | _ => u.fatal t
      else u
  | w => if action = 0 then s else { s with giveUp := (w, e.va / 65536) :: s.giveUp }

/-- A value of CTX.EVDONE for an event of a context (R306): action 3 and unknown numbers are Ignored. -/
def State.evdone (s : State) (ctx num action : Nat) : State :=
  match s.events.find? fun e => e.ctx == ctx && e.num == num with
  | none => s
  | some e =>
    if 3 ≤ action then s
    else
      let s1 := s.endEvent e action
      { s1 with events := s1.events.filter fun x => x.num != num }

/-- The state in which a restored team goes on: waits whose instruction has not completed are reissued, waits that end in a
completion go on (R66, R224, R248). -/
def Team.resume (t : Team) : Team :=
  if t.mask = 0 ∧ t.prev ≠ .placed then { t with st := .issuing }
  else
  match t.prev with
  | .placed => { t with st := .ready }
  | .ready => { t with st := .ready }
  | .issuing => { t with st := .ready }
  | .waitingLatch _ => { t with st := .ready, finish := .none }
  | .suspended _ _ => { t with st := .ready, finish := .none }
  | p => { t with st := p }

/-- A recorded arrival at a Gathering latch as a restore finds it (R248): its drain word is translated anew, and one whose page is gone, or
forbids the drain, has not arrived; its team reissues (notes/assumptions/108.md). -/
def State.rearrive (s : State) (m : Nat × Instr × Option Drain) : Option (Nat × Instr × Option Drain) :=
  match m.2.2, s.team? m.1 with
  | some d, some t =>
    match s.coreSeg t.core t.ctx 0 d.va with
    | .ok pa a =>
      if !a.w || a.rlf || a.raw || isRemote pa || s.tableAt pa 4 then none
      else some (m.1, m.2.1, some { d with pa := pa, via := [s.pageRange t.core t.ctx d.va] })
    | _ => none
  | _, _ => some m

/-- The teams and packets of a context are restored, once every L1 of the partition has dropped its non-owned words (R305). -/
def State.restoreTeams (s : State) (ctx : Nat) : State :=
  let s1 : State := { s with teams := s.teams.map fun (t : Team) => if t.ctx = ctx ∧ t.st = .preempted then t.resume else t }
  let p := s.ctxPart ctx
  let s2 : State := { s1 with l1 := s1.l1.filter fun x => x.owned || !(32 * p.1 ≤ x.core && x.core < 32 * (p.1 + p.2)) }
  let back (r : Req) : Req :=
    match s2.team? r.team with
    | some t => if r.ctx = ctx ∧ r.kind.isPacket ∧ !t.isHandler then s2.reissue t r else r
    | none => r
  let latch (l : Latch) : Latch := { l with members := l.members.filterMap s2.rearrive }
  let s3 := s2.modCtx ctx fun c => { c with latches := (c.latches.map latch).filter fun l => l.members != [] }
  ({ s3 with reqs := s3.reqs.map back } : State).holdAll ctx

/-! ## Commands (R300, R301) -/

/-- The agent works for a context. -/
def State.worksFor (s : State) (ctx : Nat) : EventOf → Bool
  | .team i => s.teams.any fun t => t.id == i && t.ctx == ctx
  | .copy i => s.copies.any fun k => k.id == i && k.ctx == ctx
  | .entry c _ _ => c == ctx
  | .seal f => s.surfaces.any fun x => x.frame == f && x.ctx == ctx
  | .armature c _ _ => c == ctx
  | .foreign i => s.inbound.any fun x => x.id == i && x.ctx == ctx
  | .relief i => (s.reqs.any fun r => r.id == i && r.ctx == ctx) || s.teams.any fun t => t.id == i && t.ctx == ctx
  | .packet i => s.reqs.any fun r => r.id == i && r.ctx == ctx

/-- Everything of a context but the context itself is gone: teams, requests, engines' work (R300, R310, R311). A request of a link that
waited for a page completes with "not present", one of the host with Completer Abort (R384, R394). -/
def State.clearCtx (s0 : State) (ctx : Nat) : State :=
  let s := (s0.inbound.filter fun x => x.ctx == ctx).foldl (fun (u : State) x =>
    u.say (.status x.id (if x.refusal = 4 then 4 else 2) x.full)) s0
  { s with
    teams := s.teams.filter fun t => t.ctx != ctx
    order := s.order.filter fun id => s.teams.any fun t => t.id == id && t.ctx != ctx
    reqs := s.reqs.filter fun r => r.ctx != ctx
    deadlines := s.deadlines.filter fun d => d.ctx != ctx
    copies := s.copies.filter fun k => k.ctx != ctx
    events := s.events.filter fun e => e.ctx != ctx
    giveUp := s.giveUp.filter fun p => !s.worksFor ctx p.1
    intercepts := s.intercepts.filter fun e => e.ctx != ctx
    surfaces := s.surfaces.filter fun f => f.ctx != ctx
    inbound := s.inbound.filter fun r => r.ctx != ctx }

/-- CTX.CMD start (R300): the context may be loaded. -/
def State.cmdStart (s : State) (ctx : Nat) : State :=
  match s.ctx? ctx with
  | none => s
  | some c => if c.st = .created then s.modCtx ctx fun c => { c with started := true } else s

/-- A halt (R300): a Running context starts to switch out, a Saved one is Halted; others keep it pending when hold says so. -/
def State.haltCtx (s : State) (ctx : Nat) (hold : Bool) : State :=
  match s.ctx? ctx with
  | none => s
  | some c =>
    match c.st with
    | .running => (s.modCtx ctx fun c => { c with haltPending := true }).startPreempt ctx false
    | .saved => s.modCtx ctx fun c => { c with st := .halted }
    | .loaded => if hold then s.modCtx ctx fun c => { c with haltPending := true } else s
    | .switchingOut => if hold then s.modCtx ctx fun c => { c with haltPending := true } else s
    | _ => s

/-- CTX.CMD resume (R300). -/
def State.cmdResume (s : State) (ctx : Nat) : State :=
  match s.ctx? ctx with
  | none => s
  | some c => if c.st = .halted then s.modCtx ctx fun c => { c with st := .saved } else s

/-- CTX.CMD destroy (R300): the number is free again, and what the context held is released. -/
def State.cmdDestroy (s : State) (ctx : Nat) : State :=
  match s.ctx? ctx with
  | none => s
  | some c =>
    if c.st = .created ∨ c.st = .saved ∨ c.st = .halted then
      let s1 := s.clearCtx ctx
      { s1 with
        ctxs := s1.ctxs.filter fun x => x.num != ctx
        maqs := s1.maqs.filter fun m => m.ctx != ctx
        tlb := s1.tlb.filter fun e => e.ctx != ctx
        dirty := s1.dirty.filter fun d => d.1 != ctx
        holders := s1.holders.map fun h => if h.2 = some ctx then (h.1, none) else h
        ceOwn := s1.ceOwn.map fun w => if wbit w 31 && wfld w 7 0 == ctx then 0 else w }
    else s

/-- A maquette of the context is being streamed. -/
def State.streaming (s : State) (ctx : Nat) : Bool := s.maqs.any fun m => m.ctx == ctx && m.streaming

/-- A port that is Up and has agreed on a version of the save format, by which maquettes go to the safe tier (R308, R381). -/
def State.savePort (s : State) : Bool := s.ports.any fun p => p.st == .up && wfld p.ver 7 0 != 0

/-- A maquette is taken now (R308): the capture of a Running context starts, unless one is streaming or being captured. Streaming to a partner
without the save format is refused, so no capture starts then (R381, notes/assumptions/113.md). -/
def State.takeMaquette (s : State) (ctx : Nat) : State :=
  match s.ctx? ctx with
  | none => s
  | some c => if c.st = .running ∧ !s.streaming ctx ∧ s.savePort then s.startPreempt ctx true else s

/-- CTX.CMD (R301): codes that the state's events do not list are Ignored. -/
def State.ctxCmd (s : State) (ctx : Nat) (v : Word) : State :=
  match wfld v 3 0 with
  | 1 => s.cmdStart ctx
  | 2 => s.haltCtx ctx false
  | 3 => s.cmdResume ctx
  | 4 => s.cmdDestroy ctx
  | 5 => s.takeMaquette ctx
  | _ => s

/-! ## Ring control blocks (R272) -/

/-- A write of RCB.CFG: the ring starts anew, or the write is Refused (R272, R301). A slot count of one breaks R272 and is Ignored (R1). -/
def State.rcbCfg (s : State) (ctx : Nat) (k : RcbKey) (v : Word) : State × Bool :=
  let lvl := wfld v 30 29
  let slice : Bool := match k with | .slice _ => true | .cluster _ _ => false
  if lvl = 3 ∨ (lvl = 1 ∧ slice) ∨ wfld v 28 24 < 4 ∨ 16 < wfld v 28 24 ∨ wfld v 15 0 ≠ 0 then
    (s.modCtx ctx fun c => { c with status := 4 }, false)
  else if wfld v 23 16 = 0 then (s, true)
  else
    let r := s.rcb ctx k
    let fresh : List Slot := List.replicate (wfld v 23 16 + 1) { st := .empty, credit := 0, exp := 0, fail := false }
    (s.putRcb ctx { r with cfg := v, head := 0, tail := 0, slots := fresh }, true)

/-! ## The register map (R301) -/

def CtxSt.code : CtxSt → Nat
  | .created => 0
  | .loaded => 1
  | .running => 2
  | .switchingOut => 3
  | .saved => 4
  | .halted => 5
  | .rollingBack => 6
  | .reset => 7

/-- The ring control block and the register of it that a number names; cluster numbers count from the partition's first. -/
def State.rcbReg (s : State) (ctx reg : Nat) : Option (RcbKey × Nat) :=
  let p := s.ctxPart ctx
  if 0x400 ≤ reg ∧ reg < 0x500 then some (.slice ((reg - 0x400) / 4), reg % 4)
  else if 0x8000 ≤ reg ∧ reg < 0x8000 + 0x100 * (4 * p.2) then
    some (.cluster (4 * p.1 + (reg - 0x8000) / 0x100) (reg % 0x100 / 4), reg % 4)
  else none

def dlo (v : Dword) : Word := v.extractLsb' 0 32
def dhi (v : Dword) : Word := v.extractLsb' 32 32
def putLo (v : Dword) (w : Word) : Dword := dhi v ++ w
def putHi (v : Dword) (w : Word) : Dword := w ++ dlo v

/-- Register k of a ring control block. -/
def Rcb.readReg (r : Rcb) (k : Nat) : Word :=
  match k with
  | 0 => r.cfg
  | 1 => dlo r.base
  | 2 => dhi r.base
  | _ => BitVec.ofNat 32 (65536 * r.ovf + 256 * r.head + r.tail)

/-- A context register, or none for a number that is not listed. -/
def State.readCtxReg (s : State) (c : Ctx) (reg : Nat) : Option Word :=
  match reg with
  | 0x01 => some (BitVec.ofNat 32 (2 ^ 28 * c.st.code + c.status))
  | 0x02 => some c.cfg
  | 0x03 => some (BitVec.ofNat 32 c.quota)
  | 0x04 => some (BitVec.ofNat 32 c.xscr)
  | 0x05 => some (dlo c.root)
  | 0x06 => some (dhi c.root)
  | 0x07 => some (dlo c.cht)
  | 0x08 => some (dhi c.cht)
  | 0x09 => some (dlo c.save)
  | 0x0A => some (dhi c.save)
  | 0x0B => some (dlo c.svec)
  | 0x0C => some (dhi c.svec)
  | 0x0D => some (BitVec.ofNat 32 c.maqi)
  | 0x0E => some c.maqn
  | 0x0F => some (dlo c.safe)
  | 0x10 => some (dhi c.safe)
  | 0x11 => some 0
  | 0x12 => some 0
  | _ => (s.rcbReg c.num reg).map fun x => (s.rcb c.num x.1).readReg x.2

/-- A refused write (R301). -/
def State.refuseReg (s : State) (ctx : Nat) : State × Bool := (s.modCtx ctx fun c => { c with status := 4 }, false)

/-- The context is Loaded, Running or Switching-out. -/
def Ctx.inUse (c : Ctx) : Bool := c.st == .loaded || c.st == .running || c.st == .switchingOut

/-- CTX.CFG. -/
def State.writeCfg (s : State) (ctx : Nat) (v : Word) : State × Bool :=
  let lease := wfld v 30 23
  let mincap := wfld v 22 14
  if wfld v 13 0 ≠ 0 ∨ lease = 0 ∨ 128 < lease ∨ mincap = 0 ∨ 256 < mincap then s.refuseReg ctx
  else (s.modCtx ctx fun c => { c with cfg := v }, true)

/-- CTX.XSCR: units that another context last held are zeroed; here every new unit starts as zeros (R27). -/
def State.writeXscr (s : State) (c : Ctx) (v : Word) : State × Bool :=
  if wfld v 31 17 ≠ 0 ∨ 8192 * (s.ctxPart c.num).2 < v.toNat ∨ c.inUse then s.refuseReg c.num
  else (s.modCtx c.num fun x => { x with xscr := v.toNat, chip := memClear x.chip (4096 * v.toNat) (2 ^ 40) }, true)

/-- Registers 5 to 10: CTX.ROOT, CTX.CHT and CTX.SAVE. A low half that breaks its alignment is Ignored (R1). -/
def State.writeAddr (s : State) (c : Ctx) (reg : Nat) (v : Word) : State × Bool :=
  let al := if reg = 7 then 16384 else if reg = 9 then 65536 else 1
  if c.inUse then s.refuseReg c.num
  else if v.toNat % al ≠ 0 then (s, true)
  else
    (s.modCtx c.num fun x =>
      match reg with
      | 5 => { x with root := putLo x.root v }
      | 6 => { x with root := putHi x.root v }
      | 7 => { x with cht := putLo x.cht v, chtSet := true }
      | 8 => { x with cht := putHi x.cht v, chtSet := true }
      | 9 => { x with save := putLo x.save v }
      | _ => { x with save := putHi x.save v }, true)

/-- CTX.MAQI: 1 to 99 are Saturated to 100. -/
def State.writeMaqi (s : State) (ctx : Nat) (v : Word) : State × Bool :=
  let n := wfld v 15 0
  if wfld v 31 16 ≠ 0 then s.refuseReg ctx
  else (s.modCtx ctx fun c => { c with maqi := if 1 ≤ n ∧ n ≤ 99 then 100 else n }, true)

/-- RCB.BASE and RCB.STAT: a base that breaks its alignment is Ignored (R1); OVF is cleared by bit 16. The alignment is that of the slot size
in force at the write of BASE: a later CFG with a larger LOG2S keeps the base, which the spec leaves open (notes/assumptions/111.md). -/
def Rcb.writeReg (r : Rcb) (k : Nat) (v : Word) : Rcb :=
  match k with
  | 1 => if v.toNat % 2 ^ r.log2s = 0 then { r with base := putLo r.base v } else r
  | 2 => { r with base := putHi r.base v }
  | _ => if wbit v 16 then { r with ovf := 0 } else r

/-- Writes a context register (R301), whose reserved bits must be 0: the state after it and whether it was written; none for a number that is not listed.
Writes of read-only registers are Ignored. -/
def State.writeCtxReg (s : State) (c : Ctx) (reg : Nat) (v : Word) : Option (State × Bool) :=
  let n := c.num
  match reg with
  | 0x01 => some (s, true)
  | 0x02 => some (s.writeCfg n v)
  | 0x03 => some (if wfld v 31 16 ≠ 0 then s.refuseReg n else (s.modCtx n fun x => { x with quota := wfld v 15 0 }, true))
  | 0x04 => some (s.writeXscr c v)
  | 0x05 => some (s.writeAddr c 5 v)
  | 0x06 => some (s.writeAddr c 6 v)
  | 0x07 => some (s.writeAddr c 7 v)
  | 0x08 => some (s.writeAddr c 8 v)
  | 0x09 => some (s.writeAddr c 9 v)
  | 0x0A => some (s.writeAddr c 10 v)
  | 0x0B => some (s.modCtx n fun x => { x with svec := putLo x.svec v }, true)
  | 0x0C => some (s.modCtx n fun x => { x with svec := putHi x.svec v }, true)
  | 0x0D => some (s.writeMaqi n v)
  | 0x0E => some (s, true)
  | 0x0F => some (s.modCtx n fun x => { x with safe := putLo x.safe v }, true)
  | 0x10 => some (s.modCtx n fun x => { x with safe := putHi x.safe v }, true)
  | 0x11 => some (if wfld v 31 18 ≠ 0 then s.refuseReg n else (s.evdone n (wfld v 15 0) (wfld v 17 16), true))
  | 0x12 => some (if wfld v 31 4 ≠ 0 then s.refuseReg n else (s.ctxCmd n v, true))
  | _ =>
    match s.rcbReg n reg with
    | none => none
    | some (k, 0) => some (s.rcbCfg n k v)
    | some (k, i) =>
      some (if (i = 2 ∧ wfld v 31 23 ≠ 0) ∨ (i = 3 ∧ wfld v 31 24 ≠ 0) then s.refuseReg n
            else (s.putRcb n ((s.rcb n k).writeReg i v), true))

end Sys2Proof.Machine
end

