-- ==== Sys2Proof/Machine/Sys.lean ====
section
/-!
DEFINITION. The SYS class but for CHINST (R307).
-/

namespace Sys2Proof.Machine

/-- TRAP: code 15 with A of the lowest active lane (R307). -/
def execTrapI (c : Ctl) (a : Fld) (s : State) : Res :=
  s.issue c [a] [] [] [] fun t => s.trap t 15 0 t.mask (t.getLow a)

/-- BKPT: code 14 with the word (R307). -/
def execBkpt (c : Ctl) (s : State) : Res :=
  s.withTeam fun t => s.trap t 14 0 t.mask (encodeWord (.bkpt c))

/-- RDTIME (R18, R307). -/
def execRdtime (c : Ctl) (d : Fld) (s : State) : Res :=
  s.issue c [] [] [] [d, fplus d 1] fun t =>
    let n := s.coreTime t.core
    s.finishWrite c [] [] t [(d, fun _ => BitVec.ofNat 32 n), (fplus d 1, fun _ => BitVec.ofNat 32 (n / 2 ^ 32))]

/-- The privileged instructions of the SYS class: the right first, then the operands (R45, R52). -/
def State.privIssue (s : State) (w : Word) (c : Ctl) (as dd : List Fld) (k : Team → State) : Res :=
  s.withTeam fun t => s.privilegedOnly t w (s.checked t c as [] [] dd (k t))

/-- ERET: completes the event in k0 and exits every lane (R306, R307). -/
def execEret (c : Ctl) (a : Fld) (s : State) : Res :=
  s.privIssue (encodeWord (.eret c a)) c [a] [] fun t =>
    s.uniforms t [a]
      (match t.kind with
       | .handler _ =>
         (s.evdone t.ctx (t.k.getD 0 0).toNat (wfld (t.getLow a) 1 0)).exitLanes t t.alive
       | _ => s.protect t 0)

/-- HALT: posts a halt to a context (R300, R307). -/
def execHalt (c : Ctl) (a : Fld) (s : State) : Res :=
  s.privIssue (encodeWord (.halt c a)) c [a] [] fun t =>
    s.uniforms t [a]
      (let n := wfld (t.getLow a) 7 0
       match s.ctx? n with
       | none => s.protect t (t.getLow a)
       | some x =>
         if x.st = .reset ∨ x.st = .rollingBack then s.protect t (t.getLow a)
         else
           let s1 := s.haltCtx n true
           match s1.team? t.id with
           | none => s1
           | some u => s1.complete c (u.useMarks c [a] []))

/-- RDID (R307). -/
def execRdid (c : Ctl) (d : Fld) (s : State) : Res :=
  s.issue c [] [] [] (run d 4) fun t =>
    let p := s.ctxPart t.ctx
    let maqn : Word := match s.ctx? t.ctx with | some x => x.maqn | none => 0
    s.finishWrite c [] [] t
      [(d, fun _ => 0x09600001#32), (fplus d 1, fun _ => BitVec.ofNat 32 (256 * t.ctx + 16 * p.1 + p.2)),
       (fplus d 2, fun _ => BitVec.ofNat 32 (4096 * t.core + 256 * t.quad + t.slot)), (fplus d 3, fun _ => maqn)]

/-- The context and the register that a selector names (R301). -/
def State.selCtx (s : State) (w : Word) : Option Ctx := if wfld w 31 24 ≠ 0 then none else s.ctx? (wfld w 23 16)

/-- CSRR (R307). -/
def execCsrr (c : Ctl) (d a : Fld) (s : State) : Res :=
  s.privIssue (encodeWord (.csrr c d a)) c [a] [d] fun t =>
    s.uniforms t [a]
      (match (s.selCtx (t.getLow a)).bind fun x => s.readCtxReg x (wfld (t.getLow a) 15 0) with
       | none => s.protect t (t.getLow a)
       | some v => s.finishWrite c [a] [] t [(d, fun _ => v)])

/-- CSRW (R307). A write that stops the issuing team's own context, or removes the team, lets the instruction complete first. -/
def execCsrw (c : Ctl) (d a : Fld) (s : State) : Res :=
  s.privIssue (encodeWord (.csrw c d a)) c (run a 2) [d] fun t =>
    s.uniforms t (run a 2)
      (let w := t.getLow a
       match (s.selCtx w).bind fun x => s.writeCtxReg x (wfld w 15 0) (t.getLow (fplus a 1)) with
       | none => s.protect t w
       | some (s1, ok) =>
         match s1.team? t.id with
         | none => s1
         | some u => s1.finishWrite c (run a 2) [] u [(d, fun _ => if ok then 0 else 4)])

end Sys2Proof.Machine
end

