-- ==== Sys2Proof/Machine/DeviceEv.lean ====
section
/-!
DEFINITION. The events of the device (R22 to R30), of firmware load (R26) and of the TAP (R313). An event whose state the rules
do not list is Ignored: the state stays as it is.
-/

namespace Sys2Proof.Machine

/-- An event that only a device in Operational takes. -/
def State.operational (s : State) (k : State) : Res := .next (if s.dev = .operational then k else s)

/-- All on-chip state returns to its reset values (R23, R27). DRAM, the memory across the links with the committed maquettes that the safe
tier holds (R30, R308), poisoned DRAM lines, the one-time-programmable leaf index and the latched thermal status stay. The FREEZE pin
counts as released until it is asserted again (notes/assumptions/10.md). -/
def State.resetDevice (s : State) : State :=
  { State.reset with
    agenda := s.agenda, clock := s.clock, stepNs := s.stepNs, coreSkew := s.coreSkew, released := s.clock,
    freeCtr := s.freeCtr, nextId := s.nextId, outbox := s.outbox, thermal := s.thermal,
    fw := { State.reset.fw with leaf := s.fw.leaf }, mem := s.mem, fabric := s.fabric, poisoned := s.poisoned,
    maqs := s.maqs.filter fun m => !m.streaming }

/-- POWER_GOOD (R23). -/
def execPowerGood (s : State) : Res := .next (if s.dev = .off then { s with dev := .reset } else s)

/-- POWER_LOSS (R22): from any state to Off; nothing on the package keeps its contents but what is programmed once. -/
def execPowerLoss (s : State) : Res :=
  .next { s.resetDevice with dev := .off, mem := [], poisoned := [], thermal := false }

/-- PERST_ASSERT (R23). -/
def execPerstAssert (s : State) : Res := .next s.resetDevice

/-- MGMT_RESET_COMMAND (R23). -/
def execMgmtResetCommand (s : State) : Res := .next s.resetDevice

/-- RESET_RELEASE (R23, R24): FREEZE is sampled, and the counters start. -/
def execResetRelease (s : State) : Res :=
  .next (if s.dev = .reset then { s with dev := if s.freezePin then .frozen else .awaiting, released := s.clock } else s)

/-- Freezing (R23). -/
def State.freeze (s : State) : State :=
  if s.dev = .awaiting ∨ s.dev = .verifying ∨ s.dev = .operational then { s with dev := .frozen } else s

/-- FREEZE_PIN_ASSERT (R23, R24). -/
def execFreezePinAssert (s : State) : Res := .next { s.freeze with freezePin := true }

/-- MGMT_FREEZE_COMMAND (R23). -/
def execMgmtFreezeCommand (s : State) : Res := .next s.freeze

/-! ## Firmware (R25, R26) -/

/-- STAGING_WINDOW_WRITE (R26). -/
def execStagingWindowWrite (off : Nat) (bytes : List Byte) (s : State) : Res :=
  .next (if s.dev = .awaiting ∧ off + bytes.length ≤ 2 ^ 27 then
    { s with fw := { s.fw with staging := memWrite s.fw.staging off bytes } }
  else s)

/-- FW_CMD_VERIFY (R26); with a reserved bit it is Ignored (R1, R3). -/
def execFwCmdVerify (v : Word) (s : State) : Res :=
  .next (if s.dev = .awaiting ∧ v = 1 then { s with dev := .verifying, fw := { s.fw with stat := 1 } } else s)

/-- The status of the image in the staging window, its leaf index beside it: 2 when every check passes (R26). -/
def Fw.verdict (f : Fw) : Nat × Nat :=
  let w (i : Nat) : Word := memWord f.staging (4 * i)
  let len := (w 1).toNat
  let leaf := (memWord f.staging len).toNat
  let entry := (w 2).toNat
  if len % 64 ≠ 0 ∨ len < 128 ∨ 0x4000000 < len then (5, 0)
  else if !Config.xmssValid (memRead f.staging 0 len) (memRead f.staging len 2820) ∨ leaf ≤ f.leaf then (3, 0)
  else if wfld (w 0) 31 24 ≠ 1 then (4, 0)
  else if wfld (w 0) 15 0 ≠ 0 ∨ entry % 4 ≠ 0 ∨ entry < 64 ∨ len - 4 < entry ∨
      ((List.range 13).any fun i => w (3 + i) != 0) then (5, 0)
  else (2, leaf)

/-- The team that a service core starts with at ENTRY: 32 lanes with privilege, its registers as a handler team's (R26, R306;
notes/assumptions/30.md). -/
def firmwareTeam (id core : Nat) (entry : Word) : Team :=
  { Team.blank with
    id := id, ctx := 192, kind := .firmware, privileged := true, p := 128, core := 384 + core, st := .ready, pc := entry,
    mask := BitVec.ofNat 1024 (2 ^ 32 - 1), frame := List.replicate 128 { full := true, uniform := true, bank := .uni 0 } }

/-- The 32 service cores start, each team with its group barrier (R26, R211). -/
def State.startCores (s : State) (entry : Word) : State :=
  { s with
    nextId := s.nextId + 32
    fwCircuits := (List.range 32).flatMap fun i => (firmwareTeam (s.nextId + i) i entry).groupCircuits
    teams := s.teams ++ (List.range 32).map fun i => firmwareTeam (s.nextId + i) i entry
    order := s.order ++ (List.range 32).map fun i => s.nextId + i }

/-- FIRMWARE_VERIFY_DONE (R23, R26). -/
def execFirmwareVerifyDone (s : State) : Res :=
  .next (if s.dev = .verifying then
    let r := s.fw.verdict
    if r.1 = 2 then
      { s.startCores (memWord s.fw.staging 8) with
        dev := .operational
        fw := { s.fw with stat := 2, leaf := r.2, code := memSlice s.fw.staging 0 (memWord s.fw.staging 4).toNat,
                          entry := memWord s.fw.staging 8, running := true } }
    else { s with dev := .awaiting, fw := { s.fw with stat := r.1 } }
  else s)

/-! ## Heat (R30) -/

/-- THERMAL_THROTTLE (R30): idle issue cycles change no result (R29). Frozen ignores it (R23). -/
def execThermalThrottle (die : Nat) (s : State) : Res :=
  .next (if s.dev = .off ∨ s.dev = .frozen ∨ s.throttled.contains die then s else { s with throttled := die :: s.throttled })

/-- THERMAL_COOLED (R30). -/
def execThermalCooled (die : Nat) (s : State) : Res :=
  .next (if s.dev = .frozen then s else { s with throttled := s.throttled.filter fun d => d != die })

/-- THERMAL_TRIP (R23, R30). -/
def execThermalTrip (_die : Nat) (s : State) : Res := s.operational { s.resetDevice with thermal := true }

/-! ## The TAP (R313) -/

/-- A TAP instruction needs power. -/
def State.tapTo (s : State) (t : Tap) : Res := .next (if s.dev = .off then s else { s with tap := t })

/-- TAP_BYPASS (R313). -/
def execTapBypass (s : State) : Res := s.tapTo { s.tap with ir := .bypass }

/-- TAP_SAMPLE_PRELOAD (R313). -/
def execTapSamplePreload (s : State) : Res := s.tapTo { s.tap with ir := .sample }

/-- TAP_EXTEST (R313). -/
def execTapExtest (s : State) : Res := s.tapTo { s.tap with ir := .extest }

/-- TAP_IDCODE (R313). -/
def execTapIdcode (s : State) : Res := s.tapTo { s.tap with ir := .idcode, out := 0x1096022F }

/-- TAP_FRZSEL (R313): it acts only in Frozen. -/
def execTapFrzsel (sl : BitVec 48) (s : State) : Res :=
  s.tapTo { s.tap with ir := .frzsel, sel := if s.dev = .frozen then sl else s.tap.sel }

/-- TAP_FRZDATA (R313): the selected word of the arrays as they stand, and the index advances; zeros outside Frozen. -/
def execTapFrzdata (s : State) : Res :=
  let arr := s.tap.sel.extractLsb' 32 16
  let ix := s.tap.sel.extractLsb' 0 32
  s.tapTo (if s.dev = .frozen then
    { s.tap with ir := .frzdata, out := Config.frozenWord arr.toNat ix.toNat s, sel := arr ++ (ix + 1) }
  else { s.tap with ir := .frzdata, out := 0 })

end Sys2Proof.Machine
end

