-- ==== Sys2Proof/Machine/AccessEv.lean ====
section
/-!
DEFINITION. The events of accesses in flight: misses, returns, registrations, acknowledgements, deadlines (R148 to R164), atomics
(R188 to R191), chisels (R201, R205), XLT, LDA, tiles and MABS (R240, R246).
-/

namespace Sys2Proof.Machine

/-! ## Requests and lanes -/

/-- An event of a request that is in flight. -/
def State.onReq (s : State) (id : Nat) (k : Req → State) : Res :=
  s.operational
    (match s.req? id with
     | some r => if s.live r then k r else s
     | none => s)

/-- An event of one lane of a request. -/
def State.onLane (s : State) (id lane : Nat) (k : Req → Lane → State) : Res :=
  s.onReq id fun r =>
    match r.lane? lane with
    | some x => k r x
    | none => s

/-- A lane below this one in the same request names one of its bytes and has not been served (R149, R191). -/
def Req.lowerPending (r : Req) (x : Lane) (n : Nat) : Bool :=
  r.lanes.any fun y => y.lane < x.lane && r.laneOpen y && overlaps y.pa n x.pa n

/-- Earlier accesses of the team, and releases of it that are still to be made, keep this lane back (R149, R222). -/
def State.heldBack (s : State) (r : Req) (x : Lane) (n : Nat) : Bool :=
  s.blocked r.team r.id x.pa n || r.lowerPending x n || s.relAhead r.team r.id

/-- A read of n bytes by a context: of a poisoned line it contains the reader (R209, R310). -/
def State.reading (s : State) (ctx pa n : Nat) (k : State) : State :=
  match s.poisonIn pa n with
  | some l => s.contain ctx (some l)
  | none => k

/-- The lane has its answer and the request is up to date. -/
def State.setLane (s : State) (r : Req) (x : Lane) : State := s.putReq (((s.req? r.id).getD r).setLane x)

/-! ## Loads -/

/-- The copies of the words of a miss, with their leases (R159). The predictor that chooses the block is left out: only the words
that the access touches are leased (notes/assumptions/80.md). -/
def State.grant (s : State) (r : Req) (ws : List Nat) : State :=
  let lam := s.leaseNs r.ctx
  ws.foldl (fun u w =>
    let b := u.bankWord w
    let v := u.setBankWord { b with expiry := max b.expiry (u.clock - u.released + lam + 10) }
    if v.l1.any fun c => c.core == r.core && c.word == w && c.owned then v
    else v.putCopy { core := r.core, word := w, val := v.physDword (8 * w), owned := false, expiry := r.at_ + lam }) s

/-- The port of a line carries the switch directory (R387). -/
def State.ssdir (s : State) (pa : Nat) : Bool :=
  match s.portOf pa with
  | some p => (s.ports.getD p Port.reset).cap.getLsbD 0
  | none => false

/-- A read of a remote system-shared line leaves a copy of the line in L2 (R387). -/
def State.keepLine (s : State) (pa : Nat) (a : Attr) : State :=
  if isRemote pa && a.ss && s.ssdir pa && !(s.ssLines.any fun l => l.1 == s.linkAddr pa / 64) then
    { s with ssLines := (s.linkAddr pa / 64, s.phys (pa / 64 * 64) 64) :: s.ssLines }
  else s

/-- Bytes at the home of an address, or in the L2 copy of a system-shared line. -/
def State.homeRead (s : State) (pa n : Nat) (a : Attr) : List Byte :=
  if isRemote pa && a.ss && s.ssdir pa then
    match s.ssLines.find? fun l => l.1 == s.linkAddr pa / 64 with
    | some l => (l.2.drop (pa % 64)).take n
    | none => s.phys pa n
  else s.phys pa n

/-- The lanes of a load that a miss on x serves: those that miss on a word of x as well, so that two lanes on one byte read the
same value (R149). -/
def Lane.servedWith (x : Lane) (n : Nat) (y : Lane) : Bool :=
  y.lane == x.lane || (y.st == .pending && !y.attr.rlf && !y.attr.raw && sameWord x.pa n y.pa n)

/-- L2_MISS_SERVE (R149, R150, R159, R160, R385): the home bank binds the value of the lane, and of the lanes on its words; a
plain miss gets leased copies. -/
def execL2MissServe (req lane : Nat) (s : State) : Res :=
  s.onLane req lane fun r x =>
    match r.kind with
    | .ldg sz sx strong stream =>
      let n := sizeBytes sz
      let ys := r.lanes.filter (x.servedWith n)
      if x.st ≠ .pending ∨ x.attr.rlf ∨ x.attr.raw ∨ (ys.any fun y => s.blocked r.team r.id y.pa n) then s
      else
        match ys.findSome? fun y => s.poisonIn y.pa n with
        | some l => s.contain r.ctx (some l)
        | none =>
          let s1 := ys.foldl (fun u y => u.keepLine y.pa y.attr) s
          let s2 := if strong ∨ stream ∨ isRemote x.pa then s1 else ys.foldl (fun u y => u.grant r (wordsOf y.pa n)) s1
          let read (y : Lane) : Lane :=
            if x.servedWith n y then y.bind (loadWords sz sx (s1.homeRead y.pa n x.attr)) else y
          s2.putReq { r with lanes := r.lanes.map read }
    | _ => s

/-- An earlier load or store of the team to a word of a shared level is on its way before the request (R149, R181), or an acquire of the
team is still to be made (R377). -/
def State.localBlocked (s : State) (team id : Nat) (lvl : Level) (o n : Nat) : Bool :=
  (s.reqs.any fun r => r.team == team && r.id < id &&
    match r.kind with
    | .stl lv sz => lv == lvl && r.lanes.any fun x => x.st == .pending && sameWord x.va (sizeBytes sz) o n
    | .ldl lv sz _ => lv == lvl && r.lanes.any fun x => x.st == .pending && sameWord x.va (sizeBytes sz) o n
    | _ => false) || s.acqAhead team id

/-- LOAD_RETURN (R74, R148, R164, R302): the values land, or the return of an old generation is dropped. A load of cluster
memory or chip scratch reads its words here. -/
def execLoadReturn (req : Nat) (s : State) : Res :=
  s.onReq req fun r =>
    let land : State :=
      if !s.current r then s.dropOld r
      else
        match r.kind with
        | .ldl lvl sz sx =>
          match s.team? r.team with
          | none => s
          | some t =>
            if r.lanes.any fun x => x.st == .pending && s.localBlocked r.team r.id lvl x.va (sizeBytes sz) then s
            else
              let bind (x : Lane) : Lane :=
                if x.st = .pending then x.bind (loadWords sz sx (s.levelRead t lvl x.lane x.va (sizeBytes sz))) else x
              s.landReq { r with lanes := r.lanes.map bind }
        | _ => if r.boundAll then s.landReq r else s
    match r.kind with
    | .ldg _ _ _ _ => land
    | .ldl _ _ _ => land
    | _ => s

/-- LEASE_EXPIRY (R159). -/
def execLeaseExpiry (core word : Nat) (s : State) : Res :=
  s.operational
    (match s.l1.find? fun c => c.core == core && c.word == word with
     | some c => if s.usable c then s else s.dropCopies core [word]
     | none => s)

/-! ## Stores -/

/-- A store is registered at its home. Where it meets words of a descriptor or coded view that an engine or an armature unit holds, or
destination bytes of a copy of the team that was incomplete, memory holds Undefined values (R173, R314, R356). -/
def State.storeHome (s : State) (r : Req) (x : Lane) (bs : List Byte) (keep : Bool) : List Nat × State :=
  let b := s.blurSoft x.pa (fun a => x.spoil.contains (a - x.pa)) bs
  b.2.register r.ctx r.core x.pa b.1 keep

/-- The registered lanes of a request cover a line (R209). -/
def Req.coversLine (r : Req) (n line : Nat) : Bool :=
  (List.range 64).all fun i => r.lanes.any fun x => !r.laneOpen x && x.pa ≤ 64 * line + i && 64 * line + i < x.pa + n

/-- A line that one store has written whole is poisoned no longer (R209). -/
def State.cleanLine (s : State) (r : Req) (pa n : Nat) : State :=
  if s.poisoned.contains (pa / 64) && ((s.req? r.id).getD r).coversLine n (pa / 64) then
    { s with poisoned := s.poisoned.filter fun l => l != pa / 64 }
  else s

/-- A write to a remote line leaves no L2 copy of it (R387). -/
def State.dropLine (s : State) (pa : Nat) : State :=
  if isRemote pa then { s with ssLines := s.ssLines.filter fun l => l.1 != s.linkAddr pa / 64 } else s

/-- One line's write across a link carries its tag (R389), and no L2 copy of the line is left. -/
def State.outboundLine (s : State) (ctx pa : Nat) : State :=
  let s1 := s.dropLine pa
  match s.portOf pa with
  | some p => s1.tagSent ctx p
  | none => s1

/-- A write of n bytes across a link goes line by line (R383, R387, R389). -/
def State.outbound (s : State) (ctx pa n : Nat) : State :=
  if isRemote pa then
    (List.range ((pa + n - 1) / 64 - pa / 64 + 1)).foldl (fun u i => u.outboundLine ctx (max pa (64 * (pa / 64 + i)))) s
  else s

/-- A raw-view STG whose team is still held has written nothing yet (R326). -/
def State.heldRelief (s : State) (r : Req) : Bool :=
  match s.team? r.team with
  | some t => match t.hold with | some (.relief _ _ q) => q == r.id | _ => false
  | none => false

/-- The words of a lane are registered at their home, and its acknowledgement leaves (R161, R308). -/
def State.registerLane (s : State) (r : Req) (x : Lane) (bs : List Byte) (keep : Bool) : State :=
  match s.stage r.ctx x.pa with
  | none => s
  | some s1 =>
    let w := s1.storeHome r x bs keep
    let s2 := if r.kind.isStore then w.2.outbound r.ctx x.pa bs.length else w.2.dropLine x.pa
    (s2.setLane r { x with st := s2.ackLane x.pa bs.length w.1 }).cleanLine r x.pa bs.length

/-- A lane of a store to a shared local level arrives there (R164). -/
def State.registerLocal (s : State) (r : Req) (x : Lane) (lvl : Level) (sz : Size) : State :=
  match s.team? r.team with
  | none => s
  | some t =>
    let b := s.blur 0 x.spoil.contains (storeBytes sz x.data)
    (b.2.levelStore t lvl x.lane x.va b.1).setLane r { x with st := .acked 0 }

/-- STORE_REGISTRATION (R149, R161, R164, R308). What an atomic of team or cluster scope has computed is registered as a store: a
plain one of the home core, or a strong one (R169, R190). -/
def execStoreRegistration (req lane : Nat) (s : State) : Res :=
  s.onLane req lane fun r x =>
    match r.kind, x.st with
    | .stg sz strong stream, .pending =>
      if x.attr.raw ∨ s.heldRelief r ∨ s.heldBack r x (sizeBytes sz) then s
      else s.registerLane r x (storeBytes sz x.data) (!strong && !stream)
    | .stl lvl sz, .pending =>
      let n := sizeBytes sz
      let lower := r.lanes.any fun y => y.lane < x.lane && y.st == .pending && overlaps y.va n x.va n
      if s.localBlocked r.team r.id lvl x.va n ∨ lower ∨ s.relAhead r.team r.id then s else s.registerLocal r x lvl sz
    | .atom op sc, .bound => s.registerLane r x ((wordsBytes x.data).take op.bytes) (sc == .team)
    | _, _ => s

/-- REVOCATION_ACK (R161): no revocation of the lane is outstanding any more; the acknowledgement leaves with the delay of this
moment. -/
def execRevocationAck (req lane : Nat) (s : State) : Res :=
  s.onLane req lane fun r x =>
    match x.st with
    | .registered _ _ => s.setLane r { x with st := s.ackLane x.pa (max 1 r.kind.globalBytes) [] }
    | _ => s

/-- Every lane of a request has come to its end. -/
def Req.allDone (r : Req) : Bool := r.lanes.all fun x => x.st == .done

/-- STORE_ACK (R162): a local deadline is set; a store whose lanes have all been acknowledged is over. A held raw-view STG
first learns whether it has been accepted (R326). -/
def execStoreAck (req lane : Nat) (s : State) : Res :=
  s.onLane req lane fun r x =>
    match r.kind.isStore && !s.heldRelief r, x.st with
    | true, .acked d =>
      let r1 := r.setLane { x with st := .done }
      let s1 := s.setDeadline r d
      if r1.allDone then s1.dropReq r.id else s1.putReq r1
    | _, _ => s

/-- LOCAL_DEADLINE_PASS (R162). -/
def execLocalDeadlinePass (id : Nat) (s : State) : Res :=
  s.operational
    (match s.deadlines.find? fun d => d.id == id with
     | some d =>
       if d.at_ ≤ s.coreTime d.core then { s with deadlines := s.deadlines.filter fun x => x.id != id } else s
     | none => s)

/-! ## Atomics -/

/-- The execution point of a narrow atomic is busy with the word: the cluster unit until every earlier cluster-scope atomic on it has
been acknowledged, the core's store banks until a value that they have computed is registered (R169, R190). -/
def State.pointBusy (s : State) (r : Req) (x : Lane) (sc : Scope) (n : Nat) : Bool :=
  s.reqs.any fun q =>
    match q.kind, sc with
    | .atom op .cluster, .cluster =>
      q.id < r.id && q.core / 8 == r.core / 8 && q.lanes.any fun y => y.st != .done && overlaps y.pa op.bytes x.pa n
    | .atom op .team, .team => q.core == r.core && q.lanes.any fun y => y.st == .bound && overlaps y.pa op.bytes x.pa n
    | _, _ => false

/-- The value that the execution point reads: team scope as a plain LDG of the home core (R160, R190), the others at the home. Where the L1 has no copy, the
read at team scope leaves no leased copy and records no expiry, which the spec leaves open (notes/assumptions/105.md). -/
def State.atomRead (s : State) (r : Req) (sc : Scope) (pa n : Nat) : Nat :=
  if sc = .team then leNat ((s.l1Read r.team r.core pa n).getD (s.phys pa n)) else leNat (s.phys pa n)

/-- One lane of an atomic at its execution point (R188 to R190). At device and system scope the read and the registration are one
step; a narrower atomic keeps what it will register, and another party's registration may come before it (R169). -/
def State.atomAt (s : State) (r : Req) (x : Lane) (op : AtomOp) (sc : Scope) : State :=
  let n := op.bytes
  let v0 := (x.data.getD 0 0).toNat
  let v1 := (x.data.getD 1 0).toNat
  s.reading r.ctx x.pa n
    (let old := s.atomRead r sc x.pa n
     let y : Lane := { x with got := op.results old v0 v1 }
     match op.stored old v0 v1 with
     | none => s.setLane r { y with st := .acked 0 }
     | some v =>
       if sc = .team ∨ sc = .cluster then
         s.setLane r { y with data := [BitVec.ofNat 32 v, BitVec.ofNat 32 (v / 2 ^ 32)], st := .bound }
       else s.registerLane r y (leBytes n v) false)

/-- ATOM_EXECUTE (R169, R188 to R191, R243). -/
def execAtomExecute (req lane : Nat) (s : State) : Res :=
  s.onLane req lane fun r x =>
    if x.st ≠ .pending then s
    else
      match r.kind with
      | .atom op sc =>
        if s.heldBack r x op.bytes ∨ s.pointBusy r x sc op.bytes then s else s.atomAt r x op sc
      | .drain => if s.heldBack r x 4 then s else s.atomAt r x .maxN .device
      | _ => s

/-- The core drops its copies of the words of an operation beyond team scope (R170, R190). -/
def State.dropInvoker (s : State) (r : Req) (pa n : Nat) (sc : Scope) : State :=
  if sc = .team then s else s.dropCopies r.core (wordsOf pa n)

/-- A lane of an atomic or chisel has returned: a deadline is set, and the results land with the last lane (R162, R188). -/
def State.laneBack (s : State) (r : Req) (x : Lane) (d : Nat) : State :=
  let r1 := r.setLane { x with st := .done }
  let s1 := s.setDeadline r d
  if r1.allDone then s1.landReq r1 else s1.putReq r1

/-- ATOM_RESULT_RETURN (R162, R188, R190). -/
def execAtomResultReturn (req lane : Nat) (s : State) : Res :=
  s.onLane req lane fun r x =>
    match r.kind, x.st with
    | .atom op sc, .acked d => (s.dropInvoker r x.pa op.bytes sc).laneBack r x d
    | .drain, .acked d => (s.dropInvoker r x.pa 4 .device).laneBack r x d
    | _, _ => s

/-! ## Chisels -/

/-- The words of the line that a routine has changed: those that some word wrote, even with their old values (R199). -/
def changedWords (new : List Word) (ch : List Nat) : List (Nat × Word) := ch.eraseDups.map fun i => (i, new.getD i 0)

/-- The routine runs on the line at its home bank (R199, R205). -/
def State.chiselAt (s : State) (r : Req) (x : Lane) (code : List Word) : State :=
  let ws := wordsOf x.pa 64
  let line := bytesWords (s.phys x.pa 64)
  let s1 := ((s.owners ws none).foldl (fun u c => u.dropCopies c ws) s).setOwner ws none
  match chRun code (chInit line (x.data.take 4)) [] with
  | .abort code => s1.setLane r { x with dst := code, st := .acked 0 }
  | .done regs ch =>
    let cs := changedWords regs ch
    let part (i : Nat) : Lane :=
      { x with pa := x.pa + 4 * i, spoil := (x.spoil.filter fun o => 4 * i ≤ o).map fun o => o - 4 * i }
    let s2 := cs.foldl (fun u c => (u.storeHome r (part c.1) (wordBytes c.2) false).2) s1
    let s3 := if cs.length = 16 then { s2 with poisoned := s2.poisoned.filter fun l => l != x.pa / 64 } else s2
    let d := s3.completionDelay (cs.map fun c => (x.pa + 4 * c.1) / 8)
    s3.setLane r { x with got := (regs.drop 28).take 4, st := .acked d }

/-- The routine writes the whole line and reads none of it before: it may run on a poisoned line, which it makes clean (R209,
notes/assumptions/81.md). -/
def chWhole (code : List Word) : Bool :=
  chReads code [] == [] && (List.range 16).all fun i => code.any fun w => !isChk w && (fD w).toNat == i

/-- CHISEL_RUN (R205, R209). -/
def execChiselRun (req lane : Nat) (s : State) : Res :=
  s.onLane req lane fun r x =>
    match r.kind with
    | .chx _ _ code _ =>
      if x.st ≠ .pending ∨ s.heldBack r x 64 then s
      else
        let run : State :=
          match s.stage r.ctx x.pa with
          | none => s
          | some s1 => s1.chiselAt r x code
        if chWhole code then run else s.reading r.ctx x.pa 64 run
    | _ => s

/-- The held team of a CHX with CHKP goes on: its results land and it issues the next instruction (R204). -/
def State.chxDone (s : State) (r : Req) : State :=
  match s.team? r.team with
  | none => s
  | some t =>
    match t.hold with
    | some (.chx q) =>
      if q = r.id then
        let u := (r.dests.foldl Team.markEmpty t).landAll r
        (s.dropReq r.id).putTeam ({ u with hold := none }.advance (t.pc + 4))
      else s.landReq r
    | _ => s.landReq r

/-- CHISEL_RESULT_RETURN (R162, R205, R209): the results land, or the abort takes the chisel fault. -/
def execChiselResultReturn (req lane : Nat) (s : State) : Res :=
  s.onLane req lane fun r x =>
    match r.kind, x.st with
    | .chx _ _ _ _, .acked d =>
      let s1 := (s.dropCopies r.core (wordsOf x.pa 64)).setDeadline r d
      if x.dst ≠ 0 then
        match s1.team? r.team with
        | none => s1.dropReq r.id
        | some t => (s1.dropReq r.id).trap { t with hold := none } 11 x.dst (maskOf [x.lane]) (x.data.getD 4 0)
      else
        let r1 := r.setLane { x with st := .done }
        if r1.allDone then s1.chxDone r1 else s1.putReq r1
    | _, _ => s

/-- CHINST_DONE (R201): every CHX of the entry's old generation has completed. -/
def execChinstDone (team : Nat) (s : State) : Res :=
  s.operational
    (match s.team? team with
     | none => s
     | some t =>
       match t.hold with
       | some (.chinst c d a status i gen) =>
         let busy := s.reqs.any fun r => r.ctx == t.ctx &&
           match r.kind with
           | .chx j g _ _ => j == i && g == gen
           | _ => false
         if busy then s else s.finishWrite c [a, fplus a 1] [] { t with hold := none } [(d, fun _ => status)]
       | _ => s)

/-- XLT_WALK_DONE (R145); a poisoned line of the tables contains the context (R209). -/
def execXltWalkDone (team : Nat) (s : State) : Res :=
  s.operational
    (match s.team? team with
     | none => s
     | some t =>
       match t.hold with
       | some (.walk c a n va) =>
         match s.walkPoison (s.rootOf t.ctx) va with
         | some l => s.contain t.ctx (some l)
         | none =>
           let u := { t.useMarks c [a, fplus a 1] [] with xl := t.xl.set n (s.xltWalk t.ctx va), hold := none }
           s.complete c u
       | _ => s)

/-! ## LDA -/

/-- An earlier entry of a path has not left its counter. -/
def Team.earlierEntry (t : Team) (id : Nat) : Bool :=
  match t.cnt.find? fun e => e.2 == id with
  | none => false
  | some (p, _) => ((t.cnt.takeWhile fun e => e.2 != id).any fun e => e.1 == p)

/-- The blocks of surfaces that a waiting foreign access names (R339, R386). -/
def State.inboundBlocks (s : State) (x : Inbound) : List (Nat × Nat) :=
  (pieces x.va x.n).flatMap fun p =>
    match s.engineSeg x.ctx p.1 with
    | .ok pa a => s.viewBlocks x.ctx p.1 pa p.2 a
    | _ => []

/-- Another access to one of some blocks reached its engine before the place came, or at any time when came is 0, and waits there: the engine
serves the accesses to one block in arrival order (R339). A lane keeps its place in dst, a foreign access has that of its key. -/
def State.placeAhead (s : State) (id came : Nat) (bs : List (Nat × Nat)) : Bool :=
  bs != [] &&
  ((s.reqs.any fun q => q.id != id && s.live q && !q.kind.isLda && q.lanes.any fun y =>
      y.st == .pending && y.dst != 0 && (came == 0 || y.dst < came) && (s.laneBlocks q y).any bs.contains) ||
    s.inbound.any fun x => (came == 0 || x.key < came) && (s.inboundBlocks x).any bs.contains)

/-- The bytes that one lane of an LDA copies (R151, R326): through the engine for relief pages. -/
def State.ldaBytes (s : State) (r : Req) (n : Nat) (x : Lane) : Rd (List Byte) :=
  let part (va pa m : Nat) (a : Attr) : Rd (List Byte) :=
    if m = 0 then Rd.pure []
    else if a.raw then s.rawBytes (s.skips (.relief r.id)) (s.leafFrame r.ctx va pa) va m
    else if a.rlf then Rd.pure (s.codedBytes pa m)
    else Rd.pure (s.phys pa m)
  (part x.va x.pa x.cut x.attr).bind fun xs => (part (x.va + x.cut) x.pa2 (n - x.cut) x.attr2).bind fun ys => Rd.pure (xs ++ ys)

/-- The poisoned line that one lane of an LDA meets where it reads memory as it stands (R209). -/
def State.ldaPoison (s : State) (n : Nat) (x : Lane) : Option Nat :=
  (if x.attr.raw then none else s.poisonIn x.pa (max 1 x.cut)).or
    (if x.cut < n ∧ !x.attr2.raw then s.poisonIn x.pa2 (n - x.cut) else none)

/-- Earlier accesses of the team to source bytes or blocks, or to destination bytes, have not been served, or an earlier load of them has
not landed (R149, R154, R303, R339). -/
def State.ldaBlocked (s : State) (r : Req) (lvl : LdaLevel) (n : Nat) : Bool :=
  r.lanes.any fun x =>
    s.blocked r.team r.id x.pa x.cut || s.blocked r.team r.id x.pa2 (n - x.cut) || s.blockAhead r x ||
    s.placeAhead r.id 0 (s.laneBlocks r x) ||
    s.localBlocked r.team r.id (ldaLevel lvl) x.dst n || s.localLoadAhead r.team r.id (ldaLevel lvl) x.lane x.dst n

/-- LDA_LAND (R152 to R154): the bytes of every lane land, ascending; entries of one path land in issue order. -/
def execLdaLand (req : Nat) (s : State) : Res :=
  s.onReq req fun r =>
    match r.kind, s.team? r.team with
    | .lda lvl n _, some t =>
      if !s.current r then s.dropOld r
      else if t.earlierEntry r.id ∨ s.ldaBlocked r lvl n ∨ s.faulting (.relief req) then s
      else
        match r.lanes.findSome? (s.ldaPoison n) with
        | some l => s.contain r.ctx (some l)
        | none =>
          let frames := (r.lanes.flatMap fun x => (s.viewFrame r.ctx x.va x.pa x.attr).toList ++
            if x.cut < n then (s.viewFrame r.ctx (x.va + x.cut) x.pa2 x.attr2).toList else []).eraseDups
          match s.holdFrames r.ctx (s.skips (.relief r.id)) frames with
          | (s0, some va) => s0.engineFault r.ctx (.relief r.id) va 0
          | (s0, none) =>
            match Rd.all (r.lanes.map (s0.ldaBytes r n)) with
            | .absent va => s0.engineFault r.ctx (.relief r.id) va 0
            | .val bss bad =>
              let s1 := (r.lanes.zip bss).foldl (fun u p =>
                let b := u.blur p.1.dst p.1.spoil.contains p.2
                b.2.levelWrite t (ldaLevel lvl) p.1.lane p.1.dst b.1) (s0.markBad bad)
              (s1.dropReq r.id).settleCnt r.team
    | _, _ => s

/-! ## The matrix arrays -/

/-- A tile that was issued before on the array of the same quadrant has not been written: members that share an array occupy it one
after another, in ascending position, which is the order of their requests (R240). -/
def State.arrayBusy (s : State) (r : Req) (t : Team) : Bool :=
  s.reqs.any fun q => q.id < r.id && s.live q &&
    match q.kind, s.team? q.team with
    | .tile _ _, some u => u.core == t.core && u.quad == t.quad
    | _, _ => false

/-- TILE_WRITE (R227, R240, R243): the C tile lands; a drain leaves as a device-scope MAX.N; a latch whose tiles have all been
written becomes Idle. -/
def execTileWrite (req : Nat) (s : State) : Res :=
  s.onReq req fun r =>
    match r.kind, s.team? r.team with
    | .tile drain latch, some t =>
      if s.arrayBusy r t then s
      else
      let s1 := s.modTeam r.team fun u => u.landAll r
      let s2 : State :=
        match drain with
        | none => s1.dropReq r.id
        | some w =>
          let v := drainOf (r.lanes.any fun x => x.dst == 1) (r.lanes.flatMap (·.got))
          let m := s1.markSpoil t false 4
            [{ valueLane 0 [] with va := w.va, pa := w.pa, pa2 := w.pa + 4, cut := 4, via := w.via, data := [v] }]
          m.2.putReq { r with kind := .drain, dests := [], lanes := m.1 }
      match latch with
      | none => s2
      | some (pair, tag) =>
        s2.modCtx r.ctx fun c =>
          { c with latches := c.latches.filterMap fun l =>
              if l.pair = pair ∧ l.tag = tag then
                match l.computing with
                | some ids => if ids.filter (fun i => i != r.id) = [] then none
                              else some { l with computing := some (ids.filter fun i => i != r.id) }
                | none => some l
              else some l }
    | _, _ => s

/-- MABS_RESULT (R246). -/
def execMabsResult (req : Nat) (s : State) : Res :=
  s.onReq req fun r =>
    match r.kind with
    | .mabs => s.landReq r
    | _ => s

/-- TRY_HINT_EXPIRY (R220): the hint has elapsed, and the phase decides. The acquire of a phase that has completed waits for the loads
before it (R167). -/
def execTryHintExpiry (team : Nat) (s : State) : Res :=
  s.operational
    (match s.team? team with
     | none => s
     | some t =>
       match t.st, t.finish with
       | .suspended w at_, .tryDone c d lvl _ =>
         let p := s.phaseDone t.ctx w
         if s.coreTime t.core < at_ ∨ (p ∧ levelScope lvl ≠ .team ∧ !s.boundDone t.id s.nextId) then s
         else (s.tryEnd { t with finish := .none } c d lvl p).youngest t.id
       | _, _ => s)

/-- RCOM_COMMIT (R273, R275): the release conditions of a waiting RCOM hold, and the commit reaches its ring. -/
def execRcomCommit (team : Nat) (s : State) : Res :=
  s.operational
    (match s.team? team with
     | none => s
     | some t =>
       match t.st, t.finish with
       | .waitingCounter (.release sc upto), .rcom c a key sl e =>
         if s.releaseDone t.id sc upto then (s.rcomEnd { t with finish := .none } c a key sl e).youngest t.id else s
       | _, _ => s)

end Sys2Proof.Machine
end

