-- ==== Sys2Proof/Machine/KernelEv.lean ====
section
/-!
DEFINITION. The distributor and the ends of teams and kernels (R66, R137, R210 to R216, R250 to R262, R366), and the lost-locality
detector (R260).
-/

namespace Sys2Proof.Machine

/-- An event that only a Running context of an Operational device takes. -/
def State.onRunning (s : State) (ctx : Nat) (k : Ctx → State) : Res :=
  s.operational
    (match s.ctx? ctx with
     | some c => if c.st = .running then k c else s
     | none => s)

/-! ## New teams -/

/-- n bytes from byte o of a level on at placement (R27, R258): Undefined, or zero where zero says it of the byte. -/
def freeMem (zero : Nat → Bool) (ctr o n : Nat) : Mem :=
  (List.range n).filterMap fun i =>
    if zero i then none else let b := Config.freeByte (ctr + i); if b = 0 then none else some (o + i, b)

/-- The lane-private bytes of a team; zero says it of byte o of lane l. -/
def freePriv (zero : Nat → Nat → Bool) (ctr lanes n : Nat) : Mem :=
  (List.range lanes).flatMap fun l => freeMem (zero l) (ctr + l * n) (65536 * l) n

/-- A granule that another context last held is zeroed for this one (R27). -/
def State.zeroed (s : State) (ctx : Nat) (g : Nat × Nat) : Bool :=
  match s.holders.find? fun h => h.1 == g with
  | some (_, h) => h != some ctx
  | none => false

/-- Byte o of a part whose granules are gs is zeroed: its bytes fill the granules in order (R254, notes/assumptions/13.md). -/
def State.zeroedAt (s : State) (ctx : Nat) (gs : List (Nat × Nat)) (o : Nat) : Bool :=
  match gs[o / 16384]? with
  | some g => s.zeroed ctx g
  | none => false

/-- Where byte o of cluster memory lies: which of the cluster's cores, and the byte of that core's contribution (R139). -/
def clmAt (o : Nat) : Nat × Nat := (o / 256 % 8, 256 * (o / 2048) + o % 256)

/-- What a placement decides beyond the kernel's own values. -/
structure NewTeam where
  kernel : Kernel
  kind : TeamKind
  tid : Nat
  depth : Nat
  parent : Option Nat
  entry : Word
  p : Nat
  lanes : Nat
  scr : Nat
  k : List Word
  cset : Nat
  wide : Bool
  record : List Byte
  deriving DecidableEq, Repr

/-- The team at placement (R66, R142, R258): scr, priv and priv2 are the granules of its scratch and of its slices on the home core,
where home lanes stay, and on the pair core; zero says of a byte of granules that it is zeroed. -/
def NewTeam.team (x : NewTeam) (ctx id core slot base ctr home : Nat) (scr priv priv2 : List (Nat × Nat))
    (zero : List (Nat × Nat) → Nat → Bool) : Team :=
  let d := x.kernel.desc
  { Team.blank with
    id := id, ctx := ctx, kernel := x.kernel.id, kind := x.kind, tid := x.tid, depth := x.depth, parent := x.parent,
    codeBase := d.code, g := d.g, nlanes := x.lanes, p := x.p, core := core, slot := slot, base := base, scrSize := x.scr,
    privSize := d.priv, cset := x.cset, st := .placed, pc := x.entry, mask := BitVec.ofNat 1024 (2 ^ x.lanes - 1),
    k := x.k, faultm := BitVec.ofNat 2 d.fmode, frame := List.replicate x.p Reg.zero,
    parts := scr ++ priv ++ priv2,
    scratch := memWrite (freeMem (zero scr) ctr 0 x.scr) 0 x.record
    lanePriv := freePriv (fun l o => if l < home then zero priv (l * d.priv + o) else zero priv2 ((l - home) * d.priv + o))
      (ctr + x.scr) x.lanes d.priv
    record := x.record }

/-- The circuits of a team (R210, R213). -/
def teamCircuits (t : Team) (bteam : Nat) : List Circuit :=
  t.groupCircuits ++ (List.range bteam).map fun n =>
    { key := .team t.id n, phase := 0, count := 0, expected := none, membership := t.groups, arrived := [] }

/-- Frames on a core that the distributor moves to make a run (R257). -/
def State.relocate (s : State) (core : Nat) (moved : List (Nat × Nat)) : State :=
  moved.foldl (fun u m =>
    match u.team? m.1 with
    | none => u
    | some t =>
      (u.putTeam (if t.core = core then { t with base := m.2 } else { t with base2 := m.2 })).holdGranules t.ctx
        (runGranules core (m.2, (t.needOn core).frame))) s

/-- Places a team on a core, when it fits (R254, R256 step 5, R257); a wide one on the core's pair. Answers the new state. -/
def State.placeOn (s : State) (ctx : Nat) (x : NewTeam) (core : Nat) : Option State :=
  let d := x.kernel.desc
  let home := if x.wide then homeLanes x.lanes d.g else x.lanes
  let need : Need := { lanes := home, p := x.p, priv := d.priv, scr := x.scr }
  if x.wide && core % 2 != 0 then none
  else
    match s.fits core need with
    | none => none
    | some (sl, run, moved) =>
      let u := s.relocate core moved
      let home16 := granules x.scr
      let ps := freeParts ((run, need.frame) :: u.takenRuns core) core (home16 + granules (home * d.priv))
      let team (u : State) (ps2 : List (Nat × Nat)) : Team :=
        { x.team ctx s.nextId core sl run s.freeCtr home (ps.take home16) (ps.drop home16) ps2 (u.zeroedAt ctx) with
          quad := s.bestQuad core }
      let add (u : State) (t : Team) (gs : List (Nat × Nat)) : State :=
        ({ u with nextId := u.nextId + 1, freeCtr := u.freeCtr + x.scr + x.lanes * d.priv,
                  teams := u.teams ++ [t], order := u.order ++ [t.id] }.holdGranules ctx
            (runGranules core (run, need.frame) ++ gs ++ t.parts)).modCtx ctx fun c =>
          { c with circuits := c.circuits ++ teamCircuits t d.bteam }
      if x.wide then
        let pn : Need := { lanes := x.lanes - home, p := x.p, priv := d.priv, scr := 0 }
        match s.fits (core + 1) pn with
        | none => none
        | some (sl2, run2, moved2) =>
          let v := u.relocate (core + 1) moved2
          let ps2 := freeParts ((run2, pn.frame) :: v.takenRuns (core + 1)) (core + 1) (granules ((x.lanes - home) * d.priv))
          some (add v { team v ps2 with pairSlot := some sl2, base2 := run2 } (runGranules (core + 1) (run2, pn.frame)))
      else some (add u (team u []) [])

/-- The first core of a list that takes a team, with the state after it. -/
def firstCore (f : Nat → Option State) : List Nat → Option (Nat × State)
  | [] => none
  | c :: rest => match f c with
    | some s => some (c, s)
    | none => firstCore f rest

/-- The cores of a partition from the one after last on, with wrap-around (R256 step 1). -/
def State.coresFrom (s : State) (ctx : Nat) (last : Option Nat) : List Nat :=
  let p := s.ctxPart ctx
  let n := 32 * p.2
  let first := 32 * p.1
  let o := match last with | none => 0 | some c => (c + 1 - first) % n
  (List.range n).map fun i => first + (o + i) % n

/-! ## Cluster sets (R137, R211, R254) -/

/-- Cluster circuits in use on a cluster. -/
def State.clusterCircuits (s : State) (cl : Nat) : Nat :=
  (s.ctxs.map fun c =>
    if c.away then 0
    else ((c.csets.filter fun x => x.cluster == cl).map (·.circuits)).sum).sum

/-- A new cluster set on a cluster: its contribution fits every core and its circuits are free (R211, R254, R256). -/
def State.addCSet (s : State) (ctx kernel cl : Nat) (d : Desc) (teams : Nat) : Option (Nat × State) :=
  let part := d.clm / 8
  let cores := (List.range 8).map fun i => 8 * cl + i
  if 8 < s.clusterCircuits cl + d.bclu ∨
      cores.any (fun i => s.freeGranules i < granules part || 524288 < s.contribution i + part) then none
  else
    let id := s.nextId
    let gs := cores.map fun i => freeParts (s.takenRuns i) i (granules part)
    let cs : CSet :=
      { id := id, kernel := kernel, cluster := cl, size := d.clm, circuits := d.bclu, parts := gs.flatten,
        mem := freeMem (fun o => s.zeroedAt ctx (gs.getD (clmAt o).1 []) (clmAt o).2) s.freeCtr 0 d.clm }
    let mk (n : Nat) : Circuit :=
      { key := .cluster id n, phase := 0, count := 0, expected := none, membership := teams, arrived := [] }
    some (id, { s.holdGranules ctx gs.flatten with nextId := id + 1, freeCtr := s.freeCtr + d.clm }.modCtx ctx fun c =>
      { c with csets := c.csets ++ [cs], circuits := c.circuits ++ (List.range d.bclu).map mk })

/-- A team that is a cluster set of its own: the first core of a list that takes both (R137, R256). -/
def State.placeAlone (s : State) (ctx : Nat) (x : NewTeam) (cores : List Nat) : Option (Nat × State) :=
  firstCore (fun core =>
    match s.addCSet ctx x.kernel.id (core / 8) x.kernel.desc 1 with
    | none => none
    | some (id, u) => u.placeOn ctx { x with cset := id } core) cores

/-! ## Ordinary teams (R255, R256) -/

/-- An ordinary team of a kernel. -/
def ordinary (k : Kernel) (tid cset : Nat) : NewTeam :=
  { kernel := k, kind := .ordinary, tid := tid, depth := 0, parent := none, entry := k.desc.entry, p := k.desc.p,
    lanes := k.desc.lanes, scr := k.desc.scr, k := k.desc.args, cset := cset, wide := k.desc.wide, record := [] }

/-- REORD and CSET nest, or there is no cluster shape (R256 step 3). -/
def Desc.nests (d : Desc) : Bool := d.cset == 0 || d.reord == 0 || d.reord % d.cset == 0 || d.cset % d.reord == 0

/-- The teams that are placed at once from tid on (R256). -/
def Desc.unit (d : Desc) (tid : Nat) : List Nat :=
  let n := if d.coop then d.teams else if d.nests then max 1 (max d.cset d.reord) else max 1 d.cset
  (List.range n).map (fun i => tid + i) |>.filter fun i => i < d.teams

/-- Cluster sets of a unit: the tids of each. -/
def Desc.setsOf (d : Desc) (ts : List Nat) : List (List Nat) :=
  let key (i : Nat) : Nat := if d.cset = 0 then i else i / d.cset
  ((ts.map key).eraseDups).map fun q => ts.filter fun i => key i == q

/-- Reorder sets of some teams. -/
def Desc.reordsOf (d : Desc) (ts : List Nat) : List (List Nat) :=
  let key (i : Nat) : Nat := if d.reord = 0 then i else i / d.reord
  ((ts.map key).eraseDups).map fun q => ts.filter fun i => key i == q

/-- Places teams on one core, in order. -/
def State.placeSame (s : State) (ctx : Nat) (k : Kernel) (cset core : Nat) : List Nat → Option State
  | [] => some s
  | i :: rest =>
    match s.placeOn ctx (ordinary k i cset) core with
    | none => none
    | some u => u.placeSame ctx k cset core rest

/-- The cores of a cluster from the one after a core on, ascending with wrap-around (R256 step 1). -/
def clusterAfter (c : Nat) : List Nat := (List.range 8).map fun i => c / 8 * 8 + (c + 1 + i) % 8

/-- Places reorder sets of a cluster set, each on the first core behind the last one that takes it whole; answers the last core. -/
def State.placeReords (s : State) (ctx : Nat) (k : Kernel) (cset : Nat) : Nat → List (List Nat) → Option (Nat × State)
  | last, [] => some (last, s)
  | last, g :: rest =>
    match firstCore (fun core => s.placeSame ctx k cset core g) (clusterAfter last) with
    | none => none
    | some (core, u) => u.placeReords ctx k cset core rest

/-- Places one cluster set, its first reorder set on the given core and the others behind it on the same cluster. -/
def State.placeSet (s : State) (ctx : Nat) (k : Kernel) (ts : List Nat) (core : Nat) : Option (Nat × State) :=
  match s.addCSet ctx k.id (core / 8) k.desc ts.length with
  | none => none
  | some (id, u) =>
    match k.desc.reordsOf ts with
    | [] => some (core, u)
    | g :: rest =>
      match u.placeSame ctx k id core g with
      | none => none
      | some v => v.placeReords ctx k id core rest

/-- The cluster sets of one reorder set that spans several: they go to one core (R256 steps 2 and 3). -/
def State.placeOneCore (s : State) (ctx : Nat) (k : Kernel) (sets : List (List Nat)) (core : Nat) : Option State :=
  sets.foldl (fun acc ts =>
    match acc with
    | none => none
    | some (u : State) =>
      match u.addCSet ctx k.id (core / 8) k.desc ts.length with
      | none => none
      | some (id, v) => v.placeSame ctx k id core ts) (some s)

/-- A reorder set spans whole cluster sets (R256 step 3). -/
def Desc.spans (d : Desc) : Bool := d.nests && d.cset < d.reord

/-- Places a reorder set that spans cluster sets, or else one cluster set, from the first core on that takes it; answers the core of
the last team. -/
def State.placeGroup (s : State) (ctx : Nat) (k : Kernel) (last : Option Nat) (ts : List Nat) : Option (Nat × State) :=
  let cores := s.coresFrom ctx last
  if k.desc.spans then firstCore (s.placeOneCore ctx k (k.desc.setsOf ts)) cores
  else cores.findSome? (s.placeSet ctx k ts)

/-- Places groups one after another. -/
def State.placeGroups (s : State) (ctx : Nat) (k : Kernel) (last : Option Nat) : List (List Nat) → Option (Option Nat × State)
  | [] => some (last, s)
  | ts :: rest =>
    match s.placeGroup ctx k last ts with
    | none => none
    | some (l, u) => u.placeGroups ctx k (some l) rest

/-- Places the teams of a unit, all of them or none. -/
def State.placeUnit (s : State) (ctx : Nat) (k : Kernel) (ts : List Nat) : Option (Option Nat × State) :=
  s.placeGroups ctx k k.last (if k.desc.spans then k.desc.reordsOf ts else k.desc.setsOf ts)

/-- Grid circuits in use in a partition (R210). -/
def State.gridCircuits (s : State) (ctx : Nat) : Nat :=
  (s.ctxs.map fun c =>
    if c.away ∨ s.ctxPart c.num ≠ s.ctxPart ctx then 0
    else (c.circuits.filter fun x => match x.key with | .grid _ _ => true | _ => false).length).sum

/-- The next teams of a kernel, placed (R256). -/
def State.tryUnit (s : State) (ctx : Nat) (k : Kernel) : Option State :=
  let d := k.desc
  let ts := d.unit k.next
  if ts = [] ∨ (d.coop ∧ 16 < s.gridCircuits ctx + d.bgrid) then none
  else
    match s.placeUnit ctx k ts with
    | none => none
    | some (last, u) =>
      let mk (n : Nat) : Circuit :=
        { key := .grid k.id n, phase := 0, count := 0, expected := none, membership := d.teams, arrived := [] }
      some (u.modCtx ctx fun c =>
        { (c.modKernel k.id fun x => { x with next := x.next + ts.length, last := last }) with
          circuits := c.circuits ++ (if d.coop then (List.range d.bgrid).map mk else []) })

/-! ## Children and instances (R262, R366) -/

/-- A team under another number: a child bears the number that its parent's handle knows it by. -/
def State.renameTeam (s : State) (old new : Nat) : State :=
  let teams := s.teams.map fun (t : Team) => if t.id = old then { t with id := new } else t
  let order := s.order.map fun i => if i = old then new else i
  let key := fun (k : CKey) => match k with
    | .group t g => if t = old then CKey.group new g else k
    | .team t n => if t = old then CKey.team new n else k
    | _ => k
  let ctxs := s.ctxs.map fun (c : Ctx) =>
    { c with circuits := c.circuits.map fun (x : Circuit) => { x with key := key x.key } }
  { s with teams := teams, order := order, ctxs := ctxs }

/-- A spawned child, placed: its parent's release conditions hold and its elder siblings are placed (R262). -/
def State.tryChild (s : State) (c : Ctx) (x : Child) : Option State :=
  match c.kernel? x.kernel with
  | none => none
  | some k =>
    let elder := c.children.any fun y => y.parent == x.parent && y.handle == x.handle && y.index < x.index
    if elder || !s.releaseDone x.parent .device x.upto then none
    else
      let nt : NewTeam :=
        { kernel := k, kind := .child x.handle, tid := x.index, depth := x.depth, parent := some x.parent, entry := x.entry,
          p := x.p, lanes := x.lanes, scr := x.scr,
          k := [BitVec.ofNat 32 x.parentTid, x.status, BitVec.ofNat 32 x.depth, 0], cset := 0, wide := false, record := x.record }
      match s.placeAlone c.num nt (x.parentCore :: s.coresFrom c.num k.last) with
      | none => none
      | some (_, u) =>
        let new := u.nextId - 1
        some ((u.modCtx c.num fun y => { y with
            children := y.children.filter fun z => z.id != x.id }).renameTeam new x.id)

/-- A fire or amend instance, placed (R366); its team acquires at device scope. -/
def State.tryInst (s : State) (c : Ctx) (x : Inst) : Option State :=
  match c.kernel? x.kernel, c.binding? x.bind with
  | some k, some b =>
    if x.team.isSome then none
    else
      let nt : NewTeam :=
        { ordinary k 0 0 with kind := if x.amend then .amend x.id else .fire x.id
                              entry := if x.amend then k.desc.amend else k.desc.entry }
      match s.placeAlone c.num nt (s.coresFrom c.num b.last) with
      | none => none
      | some (core, u) =>
        let u1 := u.modCtx c.num fun y =>
          { (y.putBinding { b with last := some core }) with
            insts := y.insts.map fun z => if z.id = x.id then { z with team := some (u.nextId - 1) } else z }
        some (u1.acquire core .device)
  | _, _ => none

/-- Some waiting child or instance fits (R255). -/
def State.elderWork (s : State) (c : Ctx) : Bool :=
  (c.children.any fun x => (s.tryChild c x).isSome) || (c.insts.any fun x => (s.tryInst c x).isSome)

/-! ## The events -/

/-- DISTRIBUTOR_TAKE_KERNEL (R250, R255): in submission order. -/
def execDistributorTakeKernel (ctx kernel : Nat) (s : State) : Res :=
  s.onRunning ctx fun c =>
    match c.kernels.find? fun k => k.st == .submitted with
    | some k => if k.id = kernel then s.modCtx ctx fun c => c.modKernel kernel fun x => { x with st := .placing } else s
    | none => s

/-- The kernels that the distributor would place before k: older ones in Placing. -/
def Ctx.elderKernels (c : Ctx) (kernel : Nat) : List Kernel :=
  c.kernels.filter fun k => k.st == .placing && k.id < kernel && k.next < k.desc.teams && !k.desc.strm

/-- TEAM_PLACE (R254 to R258): the next teams of a kernel, when no child, instance or older kernel comes first; the oldest kernel in
Placing bars every younger one when it is cooperative (R255). -/
def execTeamPlace (ctx kernel : Nat) (s : State) : Res :=
  s.onRunning ctx fun c =>
    match c.kernel? kernel with
    | none => s
    | some k =>
      if k.st ≠ .placing ∨ k.desc.strm ∨ s.elderWork c then s
      else
        let old := c.elderKernels kernel
        let barred := match old with | [] => false | o :: _ => o.desc.coop
        if barred || old.any fun o => (s.tryUnit ctx o).isSome then s else (s.tryUnit ctx k).getD s

/-- CHILD_PLACE (R262). -/
def execChildPlace (ctx child : Nat) (s : State) : Res :=
  s.onRunning ctx fun c =>
    match c.children.find? fun x => x.id == child with
    | none => s
    | some x => (s.tryChild c x).getD s

/-- INSTANCE_PLACE (R366). -/
def execInstancePlace (ctx inst : Nat) (s : State) : Res :=
  s.onRunning ctx fun c =>
    match c.inst? inst with
    | none => s
    | some x => (s.tryInst c x).getD s

/-- What a team leaves at cluster and grid level when it reaches Exited, and its own circuits (R213, R216). -/
def leaveTeam (t : Team) (cs : List Circuit) : List Circuit :=
  (cs.filter fun x => match x.key with | .group i _ => i != t.id | .team i _ => i != t.id | _ => true).map fun x =>
    match x.key with
    | .cluster i _ => if i = t.cset then x.leave 1 else x
    | .grid i _ => if i = t.kernel ∧ t.kind = .ordinary then x.leave 1 else x
    | _ => x

/-- A cluster set whose last team has exited is gone (R213). -/
def State.freeCSet (s : State) (t : Team) : State :=
  if s.teams.any fun u => u.ctx == t.ctx && u.cset == t.cset && u.st != .exited then s
  else
    s.modCtx t.ctx fun c => { c with
      csets := c.csets.filter fun x => x.id != t.cset
      circuits := c.circuits.filter fun x => match x.key with | .cluster i _ => i != t.cset | _ => true }

/-- TEAM_EXITED (R66, R95, R216, R227, R262): nothing of the team is outstanding, and its ARVs have counted, which R66 does not name
(notes/assumptions/106.md). A pre-empted team is no nearer to its end (R302). -/
def execTeamExited (team : Nat) (s : State) : Res :=
  s.operational
    (match s.team? team with
     | none => s
     | some t =>
       if !t.exiting ∨ t.st = .preempted ∨ (s.reqs.any fun r => r.team == team) ∨ t.arvs ≠ [] then s
       else
         let child := match t.kind with | .child _ => 1 | _ => 0
         let s1 := s.putTeam { t with st := .exited, handles := [], hold := none, finish := .none }
         let s2 := (s1.modCircuits t.ctx (leaveTeam t)).modCtx t.ctx fun c => { c with quota := c.quota + child }
         let s3 := (s2.freeCSet t).breakNamed t
         let gone : Bool := match s3.kernelOf t with | none => true | some k => k.st == .failed
         { s3 with order := s3.order.filter fun i => i != team
                   teams := if gone then s3.teams.filter fun u => u.id != team else s3.teams })

/-- KERNEL_DONE (R250): the accesses of a Draining kernel's teams are acknowledged and their deadlines have passed. The Exited teams
stay, with what their registers and scratch hold, until their context is destroyed or reset; they take no room. -/
def execKernelDone (ctx kernel : Nat) (s : State) : Res :=
  s.operational
    (match s.ctx? ctx with
     | none => s
     | some c =>
       match c.kernel? kernel with
       | none => s
       | some k =>
         let ids := (s.teams.filter fun t => t.ctx == ctx && t.kernel == kernel).map (·.id)
         if k.st ≠ .draining ∨ (s.reqs.any fun r => ids.contains r.team) ∨ (s.deadlines.any fun d => ids.contains d.team) then s
         else
           (s.modCtx ctx fun c =>
             { (c.modKernel kernel fun x => { x with st := .done }) with
               circuits := c.circuits.filter fun x => match x.key with | .grid j _ => j != kernel | _ => true
               bindings := c.bindings.filter fun b => b.kernel != kernel }).endEntry ctx k.entry 0)

/-- The cap after a window with so many hits (R260). -/
def nextCap (cap mincap hits : Nat) : Nat :=
  if 512 < hits then max mincap (cap - max 1 (cap / 4)) else if hits ≤ 128 then min 256 (cap + 1) else cap

/-- LOCALITY_WINDOW_END (R260): a window of 4,096 global loads of a core has ended with so many hits, and moves the cap. -/
def execLocalityWindowEnd (ctx core hits : Nat) (s : State) : Res :=
  s.onRunning ctx fun c =>
    let p := s.ctxPart ctx
    let d := s.detector core
    if d.ended.head? ≠ some hits ∨ core < 32 * p.1 ∨ 32 * (p.1 + p.2) ≤ core then s
    else
      (s.putDetector { d with ended := d.ended.drop 1 }).modCtx ctx fun y =>
        { y with caps := (core, nextCap (s.capOf ctx core) (wfld c.cfg 22 14) hits) :: y.caps.filter fun x => x.1 != core }

end Sys2Proof.Machine
end

