-- ==== Sys2Proof/Machine/QueueEv.lean ====
section
/-!
DEFINITION. The queue engine and what it starts: registers and entries of host queues (R252, R253, R264 to R269, R295, R358, R416),
rings (R272, R278), free-page pools (R290), copy commands (R173, R174, R417) and write intercepts (R293).
-/

namespace Sys2Proof.Machine

/-! ## Contexts, the engine's clock, and its accesses to memory -/

/-- An event of a context that exists, on an Operational device. -/
def State.onCtx (s : State) (ctx : Nat) (k : Ctx → State) : Res :=
  s.operational
    (match s.ctx? ctx with
     | some c => k c
     | none => s)

/-- The local time of the engines, which have no skew (R18). -/
def State.now (s : State) : Nat := s.clock - s.released

/-- The pieces of an access of the queue engine, none where a page is forbidden to it (R416). -/
def State.queueSpan (s : State) (ctx : Nat) (skip : List Nat) (write : Bool) (va n : Nat) : Rd (Option (List (Nat × Nat))) :=
  if 2 ^ 55 < va + n then Rd.pure none
  else
    (Rd.all ((pieces va n).map fun p =>
      match s.agentSeg ctx skip p.1 with
      | .ok pa a =>
        if (write && !a.w) || a.rlf || a.raw || s.unreachable pa || s.tableAt pa p.2 then Rd.pure none else Rd.pure (some (pa, p.2))
      | .bad => Rd.pure none
      | .fault _ => .absent p.1)).bind fun xs =>
        Rd.pure (if xs.all (·.isSome) then some (xs.filterMap id) else none)

/-- The queue engine reads for an agent: forbidden says what a forbidden page does; an absent page is waited for, and a read of
a poisoned line contains the context (R209, R416, R417). -/
def State.queueRead (s : State) (ctx : Nat) (what : EventOf) (va n : Nat) (forbidden : State → State)
    (k : State → List Byte → State) : State :=
  if s.faulting what then s
  else
  match s.queueSpan ctx (s.skips what) false va n with
  | .absent a => s.engineFault ctx what a 0
  | .val none _ => forbidden (s.forgive what)
  | .val (some sp) _ =>
    match sp.findSome? fun p => s.poisonIn p.1 p.2 with
    | some l => s.contain ctx (some l)
    | none => k s (sp.flatMap fun p => s.phys p.1 p.2)

/-- Staging copies of every page that some pieces reach (R308). -/
def State.stageAll (s : State) (ctx : Nat) : List (Nat × Nat) → Option State
  | [] => some s
  | p :: rest =>
    match s.stage ctx p.1 with
    | none => none
    | some u => u.stageAll ctx rest

/-- An engine registers bytes that software gave it, with the outbound sequence of what leaves over a link (R161, R389): where they meet
what an engine holds, memory holds Undefined values (R314, R356). -/
def State.softWrite (s : State) (ctx pa : Nat) (bs : List Byte) : State :=
  let b := s.blurHeld pa bs
  (b.2.engineWrite ctx pa b.1).outbound ctx pa bs.length

def State.sendSpan (s : State) (ctx : Nat) : List (Nat × Nat) → List Byte → State
  | [], _ => s
  | (pa, n) :: rest, bs => (s.softWrite ctx pa (bs.take n)).sendSpan ctx rest (bs.drop n)

/-- The queue engine writes for an agent (R416). A page of a maquette that has no staging frame holds the write (R308). -/
def State.queueWrite (s : State) (ctx : Nat) (what : EventOf) (va : Nat) (bs : List Byte) (forbidden k : State → State) : State :=
  if s.faulting what then s
  else
  match s.queueSpan ctx (s.skips what) true va bs.length with
  | .absent a => s.engineFault ctx what a 1
  | .val none _ => forbidden (s.forgive what)
  | .val (some sp) _ =>
    match s.stageAll ctx sp with
    | none => s
    | some u => k (u.sendSpan ctx sp bs)

/-! ## Queue registers (R264, R265) -/

/-- A host queue after reset (R264). -/
def Queue.reset (q : Nat) : Queue :=
  { q := q, qbase := 0, en := false, err := false, log2n := 1, rp := 0, wp := 0, unseen := [], entries := [] }

def State.modQueue (s : State) (ctx q : Nat) (f : Queue → Queue) : State := s.modCtx ctx fun c => c.modQueue q f

/-- QBASE_WRITE (R264, R265). A base that is not 64-byte aligned, or of more than 55 bits, is Ignored (R1). -/
def execQbaseWrite (ctx q : Nat) (hi : Bool) (v : Word) (s : State) : Res :=
  s.onCtx ctx fun _ =>
    s.modQueue ctx q fun x =>
      if x.en then x
      else if hi then (if wfld v 31 23 ≠ 0 then x else { x with qbase := putHi x.qbase v })
      else if v.toNat % 64 = 0 then { x with qbase := putLo x.qbase v }
      else x

/-- QCFG_WRITE (R264, R265); with a reserved bit it is Ignored (R1, R3). -/
def execQcfgWrite (ctx q : Nat) (v : Word) (s : State) : Res :=
  s.onCtx ctx fun _ =>
    s.modQueue ctx q fun x =>
      if wfld v 29 5 ≠ 0 then x
      else
        { x with en := wbit v 31, err := x.err && !wbit v 30,
                 log2n := if x.en then x.log2n else max 1 (min 16 (wfld v 4 0)) }

/-- Runs of physical addresses that a store, atomic, chisel or matrix drain has not written yet. -/
def State.pendingRuns (s : State) : List (Nat × Nat) :=
  s.reqs.flatMap fun r =>
    if r.kind.isStore || r.kind.isAtomic then
      (r.lanes.filter r.laneOpen).flatMap r.kind.laneSpans ++ r.wholeSpans
    else []

/-- Runs of addresses of a context that a copy, a link request or a host request has not written yet. -/
def State.pendingVas (s : State) (ctx : Nat) : List (Nat × Nat) :=
  ((s.copies.filter fun k => k.ctx == ctx && !k.chip && k.ready.isNone && !k.complete).map fun k => (k.dst, k.n)) ++
  (s.inbound.filter fun x => x.ctx == ctx && x.work != .read).map fun x => (x.va, x.n)

/-- The bytes of entry or record n, at va, that have not been made visible (R266, R360): a write of them is still on its way. -/
def State.unseenBytes (s : State) (ctx va n : Nat) : List (Nat × Nat) :=
  let vs := s.pendingVas ctx
  let ps := s.pendingRuns
  ((List.range 64).filter fun i =>
    (vs.any fun p => overlaps p.1 p.2 (va + i) 1) ||
    (ps != [] && match s.engineSeg ctx (va + i) with | .ok pa _ => ps.any fun p => overlaps p.1 p.2 pa 1 | _ => false)).map
      fun i => (n, i)

/-- The same of the entries from wp to v of a ring. -/
def State.unseenIn (s : State) (ctx base log2n : Nat) (wp v : Word) : List (Nat × Nat) :=
  if s.pendingRuns.isEmpty && (s.pendingVas ctx).isEmpty then []
  else
    (List.range (v - wp).toNat).flatMap fun i =>
      let n := (wp + BitVec.ofNat 32 i).toNat
      s.unseenBytes ctx (base + 64 * (n % 2 ^ log2n)) n

/-- QWP_WRITE (R265). The rule that a producer makes an entry visible first names no fate, so bytes that are not visible by then are read
as Undefined values (R1, R266). -/
def execQwpWrite (ctx q : Nat) (v : Word) (s : State) : Res :=
  s.onCtx ctx fun _ =>
    s.modQueue ctx q fun x =>
      if 2 ^ x.log2n < (v - x.rp).toNat ∨ (v - x.rp).toNat < (x.wp - x.rp).toNat then { x with err := true }
      else { x with wp := v, unseen := x.unseen ++ s.unseenIn ctx x.qbase.toNat x.log2n x.wp v }

/-! ## Entries (R266 to R269) -/

def QEntry.w (e : QEntry) (i : Nat) : Word := e.words.getD i 0
def QEntry.type (e : QEntry) : Nat := wfld (e.w 0) 15 8
/-- The 55-bit address in words i and i + 1. -/
def QEntry.addr (e : QEntry) (i : Nat) : Nat := (e.w i).toNat + 2 ^ 32 * wfld (e.w (i + 1)) 22 0
def Queue.entry? (x : Queue) (n : Nat) : Option QEntry := x.entries.find? fun e => e.n == n

/-- Words from i on are 0. -/
def QEntry.zeroFrom (e : QEntry) (i : Nat) : Bool := (e.words.drop i).all fun w => w == 0
/-- Word i holds the high half of a 55-bit address. -/
def QEntry.high (e : QEntry) (i : Nat) : Bool := wfld (e.w i) 31 23 == 0

/-- The fields of an entry obey R3 and R267. -/
def QEntry.fieldsOk (e : QEntry) : Bool :=
  wfld (e.w 0) 6 0 == 0 && e.high 2 &&
  match e.type with
  | 1 => e.high 5 && e.zeroFrom 6
  | 2 => e.high 5 && e.high 7 && (e.w 8).toNat ≤ 0x4000000 && e.zeroFrom 9
  | 3 => e.high 5 && e.zeroFrom 8
  | 4 => e.high 5 && e.zeroFrom 8
  | 5 => e.zeroFrom 4
  | 6 => e.high 5 && e.zeroFrom 7
  | 7 => e.high 5 && e.zeroFrom 6
  | _ => false

/-- Alignment of the address field (R268). -/
def QEntry.align (e : QEntry) : Nat :=
  match e.type with
  | 1 => 64
  | 3 => 8
  | 4 => 8
  | 6 => 65536
  | 7 => 65536
  | _ => 1

/-- The status that an entry's checks give, or 0 (R267, R268). -/
def QEntry.check (e : QEntry) : Nat :=
  if wfld (e.w 0) 31 24 ≠ 1 then 3 else if !e.fieldsOk then 4 else if e.addr 4 % e.align ≠ 0 then 7 else 0

/-- The entry may start (R267, R416): the ones before it have started, none of them is a WAIT, and all of them have completed where
its type or FENCE asks for that. -/
def Queue.canStart (x : Queue) (e : QEntry) : Bool :=
  let earlier := x.entries.takeWhile fun y => y.n != e.n
  (earlier.all fun y => y.started && !(y.check == 0 && y.type == 4)) &&
  (e.check != 0 || !(wbit (e.w 0) 7 || (3 ≤ e.type && e.type ≤ 5)) || earlier.isEmpty)

def State.modEntry (s : State) (ctx q n : Nat) (f : QEntry → QEntry) : State :=
  s.modQueue ctx q fun x => x.modEntry n f

/-- QUEUE_ENTRY_FETCH (R266, R416): entry numbers are values of RP. Bytes that had not been made visible are Undefined (R1). -/
def execQueueEntryFetch (ctx q : Nat) (s : State) : Res :=
  s.onRunning ctx fun c =>
    match c.queue? q with
    | none => s
    | some x =>
      if !x.en ∨ x.rp = x.wp then s
      else
        let n := x.rp.toNat
        let what := EventOf.entry ctx q n
        s.queueRead ctx what (x.qbase.toNat + 64 * (n % 2 ^ x.log2n)) 64
          (fun u => u.modQueue ctx q fun y => { y with rp := y.rp + 1, err := true, unseen := y.unseen.filter fun p => p.1 != n })
          fun u bs =>
            let b := u.blur 0 (fun i => x.unseen.contains (n, i)) bs
            b.2.modQueue ctx q fun y =>
              { y with rp := y.rp + 1
                       unseen := y.unseen.filter fun p => p.1 != n
                       entries := y.entries ++ [{ n := n, words := bytesWords b.1, started := false, status := none,
                                                  work := none, desc := none, read := 0 }] }

/-- An entry of a type, checked and due, does its part. A switch waits for MAQUETTE, TLBINV and RSEAL entries (R270). -/
def State.onEntry (s : State) (ctx q n type : Nat) (k : State → QEntry → State) : Res :=
  s.onCtx ctx fun c =>
    match c.queue? q with
    | none => s
    | some x =>
      match x.entry? n with
      | none => s
      | some e =>
        let run := c.st == .running || (c.st == .switchingOut && 5 ≤ type && (e.started || type != 5))
        if !run || e.check != 0 || e.type != type || e.status.isSome || !(e.started || x.canStart e) then s
        else k (s.modEntry ctx q n fun y => { y with started := true }) e

/-! ### Launch descriptors (R252, R253) -/

/-- The fields of a launch descriptor. -/
def descOf (ws : List Word) : Desc :=
  let w (i : Nat) : Word := ws.getD i 0
  { fmode := wfld (w 0) 4 3, strm := wbit (w 0) 2, wide := wbit (w 0) 1, coop := wbit (w 0) 0,
    code := (w 1).toNat + 2 ^ 32 * wfld (w 2) 22 0, entry := w 3, amend := w 4, teams := wfld (w 5) 23 0,
    p := 8 * wfld (w 6) 22 16, g := 16 * 2 ^ wfld (w 6) 13 12, lanes := wfld (w 6) 10 0, scr := wfld (w 7) 21 0,
    clm := wfld (w 8) 22 0, priv := wfld (w 9) 16 0, cset := wfld (w 10) 5 0, reord := wfld (w 11) 12 8,
    nest := wfld (w 11) 3 0, bgrid := wfld (w 12) 18 16, bclu := wfld (w 12) 11 8, bteam := wfld (w 12) 4 0,
    bind := wfld (w 13) 15 0, args := [w 16, w 17, w 18, w 19] }

/-- The reserved bits of a launch descriptor are 0. -/
def descReserved (ws : List Word) : Bool :=
  let w (i : Nat) : Word := ws.getD i 0
  wfld (w 0) 15 5 == 0 && wfld (w 2) 31 23 == 0 && wfld (w 5) 31 24 == 0 && wfld (w 6) 31 23 == 0 && wfld (w 6) 15 14 == 0 &&
  wfld (w 6) 11 11 == 0 && wfld (w 7) 31 22 == 0 && wfld (w 8) 31 23 == 0 && wfld (w 9) 31 17 == 0 && wfld (w 10) 31 6 == 0 &&
  wfld (w 11) 31 13 == 0 && wfld (w 11) 7 4 == 0 && wfld (w 12) 31 19 == 0 && wfld (w 12) 15 12 == 0 && wfld (w 12) 7 5 == 0 &&
  wfld (w 13) 31 16 == 0 && w 14 == 0 && w 15 == 0 && (ws.drop 20).all fun x => x == 0

/-- The ranges of R252. CODE has none: a base that is no multiple of 4 passes (notes/assumptions/90.md). -/
def Desc.ranges (d : Desc) : Bool :=
  d.fmode ≤ 2 && d.entry.toNat % 4 == 0 && d.amend.toNat % 4 == 0 && 1 ≤ d.teams && 32 ≤ d.p && d.p ≤ 512 && d.g ≤ 64 &&
  d.g ≤ d.lanes && d.lanes ≤ 1024 && d.lanes % d.g == 0 && d.scr % 256 == 0 && d.scr ≤ 2097152 && d.clm % 2048 == 0 &&
  d.clm ≤ 4194304 && d.priv % 16 == 0 && d.priv ≤ 65536 && d.cset ≤ 32 && d.reord ≤ 16 && d.nest ≤ 8 && d.bgrid ≤ 4 &&
  d.bclu ≤ 8 && d.bteam ≤ 16

/-- The combinations that R253 allows. -/
def Desc.combines (d : Desc) : Bool :=
  !(d.coop && (d.bgrid == 0 || d.strm)) && !(!d.coop && 0 < d.bgrid) && !(0 < d.cset && d.clm == 0) &&
  !(!d.strm && d.amend != 0) && !(d.strm && d.teams != 1)

/-- A need fits an empty core beside the team's cluster contribution (R254). -/
def Need.fitsEmpty (n : Need) (clm : Nat) : Bool := n.total + granules (clm / 8) ≤ coreGranules && n.frame ≤ 256

/-- A team fits an empty core, or an empty pair (R254). -/
def Desc.fits (d : Desc) : Bool :=
  let home := if d.wide then homeLanes d.lanes d.g else d.lanes
  ({ lanes := home, p := d.p, priv := d.priv, scr := d.scr } : Need).fitsEmpty d.clm &&
  (!d.wide || ({ lanes := d.lanes - home, p := d.p, priv := d.priv, scr := 0 } : Need).fitsEmpty d.clm)

/-- The machine with nothing placed. -/
def State.emptied (s : State) : State :=
  { s with teams := [], ctxs := s.ctxs.map fun (c : Ctx) => { c with csets := [], circuits := [] } }

/-- The whole grid of a cooperative kernel fits the empty partition (R253). -/
def State.coopFits (s : State) (ctx : Nat) (k : Kernel) : Bool :=
  k.desc.teams ≤ 256 * 32 * (s.ctxPart ctx).2 && (s.emptied.placeUnit ctx k (List.range k.desc.teams)).isSome

/-- The status that refuses a descriptor, or 0 (R20, R21, R253). -/
def State.descStatus (s : State) (ctx : Nat) (ws : List Word) (k : Kernel) : Nat :=
  let d := k.desc
  if wfld (ws.getD 0 0) 31 24 ≠ 1 then 3
  else if !(descReserved ws && d.ranges && d.combines) then 4
  else if !d.fits || (d.coop && !s.coopFits ctx k) then 5
  else 0

/-! ### Bindings (R357, R358) -/

/-- The fields of a binding descriptor. -/
def bindingOf (j va pa kernel : Nat) (w : Nat → Word) : Binding :=
  { idx := j, va := va, pa := pa, kernel := kernel, out := wbit (w 0) 0, instr := wfld (w 1) 15 0, outstr := wfld (w 1) 31 16, outsrc := wfld (w 2) 4 0,
    length := u64 (w 4) (w 5), slide := u64 (w 6) (w 7), offset := s64 (w 8) (w 9), late := u64 (w 10) (w 11),
    resbase := u64 (w 12) (w 13), resn := wfld (w 14) 4 0, logbase := u64 (w 16) (w 17), logn := wfld (w 18) 4 0,
    lcount := w 19, paneoff := (w 20).toNat, panesz := (w 21).toNat, ovfbase := u64 (w 22) (w 23), ovfsz := if u64 (w 22) (w 23) = 0 then 0 else (w 24).toNat, panes := [], wins := [],
    last := none, unbound := false }

/-- The ranges of R357; pane says how many bytes of chip scratch the context has. -/
def bindingOk (b : Binding) (w : Nat → Word) (chip : Nat) : Bool :=
  wfld (w 0) 15 1 == 0 && wfld (w 2) 31 5 == 0 && w 3 == 0 && wfld (w 13) 31 23 == 0 && wfld (w 14) 31 5 == 0 && w 15 == 0 &&
  wfld (w 17) 31 23 == 0 && wfld (w 18) 31 5 == 0 && wfld (w 23) 31 23 == 0 && ((List.range 7).all fun i => w (25 + i) == 0) &&
  1 ≤ b.length && b.length ≤ 2 ^ 62 && 1 ≤ b.slide && b.length % b.slide == 0 && b.length / b.slide ≤ 1024 && b.late ≤ 2 ^ 62 &&
  b.resbase % 64 == 0 && b.resn ≤ 20 && b.logbase % 64 == 0 && 4 ≤ b.logn && b.logn ≤ 20 && (w 20).toNat % 4096 == 0 &&
  1 ≤ b.panesz && b.panesz % 4096 == 0 && (w 20).toNat + b.panesz ≤ chip && (w 22).toNat % 64 == 0 && (w 24).toNat % 64 == 0

/-- What checking a binding answers. -/
inductive BindAns where
  | ok (b : Binding)
  | refused (status : Nat)
  | absent (va : Nat)

/-- The output source of a binding exists and is an emit source (R358). -/
def State.outOk (s : State) (ctx : Nat) (b : Binding) : Bool :=
  match s.stream? ctx b.outstr with
  | none => false
  | some x => match x.srcs[b.outsrc]? with
    | none => false
    | some y => y.en && y.kind == 2

/-- Checks binding j, holding the streams that it names (R356, R358). -/
def State.checkBinding (s : State) (c : Ctx) (kernel j : Nat) (skip : List Nat) : State × BindAns :=
  if !c.strmEn ∨ c.nbind ≤ j ∨ (c.binding? j).isSome then (s, .refused 4)
  else
    match s.engineRead c.num skip (c.bindingVa j) 128 with
    | .absent va => (s, .absent va)
    | .val none _ => (s, .refused 4)
    | .val (some bs) _ =>
      let ws := bytesWords bs
      let w (i : Nat) : Word := ws.getD i 0
      let b := bindingOf j (c.bindingVa j) (match s.engineSeg c.num (c.bindingVa j) with | .ok pa _ => pa | _ => 0) kernel w
      if wfld (w 0) 31 24 ≠ 1 then (s, .refused 3)
      else if !bindingOk b w (4096 * c.xscr) ∨ c.nstr ≤ b.instr then (s, .refused 4)
      else if b.out ∧ (c.nstr ≤ b.outstr ∨ b.outstr = b.instr) then (s, .refused 4)
      else
        match s.holdStream c.num b.instr skip with
        | (s1, .absent va) => (s1, .absent va)
        | (s1, .refused r) => (s1, .refused r)
        | (s1, .held) =>
          if !b.out then (s1, .ok b)
          else
            match s1.holdStream c.num b.outstr skip with
            | (s2, .absent va) => (s2, .absent va)
            | (s2, .refused r) => (s2, .refused r)
            | (s2, .held) => (s2, if s2.outOk c.num b then .ok b else .refused 4)

/-! ### What the entries do -/

/-- The kernel exists (R250, R251). -/
def State.submit (s : State) (ctx q n : Nat) (k : Kernel) (bs : List Binding) : State :=
  (s.modCtx ctx fun c => { c with kernels := c.kernels ++ [k], bindings := c.bindings ++ bs }).modEntry ctx q n
    fun y => { y with work := some k.id }

/-- The queue engine reads an entry's launch descriptor, once (R250). -/
def State.readDesc (s : State) (ctx q n : Nat) (e : QEntry) (k : State → List Word → State) : State :=
  match e.desc with
  | some ws => if s.faulting (.entry ctx q n) then s else k s ws
  | none =>
    s.queueRead ctx (.entry ctx q n) (e.addr 4) 128 (fun u => u.endEntry ctx (some (q, n)) 6) fun u bs =>
      k (u.modEntry ctx q n fun y => { y with desc := some (bytesWords bs) }) (bytesWords bs)

/-- ENTRY_LAUNCH (R250, R253, R267, R358). -/
def execEntryLaunch (ctx q n : Nat) (s : State) : Res :=
  s.onEntry ctx q n 1 fun s1 e =>
    let what := EventOf.entry ctx q n
    if e.work.isSome then s1
    else
      s1.readDesc ctx q n e fun u ws =>
        let k : Kernel := { id := u.nextId, st := .submitted, desc := descOf ws, entry := some (q, n), next := 0, last := none }
        let v := u.descStatus ctx ws k
        let u1 : State := { u with nextId := u.nextId + 1 }
        if v ≠ 0 then u.endEntry ctx (some (q, n)) v
        else if !k.desc.strm then u1.submit ctx q n k []
        else
          match u1.ctx? ctx with
          | none => u1
          | some c =>
            match u1.checkBinding c k.id k.desc.bind (u.skips what) with
            | (u2, .absent va) => u2.engineFault ctx what va 0
            | (u2, .refused r) => (u2.forgive what).endEntry ctx (some (q, n)) r
            | (u2, .ok b) => u2.submit ctx q n k [b]

/-- ENTRY_COPY (R173, R267, R298). A range beyond the address space breaks the structure (R1). -/
def execEntryCopy (ctx q n : Nat) (s : State) : Res :=
  s.onEntry ctx q n 2 fun s1 e =>
    let len := (e.w 8).toNat
    if e.work.isSome then s1
    else if !s1.ownsChannel ctx then s1.endEntry ctx (some (q, n)) 1
    else if 2 ^ 55 < e.addr 4 + len ∨ 2 ^ 55 < e.addr 6 + len then s1.endEntry ctx (some (q, n)) 4
    else if len = 0 then s1.endEntry ctx (some (q, n)) 0
    else
      let k : Copyc :=
        { id := s1.nextId, ctx := ctx, team := none, entry := some (q, n), src := e.addr 4, dst := e.addr 6, chip := false, n := len,
          credit := none, failed := false, complete := false, ready := none, spoil := [], wrote := [], via := [] }
      ({ s1 with nextId := s1.nextId + 1, copies := s1.copies ++ [k] }).modEntry ctx q n fun y => { y with work := some k.id }

/-- ENTRY_SIGNAL (R267). -/
def execEntrySignal (ctx q n : Nat) (s : State) : Res :=
  s.onEntry ctx q n 3 fun s1 e =>
    s1.queueWrite ctx (.entry ctx q n) (e.addr 4) (wordBytes (e.w 6) ++ wordBytes (e.w 7))
      (fun u => u.endEntry ctx (some (q, n)) 6) fun u => u.endEntry ctx (some (q, n)) 0

/-- A WAIT reads its word (R267). The queue engine holds no copies that the acquire could drop (R416). -/
def State.waitRead (s : State) (ctx q n : Nat) (e : QEntry) : State :=
  s.queueRead ctx (.entry ctx q n) (e.addr 4) 8 (fun u => u.endEntry ctx (some (q, n)) 6) fun u bs =>
    if u64 (e.w 6) (e.w 7) ≤ leNat bs then u.endEntry ctx (some (q, n)) 0
    else u.modEntry ctx q n fun y => { y with read := u.now }

/-- ENTRY_WAIT (R267). -/
def execEntryWait (ctx q n : Nat) (s : State) : Res :=
  s.onEntry ctx q n 4 fun s1 e => s1.waitRead ctx q n e

/-- WAIT_REREAD_TIMER (R267): 10 us have passed since the last read. -/
def execWaitRereadTimer (ctx q n : Nat) (s : State) : Res :=
  s.onEntry ctx q n 4 fun s1 e => if e.started ∧ e.read + 10000 ≤ s1.now then s1.waitRead ctx q n e else s

/-- ENTRY_MAQUETTE (R267, R308): the capture starts, once no maquette is being streamed; without a partner that takes the save format it is
refused as a streaming error is (R381, notes/assumptions/113.md). -/
def execEntryMaquette (ctx q n : Nat) (s : State) : Res :=
  s.onEntry ctx q n 5 fun s1 e =>
    match s.ctx? ctx with
    | none => s
    | some c =>
      if e.work.isSome ∨ c.st ≠ .running ∨ s.streaming ctx then s
      else if !s.savePort then s1.endEntry ctx (some (q, n)) 1
      else (s1.modEntry ctx q n fun y => { y with work := some 0 }).takeMaquette ctx

/-- Addresses lo to hi - 1 meet a page or a run of n bytes at va, which has some. -/
def inRange (lo hi va n : Nat) : Bool := n != 0 && va < hi && lo < va + n

/-- Runs of memory that some write has not reached yet. -/
def State.unseenRuns (s : State) : List (Nat × Nat) :=
  s.pendingRuns ++ s.ctxs.flatMap fun c => (s.pendingVas c.num).flatMap fun v => (pieces v.1 v.2).filterMap fun p =>
    match s.engineSeg c.num p.1 with
    | .ok pa _ => some (pa, p.2)
    | _ => none

/-- A TLBINV of a range starts: the rule that software makes a write of an entry visible first names no fate, so what such writes are still
to change is Undefined to the walks of the range (R1, R296). An earlier finding that the range covers is over. -/
def State.noteUnseen (s : State) (ctx lo hi : Nat) : State :=
  let root := s.rootOf ctx
  let old := s.unseenPte.filter fun u => !(u.root == root && decide (lo ≤ u.lo) && decide (u.hi ≤ hi))
  s.unseenRuns.foldl (fun (u : State) p =>
    { u with unseenPte := { root := root, lo := lo, hi := hi, pa := p.1, n := p.2, num := u.freeCtr } :: u.unseenPte
             freeCtr := u.freeCtr + 2 * (p.2 / 8 + 3) }) { s with unseenPte := old }

/-- Every translation of a range is dropped (R144, R295). -/
def State.invalidate (s : State) (ctx lo hi : Nat) : State :=
  let gone (e : Tlb) : Bool :=
    e.ctx == ctx && (if e.large then inRange lo hi (e.page * 2 ^ 29) (2 ^ 29) else inRange lo hi (e.page * 65536) 65536)
  let cut (x : Xl) : Xl := if inRange lo hi x.vbase.toNat x.limit.toNat then { x with limit := 0 } else x
  let cutTeam (t : Team) : Team := if t.ctx = ctx then { t with xl := t.xl.map cut } else t
  { s with
    tlb := s.tlb.filter fun e => !gone e
    teams := s.teams.map cutTeam
    maqs := s.maqs.map fun m => { m with teams := m.teams.map cutTeam } }

/-- A lane has not bound its value, nor been acknowledged if it writes (R295). -/
def Req.laneBusy (r : Req) (x : Lane) : Bool :=
  if r.kind.isStore || r.kind.isAtomic then x.st != .done else x.st == .pending

/-- The translations that a request of the machine still uses; a replay packet uses none (R303, R305). -/
def State.usedBy (s : State) (r : Req) : List (Nat × Nat) :=
  if s.live r then
    ((r.lanes.filter r.laneBusy).flatMap (·.via)) ++ match r.kind with | .tile (some d) _ => d.via | _ => []
  else []

/-- A member of a Gathering latch has arrived with a drain word that some translations give (R243, R248); the arrival of a team that a
pre-emption has stopped is translated anew at its restore. -/
def State.drainWaits (s : State) (c : Ctx) (id : Nat) (hit : List (Nat × Nat) → Bool) : Bool :=
  c.latches.any fun l => l.computing.isNone && l.members.any fun m =>
    match m.2.2, s.team? m.1 with
    | some d, some t => t.st != .preempted && decide (d.came ≤ id) && hit d.via
    | _, _ => false

/-- An access through a dropped translation of the range, issued before, has not bound its value nor been acknowledged, or its deadline has
not passed (R295). -/
def State.rangeBusy (s : State) (ctx lo hi id : Nat) : Bool :=
  let hit (v : List (Nat × Nat)) : Bool := v.any fun p => inRange lo hi p.1 p.2
  (match s.ctx? ctx with | some c => s.drainWaits c id hit | none => false) ||
  (s.reqs.any fun r => r.ctx == ctx && r.id < id && hit (s.usedBy r)) ||
  (s.deadlines.any fun d => d.ctx == ctx && d.req < id && hit d.via) ||
  s.copies.any fun k => k.ctx == ctx && k.id < id && !k.complete && !k.failed && hit k.via

/-- ENTRY_TLBINV (R295): the translations are dropped; the entry ends once the accesses of before are over. -/
def execEntryTlbinv (ctx q n : Nat) (s : State) : Res :=
  s.onEntry ctx q n 6 fun s1 e =>
    let lo := e.addr 4
    let pages := (e.w 6).toNat
    let hi := lo + 65536 * pages
    let r := if pages = 0 then (0, 2 ^ 55) else (lo, hi)
    match e.work with
    | none =>
      ({ (s1.noteUnseen ctx r.1 r.2).invalidate ctx r.1 r.2 with nextId := s1.nextId + 1 }).modEntry ctx q n fun y => { y with work := some s1.nextId }
    | some id => if s1.rangeBusy ctx r.1 r.2 id then s1 else s1.endEntry ctx (some (q, n)) 0

/-- ENTRY_RSEAL (R267, R315, R335, R416, R417). -/
def execEntryRseal (ctx q n : Nat) (s : State) : Res :=
  s.onEntry ctx q n 7 fun s1 e =>
    let what := EventOf.entry ctx q n
    let skip := s1.skips what
    let stop (u : State) (v : Nat) : State := (u.forgive what).endEntry ctx (some (q, n)) v
    if e.work.isSome ∨ s1.faulting what then s1
    else
      match s1.agentSeg ctx skip (e.addr 4) with
      | .bad => stop s1 6
      | .fault _ => s1.engineFault ctx what (e.addr 4) 0
      | .ok pa a =>
        if !a.rlf || isRemote pa then stop s1 6
        else
          match s1.holdSurf ctx pa skip with
          | (u, .absent va) => u.engineFault ctx what va 0
          | (u, .refused _) => stop u 1
          | (u, .held) =>
            match u.surface? pa with
            | none => stop u 1
            | some f =>
              match u.sealAction f 0 (some (ctx, q, n)) with
              | (v, 0) => u.orHold (v.modEntry ctx q n fun y => { y with work := some pa }) ctx
              | (v, _) => stop v 0

/-- The entry is gone; ERR is set when its record could not be written (R269). -/
def State.dropEntry (s : State) (ctx q n : Nat) (err : Bool) : State :=
  (s.forgive (.entry ctx q n)).modQueue ctx q fun x =>
    { x with err := x.err || err, entries := x.entries.filter fun y => y.n != n }

/-- ENTRY_COMPLETE (R267 to R269, R416): an entry whose work has ended, or whose checks fail, writes its record; the latter has started
then. -/
def execEntryComplete (ctx q n : Nat) (s : State) : Res :=
  s.onCtx ctx fun c =>
    match c.queue? q with
    | none => s
    | some x =>
      match x.entry? n with
      | none => s
      | some e =>
        let live := c.st == .running || c.st == .switchingOut || c.st == .rollingBack || c.st == .reset
        let status : Option Nat :=
          match e.status with
          | some v => some v
          | none => if e.check ≠ 0 ∧ c.st = .running ∧ x.canStart e then some e.check else none
        match status with
        | none => s
        | some v =>
          let va := e.addr 1
          let s1 := s.modEntry ctx q n fun y => { y with started := true, status := some v }
          if !live then s
          else if va = 0 then s1.dropEntry ctx q n false
          else if va % 8 ≠ 0 then s1.dropEntry ctx q n true
          else
            s1.queueWrite ctx (.entry ctx q n) va (wordBytes (BitVec.ofNat 32 v) ++ wordBytes (e.w 3))
              (fun u => u.dropEntry ctx q n true) fun u => u.dropEntry ctx q n false

/-! ## Rings -/

/-- RCB_CFG_WRITE (R272). -/
def execRcbCfgWrite (ctx : Nat) (key : RcbKey) (v : Word) (s : State) : Res :=
  s.onCtx ctx fun _ =>
    let p := s.ctxPart ctx
    let ok : Bool := match key with
      | .slice n => n < 64
      | .cluster cl n => n < 64 && 4 * p.1 ≤ cl && cl < 4 * (p.1 + p.2)
    if ok then (s.rcbCfg ctx key v).1 else s

/-- SYSC_REPLY (R277, R278, R388): a service answers a posted request, whether or not its context runs. -/
def execSyscReply (ctx entry : Nat) (w0 w1 w2 w3 : Word) (s : State) : Res :=
  s.onCtx ctx fun c =>
    match c.sysc.find? fun e => e.n == entry && e.st == .posted with
    | none => s
    | some _ =>
      if w0 = 0xFFFFFFFF#32 then s
      else
        s.modCtx ctx fun y =>
          { y with sysc := y.sysc.map fun z => if z.n = entry then { z with st := .serviced, reply := [w0, w1, w2, w3] } else z }

/-- A Serviced entry of a team that runs is Delivered: the reply lands after an acquire at system scope (R278). -/
def State.deliverReply (s : State) (ctx : Nat) (e : SyscEntry) : State :=
  let gone (st : Option SyscSt) : State :=
    s.modCtx ctx fun y =>
      { y with sysc := match st with
          | none => y.sysc.filter fun z => z.n != e.n
          | some v => y.sysc.map fun z => if z.n = e.n then { z with st := v } else z }
  match s.team? e.team with
  | none => gone none
  | some t =>
    let m := e.mask &&& t.landing
    let u := (e.dests.zip e.reply).foldl (fun v p => if m = 0 then v.fill p.1 else v.land p.1 m fun _ => p.2) t
    ((gone (some .delivered)).putTeam u).acquire t.core .system

/-- The syscall ring of a context that runs: Delivered entries become Free, Serviced ones are delivered (R277, R278). -/
def State.settleSysc (s : State) (ctx : Nat) : State :=
  match s.ctx? ctx with
  | none => s
  | some c =>
    if c.st ≠ .running then s
    else
      let s1 := s.modCtx ctx fun y => { y with sysc := y.sysc.filter fun z => z.st != .delivered }
      (c.sysc.filter fun e => e.st == .serviced).foldl (fun u e => u.deliverReply ctx e) s1

/-! ## Free-page pools (R290) -/

/-- POOL_TAIL_WRITE (R290). -/
def execPoolTailWrite (slice : Nat) (v : Word) (s : State) : Res :=
  s.operational
    (let p := s.pool slice
     if 2 ^ wfld p.cfg 4 0 < (v - p.head).toNat ∨ (v - p.head).toNat < (p.tail - p.head).toNat then s
     else s.setPool slice { p with tail := v })

/-- POOL_CFG_WRITE (R290); with a reserved bit it is Ignored (R1, R3). -/
def execPoolCfgWrite (slice : Nat) (v : Word) (s : State) : Res :=
  s.operational
    (if wfld v 30 26 ≠ 0 then s
     else s.setPool slice { s.pool slice with cfg := (v &&& 0x83FFFFE0#32) ||| BitVec.ofNat 32 (max 4 (min 20 (wfld v 4 0))) })

/-- POOL_STAT_WRITE (R290); with a reserved bit it is Ignored (R1, R3). -/
def execPoolStatWrite (slice : Nat) (v : Word) (s : State) : Res :=
  s.operational
    (if wbit v 31 ∧ wfld v 30 16 = 0 then s.setPool slice { s.pool slice with lowf := false, bad := 0, fallbk := 0 } else s)

/-! ## Write intercepts (R293) -/

/-- WRITE_INTERCEPT_COMPLETE (R293). -/
def execWriteInterceptComplete (num : Nat) (skip : Bool) (s : State) : Res :=
  s.operational
    (match s.intercepts.find? fun e => e.num == num with
     | none => s
     | some e =>
       let s1 : State := { s with intercepts := s.intercepts.filter fun x => x.num != num }
       s1.unpark e.team fun t u =>
         let saved := t.st = .preempted ∧ t.prev = .parked (.intercept num)
         let back (v : State) : State :=
           if saved then v.modTeam t.id fun (x : Team) => { x with st := .preempted, prev := .ready } else v
         if t.st = .parked (.intercept num) ∨ saved then
           back (if skip then u.skip t t.mask e.f t.pc t.fmt else u.putTeam { t with st := .ready })
         else u)

/-! ## Copy commands (R173, R174, R326, R417) -/

/-- The pieces of a command that lie in one page at each end: offset and length. fuel is more than the pages it can meet. -/
def copyCuts (src dst : Nat) (chip : Bool) : Nat → Nat → Nat → List (Nat × Nat)
  | 0, _, _ => []
  | fuel + 1, o, n =>
    if n = 0 then []
    else
      let a := 65536 - (src + o) % 65536
      let b := if chip then n else 65536 - (dst + o) % 65536
      let l := min n (min a b)
      (o, l) :: copyCuts src dst chip fuel (o + l) (n - l)

/-- One end of a piece. -/
inductive CpEnd where
  | ok (pa : Nat) (a : Attr)
  | absent (va : Nat)
  | forbidden
  deriving DecidableEq, Repr

/-- The coded view of a held surface covers some of the bytes (R326). -/
def State.codedMeets (s : State) (pa n : Nat) : Bool :=
  s.surfaces.any fun f => overlaps f.frame (128 + 16 * f.blocks) pa n

/-- One page of a copy command (R174, R283, R291, R326). -/
def State.copyEnd (s : State) (k : Copyc) (dst : Bool) (o n : Nat) : CpEnd :=
  if dst ∧ k.chip then .ok (k.dst + o) Attr.none
  else
    let va := (if dst then k.dst else k.src) + o
    match s.agentSeg k.ctx (s.skips (.copy k.id)) va with
    | .bad => .forbidden
    | .fault _ => .absent va
    | .ok pa a =>
      let bad :=
        s.unreachable pa || s.tableAt pa n ||
        (if dst then !a.w || a.raw || (a.rlf && s.codedMeets pa n) else a.raw && s.rawOutside k.ctx va pa n)
      if bad then .forbidden else .ok pa a

/-- A piece of a command: offset, length and its two ends. -/
structure CpPiece where
  o : Nat
  n : Nat
  src : CpEnd
  dst : CpEnd
  deriving DecidableEq, Repr

def State.copyPieces (s : State) (k : Copyc) : List CpPiece :=
  (copyCuts k.src k.dst k.chip 4096 0 k.n).map fun p =>
    { o := p.1, n := p.2, src := s.copyEnd k false p.1 p.2, dst := s.copyEnd k true p.1 p.2 }

/-- A port's partner has negotiated the relief coded format (R294, R381). -/
def Port.relief (x : Port) : Bool := wfld x.ver 23 16 != 0

/-- A remote address lies on a foreign agent: its window has a port whose partner has not negotiated the format (R294). -/
def State.foreignAt (s : State) (pa : Nat) : Bool :=
  isRemote pa && !((s.upPorts (pa / 2 ^ 40 - 1)).all fun p => (s.ports.getD p Port.reset).relief)

/-- A page stops the command: one forbids its side, or a coded page would go to a foreign agent (R174, R294). -/
def State.cpForbidden (s : State) (p : CpPiece) : Bool :=
  match p.src, p.dst with
  | .forbidden, _ => true
  | _, .forbidden => true
  | .ok _ a, .ok pb _ => a.rlf && !a.raw && s.foreignAt pb
  | _, _ => false

/-- The absent page that a piece meets first, with the access kind. -/
def CpPiece.absent (p : CpPiece) : Option (Nat × Nat) :=
  match p.src, p.dst with
  | .absent va, _ => some (va, 0)
  | _, .absent va => some (va, 1)
  | _, _ => none

/-- The command is on its channel. A COPY entry stands still while its context is saved (R270); a CPY runs on (R179). -/
def State.copying (s : State) (k : Copyc) : Bool :=
  !k.complete && !k.failed &&
  match s.ctx? k.ctx with
  | none => false
  | some c => k.entry.isNone || c.st == .running || c.st == .switchingOut

def State.onCopy (s : State) (id : Nat) (f : Copyc → State) : Res :=
  s.operational
    (match s.copy? id with
     | some k => if s.copying k && !s.faulting (.copy id) then f k else s
     | none => s)

def State.putCopyc (s : State) (k : Copyc) : State :=
  { s with copies := s.copies.map fun x => if x.id = k.id then k else x }

/-- The bytes of a source piece: reconstructed, as the engine holds them, or at their home (R151, R173). -/
def State.copyBytes (s : State) (k : Copyc) (p : CpPiece) : Rd (List Byte) :=
  match p.src with
  | .ok pa a =>
    let va := k.src + p.o
    if a.raw then s.rawBytes (s.skips (.copy k.id)) (s.leafFrame k.ctx va pa) va p.n
    else if a.rlf then Rd.pure (s.codedBytes pa p.n)
    else Rd.pure (s.phys pa p.n)
  | _ => Rd.pure []

/-- The surfaces whose raw or coded views a command reads. -/
def State.copyFrames (s : State) (k : Copyc) (ps : List CpPiece) : List Nat :=
  (ps.filterMap fun p => match p.src with
    | .ok pa a => s.viewFrame k.ctx (k.src + p.o) pa a
    | _ => none).eraseDups

/-- A destination byte that is also a source byte of the command (R173). -/
def overlapped (k : Copyc) (ps : List CpPiece) (pa : Nat) : Bool :=
  !k.chip && ps.any fun p => match p.src with | .ok a _ => a ≤ pa && pa < a + p.n | _ => false

/-- One piece lands: overlapped bytes and bytes that the team has stored to are Undefined (R173). -/
def State.copyLand (s : State) (k : Copyc) (ps : List CpPiece) (p : CpPiece) (bs : List Byte) : State :=
  match p.dst with
  | .ok pa _ =>
    let r := s.blur 0 (fun i => overlapped k ps (pa + i) || k.spoil.contains (p.o + i)) bs
    if k.chip then r.2.modCtx k.ctx fun c => { c with chip := memWrite c.chip pa r.1 }
    else r.2.softWrite k.ctx pa r.1
  | _ => s

/-- The pages that a command's translations cover (R295). -/
def State.copyVia (s : State) (k : Copyc) (ps : List CpPiece) : List (Nat × Nat) :=
  (ps.flatMap fun p => s.walkRange k.ctx (k.src + p.o) ::
    if k.chip then [] else [s.walkRange k.ctx (k.dst + p.o)]).eraseDups

/-- The destination pieces in memory, by physical address. -/
def dstSpan (k : Copyc) (ps : List CpPiece) : List (Nat × Nat) :=
  if k.chip then [] else ps.filterMap fun p => match p.dst with | .ok pa _ => some (pa, p.n) | _ => none

/-- Poisoned lines that one copy has written whole, in more than one piece, are poisoned no longer (R209). -/
def State.cleanSpan (s : State) (sp : List (Nat × Nat)) : State :=
  { s with poisoned := s.poisoned.filter fun l =>
      !((List.range 64).all fun i => sp.any fun p => p.1 ≤ 64 * l + i && 64 * l + i < p.1 + p.2) }

/-- Every byte of a command is registered, when every page allows it (R173, R174, R308). -/
def State.copyAll (s : State) (k : Copyc) (ps : List CpPiece) : State :=
  match ps.findSome? CpPiece.absent with
  | some (va, kind) =>
    match s.engineSeg k.ctx va with
    | .fault (.pool _ _) => s.engineFault k.ctx (.copy k.id) va kind
    | _ => s
  | none =>
    match s.holdFrames k.ctx (s.skips (.copy k.id)) (s.copyFrames k ps) with
    | (s1, some va) => s1.engineFault k.ctx (.copy k.id) va 0
    | (s1, none) =>
      let poison := ps.findSome? fun p => match p.src with | .ok pa a => if a.raw then none else s1.poisonIn pa p.n | _ => none
      match poison with
      | some l => s1.contain k.ctx (some l)
      | none =>
        match Rd.all (ps.map (s1.copyBytes k)) with
        | .absent va => s1.engineFault k.ctx (.copy k.id) va 0
        | .val bss bad =>
          match s1.stageAll k.ctx (dstSpan k ps) with
          | none => s1
          | some s2 =>
            let sp := dstSpan k ps
            let s3 := ((ps.zip bss).foldl (fun u x => u.copyLand k ps x.1 x.2) (s2.markBad bad)).cleanSpan sp
            let d := s3.completionDelay (sp.flatMap fun x => wordsOf x.1 x.2)
            s3.putCopyc { k with ready := some (s3.now + d), wrote := sp, via := s.copyVia k ps, spoil := [] }

/-- The address of byte o of some ranges in order. -/
def rangeByte : List (Nat × Nat) → Nat → Option Nat
  | [], _ => none
  | (a, n) :: rest, o => if o < n then some (a + o) else rangeByte rest (o - n)

/-- Destination bytes that the team has stored to since hold Undefined values (R173). -/
def State.spoilLanded (s : State) (k : Copyc) : State :=
  k.spoil.foldl (fun (u : State) o =>
    let u1 : State := { u with freeCtr := u.freeCtr + 1 }
    let b := Config.freeByte u.freeCtr
    if k.chip then u1.modCtx k.ctx fun c => { c with chip := memWrite c.chip (k.dst + o) [b] }
    else
      match rangeByte k.wrote o with
      | none => u
      | some pa => u1.engineWrite k.ctx pa [b]) s

/-- COPY_COMMAND_COMPLETE (R173): the bytes are registered; when the last completion delay and 10 ns have passed, the command is
complete and credits its ring. -/
def execCopyCommandComplete (id : Nat) (s : State) : Res :=
  s.onCopy id fun k =>
    match k.ready with
    | none =>
      let ps := s.copyPieces k
      if ps.any s.cpForbidden then s else s.copyAll k ps
    | some t =>
      if s.now < t + 10 then s
      else
        let s1 := (s.spoilLanded k).putCopyc { k with complete := true, spoil := [] }
        ((s1.forgive (.copy id)).creditRing k.ctx k.credit k.n false).endEntry k.ctx k.entry 0

/-- A byte of a command that stopped: it has been written or not (R174: bytes land in any order). -/
def mixBytes (ctr : Nat) : List Byte → List Byte → List Byte
  | [], _ => []
  | _, [] => []
  | b :: bs, o :: os => (if (Config.freeByte ctr).getLsbD 0 then b else o) :: mixBytes (ctr + 1) bs os

/-- Bytes of the chip scratch of a context. -/
def State.chipRead (s : State) (ctx o n : Nat) : List Byte :=
  match s.ctx? ctx with
  | none => []
  | some c => memRead c.chip o n

/-- What a command that stops may have written of one piece. -/
def State.copySome (s : State) (k : Copyc) (ps : List CpPiece) (p : CpPiece) : State :=
  match p.src, p.dst, s.copyBytes k p with
  | .ok _ _, .ok pa _, .val bs bad =>
    match s.stageAll k.ctx (if k.chip then [] else [(pa, p.n)]) with
    | none => s
    | some s1 =>
      let old := if k.chip then s1.chipRead k.ctx pa p.n else s1.phys pa p.n
      let s2 : State := { s1.markBad bad with freeCtr := s1.freeCtr + p.n }
      s2.copyLand k ps p (mixBytes s1.freeCtr bs old)
  | _, _, _ => s

/-- A command stops (R174): it has failed, its ring slot says so, and its entry completes with status "fault". -/
def State.stopCopy (s : State) (k : Copyc) : State :=
  (((s.putCopyc { k with failed := true }).forgive (.copy k.id)).creditRing k.ctx k.credit k.n true).endEntry k.ctx k.entry 6

/-- COPY_COMMAND_FAIL (R174): a page stops the command; bytes already written stay: bytes of the pieces that no page stops, in any order.
The surfaces that they read are held first (R173, R326). -/
def execCopyCommandFail (id : Nat) (s : State) : Res :=
  s.onCopy id fun k =>
    let ps := s.copyPieces k
    let go := ps.filter fun p => !s.cpForbidden p
    if k.ready.isSome ∨ go.length = ps.length then s
    else
      match s.holdFrames k.ctx (s.skips (.copy id)) (s.copyFrames k go) with
      | (s1, some va) => s1.engineFault k.ctx (.copy id) va 0
      | (s1, none) => (go.foldl (fun u p => u.copySome k ps p) s1).stopCopy { k with wrote := dstSpan k go }

/-- ENGINE_PAGE_FAULT (R417): a copy-engine channel meets an absent page and raises its event. -/
def execEnginePageFault (copy : Nat) (s : State) : Res :=
  s.onCopy copy fun k =>
    if k.ready.isSome then s
    else
      match (s.copyPieces k).findSome? CpPiece.absent with
      | none => s
      | some (va, kind) => s.engineFault k.ctx (.copy copy) va kind

end Sys2Proof.Machine
end

