-- ==== Sys2Proof/Machine/ContextEv.lean ====
section
/-!
DEFINITION. Contexts, partitions and maquettes (R195, R297 to R312, R340).
-/

namespace Sys2Proof.Machine

/-! ## Partitions and channels (R297, R298) -/

/-- The slices of a partition register that is enabled. -/
def partSlices (f : Nat) (w : Word) : List Nat := if wbit w 31 then (List.range (wfld w 3 0)).map fun i => f + i else []

/-- A write of PART.CFG keeps R297, with the reserved bits 0 (R3). -/
def State.partOk (s : State) (slice : Nat) (v : Word) : Bool :=
  let n := wfld v 3 0
  let new := partSlices slice v
  let others := (List.range 12).filter fun f => f != slice
  wfld v 30 4 == 0 && (!wbit v 31 || ([1, 2, 3, 4, 6, 12].contains n && slice % n == 0 && slice + n ≤ 12)) &&
  !(others.any fun f => (partSlices f (s.part.getD f 0)).any new.contains) &&
  !(s.ctxs.any fun c => c.num / 16 == slice)

/-- PART_CFG_WRITE (R297). -/
def execPartCfgWrite (slice : Nat) (v : Word) (s : State) : Res :=
  s.operational (if 12 ≤ slice ∨ !s.partOk slice v then s else { s with part := s.part.set slice v })

/-- CE_OWN_WRITE (R298); with a reserved bit it is Ignored (R1, R3). -/
def execCeOwnWrite (chan : Nat) (v : Word) (s : State) : Res :=
  s.operational (if wfld v 30 8 ≠ 0 then s else { s with ceOwn := s.ceOwn.set chan v })

/-! ## Life of a context (R300) -/

/-- A context at creation: settings at their reset values (R300, R301). -/
def Ctx.create (n : Nat) : Ctx :=
  { num := n, st := .created, status := 0, cfg := 0x04004000#32, quota := 0, xscr := 0, root := 0, cht := 0, chtSet := false, save := 0, svec := 0,
    safe := 0, maqi := 0, maqn := 0, haltPending := false, capture := false, started := false, fresh := true, kernels := [],
    csets := [], chip := [], circuits := [], latches := [], queues := (List.range 64).map Queue.reset, rcbs := [], sysc := [],
    caps := [], children := [], strmBase := 0, strmCfg := 0, vfwin := 0, streams := [], bindings := [], insts := [], wpWaits := [], seq := 0,
    lastMaq := 0, savedSize := 0, savedImage := [] }

/-- CONTEXT_CREATE (R300): on a free number of a partition. A committed maquette that a device reset has left in the safe tier stays (R30). -/
def execContextCreate (ctx : Nat) (s : State) : Res :=
  s.operational
    (if (s.ctx? ctx).isSome ∨ 192 ≤ ctx ∨ !wbit (s.part.getD (ctx / 16) 0) 31 then s
     else { s with ctxs := s.ctxs ++ [Ctx.create ctx] })

/-- CTX_CMD_START (R300, R301). -/
def execCtxCmdStart (ctx : Nat) (s : State) : Res := s.onCtx ctx fun _ => s.cmdStart ctx

/-- CTX_CMD_HALT (R300, R301). -/
def execCtxCmdHalt (ctx : Nat) (s : State) : Res := s.onCtx ctx fun _ => s.haltCtx ctx false

/-- CTX_CMD_RESUME (R300, R301). -/
def execCtxCmdResume (ctx : Nat) (s : State) : Res := s.onCtx ctx fun _ => s.cmdResume ctx

/-- CTX_CMD_DESTROY (R300, R301). -/
def execCtxCmdDestroy (ctx : Nat) (s : State) : Res := s.onCtx ctx fun _ => s.cmdDestroy ctx

/-- CTX_CMD_MAQUETTE (R301, R308). -/
def execCtxCmdMaquette (ctx : Nat) (s : State) : Res := s.onCtx ctx fun _ => s.takeMaquette ctx

/-- CTX_CFG_WRITE (R301). -/
def execCtxCfgWrite (ctx : Nat) (v : Word) (s : State) : Res := s.onCtx ctx fun _ => (s.writeCfg ctx v).1

/-- CTX_XSCR_WRITE (R301). -/
def execCtxXscrWrite (ctx : Nat) (v : Word) (s : State) : Res := s.onCtx ctx fun c => (s.writeXscr c v).1

/-- CTX_ADDRESS_WRITE (R301): registers 5 to 10. -/
def execCtxAddressWrite (ctx reg : Nat) (v : Word) (s : State) : Res :=
  s.onCtx ctx fun c => if 5 ≤ reg ∧ reg ≤ 10 then (s.writeAddr c reg v).1 else s

/-- CTX_MAQI_WRITE (R301). -/
def execCtxMaqiWrite (ctx : Nat) (v : Word) (s : State) : Res := s.onCtx ctx fun _ => (s.writeMaqi ctx v).1

/-- EVDONE_RETRY (R306). -/
def execEvdoneRetry (ctx num : Nat) (s : State) : Res := s.onCtx ctx fun _ => s.evdone ctx num 0

/-- EVDONE_SKIP (R306). -/
def execEvdoneSkip (ctx num : Nat) (s : State) : Res := s.onCtx ctx fun _ => s.evdone ctx num 1

/-- EVDONE_FATAL (R306). -/
def execEvdoneFatal (ctx num : Nat) (s : State) : Res := s.onCtx ctx fun _ => s.evdone ctx num 2

/-! ## Loading and saving (R302 to R305) -/

/-- The word that begins a save area (R304). -/
def saveHeader : Word := 0x01000000#32

/-- Another context of the partition is loaded. -/
def State.partBusy (s : State) (ctx : Nat) : Bool :=
  s.ctxs.any fun c => c.num != ctx && c.inUse && s.ctxPart c.num == s.ctxPart ctx

/-- Every chisel entry of a new context is at reset (R194, R196). CTX.CHT has no value when the context is created, so the headers are
written when it is first loaded, at the address that CTX.CHT then holds (notes/assumptions/86.md). -/
def State.resetChisels (s : State) (c : Ctx) : State :=
  if c.cht.toNat + 16384 ≤ dramEnd then
    { s with mem := (List.range 128).foldl (fun m i => memWrite m (c.cht.toNat + 128 * i) (wordBytes 0x01000000#32)) s.mem }
  else s

/-- The status that refuses a restore, or 0 (R193, R195, R300, R305): words 17 to 31 of a chisel entry are reserved, and the partition has
the size that it had at the save. Bits [15:0] of the header word have no stated meaning and are not checked (notes/assumptions/85.md). -/
def State.saveCheck (s : State) (c : Ctx) : Nat :=
  let hs := (List.range 128).map fun i => s.chHeader c.num i
  let h := s.physWord c.save.toNat
  if wfld h 31 24 ≠ 1 ∨ (hs.any fun x => wfld x 31 24 != 1) then 3
  else if c.savedSize ≠ (s.ctxPart c.num).2 ∨
      (List.range 128).any fun i => (List.range 15).any fun j => s.physWord (c.cht.toNat + 128 * i + 68 + 4 * j) != 0 then 4
  else 0

/-- The partition scheduler may select the context (R300). -/
def Ctx.eligible (c : Ctx) : Bool := (c.st == .created && c.started) || c.st == .saved

/-- The contexts of a partition that are eligible, ascending. -/
def State.eligible (s : State) (slice : Nat) : List Nat :=
  (List.range 16).filterMap fun i =>
    match s.ctx? (16 * slice + i) with
    | some c => if c.eligible then some c.num else none
    | none => none

/-- The eligible context whose turn it is: the next one after the last that was loaded, around (R300). -/
def State.nextInTurn (s : State) (slice : Nat) : Option Nat :=
  let es := s.eligible slice
  match s.lastCtx.find? fun x => x.1 == slice with
  | none => es.head?
  | some (_, n) =>
    match es.find? fun c => n < c with
    | some c => some c
    | none => es.head?

/-- The context is Loaded, and was the last of its partition to be so. -/
def State.loadCtx (s : State) (ctx : Nat) (f : Ctx → Ctx) : State :=
  { s with lastCtx := (ctx / 16, ctx) :: s.lastCtx.filter fun x => x.1 != ctx / 16 }.modCtx ctx fun x => { f x with st := .loaded }

/-- What a restore finds in an area that no longer holds what the save wrote, or that CTX.SAVE no longer names: the manual gives the sections
no layout, so what it reads into registers, program counters and local levels is Undefined (R304, notes/assumptions/31.md). -/
def State.unsure (s : State) (ctx : Nat) : State :=
  let team (u : State) (t : Team) : State :=
    if t.ctx ≠ ctx ∨ t.isHandler ∨ t.st = .exited then u
    else
      let v (i : Nat) : Reg :=
        { full := true, uniform := false, bank := .per ((List.range t.nlanes).map fun l => Config.freeWord (u.freeCtr + 1 + i * t.nlanes + l)) }
      let u1 : State := { u with freeCtr := u.freeCtr + 1 + t.p * t.nlanes }
      let scr := u1.freeBytes t.scrSize
      let priv := scr.2.freeBytes (65536 * t.nlanes)
      priv.2.modTeam t.id fun x =>
        { x with pc := Config.freeWord u.freeCtr, frame := (List.range t.p).map v, scratch := memWrite [] 0 scr.1,
                 lanePriv := memWrite [] 0 priv.1 }
  let s1 := s.teams.foldl team s
  let chip := s1.freeBytes (s1.levelSize { Team.blank with ctx := ctx } .chip)
  chip.2.modCtx ctx fun c => { c with chip := memWrite [] 0 chip.1 }

/-- The sections of a save area are read (R304, R305). -/
def State.readSections (s : State) (c : Ctx) : State :=
  if s.phys c.save.toNat c.savedImage.length = c.savedImage then s else s.unsure c.num

/-- CONTEXT_LOAD (R300, R305): the context whose turn it is, one that has been started or a Saved one, when no other is loaded. -/
def execContextLoad (ctx : Nat) (s : State) : Res :=
  s.onCtx ctx fun c =>
    if s.partBusy ctx ∨ s.nextInTurn (ctx / 16) ≠ some ctx then s
    else
      match c.st with
      | .created =>
        let s1 := if c.fresh then s.resetChisels c else s
        s1.loadCtx ctx fun x =>
          { x with started := false, fresh := false, queues := (List.range 64).map Queue.reset, rcbs := [], circuits := [], latches := [],
                   sysc := [], caps := [] }
      | .saved =>
        let v := s.saveCheck c
        if v ≠ 0 then s.modCtx ctx fun x => { x with st := .halted, status := v }
        else ((s.readSections c).restoreTeams ctx).loadCtx ctx id
      | _ => s

/-- TIME_SLICE_BEGIN (R300). -/
def execTimeSliceBegin (ctx : Nat) (s : State) : Res :=
  s.onCtx ctx fun c =>
    if c.st ≠ .loaded then s
    else
      let s1 := s.modCtx ctx fun x => { x with st := .running }
      if c.haltPending then s1.startPreempt ctx false else s1

/-- TIME_SLICE_END (R300). -/
def execTimeSliceEnd (ctx : Nat) (s : State) : Res :=
  s.onRunning ctx fun _ => s.startPreempt ctx false

/-- A team of the context that a save covers. -/
def State.savedTeam (s : State) (ctx id : Nat) : Bool :=
  match s.team? id with
  | some t => t.ctx == ctx && !t.isHandler
  | none => false

/-- A MAQUETTE, TLBINV or RSEAL entry, which is never saved (R270). -/
def QEntry.unsaved (e : QEntry) : Bool := e.check == 0 && 5 ≤ e.type

/-- Nothing holds the save back (R179, R248, R270, R302 steps 4 and 5, R308): the MAQUETTE entry that asked for a capture does not. A TLBINV or
RSEAL entry that may start does so first; an entry that the ones before it keep from starting stays fetched (notes/assumptions/87.md). -/
def State.canSave (s : State) (c : Ctx) : Bool :=
  let ctx := c.num
  (s.teams.all fun t => t.ctx != ctx || t.isHandler ||
    (t.hold.isNone && t.arvs.isEmpty && (t.st == .preempted || t.st == .exited))) &&
  (s.reqs.all fun r => !s.savedTeam ctx r.team || (r.kind.isPacket && s.current r)) &&
  (s.deadlines.all fun d => !s.savedTeam ctx d.team) &&
  (c.latches.all fun l => l.computing.isNone) &&
  c.queues.all fun x => x.entries.all fun e =>
    !(e.unsaved && (e.started || (e.type != 5 && x.canStart e)) && !(e.type == 5 && c.capture))

/-- What a capture keeps of a queue (R270): every fetched entry but the MAQUETTE that asked for it, which is never saved. -/
def Queue.kept (x : Queue) : Queue := { x with entries := x.entries.filter fun e => !(e.unsaved && e.started) }

/-- Every Open-dirty block of a context's surfaces is written back (R340). -/
def State.evictAll (s : State) (ctx : Nat) : State × Option (Nat × Nat) :=
  let todo := (s.surfaces.filter fun f => f.ctx == ctx).flatMap fun f => f.dirty.map fun d => (f.frame, d.1)
  todo.foldl (fun (acc : State × Option (Nat × Nat)) x =>
    match acc.2 with
    | some _ => acc
    | none =>
      match acc.1.evictBlock x.1 x.2 (acc.1.skips (.seal x.1)) with
      | .absent va => (acc.1, some (x.1, va))
      | .val u _ => (u, none)) (s, none)

/-- The engine fields of a stream, as addresses and words (R355, R356). -/
def Stream.engineWords (x : Stream) (va : Nat) : List (Nat × List Word) :=
  let st (y : Src) : Nat := match y.st with | .live => 0 | .idle => 1 | .rejoining => 2
  let src (n : Nat) (y : Src) : List (Nat × List Word) :=
    let o := va + 64 + 32 * n
    let w0 : Word := BitVec.ofNat 32 ((if y.en then 2 ^ 31 else 0) + 2 ^ 29 * y.kind + 2 ^ 27 * st y + y.log2n)
    [(o, [w0, y.rp]), (o + 24, [lo32 y.swm, hi32 y.swm])]
  [(va + 8, [lo32 x.wm, hi32 x.wm]), (va + 16, [BitVec.ofNat 32 (65536 * x.badrec + x.decr)])] ++
    ((List.range x.srcs.length).zip x.srcs).flatMap fun p => src p.1 p.2

/-- The engine field LCOUNT of a bound binding (R357). -/
def Binding.engineWords (b : Binding) (va : Nat) : List (Nat × List Word) := if b.unbound then [] else [(va + 76, [b.lcount])]

/-- The armature units write their engine fields back (R356, R358). An address that cannot be written keeps what it holds. -/
def State.streamsBack (s : State) (c : Ctx) : State :=
  ((c.streams.flatMap fun x => (x.engineWords x.va).map fun p => (x.idx, p)) ++
      c.bindings.flatMap fun b => (b.engineWords b.va).map fun p => (b.idx, p)).foldl (fun u p =>
    match u.engineSpan c.num (s.skips (.armature c.num p.1 256)) p.2.1 (4 * p.2.2.length) with
    | .val (some sp) _ => u.writeSpan c.num sp (wordsBytes p.2.2)
    | _ => u) s

/-- The relief engines write back the descriptor words that they hold, where memory differs (R340). -/
def State.codedBack (s : State) (ctx : Nat) : State :=
  (s.surfaces.filter fun f => f.ctx == ctx).foldl (fun u f =>
    let bs := memRead f.coded 0 (128 + 16 * f.blocks)
    if u.phys f.frame bs.length == bs then u else u.engineWrite ctx f.frame bs) s

/-- The first page with a descriptor of a held stream or a bound binding that is absent (R417), with the descriptor's index. -/
def State.streamAbsent (s : State) (c : Ctx) : Option (Nat × Nat) :=
  ((c.streams.map fun x => (x.idx, x.va)) ++ (c.bindings.filter fun b => !b.unbound).map fun b => (b.idx, b.va)).find? fun p =>
    match s.agentSeg c.num (s.skips (.armature c.num p.1 256)) p.2 with
    | .fault _ => true
    | _ => false

/-- COPY entries that have not completed are reissued whole, and WAITs are read again (R270). -/
def State.replayEntries (s : State) (ctx : Nat) : State :=
  let cp (k : Copyc) : Copyc :=
    if k.ctx = ctx ∧ k.entry.isSome ∧ !k.complete ∧ !k.failed then { k with ready := none, via := [] } else k
  let en (e : QEntry) : QEntry := { e with read := 0 }
  { s with copies := s.copies.map cp }.modCtx ctx fun c =>
    { c with queues := c.queues.map fun (x : Queue) => { x with entries := x.entries.map en } }

/-- The directory of a save area: kind, offset and length of each section (R304; notes/assumptions/31.md). -/
def saveDir : Nat → Nat → List (List Byte) → List Word
  | _, _, [] => []
  | k, off, b :: rest =>
    [BitVec.ofNat 32 k, BitVec.ofNat 32 off, BitVec.ofNat 32 b.length, 0] ++ saveDir (k + 1) (off + b.length) rest

/-- What a save writes for a context: the header word, the directory of 16 entries, and the sections of kinds 1 to 10 (R304). -/
def State.saveImage (s : State) (ctx : Nat) : List Byte :=
  let secs := (List.range 10).map fun i => Config.saveSection (i + 1) ctx s
  wordBytes saveHeader ++ wordsBytes (saveDir 1 260 secs ++ List.replicate 24 0) ++ secs.flatten

/-- A long write of the machine's own to DRAM, registered as engineWrite registers a short one (R161, R209, R308). -/
def State.bulkWrite (s : State) (ctx pa : Nat) (bs : List Byte) : State :=
  let n := bs.length
  let inside (w : Nat) : Bool := pa < 8 * w + 8 && 8 * w < pa + n
  let ps := (pagesOf pa (max 1 n)).map fun p => (ctx, p)
  { s with
    l1 := s.l1.filter fun c => !(inside c.word && (s.bankWord c.word).owner == some c.core)
    banks := (s.banks.map fun b => if inside b.word then { b with owner := none } else b).filter fun b =>
      b.expiry != 0 || b.owner.isSome
    mem := memWrite s.mem pa bs
    poisoned := s.poisoned.filter fun l => !(pa ≤ 64 * l && 64 * l + 64 ≤ pa + n)
    dirty := (ps.filter fun p => !s.dirty.contains p) ++ s.dirty
    maqs := (ps.foldl (fun (u : State) p => u.keepPage ctx p.2) s).maqs }

/-- What of the image of a context fits the DRAM from its save area on. -/
def State.saveBytes (s : State) (c : Ctx) : List Byte :=
  if c.save.toNat < dramEnd then (s.saveImage c.num).take (dramEnd - c.save.toNat) else []

/-- The save area is written (R304), and the size of the partition is kept (R305). -/
def State.writeSave (s : State) (c : Ctx) : State :=
  (if c.save.toNat < dramEnd then s.bulkWrite c.num c.save.toNat (s.saveBytes c) else s).modCtx
    c.num fun x => { x with savedSize := (s.ctxPart c.num).2, savedImage := s.saveBytes c }

/-- Bytes of a maquette reach the safe tier at an offset of the context's region there (R308; notes/assumptions/50.md). -/
def State.toSafe (s : State) (c : Ctx) (off : Nat) (bs : List Byte) : State :=
  { s with fabric := memWrite s.fabric (c.safe.toNat + off) bs }

/-- The MAQUETTE entry that has asked for a capture. -/
def Ctx.maqEntry (c : Ctx) : Option (Nat × Nat) :=
  c.queues.findSome? fun x =>
    (x.entries.find? fun e => e.type == 5 && e.check == 0 && e.work.isSome && e.status.isNone).map fun e => (x.q, e.n)

/-- What a capture keeps (R308). -/
def State.captureOf (s : State) (c : Ctx) : Maq :=
  let mine := s.teams.filter fun t => t.ctx == c.num && !t.isHandler
  { ctx := c.num,
    image := { c with st := .saved, capture := false, haltPending := false, savedSize := (s.ctxPart c.num).2,
                      queues := c.queues.map Queue.kept },
    teams := mine, reqs := s.reqs.filter fun r => r.ctx == c.num && s.savedTeam c.num r.team,
    copies := s.copies.filter fun k => k.ctx == c.num, events := s.events.filter fun e => e.ctx == c.num,
    intercepts := s.intercepts.filter fun e => e.ctx == c.num, pages := [],
    todo := (s.dirty.filter fun d => d.1 == c.num).map (·.2), staged := [], streaming := true, entry := c.maqEntry }

/-- The context is saved: its sections are written, and it is in st (R270, R302 step 6). -/
def State.putAway (s : State) (c : Ctx) (st : CtxSt) : State :=
  ((s.writeSave c).replayEntries c.num).modCtx c.num fun x =>
    { x with st := st, haltPending := false, capture := false }

/-- The save is complete: Saved, Halted, or Running after a capture, whose sections go to the safe tier (R300, R302 step 6, R308). Where no
partner takes the save format any more, the capture is refused as a streaming error (R381, notes/assumptions/113.md). -/
def State.saved (s : State) (c : Ctx) : State :=
  let ctx := c.num
  let c1 := (s.ctx? ctx).getD c
  let s1 : State :=
    if c.capture ∧ !s.savePort then s.endEntry ctx c1.maqEntry 1
    else if c.capture then
      { s.toSafe c (2 ^ 40) (s.saveImage ctx) with
        maqs := s.captureOf c1 :: s.maqs, dirty := s.dirty.filter fun d => d.1 != ctx }.modCtx ctx fun x => { x with lastMaq := s.now }
    else s
  if c.haltPending then s1.putAway c .halted
  else if c.capture then (s1.restoreTeams ctx).modCtx ctx fun x => { x with st := .running, capture := false }
  else s1.putAway c .saved

/-- A unit or engine that would write back for the save waits for its event (R417). -/
def State.savePaused (s : State) (c : Ctx) : Bool :=
  (c.streams.any fun x => s.faulting (.armature c.num x.idx 256)) || (c.bindings.any fun b => s.faulting (.armature c.num b.idx 256)) ||
    s.surfaces.any fun f => f.ctx == c.num && s.faulting (.seal f.frame)

/-- CONTEXT_SAVE_COMPLETE (R300, R302, R308, R340, R356): the engines write back first, with staging frames for the pages of a maquette that
they reach. -/
def execContextSaveComplete (ctx : Nat) (s : State) : Res :=
  s.onCtx ctx fun c =>
    if c.st ≠ .switchingOut ∨ !s.canSave c ∨ s.savePaused c then s
    else
      match s.streamAbsent c with
      | some (i, va) => s.engineFault ctx (.armature ctx i 256) va 1
      | none =>
        match s.evictAll ctx with
        | (s1, some (fr, va)) => s1.engineFault ctx (.seal fr) va 1
        | (s1, none) =>
          match s.paid ((s1.streamsBack c).codedBack ctx) ctx with
          | some s2 => s2.saved c
          | none => s

/-! ## Maquettes (R308) -/

/-- MAQUETTE_TIMER (R308): while a maquette is being streamed, the request is Ignored for an interval. -/
def execMaquetteTimer (ctx : Nat) (s : State) : Res :=
  s.onRunning ctx fun c =>
    if c.maqi = 0 ∨ s.now < c.lastMaq + 1000000 * c.maqi then s
    else (s.modCtx ctx fun x => { x with lastMaq := s.now }).takeMaquette ctx

def State.modMaq (s : State) (ctx : Nat) (f : Maq → Maq) : State :=
  { s with maqs := s.maqs.map fun (m : Maq) => if m.ctx = ctx ∧ m.streaming then f m else m }

/-- MAQUETTE_PAGE_STREAMED (R308): a marked page reaches the safe tier by a port that has agreed on the save format (R381). -/
def execMaquettePageStreamed (ctx page : Nat) (s : State) : Res :=
  s.onCtx ctx fun c =>
    match s.maqs.find? fun m => m.ctx == ctx && m.streaming with
    | none => s
    | some m =>
      if !s.savePort ∨ !m.todo.contains page then s
      else
        let bs := ((m.staged.find? fun x => x.1 == page).map (·.2)).getD (s.phys (page * 65536) 65536)
        (s.toSafe c (65536 * page) bs).modMaq ctx fun m =>
          { m with todo := m.todo.filter fun x => x != page, staged := m.staged.filter fun x => x.1 != page,
                   pages := (page, bs) :: m.pages }

/-- The maquette being streamed becomes the committed one; pages that it does not hold stay from the one before (R308). -/
def State.commitMaq (s : State) (ctx : Nat) (m : Maq) : State :=
  let n : Word := ((s.ctx? ctx).map (·.maqn)).getD 0 + 1
  let old := ((s.maqs.find? fun x => x.ctx == ctx && !x.streaming).map (·.pages)).getD []
  let keep := old.filter fun p => !(m.pages.any fun q => q.1 == p.1)
  let m1 : Maq := { m with image := { m.image with maqn := n }, pages := m.pages ++ keep, streaming := false, entry := none }
  ({ s with maqs := m1 :: s.maqs.filter fun x => x.ctx != ctx }.modCtx ctx fun c => { c with maqn := n }).endEntry ctx m.entry 0

/-- MAQUETTE_COMMIT (R308). -/
def execMaquetteCommit (ctx : Nat) (s : State) : Res :=
  s.operational
    (match s.maqs.find? fun m => m.ctx == ctx && m.streaming with
     | none => s
     | some m => if m.todo.isEmpty && s.savePort then s.commitMaq ctx m else s)

/-- The maquette being streamed is discarded; its pages are dirty since the last committed one (R308). -/
def State.dropStream (s : State) (ctx : Nat) : State :=
  match s.maqs.find? fun m => m.ctx == ctx && m.streaming with
  | none => s
  | some m =>
    let s1 := (m.todo ++ m.pages.map (·.1)).foldl (fun u p => u.markDirty ctx p) s
    { s1 with maqs := s1.maqs.filter fun x => !(x.ctx == ctx && x.streaming) }.endEntry ctx m.entry 1

/-- MAQUETTE_STREAM_ERROR (R308). -/
def execMaquetteStreamError (ctx : Nat) (s : State) : Res := s.operational (s.dropStream ctx)

/-! ## Containment, rollback and reset (R309 to R312) -/

/-- The function that fails. -/
def failureFn : Failing → Option Fn
  | .line l => lineFn l
  | .storeBank core bank => some (.storeBank core bank)
  | .executor l => some (.executor (sliceOf (64 * l)) (bankOf (64 * l)))
  | .engine kind slice => some (.engine kind slice)

/-- The line that fails with it: the one that an executor holds is poisoned as well (R209). -/
def failureLine : Failing → Option Nat
  | .line l => some l
  | .executor l => some l
  | _ => none

/-- CONTAINMENT_EVENT (R209, R310). -/
def execContainmentEvent (ctx : Nat) (what : Failing) (s : State) : Res :=
  s.onCtx ctx fun _ => s.strike ctx (failureFn what) (failureLine what)

/-- No entry of the context is left in a queue. -/
def Ctx.idleQueues (c : Ctx) : Bool := c.queues.all fun x => x.entries.isEmpty

/-- The pages of a maquette are written over memory, whole lines at a time (R310 step 3). -/
def State.restorePages (s : State) (ctx : Nat) (ps : List (Nat × List Byte)) : State :=
  ps.foldl (fun (u : State) p =>
    let v := u.engineWrite ctx (p.1 * 65536) p.2
    { v with poisoned := v.poisoned.filter fun l => l / 1024 != p.1 }) s

/-- The write pointers of ring sources are the producer's, and a rollback leaves them (R378). -/
def keepPointers (now : List Stream) (x : Stream) : Stream :=
  match now.find? fun y => y.idx == x.idx with
  | none => x
  | some y => { x with srcs := (x.srcs.zip y.srcs).map (fun p => { p.1 with wp := p.2.wp }) ++ x.srcs.drop y.srcs.length }

/-- ROLLBACK_COMPLETE (R300, R310): once the entries of before have completed. -/
def execRollbackComplete (ctx : Nat) (s : State) : Res :=
  s.onCtx ctx fun c =>
    if c.st ≠ .rollingBack ∨ !c.idleQueues then s
    else
      let s0 := s.clearCtx ctx
      let s1 : State := { s0 with maqs := s0.maqs.filter fun m => !(m.ctx == ctx && m.streaming) }
      match s1.maqs.find? fun m => m.ctx == ctx with
      | some m =>
        let s2 := s1.restorePages ctx m.pages
        let again (k : Copyc) : Copyc := if k.complete ∨ k.failed then k else { k with ready := none, wrote := [] }
        let s3 := s2.modCtx ctx fun x =>
          { m.image with streams := m.image.streams.map (keepPointers x.streams), wpWaits := x.wpWaits }
        (({ s3 with
          teams := s3.teams ++ m.teams, order := s3.order ++ ((m.teams.filter fun (t : Team) => t.st != TeamSt.exited).map fun (t : Team) => t.id),
          reqs := s3.reqs ++ m.reqs, copies := s3.copies ++ m.copies.map again, events := s3.events ++ m.events,
          intercepts := s3.intercepts ++ m.intercepts, dirty := s3.dirty.filter fun d => d.1 != ctx }).writeSave c)
      | none =>
        s1.modCtx ctx fun x =>
          { x with st := .halted, status := 8, kernels := [], csets := [], circuits := [], latches := [], sysc := [], children := [],
                   streams := [], bindings := [], insts := [], wpWaits := [] }

/-- The collective contributions that a context has outstanding, each with its port, where the partner has COLL (R311, R382, R388): posted
syscall requests that contribute. -/
def State.contributions (s : State) (c : Ctx) : List (SyscEntry × Word × Nat) :=
  (c.sysc.filter fun e => e.st == .posted).filterMap fun e =>
    match Config.contribution e.words with
    | some (coll, p) =>
      let x := s.ports.getD p Port.reset
      if x.st == .up && x.cap.getLsbD 2 then some (e, coll, p) else none
    | none => none

/-- VF_RESET (R300, R311, R312, R340, R378, R388). -/
def execVfReset (ctx : Nat) (s : State) : Res :=
  s.onCtx ctx fun c =>
    let s0 := (s.contributions c).foldl (fun u x => u.say (.abortSent ctx x.2.1 x.2.2)) s
    let s1 := s0.clearCtx ctx
    let s2 : State := { s1 with maqs := s1.maqs.filter fun m => !(m.ctx == ctx && m.streaming) }
    let ended (e : QEntry) : QEntry := { e with status := match e.status with | some v => some v | none => some 2 }
    s2.modCtx ctx fun x =>
      { x with
        st := .reset, haltPending := false, capture := false, started := false, kernels := [], csets := [], circuits := [],
        latches := [], sysc := [], caps := [], children := [], streams := [], bindings := [], insts := [], wpWaits := [],
        queues := x.queues.map (fun (y : Queue) => { y with entries := y.entries.map ended }),
        rcbs := x.rcbs.map fun (r : Rcb) =>
          { r with head := 0, tail := 0, slots := r.slots.map fun _ => { st := .empty, credit := 0, exp := 0, fail := false } } }

/-- VF_RESET_COMPLETE (R300). -/
def execVfResetComplete (ctx : Nat) (s : State) : Res :=
  s.onCtx ctx fun c =>
    if c.st ≠ .reset ∨ !c.idleQueues then s else s.modCtx ctx fun x => { x with st := .created }

end Sys2Proof.Machine
end

