-- ==== Sys2Proof/Machine/ReliefEv.lean ====
section
/-!
DEFINITION. The events of the relief engines (R321, R326 to R338) and of the ray datapaths (R341, R353).
-/

namespace Sys2Proof.Machine

/-! ## Requests at a relief engine (R328 to R334) -/

/-- The coordinates of an operand (R328). -/
def coordX (a : Word) : Nat := wfld a 13 0
def coordY (a : Word) : Nat := wfld a 29 16

/-- The pixel that RLD writes (R330). -/
def State.rldLane (s : State) (skip : List Nat) (f : Surface) (a : Word) : Rd (List Word) :=
  let x := min (coordX a) (f.width - 1)
  let y := min (coordY a) (f.height - 1)
  (Rd.all ((List.range f.bpp).map fun ch => s.value skip f.frame x y ch)).bind fun vs =>
    Rd.pure [BitVec.ofNat 32 (leNat (vs.map (BitVec.ofNat 8)))]

/-- The block words that RBLK writes (R334). -/
def rblkLane (f : Surface) (a : Word) : List Word :=
  let b := f.blockOf (min (coordX a) (f.width - 1)) (min (coordY a) (f.height - 1))
  (List.range 4).map (f.bword b)

/-- Level k of RSTC: half a register of the eight, saturated (R332). -/
def rstcLevel (ws : List Word) (k : Nat) : Int :=
  let w := ws.getD (1 + k / 2) 0
  let h : BitVec 16 := if k % 2 = 0 then w.extractLsb' 0 16 else w.extractLsb' 16 16
  max (-2048) (min 2047 h.toInt)

/-- One lane of RSTP, RSTC or RSTM at an Open surface (R328, R331 to R333). -/
def State.reliefLane (s : State) (skip : List Nat) (op frame : Nat) (x : Lane) : Wr :=
  match s.surface? frame with
  | none => Rd.pure s
  | some f =>
    let a := x.data.getD 0 0
    let px := coordX a
    let py := coordY a
    if f.width ≤ px ∨ f.height ≤ py then Rd.pure s
    else
      let b := f.blockOf px py
      match op with
      | 1 =>
        s.writePixels skip false frame b (f.bpp * (4 * (py % 4) + px % 4)) ((wordBytes (x.data.getD 1 0)).take f.bpp)
      | 2 =>
        let ch := wfld a 15 14
        if (ch ≠ 0 ∧ f.bpp = 1) ∨ f.nref ≤ (f.blk b).ref then Rd.pure (s.ignLane frame)
        else s.writeLevels skip frame b ch (rstcLevel x.data)
      | _ => s.writeMotion skip frame b (x.data.getD 1 0)

/-- Applies lanes in ascending order. -/
def State.reliefLanes (s : State) (skip : List Nat) (op frame : Nat) : List Lane → Wr
  | [] => Rd.pure s
  | x :: rest => (s.reliefLane skip op frame x).bind fun u => u.reliefLanes skip op frame rest

/-- The answer of the engine to a store of the RELF class. -/
def State.reliefAnswer (s : State) (r : Req) (op frame : Nat) (ok : Bool) : State :=
  s.putReq { r with kind := .relief op frame (some ok), lanes := r.lanes.map fun (x : Lane) => { x with st := .bound } }

/-- A request of the RELF class arrives (R328). -/
def State.relfRequest (s : State) (r : Req) (op frame : Nat) : State :=
  let what := EventOf.relief r.id
  let skip := s.skips what
  let zeros : List Word := if op = 4 then [0, 0, 0, 0] else [0]
  let bindAll (u : State) (vs : List (List Word)) : State :=
    (u.forgive what).putReq { r with lanes := (r.lanes.zip vs).map fun p => p.1.bind p.2 }
  match s.holdSurf r.ctx frame skip with
  | (s1, .absent va) => s1.engineFault r.ctx what va 0
  | (s1, .refused _) => if op = 0 ∨ op = 4 then bindAll s1 (r.lanes.map fun _ => zeros) else s1.reliefAnswer r op frame false
  | (s1, .held) =>
    match s1.surface? frame with
    | none => s1
    | some f =>
      match op with
      | 0 =>
        match Rd.all (r.lanes.map fun x => s1.rldLane skip f (x.data.getD 0 0)) with
        | .absent va => s1.engineFault r.ctx what va 0
        | .val vs bad => bindAll (s1.markBad bad) vs
      | 4 => bindAll s1 (r.lanes.map fun x => rblkLane f (x.data.getD 0 0))
      | _ =>
        if f.st ≠ .open_ then s1.reliefAnswer r op frame false
        else
          match (s1.roomFor skip frame r.lanes.length).bind fun u => u.reliefLanes skip op frame r.lanes with
          | .absent va => s1.engineFault r.ctx what va 0
          | .val s2 bad => ((s2.markBad bad).forgive what).reliefAnswer r op frame true

/-- A lane of an LDG on a relief page has reached its engine: what the team issued before it to its words and blocks has been served (R149,
R326, R339). -/
def State.viewReady (s : State) (r : Req) (n : Nat) (x : Lane) : Bool :=
  (x.attr.raw || x.attr.rlf) && x.st == .pending && !s.blocked r.team r.id x.pa n && !s.blockAhead r x

/-- The loads of an LDG on relief pages (R326), each lane once what reached its blocks before it has been served (R339). -/
def State.viewLoad (s : State) (r : Req) (sz : Size) (sx : Bool) : State :=
  let what := EventOf.relief r.id
  let skip := s.skips what
  let n := sizeBytes sz
  let ls := r.lanes.filter fun x => s.viewReady r n x && !s.placeAhead r.id x.dst (s.laneBlocks r x)
  if ls = [] then s else
  match s.holdFrames r.ctx skip (ls.filterMap fun x => s.viewFrame r.ctx x.va x.pa x.attr).eraseDups with
  | (s1, some va) => s1.engineFault r.ctx what va 0
  | (s1, none) =>
    let read (x : Lane) : Rd (List Byte) :=
      if x.attr.raw then s1.rawBytes skip (s1.leafFrame r.ctx x.va x.pa) x.va n
      else
        match if (s1.codedAt x.pa).isSome then none else s1.poisonIn x.pa n with
        | some l => .absent (poisonMark l)
        | none => Rd.pure (s1.codedBytes x.pa n)
    match Rd.all (ls.map read) with
    | .absent va => s1.engineFault r.ctx what va 0
    | .val bss bad =>
      let got := (ls.zip bss).map fun p => p.1.bind (loadWords sz sx p.2)
      let r1 := got.foldl Req.setLane r
      ((s1.markBad bad).forgive what).putReq r1

/-- A raw-view store of one lane at its Open surface (R321, R326): each byte at its pixel. -/
def State.rawStore (s : State) (skip : List Nat) (ctx : Nat) (x : Lane) (bs : List Byte) : Wr :=
  let frame := s.leafFrame ctx x.va x.pa
  ((List.range bs.length).zip bs).foldl (fun (acc : Wr) p =>
    acc.bind fun u =>
      match u.surface? frame with
      | none => Rd.pure u
      | some f =>
        let o := x.va + p.1 - f.rawva
        let px := o / f.bpp % f.width
        let py := o / f.bpp / f.width
        u.writePixels skip true frame (f.blockOf px py) (f.bpp * (4 * (py % 4) + px % 4) + o % f.bpp) [p.2]) (Rd.pure s)

/-- The raw-view lanes of an STG (R326): every surface must be Open, or the engines refuse. -/
def State.viewStore (s : State) (r : Req) (sz : Size) : State :=
  let what := EventOf.relief r.id
  let skip := s.skips what
  let n := sizeBytes sz
  let ls := r.lanes.filter fun x => x.attr.raw
  let frame (u : State) (x : Lane) : Nat := u.leafFrame r.ctx x.va x.pa
  match s.holdFrames r.ctx skip (ls.map (frame s)).eraseDups with
  | (s1, some va) => s1.engineFault r.ctx what va 1
  | (s1, none) =>
    let isOpen (x : Lane) : Bool := match s1.surface? (frame s1 x) with | some f => f.st == .open_ | none => false
    if ls.all isOpen then
      let room := (ls.map (frame s1)).eraseDups.foldl (fun (acc : Wr) f => acc.bind fun u => u.roomFor skip f (n * ls.length)) (Rd.pure s1)
      let w := ls.foldl (fun (acc : Wr) x => acc.bind fun u => u.rawStore skip r.ctx x (storeBytes sz x.data)) room
      match w with
      | .absent va => s1.engineFault r.ctx what va 1
      | .val s2 bad =>
        let done (x : Lane) : Lane := if x.attr.raw then { x with st := .acked 0 } else x
        ((s2.markBad bad).forgive what).putReq { r with lanes := r.lanes.map done }
    else
      let refuse (x : Lane) : Lane := { x with st := .done, got := [if x.attr.raw && !isOpen x then 1 else 0] }
      (s1.forgive what).putReq { r with lanes := r.lanes.map refuse }

/-- The lanes of a request that have reached their engine and wait there keep their places in the order of arrival (R339). -/
def State.keepPlace (s : State) (id : Nat) (reached : Lane → Bool) : State :=
  match s.req? id with
  | none => s
  | some r =>
    let waits (x : Lane) : Bool := x.st == .pending && x.dst == 0 && reached x
    if r.lanes.any waits then
      ({ s with nextId := s.nextId + 1 } : State).putReq
        { r with lanes := r.lanes.map fun (x : Lane) => if waits x then { x with dst := s.nextId } else x }
    else s

/-- A request of stores or of the RELF class is served whole, once every lane may be: what reached the blocks before it has been served. -/
def State.serveWhole (s : State) (r : Req) (lanes : Lane → Bool) (k : State) : State :=
  (if r.lanes.any fun x => lanes x && s.placeAhead r.id x.dst (s.laneBlocks r x) then s else s.orHold k r.ctx).keepPlace r.id lanes

/-- RELIEF_REQUEST (R326, R328, R339): a request reaches its engine, once the engines have served the earlier accesses of the team to its
blocks and, before a store, the releases of the team have been made (R222). The engine serves a block's requests in arrival order. -/
def execReliefRequest (req : Nat) (s : State) : Res :=
  s.onReq req fun r =>
    let ahead := r.lanes.any fun x => x.st == .pending && s.blockAhead r x
    if s.faulting (.relief req) then s
    else
      match r.kind with
      | .relief op frame none =>
        if ahead ∨ !(r.lanes.any fun x => x.st == .pending) ∨ (op ≠ 0 ∧ op ≠ 4 ∧ s.relAhead r.team r.id) then s
        else s.serveWhole r (fun _ => true) (s.relfRequest r op frame)
      | .ldg sz sx _ _ => (s.viewLoad r sz sx).keepPlace r.id fun x => s.viewReady r (sizeBytes sz) x
      | .stg sz _ _ =>
        if s.heldRelief r && !ahead && !s.relAhead r.team r.id && r.lanes.all fun x => !x.attr.raw || x.st == .pending then
          s.serveWhole r (fun x => x.attr.raw) (s.viewStore r sz)
        else s
      | _ => s

/-- The held team of a relief store goes on: it traps with the refused lanes, or completes (R326, R329). -/
def State.acceptReturn (s : State) (r : Req) (t : Team) (c : Ctl) (a : Fld) : State :=
  let u : Team := { t with hold := none }
  match r.kind with
  | .relief _ _ (some true) => ((s.dropReq r.id).setDeadline r 0).complete c (u.useMarks c [a] [])
  | .relief _ _ (some false) => (s.dropReq r.id).trap u 9 0 u.mask (u.getLow a)
  | .stg _ _ _ =>
    if r.lanes.any fun x => x.attr.raw && x.st == .pending then s
    else
      match (r.lanes.filter fun x => x.got == [1]).map fun (x : Lane) => x.lane with
      | [] => s.complete c (u.useMarks c [a] [])
      | l :: ls => (s.dropReq r.id).trap u 9 0 (maskOf (l :: ls)) (u.get a l)
  | _ => s

/-- RELIEF_ACCEPT_RETURN (R326, R329). -/
def execReliefAcceptReturn (req : Nat) (s : State) : Res :=
  s.onReq req fun r =>
    match s.team? r.team with
    | none => s
    | some t =>
      match t.hold with
      | some (.relief c a q) => if q = r.id then s.acceptReturn r t c a else s
      | _ => s

/-- RELIEF_RESULT_RETURN (R302, R330, R334). -/
def execReliefResultReturn (req : Nat) (s : State) : Res :=
  s.onReq req fun r =>
    match r.kind with
    | .relief op _ _ =>
      if op ≠ 0 ∧ op ≠ 4 then s
      else if !s.current r then s.dropOld r
      else if r.boundAll then s.landReq r
      else s
    | _ => s

/-! ## Seals and evictions -/

/-- The effect of an engine's step, or the page that it waits for (R417). -/
def State.engineStep (s : State) (frame : Nat) (w : Wr) : State :=
  match w with
  | .val u bad => (u.markBad bad).forgive (.seal frame)
  | .absent va =>
    match s.surface? frame with
    | none => s
    | some f => s.engineFault f.ctx (.seal frame) va 1

/-- A step k of an engine on a held surface, whose references are held again first (R340); skip is the answer to an absent page (R417). -/
def State.onSurface (s : State) (surf : Nat) (k : State → List Nat → Wr) : State :=
  let skip := s.skips (.seal surf)
  match s.surface? surf with
  | none => s
  | some f =>
    if s.faulting (.seal surf) then s
    else
      match s.holdSurf f.ctx surf skip with
      | (u, .absent va) => u.engineFault f.ctx (.seal surf) va 0
      | (u, _) => s.orHold (u.engineStep surf (k u skip)) f.ctx

/-- SEAL_BLOCK_COMMIT (R337, R338). -/
def execSealBlockCommit (surf : Nat) (s : State) : Res :=
  s.operational (s.onSurface surf fun u skip => u.sealStep surf skip)

/-- BLOCK_EVICT (R321, R324). -/
def execBlockEvict (surf block : Nat) (s : State) : Res :=
  s.operational (s.onSurface surf fun u skip => u.evictBlock surf block skip)

/-! ## Rays (R341) -/

def Req.ray? (r : Req) (l : Nat) : Option Ray := r.rays.find? fun y => y.lane == l

def Req.setRay (r : Req) (y : Ray) : Req := { r with rays := r.rays.map fun z => if z.lane = y.lane then y else z }

/-- An event of one ray record. -/
def State.onRay (s : State) (req lane : Nat) (k : Req → Ray → State) : Res :=
  s.onReq req fun r =>
    match r.ray? lane with
    | some y => k r y
    | none => s

/-- RAY_RECORD_ARRIVE (R341): the record joins the queue of its datapath. -/
def execRayRecordArrive (req lane : Nat) (s : State) : Res :=
  s.onRay req lane fun r y =>
    if y.st = .travelling then
      ({ s with nextId := s.nextId + 1 }).putReq (r.setRay { y with st := .queued, came := s.nextId })
    else s

/-- The node that a record pops. -/
def Ray.node (y : Ray) : Except Nat Nat :=
  match y.stack with
  | [] => .error 0
  | x :: _ => nodeAt y.frame y.limit y.attr x

/-- The datapath of a bank has a record or request that reached it before (R341). COVR and BINT run on that of bank (core mod 16) of their
core's slice (R353). A record or request whose node an earlier access of its own team still holds back (R149, R185) has no turn yet, and those
behind it go first (notes/assumptions/98.md). -/
def State.datapathAhead (s : State) (slice bank came : Nat) : Bool :=
  s.reqs.any fun r => s.live r &&
    let here (n : Except Nat Nat) : Bool :=
      match n with
      | .ok q => sliceOf q == slice && bankOf q == bank && !s.blocked r.team r.id q 64
      | .error _ => false
    match r.kind with
    | .trace => r.rays.any fun y => y.st == .queued && y.came < came && here y.node
    | .isec op frame limit a => r.lanes.any fun x =>
        x.st == .pending && x.dst != 0 && x.dst < came &&
          (if op = 1 ∨ op = 2 then here (isecNodeAt op frame limit a (x.data.getD 8 0))
           else r.core / 32 == slice && r.core % 16 == bank)
    | _ => false

/-- The node at an address may be read: its datapath serves what reached it before first (R341), no earlier access of the team to
it is on its way, and it is not poisoned (R149, R209). A chisel table is not read (R193). -/
def State.nodeRead (s : State) (r : Req) (came : Nat) (n : Except Nat Nat) (k : State) : State :=
  match n with
  | .error _ => k
  | .ok pa =>
    if s.blocked r.team r.id pa 64 || s.datapathAhead (sliceOf pa) (bankOf pa) came then s
    else if s.tableAt pa 64 then k
    else s.reading r.ctx pa 64 k

/-- RAY_NODE_TEST (R341, R347 to R349). -/
def execRayNodeTest (req lane : Nat) (s : State) : Res :=
  s.onRay req lane fun r y =>
    if y.st ≠ .queued then s else s.nodeRead r y.came y.node (s.putReq (r.setRay (s.rayTest y)))

/-- The results of one lane are written to the banks of its registers, which stay empty until the last lane's record is there (R74,
R341). -/
def State.laneLands (s : State) (r : Req) (x : Lane) : State :=
  s.modTeam r.team fun t =>
    if t.landing.getLsbD x.lane then
      ((List.range r.dests.length).zip r.dests).foldl (fun u p => u.setSlot p.2 x.lane (x.got.getD p.1 0)) t
    else t

/-- RAY_RECORD_RETURN (R302, R341): D to D+7 of the lane are written; the registers become full with the last lane's record. -/
def execRayRecordReturn (req lane : Nat) (s : State) : Res :=
  s.onRay req lane fun r y =>
    match y.st, r.lane? lane with
    | .returning status, some x =>
      let x1 := x.bind (y.results status)
      let r1 := (r.setRay { y with st := .gone }).setLane x1
      if r1.rays.all fun z => z.st == .gone then (if s.current r then s.landReq r1 else s.dropOld r1)
      else if s.current r then (s.laneLands r x1).putReq r1
      else s.putReq r1
    | _, _ => s

/-! ## Single tests (R353) -/

/-- ISEC_NODE_REQUEST (R341, R353): the request reaches its datapath, and is served once what reached it before has been. -/
def execIsecNodeRequest (req lane : Nat) (s : State) : Res :=
  s.onLane req lane fun r x =>
    match r.kind with
    | .isec op frame limit a =>
      if x.st ≠ .pending ∨ (op ≠ 1 ∧ op ≠ 2) then s
      else
        let y : Lane := if x.dst = 0 then { x with dst := s.nextId } else x
        let s1 : State := if x.dst = 0 then { s with nextId := s.nextId + 1 }.putReq (r.setLane y) else s
        s1.nodeRead r y.dst (isecNodeAt op frame limit a (x.data.getD 8 0))
          (s1.putReq (r.setLane (y.bind (s1.isecLane op frame limit a x.data))))
    | _ => s

/-- The lanes of a COVR or BINT have taken their place at their datapath (R341, R353). -/
def State.coverPlace (s : State) (r : Req) : State × Req :=
  if r.lanes.any fun x => x.dst == 0 then
    let r1 : Req := { r with lanes := r.lanes.map fun (x : Lane) => if x.dst = 0 then { x with dst := s.nextId } else x }
    (({ s with nextId := s.nextId + 1 } : State).putReq r1, r1)
  else (s, r)

/-- ISEC_RESULT_RETURN (R302, R353). COVR and BINT read no memory; the datapath of their core serves them in their turn. -/
def execIsecResultReturn (req : Nat) (s : State) : Res :=
  s.onReq req fun r =>
    match r.kind with
    | .isec op frame limit a =>
      if !s.current r then s.dropOld r
      else if op = 1 ∨ op = 2 then (if r.boundAll then s.landReq r else s)
      else
        let p := s.coverPlace r
        if p.2.lanes.any fun x => p.1.datapathAhead (r.core / 32) (r.core % 16) x.dst then p.1
        else p.1.landReq { p.2 with lanes := p.2.lanes.map fun (x : Lane) => x.bind (s.isecLane op frame limit a x.data) }
    | _ => s

end Sys2Proof.Machine
end

