-- ==== Sys2Proof/Machine/StreamEv.lean ====
section
/-!
DEFINITION. The events of the armature units (R354, R360 to R369, R373 to R378) and stream datagrams (R393).
-/

namespace Sys2Proof.Machine

/-! ## Registers (R354, R378) -/

/-- STRM_BASE_WRITE (R354). A base that is not 64 KiB aligned, or of more than 55 bits, is Ignored (R1). -/
def execStrmBaseWrite (ctx : Nat) (hi : Bool) (v : Word) (s : State) : Res :=
  s.onCtx ctx fun _ =>
    s.modCtx ctx fun c =>
      if c.strmEn then c
      else if hi then (if wfld v 31 23 ≠ 0 then c else { c with strmBase := putHi c.strmBase v })
      else if v.toNat % 65536 = 0 then { c with strmBase := putLo c.strmBase v }
      else c

/-- STRM_CFG_WRITE (R354); with a reserved bit it is Ignored (R1, R3). -/
def execStrmCfgWrite (ctx : Nat) (v : Word) (s : State) : Res :=
  s.onCtx ctx fun _ =>
    s.modCtx ctx fun c =>
      if 256 < wfld v 24 16 ∨ 4096 < wfld v 12 0 ∨ wfld v 30 25 ≠ 0 ∨ wfld v 15 13 ≠ 0 then c
      else if c.strmEn then { c with strmCfg := setBits c.strmCfg 31 31 (wfld v 31 31) }
      else { c with strmCfg := v }

/-- What unbinding leaves of a binding (R378). -/
def Binding.unbind (b : Binding) : Binding :=
  { b with
    unbound := true, panes := []
    wins := (b.wins.filter fun w => w.st == .firing || w.st == .amending).map fun w => { w with deliver := [], late := [] } }

/-- STRM_UNB_WRITE (R378); with a reserved bit it is Ignored (R1, R3): instances that are not placed yet are dropped with their records. -/
def execStrmUnbWrite (ctx : Nat) (v : Word) (s : State) : Res :=
  s.onCtx ctx fun _ =>
    let j := wfld v 15 0
    if wfld v 31 16 ≠ 0 then s
    else s.modCtx ctx fun c =>
      match c.binding? j with
      | none => c
      | some b =>
        { c.putBinding b.unbind with insts := c.insts.filter fun x => !(x.bind == j && x.kernel == b.kernel && x.team.isNone) }

/-! ## Sources (R360, R362) -/

/-- The armature units serve the context: they do so while it is Saved as well (R378). -/
def Ctx.armed (c : Ctx) : Bool := c.st != .created && c.st != .reset && c.st != .rollingBack

/-- Source n of stream i exists and is of a kind. -/
def State.source? (s : State) (ctx i n kind : Nat) : Option (Stream × Src) :=
  match s.stream? ctx i with
  | none => none
  | some x =>
    match x.srcs[n]? with
    | none => none
    | some y => if y.en && y.kind == kind then some (x, y) else none

/-- A first ingest holds the stream (R356): k runs when it is held; bad when its descriptor is Refused or the table does not name
it. -/
def State.ingest (s : State) (c : Ctx) (i : Nat) (bad : State → State) (wait k : State → State) : State :=
  if (c.stream? i).isSome then k s
  else if !c.strmEn ∨ c.nstr ≤ i then bad s
  else
    let what := EventOf.armature c.num i 256
    if s.faulting what then wait s
    else
    match s.holdStream c.num i (s.skips what) with
    | (s1, .absent va) => wait (s1.engineFault c.num what va 0)
    | (s1, .refused _) => bad (s1.forgive what)
    | (s1, .held) => k s1

/-- A write of SRC.WP (R356, R360). A first ingest waits for the descriptor's page, and so does the write. -/
def State.srcWpWrite (s : State) (c : Ctx) (stream src : Nat) (v : Word) : State :=
  let wait (u : State) : State := u.modCtx c.num fun y => { y with wpWaits := y.wpWaits ++ [(stream, src, v)] }
  s.ingest c stream id wait fun s1 =>
    match s1.source? c.num stream src 0 with
    | none => s1
    | some (x, y) =>
      if 2 ^ y.log2n < (v - y.rp).toNat ∨ (v - y.rp).toNat < (y.wp - y.rp).toNat then s1
      else
        s1.putStream c.num (x.setSrc src
          { y with wp := v, unseen := y.unseen ++ s1.unseenIn c.num y.ringva y.log2n y.wp v })

/-- SRC_WP_WRITE (R356, R360). -/
def execSrcWpWrite (ctx stream src : Nat) (v : Word) (s : State) : Res :=
  s.onCtx ctx fun c =>
    if !c.armed ∧ (c.st ≠ .rollingBack ∨ (c.stream? stream).isNone) then s else s.srcWpWrite c stream src v

/-- The writes of SRC.WP that wait for a descriptor are made again, in order (R356, R417). -/
def State.retryWp (s : State) (ctx : Nat) : State :=
  match s.ctx? ctx with
  | none => s
  | some c =>
    if c.wpWaits = [] ∨ !c.armed then s
    else
      c.wpWaits.foldl (fun u p => match u.ctx? ctx with | some x => u.srcWpWrite x p.1 p.2.1 p.2.2 | none => u)
        (s.modCtx ctx fun x => { x with wpWaits := [] })

/-- RING_RECORD_READ (R360, R364, R417). Bytes that had not been made visible at the write of SRC.WP are Undefined (R1, R266). -/
def execRingRecordRead (ctx stream src : Nat) (s : State) : Res :=
  s.onCtx ctx fun c =>
    match s.source? ctx stream src 0 with
    | none => s
    | some (x, y) =>
      if !c.armed ∨ y.rp = y.wp ∨ y.held ≠ [] ∨ s.faulting (.armature ctx stream src) then s
      else
        let what := EventOf.armature ctx stream src
        let va := y.ringva + 64 * (y.rp.toNat % 2 ^ y.log2n)
        let n := y.rp.toNat
        let next : Src := { y with rp := y.rp + 1, unseen := y.unseen.filter fun p => p.1 != n }
        match s.engineRead ctx (s.skips what) va 64 with
        | .absent a => s.engineFault ctx what a 0
        | .val none _ =>
          (s.forgive what).putStream ctx ({ x with badrec := min 65535 (x.badrec + 1) }.setSrc src next)
        | .val (some bs) _ =>
          let b := (s.forgive what).blur 0 (fun i => y.unseen.contains (n, i)) bs
          (b.2.putStream ctx (x.setSrc src next)).arriveItem ctx stream src none (bytesWords b.1)

/-- SOURCE_IDLE_TIMEOUT (R362). -/
def execSourceIdleTimeout (ctx stream src : Nat) (s : State) : Res :=
  s.onCtx ctx fun c =>
    match s.stream? ctx stream with
    | none => s
    | some x =>
      match x.srcs[src]? with
      | none => s
      | some y =>
        if !c.armed ∨ x.idle = 0 ∨ !y.en ∨ y.st = .idle ∨ s.now < y.seen + 1000 * x.idle then s
        else (s.putStream ctx (x.idleSrc src)).fireStream ctx stream

/-! ## Records to and from teams (R373 to R375) -/

/-- The words of a lane that receives no record (R373). -/
def noRecord : List Word := [0, 0, 0, 0x80000000#32] ++ List.replicate 12 0

/-- Gives records to lanes in turn. -/
def giveRecords : List Lane → List (List Word) → List Lane
  | [], _ => []
  | x :: rest, [] => x.bind noRecord :: giveRecords rest []
  | x :: rest, r :: rs => x.bind r :: giveRecords rest rs

/-- RNEXT and LATEQ (R373): the record lands, and the acquire that follows it waits for the earlier loads (R167, R377). -/
def State.deliver (s : State) (r : Req) (op inst : Nat) : State :=
  if !s.boundDone r.team r.id then s else
  match s.ctx? r.ctx with
  | none => s
  | some c =>
    match c.inst? inst with
    | none => s.landReq { r with lanes := r.lanes.map fun (x : Lane) => x.bind noRecord }
    | some i =>
      let landed (u : State) (ls : List Lane) : State := (u.landReq { r with lanes := ls }).acquire r.core .device
      if op = 6 then landed s (r.lanes.map fun (x : Lane) => x.bind i.recd)
      else if i.amend then landed s (r.lanes.map fun (x : Lane) => x.bind noRecord)
      else
        match (c.binding? i.bind).bind fun b => (b.win? i.k).map fun w => (b, w) with
        | none => landed s (r.lanes.map fun (x : Lane) => x.bind noRecord)
        | some (b, w) =>
          landed (s.putBinding r.ctx (b.putWin { w with deliver := w.deliver.drop r.lanes.length }))
            (giveRecords r.lanes w.deliver)

/-- An earlier stream request of the team of one of the kinds is on its way. -/
def State.strmAhead (s : State) (r : Req) (kinds : List Nat) : Bool :=
  s.reqs.any fun q => q.team == r.team && q.id < r.id && match q.kind with | .strm op _ => kinds.contains op | _ => false

/-- RECORD_DELIVERY (R302, R373 to R375): a record lands, or what REMIT, WMARK or SIDLE sent is accepted, in the team's program order: not
while an earlier record of it waits for room (R364, R374). -/
def execRecordDelivery (req : Nat) (s : State) : Res :=
  s.onReq req fun r =>
    match r.kind with
    | .strm op inst =>
      if op = 1 ∨ op = 6 then
        (if !s.current r then s.dropOld r else if s.strmAhead r [1, 6] then s else s.deliver r op inst)
      else if s.strmAhead r [2, 3, 4] ∨ s.emittedWaits r.ctx r.team ∨ !s.releaseDone r.team .device r.id then s
      else r.lanes.foldl (fun u x => u.arriveItem r.ctx x.va x.dst (some r.team) x.data) (s.dropReq r.id)
    | _ => s

/-! ## Windows (R364 to R367) -/


/-- The watermark that a binding's results propose (R367): WM, or one below the least end of a Firing window. -/
def Binding.outWm (b : Binding) (wm : Int) : Int :=
  (b.wins.filter fun w => w.st == .firing).foldl (fun m w => min m (b.end_ w.k - 1)) wm

/-- A watermark is one that a source has, or that waits behind a record which the source holds. -/
def Src.proposed (y : Src) (v : Int) : Bool :=
  decide (v ≤ y.swm) || y.held.any fun h => match h.2 with | [lo, hi, _] => decide (v ≤ s64 lo hi) | _ => false

/-- The output source's watermark advances (R367): the proposal waits behind what the source holds, as a WMARK would (R364). -/
def State.proposeOut (s : State) (ctx : Nat) (b : Binding) (wm : Int) : State :=
  let v := b.outWm wm
  if !b.out || b.unbound then s
  else
    match s.stream? ctx b.outstr with
    | none => s
    | some x =>
      match x.srcs[b.outsrc]? with
      | none => s
      | some y => if y.proposed v then s else s.arriveItem ctx b.outstr b.outsrc none [lo32 v, hi32 v, 0]

/-- One binding: what is due fires, what is over closes, and its results' watermark follows. -/
def State.passBinding (s : State) (ctx j : Nat) : State :=
  let s1 := s.fireBinding ctx j
  match s1.binding? ctx j with
  | none => s1
  | some b =>
    match s1.stream? ctx b.instr with
    | none => s1
    | some x => s1.proposeOut ctx b x.wm

/-- The items that a source holds are taken in order while there is room (R364); fuel bounds their number. -/
def State.passSource (s : State) (ctx i n : Nat) : Nat → State
  | 0 => s
  | fuel + 1 =>
    match s.stream? ctx i with
    | none => s
    | some x =>
      match x.srcs[n]? with
      | none => s
      | some y =>
        match y.held with
        | [] => s
        | (_, item) :: rest =>
          match s.takeItem ctx i n item with
          | (false, u) => u
          | (true, u) =>
            match u.stream? ctx i with
            | none => u
            | some x1 =>
              match x1.srcs[n]? with
              | none => u
              | some y1 => (u.putStream ctx (x1.setSrc n { y1 with held := rest })).passSource ctx i n fuel

/-- The armature units of a context: bindings, then sources that hold items. -/
def State.armature (s : State) (c : Ctx) : State :=
  if !c.armed then s
  else
    let s1 := (c.bindings.map (·.idx)).foldl (fun u j => u.passBinding c.num j) s
    c.streams.foldl (fun u x =>
      (List.range x.srcs.length).foldl (fun v n =>
        match x.srcs[n]? with
        | some y => v.passSource c.num x.idx n y.held.length
        | none => v) u) s1

/-- The revision record of a window (R367). -/
def revisionRecord (b : Binding) (w : Win) : List Word :=
  let e := b.end_ w.k - 1
  let a := b.start w.k
  let va : Int := b.line w.k
  [lo32 e, hi32 e, lo32 w.k, 0x00010000#32, w.revision, lo32 a, hi32 a, lo32 va, hi32 va] ++ List.replicate 7 0

/-- The window of an instance that has ended (R365, R367). -/
def State.endInst (s : State) (ctx : Nat) (x : Inst) : State :=
  let s1 := s.modCtx ctx fun c => { c with insts := c.insts.filter fun y => y.id != x.id }
  match s1.binding? ctx x.bind with
  | none => s1
  | some b =>
    if b.kernel ≠ x.kernel then s1
    else
      match b.win? x.k with
      | none => s1
      | some w =>
        if x.amend then
          let w1 : Win := { w with st := .fired, revision := w.revision + 1 }
          let s2 := s1.putBinding ctx (b.putWin w1)
          if b.out then s2.arriveItem ctx b.outstr b.outsrc none (revisionRecord b w1) else s2
        else s1.putBinding ctx (b.putWin { w with st := .fired, deliver := [], published := true })

/-- INSTANCE_END (R365): the team has exited, its accesses are acknowledged and their deadlines have passed. -/
def execInstanceEnd (ctx team : Nat) (s : State) : Res :=
  s.onCtx ctx fun c =>
    match c.insts.find? fun x => x.team == some team, s.team? team with
    | some x, some t =>
      if t.st ≠ .exited ∨ (s.reqs.any fun r => r.team == team) ∨ (s.deadlines.any fun d => d.team == team) then s
      else s.endInst ctx x
    | _, _ => s

/-! ## Datagrams (R393) -/

/-- The filter word fields. -/
def Filter.ctx (f : Filter) : Nat := wfld f.w1 23 16
def Filter.stream (f : Filter) : Nat := wfld f.w1 15 8
def Filter.src (f : Filter) : Nat := wfld f.w1 4 0

/-- A datagram is dropped and counted. -/
def State.dropGram (s : State) (i : Nat) : State :=
  match s.filters[i]? with
  | none => s
  | some f => { s with filters := s.filters.set i { f with drop := min 65535 (f.drop + 1) } }

/-- Bytes in the receive buffer of an Ethernet port: records that its sources hold back, and records whose stream is not held. -/
def State.ethHeld (s : State) (eth : Nat) : Nat :=
  let fs := ((List.range 64).filterMap fun i => s.filters[64 * eth + i]?).filter fun f => wbit f.w0 31
  let held (p : Nat × Nat × Nat) : Nat := match s.source? p.1 p.2.1 p.2.2 1 with | some (_, y) => y.held.length | none => 0
  64 * (((fs.map fun f => (f.ctx, f.stream, f.src)).eraseDups.map held).sum +
    ((s.ethBuf.filter fun b => b.1 == eth).map fun b => b.2.2.length).sum)

/-- Bytes in a port buffer: records, and the placements and messages that wait on pages (R390). -/
def State.ethFull (s : State) (eth : Nat) : Nat :=
  s.ethHeld eth + ((s.inbound.filter fun r => r.eth == some eth).map (·.n)).sum

/-- 64-byte records of a payload; fuel is more than their number. -/
def gramRecords : Nat → List Byte → List (List Word)
  | 0, _ => []
  | fuel + 1, bs => if bs.isEmpty then [] else bytesWords (bs.take 64) :: gramRecords fuel (bs.drop 64)

/-- Records reach the source that filter i names; wait says what an absent descriptor does. -/
def State.gramArrive (s : State) (i : Nat) (rs : List (List Word)) (wait : State → State) : State :=
  match s.filters[i]? with
  | none => s
  | some f =>
    match s.ctx? f.ctx with
    | none => s.dropGram i
    | some c =>
      if !c.armed then s.dropGram i
      else
        s.ingest c f.stream (fun u => u.dropGram i) wait fun u =>
          match u.source? f.ctx f.stream f.src 1 with
          | none => u.dropGram i
          | some _ => rs.foldl (fun v r => v.arriveItem f.ctx f.stream f.src none r) u

/-- STREAM_DATAGRAM (R360, R393): the lowest matching filter takes it. -/
def execStreamDatagram (eth port : Nat) (payload : List Byte) (s : State) : Res :=
  s.operational
    (match (List.range 64).find? fun i => match s.filters[64 * eth + i]? with
        | some f => wbit f.w0 31 && wfld f.w0 15 0 == port
        | none => false with
     | none => s
     | some j =>
       let i := 64 * eth + j
       if 4 ≤ eth then s
       else if payload.length % 64 ≠ 0 ∨ 2097152 < s.ethFull eth + payload.length then s.dropGram i
       else
         let rs := gramRecords (payload.length + 1) payload
         if s.ethBuf.any fun b => b.1 == eth && b.2.1 == j then { s with ethBuf := s.ethBuf ++ [(eth, j, rs)] }
         else s.gramArrive i rs fun (u : State) => { u with ethBuf := u.ethBuf ++ [(eth, j, rs)] })

/-- Records in a port buffer whose stream can be held now reach their source; those that still wait stay, in order. -/
def State.drainEth (s : State) : State :=
  s.ethBuf.foldl (fun u b =>
    u.gramArrive (64 * b.1 + b.2.1) b.2.2 fun (w : State) => { w with ethBuf := w.ethBuf ++ [b] }) { s with ethBuf := [] }

end Sys2Proof.Machine
end

