-- ==== Sys2Proof/Machine/LinkEv.lean ====
section
/-!
DEFINITION. The links, the Ethernet ports, the host port and register writes (R8, R264, R290, R297, R298, R354, R379 to R394).
-/

namespace Sys2Proof.Machine

/-! ## Scale-up ports (R379 to R382) -/

def State.port (s : State) (p : Nat) : Port := s.ports.getD p Port.reset

def State.setPort (s : State) (p : Nat) (x : Port) : State := { s with ports := s.ports.set p x }

/-- LINK_ID_WRITE (R379); with a reserved bit it is Ignored (R1, R3). -/
def execLinkIdWrite (v : Word) (s : State) : Res :=
  s.operational (if (s.ports.all fun p => p.st == .down) && wfld v 31 10 == 0 then { s with linkId := wfld v 9 0 } else s)

/-- LINK_EN_SET (R380). -/
def execLinkEnSet (port : Nat) (s : State) : Res :=
  s.operational (if (s.port port).st = .down then s.setPort port { s.port port with en := true, st := .training } else s)

/-- LINK_TRAINED (R380). -/
def execLinkTrained (port : Nat) (s : State) : Res :=
  s.operational (if (s.port port).st = .training then s.setPort port { s.port port with st := .negotiating } else s)

/-- ERR rises by 1, saturating (R380). -/
def Port.fail (x : Port) : Port := { x with err := min 255 (x.err + 1) }

/-- LINK_TRAIN_TIMEOUT (R380). -/
def execLinkTrainTimeout (port : Nat) (s : State) : Res :=
  s.operational (if (s.port port).st = .training then s.setPort port { (s.port port).fail with st := .down } else s)

/-- The agreed version of an interface for which the 960 sends (1, 0): major and minor in one byte, 0 for none (R381). -/
def agreed (offer : List (Nat × Nat)) : Nat := if offer.any fun x => x.1 == 1 then 16 else 0

/-- LINK_NEGOTIATED (R380 to R382): the 960 advertises every capability bit. -/
def execLinkNegotiated (port : Nat) (offer : LinkOffer) (s : State) : Res :=
  s.operational
    (let x := s.port port
     if x.st ≠ .negotiating then s
     else if agreed offer.lcap = 0 then s.setPort port { x with st := .refused }
     else
       s.setPort port { x with
         st := .up, cap := offer.caps, peer := offer.peer % 1024,
         ver := BitVec.ofNat 32 (2 ^ 24 * agreed offer.lcap + 65536 * agreed offer.relf + 256 * agreed offer.srec + agreed offer.save) })

/-- A line of n bytes at pa goes by a port. -/
def State.spanOn (s : State) (port pa n : Nat) : Bool :=
  isRemote pa && n != 0 &&
  (List.range (min 1024 ((pa + n - 1) / 64 - pa / 64 + 1))).any fun i => s.portOf (64 * (pa / 64 + i)) == some port

/-- The contexts with a remote load, store, atomic or matrix drain on its way through a port (R380). -/
def State.onPort (s : State) (port : Nat) : List Nat :=
  (s.reqs.filter fun r =>
    (r.lanes.any fun x => x.st != .bound && x.st != .done && (r.kind.laneSpans x).any fun p => s.spanOn port p.1 p.2) ||
    match r.kind with | .tile (some d) _ => s.spanOn port d.pa 4 | _ => false).map (·.ctx) |>.eraseDups

/-- The copy commands whose bytes are on their way through a port. -/
def State.copiesOn (s : State) (port : Nat) : List Copyc :=
  s.copies.filter fun k => k.ready.isSome && !k.complete && !k.failed && k.wrote.any fun p => s.spanOn port p.1 p.2

/-- A port leaves Up: what it carried completes with "link error", which contains the context of a load, store or atomic and fences the port
(R310, R380), and stops a copy command (R174). -/
def State.losePort (s : State) (port : Nat) (x : Port) : State :=
  let s1 := (s.onPort port).foldl (fun u c => u.strike c (some (.port port)) none) (s.setPort port x)
  (s.copiesOn port).foldl (fun u k => if (u.copy? k.id).isSome then u.stopCopy { k with ready := none } else u) s1

/-- LINK_EN_CLEAR (R380). -/
def execLinkEnClear (port : Nat) (s : State) : Res :=
  s.operational (s.losePort port { s.port port with en := false, st := .down, err := 0, cap := 0, ver := 0 })

/-- LINK_FAILURE (R380). -/
def execLinkFailure (port : Nat) (s : State) : Res :=
  s.operational
    (if (s.port port).st = .up then s.losePort port { (s.port port).fail with st := .training, cap := 0, ver := 0 } else s)

/-- LINK_PORT_ERROR (R380). -/
def execLinkPortError (port : Nat) (s : State) : Res :=
  s.operational
    (if (s.port port).st = .up then s.losePort port { (s.port port).fail with st := .fenced, cap := 0, ver := 0 } else s)

/-! ## Foreign accesses (R294, R384, R386) -/

/-- What a foreign access does. -/
inductive InEnd where
  | done (s : State) (data : List Byte)
  | refused (s : State)
  | absent (s : State) (va : Nat)
  | hold (s : State)

/-- A page allows a foreign access (R294, R384, R386). -/
def foreignOk (work : InWork) (relq : Bool) (a : Attr) : Bool :=
  match work with
  | .read => !a.rlf || relq
  | .write _ => a.w && !a.rlf && (!a.raw || relq)
  | .atom _ _ _ => a.w && !a.rlf && !a.raw

/-- The pieces of a foreign access: none where a page is forbidden. -/
def State.foreignSpan (s : State) (x : Inbound) : Rd (Option (List (Nat × Nat × Nat × Attr))) :=
  let seg (p : Nat × Nat) : Rd (Option (Nat × Nat × Nat × Attr)) :=
    match s.agentSeg x.ctx (s.skips (.foreign x.key)) p.1 with
    | .bad => Rd.pure none
    | .fault _ => .absent p.1
    | .ok pa a =>
      if s.unreachable pa || s.tableAt pa p.2 || !foreignOk x.work x.relq a || (a.raw && s.rawOutside x.ctx p.1 pa p.2) then Rd.pure none
      else Rd.pure (some (p.1, pa, p.2, a))
  (Rd.all ((pieces x.va x.n).map seg)).bind fun xs => Rd.pure (if xs.all (·.isSome) then some (xs.filterMap id) else none)

/-- A lane record for one piece of a foreign write to a raw view. -/
def pieceLane (va pa : Nat) (a : Attr) : Lane := { valueLane 0 [] with va := va, pa := pa, attr := a }

/-- A foreign write of the pieces (R161, R326, R386), the cache of an engine making room for what it takes (R324). -/
def State.foreignWrite (s : State) (x : Inbound) (skip : List Nat) : List (Nat × Nat × Nat × Attr) → List Byte → Rd (Option State)
  | [], _ => Rd.pure (some s)
  | (va, pa, n, a) :: rest, bs =>
    if a.raw then
      match s.surface? (s.leafFrame x.ctx va pa) with
      | none => Rd.pure none
      | some f =>
        if f.st ≠ .open_ then Rd.pure none
        else
          (s.roomFor skip f.frame n).bind fun v =>
            (v.rawStore skip x.ctx (pieceLane va pa a) (bs.take n)).bind fun u => u.foreignWrite x skip rest (bs.drop n)
    else (s.softWrite x.ctx pa (bs.take n)).foreignWrite x skip rest (bs.drop n)

/-- The twenty operations by number (R60). -/
def atomOpOf (n : BitVec 5) : Option AtomOp :=
  ([.ld, .st, .xchg, .cas, .add, .and, .or, .xor, .minS, .maxS, .minN, .maxN, .incw, .decw, .addb, .fadd, .fmin, .fmax, .add64,
    .xchg64] : List AtomOp)[n.toNat]?

/-- A foreign access is served as an engine agent (R384, R386, R394). -/
def State.serve (s : State) (x : Inbound) : InEnd :=
  let skip := s.skips (.foreign x.key)
  if 2 ^ 55 < x.va + x.n then .refused s
  else
    match s.foreignSpan x with
    | .absent va => .absent s va
    | .val none _ => .refused s
    | .val (some sp) _ =>
      if s.placeAhead 0 x.key (s.inboundBlocks x) then .hold s else
      let frames := (sp.filterMap fun p => s.viewFrame x.ctx p.1 p.2.1 p.2.2.2).eraseDups
      match s.holdFrames x.ctx skip frames with
      | (s2, some va) => .absent s2 va
      | (s2, none) =>
        let read (p : Nat × Nat × Nat × Attr) : Rd (List Byte) :=
          if p.2.2.2.raw then s2.rawBytes skip (s2.leafFrame x.ctx p.1 p.2.1) p.1 p.2.2.1
          else if p.2.2.2.rlf then Rd.pure (s2.codedBytes p.2.1 p.2.2.1)
          else Rd.pure (s2.phys p.2.1 p.2.2.1)
        let poison := sp.findSome? fun p => if p.2.2.2.raw then none else s2.poisonIn p.2.1 p.2.2.1
        match x.work with
        | .read =>
          match poison with
          | some l => .refused (s2.contain x.ctx (some l))
          | none =>
            match Rd.all (sp.map read) with
            | .absent va => .absent s2 va
            | .val bs bad => .done (s2.markBad bad) bs.flatten
        | .write bs =>
          match s2.stageAll x.ctx ((sp.filter fun p => !p.2.2.2.raw).map fun p => (p.2.1, p.2.2.1)) with
          | none => .hold s2
          | some s3 =>
            match s3.foreignWrite x skip sp bs with
            | .absent va => .absent s3 va
            | .val none _ => .refused s3
            | .val (some s4) bad =>
              match s3.paid (s4.markBad bad) x.ctx with
              | none => .hold s
              | some s5 => .done s5 []
        | .atom op v w =>
          match poison, atomOpOf op, sp with
          | some l, _, _ => .refused (s2.contain x.ctx (some l))
          | none, some o, (_, pa, n, _) :: [] =>
            let old := leNat (s2.phys pa n)
            match o.stored old v.toNat w.toNat with
            | none => .done s2 (leBytes n old)
            | some new =>
              match s2.stageAll x.ctx [(pa, n)] with
              | none => .hold s2
              | some s3 =>
                let b := s3.blurHeld pa (leBytes n new)
                .done ((b.2.engineWrite x.ctx pa b.1).dropLine pa) (leBytes n old)
          | none, _, _ => .refused s2

/-- The words of the pages that a foreign write reached: the leases on them hold its acknowledgement back (R161, R386). -/
def State.inboundWords (s : State) (x : Inbound) : List Nat :=
  (pieces x.va x.n).flatMap fun p =>
    match s.engineSeg x.ctx p.1 with
    | .ok pa a => if a.raw then [] else wordsOf pa p.2
    | _ => []

/-- The device answers a foreign access that has been served. The acknowledgement of a write leaves after its completion delay and 10 ns
(R386); of a message or placement at once, with overflow when the buffer did not hold it all (R391). -/
def State.answer (s : State) (x : Inbound) (data : List Byte) : State :=
  match x.work with
  | .write _ =>
    let o := Out.status x.id (if x.n < x.full then 6 else 0) x.full
    if x.eth.isSome then s.say o
    else { s with acks := s.acks ++ [(s.now + s.completionDelay (s.inboundWords x) + 10, o)] }
  | _ => s.say (.data x.id data)

/-- Answers whose time has come leave (R386, R387). -/
def State.sendAcks (s : State) : State :=
  (s.acks.filter fun a => a.1 ≤ s.now).foldl (fun u a => u.say a.2)
    { s with acks := s.acks.filter fun a => !(decide (a.1 ≤ s.now)) }

/-- A request that waits is no longer waiting. -/
def State.dropInbound (s : State) (key : Nat) : State := { s with inbound := s.inbound.filter fun y => y.key != key }

/-- A request waits. -/
def State.keepInbound (s : State) (x : Inbound) : State :=
  if s.inbound.any fun y => y.key == x.key then { s with inbound := s.inbound.map fun y => if y.key = x.key then x else y }
  else { s with inbound := s.inbound ++ [x] }

/-- A pair (MAQN, sequence) lies above another (R389). -/
def above (p q : Nat × Nat) : Bool := q.1 < p.1 || (q.1 == p.1 && q.2 < p.2)

/-- The tag of a write or message lies above what has been applied of its sender's context (R389). -/
def State.tagFresh (s : State) (x : Inbound) : Bool :=
  match x.tag with
  | none => true
  | some (k, p) =>
    match s.applied.find? fun y => y.1 == k with
    | none => true
    | some y => above p y.2

/-- A write or message has been applied: its pair is the highest of its sender's context (R389). -/
def State.apply (s : State) (x : Inbound) : State :=
  match x.tag with
  | none => s
  | some (k, p) => { s with applied := (k, p) :: s.applied.filter fun y => y.1 != k }

/-- Two requests meet a line: by address in one context, or where their pages are present. -/
def State.lineMeets (s : State) (x y : Inbound) : Bool :=
  let lines (a n : Nat) : Nat × Nat := (a / 64, (a + n - 1) / 64 - a / 64 + 1)
  let meet (p q : Nat × Nat) : Bool := overlaps (lines p.1 p.2).1 (lines p.1 p.2).2 (lines q.1 q.2).1 (lines q.1 q.2).2
  let runs (z : Inbound) : List (Nat × Nat) :=
    (pieces z.va z.n).filterMap fun p => match s.engineSeg z.ctx p.1 with | .ok pa _ => some (pa, p.2) | _ => none
  (x.ctx == y.ctx && meet (x.va, x.n) (y.va, y.n)) || (runs x).any fun p => (runs y).any (meet p)

/-- A link request waits behind an earlier one to the same line that waits: the requests of one partner are registered in arrival order, and
an atomic follows the earlier writes of every link (R386). -/
def State.lineAhead (s : State) (x : Inbound) : Bool :=
  let reads (z : Inbound) : Bool := match z.work with | .read => true | _ => false
  let writes (z : Inbound) : Bool := match z.work with | .write _ => true | _ => false
  x.peer.isSome && s.inbound.any fun y =>
    y.key < x.key && y.peer.isSome && !(reads x && reads y) && (y.peer == x.peer || (writes y && !reads x && !writes x)) && s.lineMeets x y

/-- Serves a link, host or Ethernet request; an absent page is waited for, with the event "page fault" (R384, R392, R394, R417), and so is a
staging frame (R308). What has been applied before is discarded and acknowledged (R389). -/
def State.serveOrWait (s : State) (x : Inbound) : State :=
  if s.faulting (.foreign x.key) then s
  else if !s.tagFresh x then (s.dropInbound x.key).say (.status x.id 0 x.full)
  else if s.lineAhead x then s.keepInbound { x with held := true }
  else
    match s.serve x with
    | .done u data => (((u.forgive (.foreign x.key)).dropInbound x.key).apply x).answer x data
    | .refused u => ((u.forgive (.foreign x.key)).dropInbound x.key).say (.status x.id x.refusal x.full)
    | .hold u => u.keepInbound { x with held := true }
    | .absent u va =>
      let v := u.engineFault x.ctx (.foreign x.key) va (match x.work with | .read => 0 | _ => 1)
      if (u.stopPoison x.ctx va).isSome then (v.dropInbound x.key).say (.status x.id x.refusal x.full)
      else v.keepInbound { x with held := false }

/-- A request with a number of the machine's own. -/
def State.serveNew (s : State) (x : Inbound) : State := { s with nextId := s.nextId + 1 }.serveOrWait { x with key := s.nextId }

/-- Requests that waited are tried again in arrival order, each once its event has been completed (R417). -/
def State.retryInbound (s : State) : State := s.inbound.foldl (fun u x => u.serveOrWait x) s

/-! ## Inbound link requests (R384, R386, R389) -/

/-- The inbound request of a link request: the window gives the context and the address (R384). -/
def State.inboundOf (s : State) (q : LinkReq) (work : InWork) : Option Inbound :=
  let w := s.inwin.getD (bits q.addr 47 40) (0, 0)
  let x := s.port q.port
  if 64 ≤ bits q.addr 47 40 ∨ !wbit w.1 31 ∨ (s.ctx? (wfld w.1 7 0)).isNone then none
  else
    some { id := q.id, ctx := wfld w.1 7 0, va := wfld w.2 14 0 * 2 ^ 40 + bits q.addr 39 0, n := q.n, work := work,
           relq := x.cap.getLsbD 1 && x.relief, eth := none, full := q.n, since := s.now, key := 0, tag := none, held := false, refusal := 1,
           peer := some x.peer }

/-- A request at a port that is Up; an unmapped window refuses it (R380, R384). -/
def State.onLink (s : State) (q : LinkReq) (work : InWork) (k : Inbound → State) : Res :=
  s.operational
    (if (s.port q.port).st ≠ .up then s
     else
       match s.inboundOf q work with
       | none => s.say (.status q.id 1 q.n)
       | some x => k x)

/-- INBOUND_READ (R386). -/
def execInboundRead (q : LinkReq) (s : State) : Res := s.onLink q .read s.serveNew

/-- INBOUND_WRITE (R386, R389): the tag counts only on a port with MSEQ. -/
def execInboundWrite (q : LinkReq) (bytes : List Byte) (s : State) : Res :=
  s.onLink { q with n := bytes.length } (.write bytes) fun x =>
    s.serveNew { x with tag := if (s.port q.port).cap.getLsbD 3 then q.seq.map fun p => ((q.dev, q.sctx), p) else none }

/-- INBOUND_ATOMIC (R385, R386): the operations beyond UALink's own need XATOM; a misaligned one is refused. -/
def execInboundAtomic (q : LinkReq) (op : BitVec 5) (v w : Word) (s : State) : Res :=
  let n := match atomOpOf op with | some o => o.bytes | none => 4
  s.onLink { q with n := n } (.atom op v w) fun x =>
    match atomOpOf op with
    | none => s.say (.status q.id 1 n)
    | some o =>
      if x.va % n ≠ 0 ∨ (!o.plain ∧ !(s.port q.port).cap.getLsbD 4) then s.say (.status q.id 1 n) else s.serveNew x

/-- INBOUND_FAULT_TIMEOUT (R384): a link request has waited 10 ms for a page. -/
def execInboundFaultTimeout (id : Nat) (s : State) : Res :=
  s.operational
    (match s.inbound.find? fun x => x.id == id && x.eth.isNone && x.refusal == 1 && !x.held && x.since + 10000000 ≤ s.now with
     | none => s
     | some x => (s.dropInbound x.key).say (.status id 2 x.n))

/-- SWITCH_INVALIDATION (R387): the L2 copy of a line, by partner and link address / 64, is dropped. No L1 holds a lease on a remote word
(R385), so the acknowledgement leaves after 10 ns. -/
def execSwitchInvalidation (line : Nat) (s : State) : Res :=
  s.operational
    { s with ssLines := s.ssLines.filter fun l => l.1 != line, acks := s.acks ++ [(s.now + 10, .invAck line)] }

/-- COLLECTIVE_ABORT (R311, R388): the contributions of the context to one collective complete with "member reset". The manual gives no code
for it, so the reply words are Undefined (notes/assumptions/88.md). -/
def execCollectiveAbort (ctx : Nat) (coll : Word) (s : State) : Res :=
  s.onCtx ctx fun c =>
    ((s.contributions c).filter fun x => x.2.1 == coll).foldl (fun (u : State) x =>
      let w (i : Nat) : Word := Config.freeWord (u.freeCtr + i)
      ({ u with freeCtr := u.freeCtr + 4 }.modCtx ctx fun y =>
        { y with sysc := y.sysc.map fun (z : SyscEntry) =>
            if z.n = x.1.n then { z with st := .serviced, reply := [w 0, w 1, w 2, w 3] } else z }).say (.memberReset ctx coll)) s

/-! ## Ethernet (R391, R392) -/

/-- The inbound request of a message or placement. -/
def ethInbound (q : EthReq) (bytes : List Byte) (now full : Nat) : Inbound :=
  { id := q.id, ctx := q.ctx, va := q.va, n := bytes.length, work := .write bytes, relq := false, eth := some q.eth, full := full,
    since := now, key := 0, tag := q.seq.map fun p => ((q.dev, q.sctx), p), held := false, refusal := 1 }

/-- Bytes that wait in the buffer of an Ethernet port. -/
def State.ethWaiting (s : State) (eth : Nat) : Nat :=
  ((s.inbound.filter fun x => x.eth == some eth).map (·.n)).sum + s.ethHeld eth

/-- A message or placement is served, or waits in the port buffer while there is room; without room its transfer has ended, and what
still comes of it is dropped (R392). -/
def State.place (s : State) (q : EthReq) (x : Inbound) : State :=
  if s.ended.contains x.id then s
  else
    let u := s.serveNew x
    if (u.inbound.any fun y => y.key == s.nextId) && 2097152 < u.ethWaiting q.eth then
      { u with inbound := u.inbound.filter (fun y => !(y.id == x.id && y.eth.isSome)), ended := x.id :: u.ended }.say
        (.status x.id 2 x.full)
    else u

/-- ETH_MESSAGE_RECEIVE (R389, R391): the buffer takes what fits; an overflow reports the full length. -/
def execEthMessageReceive (q : EthReq) (bytes : List Byte) (s : State) : Res :=
  s.onCtx q.ctx fun _ => s.place q (ethInbound q (bytes.take q.len) s.now bytes.length)

/-- RDMA_PLACEMENT (R389, R392). -/
def execRdmaPlacement (q : EthReq) (bytes : List Byte) (s : State) : Res :=
  s.onCtx q.ctx fun _ => s.place q (ethInbound q bytes s.now bytes.length)

/-! ## The host (R394) -/

/-- HOST_BAR2_ACCESS (R394, R417): an access that is refused ends with Completer Abort, one that a page holds waits for it. The answer bears
the number 0. -/
def execHostBar2Access (ctx off n : Nat) (wr : Option (List Byte)) (s : State) : Res :=
  s.onCtx ctx fun c =>
    let len := match wr with | some bs => bs.length | none => n
    let work : InWork := match wr with | some bs => .write bs | none => .read
    let x : Inbound := { id := 0, ctx := ctx, va := c.vfwin.toNat + off, n := len, work := work, relq := false, eth := none, full := len,
                         since := s.now, key := 0, tag := none, held := false, refusal := 4 }
    if 2 ^ 34 < off + len then s.say (.status 0 4 len) else s.serveNew x

/-! ## Registers (R8) -/

/-- VFWIN: a base that is not 16 GiB aligned, or of more than 55 bits, is Ignored (R1, R394). -/
def Ctx.writeWin (c : Ctx) (hi : Bool) (v : Word) : Ctx :=
  if hi then (if v.toNat % 4 = 0 ∧ wfld v 31 23 = 0 then { c with vfwin := putHi c.vfwin v } else c)
  else if v = 0 then { c with vfwin := putLo c.vfwin v }
  else c

/-- POOL.BASE: a base that is not 8-byte aligned is Ignored (R1, R290). -/
def Pool.writeBase (p : Pool) (hi : Bool) (v : Word) : Pool :=
  if hi then { p with base := putHi p.base v } else if v.toNat % 8 = 0 then { p with base := putLo p.base v } else p

/-- A register of the physical function; offsets that no rule lists, and values with a reserved bit, are Ignored (R1, R3). -/
def State.pfWrite (s : State) (off : Nat) (v : Word) : Res :=
  let k := off % 16 / 4
  if off % 4 ≠ 0 then .next s
  else if 0x8000 ≤ off ∧ off < 0x8000 + 32 * 12 then
    let sl := (off - 0x8000) / 32
    match (off - 0x8000) % 32 with
    | 0x00 => s.operational (s.setPool sl ((s.pool sl).writeBase false v))
    | 0x04 => s.operational (s.setPool sl ((s.pool sl).writeBase true v))
    | 0x08 => execPoolCfgWrite sl v s
    | 0x10 => execPoolTailWrite sl v s
    | 0x14 => execPoolStatWrite sl v s
    | _ => .next s
  else if 0x9000 ≤ off ∧ off < 0x9000 + 48 then execPartCfgWrite ((off - 0x9000) / 4) v s
  else if 0xA000 ≤ off ∧ off < 0xA000 + 192 then execCeOwnWrite ((off - 0xA000) / 4) v s
  else if 0xB000 ≤ off ∧ off < 0xB400 then
    let n := (off - 0xB000) / 16
    let w := s.lmap.getD n (0, 0)
    s.operational
      (if k = 0 ∧ wfld v 30 26 = 0 then { s with lmap := s.lmap.set n (v, w.2) }
       else if k = 1 ∧ wfld v 31 8 = 0 then { s with lmap := s.lmap.set n (w.1, v) }
       else s)
  else if 0xB800 ≤ off ∧ off < 0xBC00 then
    let n := (off - 0xB800) / 16
    let w := s.inwin.getD n (0, 0)
    s.operational
      (if k = 0 ∧ wfld v 30 8 = 0 then { s with inwin := s.inwin.set n (v, w.2) }
       else if k = 1 ∧ wfld v 31 15 = 0 then { s with inwin := s.inwin.set n (w.1, v) }
       else s)
  else if 0xC000 ≤ off ∧ off < 0xC100 then
    let p := (off - 0xC000) / 16
    if k ≠ 0 ∨ wfld v 30 0 ≠ 0 then .next s else if wbit v 31 then execLinkEnSet p s else execLinkEnClear p s
  else if off = 0xC100 then execLinkIdWrite v s
  else if 0xD000 ≤ off ∧ off < 0xE000 then
    let n := (off - 0xD000) / 16
    let f := s.filters.getD n { w0 := 0, w1 := 0, drop := 0 }
    s.operational
      (if k = 0 ∧ wfld v 30 16 = 0 then { s with filters := s.filters.set n { f with w0 := v } }
       else if k = 1 ∧ wfld v 31 24 = 0 ∧ wfld v 7 5 = 0 then { s with filters := s.filters.set n { f with w1 := v } }
       else s)
  else if off = 0xF000 then execFwCmdVerify v s
  else .next s

/-- A register of a context's virtual function; offsets that no rule lists are Ignored. -/
def State.vfWrite (s : State) (ctx off : Nat) (v : Word) : Res :=
  if off % 4 ≠ 0 then .next s
  else if off < 8 then s.onCtx ctx fun _ => s.modCtx ctx fun c => c.writeWin (off == 4) v
  else if 0x1000 ≤ off ∧ off < 0x2000 then
    let q := (off - 0x1000) / 64
    match (off - 0x1000) % 64 with
    | 0x00 => execQbaseWrite ctx q false v s
    | 0x04 => execQbaseWrite ctx q true v s
    | 0x08 => execQcfgWrite ctx q v s
    | 0x10 => execQwpWrite ctx q v s
    | _ => .next s
  else if 0x2000 ≤ off ∧ off < 0x40000 then
    s.onCtx ctx fun c =>
      match s.writeCtxReg c ((off - 0x2000) / 4) v with
      | some (u, _) => u
      | none => s
  else if off = 0x40000 then execStrmBaseWrite ctx false v s
  else if off = 0x40004 then execStrmBaseWrite ctx true v s
  else if off = 0x40008 then execStrmCfgWrite ctx v s
  else if off = 0x4000C then execStrmUnbWrite ctx v s
  else if 0x41000 ≤ off ∧ off < 0x49000 then
    execSrcWpWrite ctx ((off - 0x41000) / 128) ((off - 0x41000) % 128 / 4) v s
  else .next s

/-- REGISTER_WRITE (R8). -/
def execRegisterWrite (fn : RegFn) (off : Nat) (v : Word) (s : State) : Res :=
  match fn with
  | .pf => s.pfWrite off v
  | .vf ctx => s.vfWrite ctx off v

/-! ## Reads of registers (R8) -/

/-- A word of some fields, each with its lowest bit. -/
def fieldsWord (fs : List (Nat × Nat)) : Word := BitVec.ofNat 32 ((fs.map fun f => f.1 * 2 ^ f.2).sum)

def bit (b : Bool) : Nat := if b then 1 else 0

def PortSt.code : PortSt → Nat
  | .down => 0
  | .training => 1
  | .negotiating => 2
  | .up => 3
  | .refused => 4
  | .fenced => 5

/-- Register k of a scale-up port (R380). -/
def Port.readReg (x : Port) (k : Nat) : Word :=
  match k with
  | 0 => fieldsWord [(bit x.en, 31)]
  | 1 => fieldsWord [(x.st.code, 29), (x.cap.toNat, 20), (x.peer, 10), (x.err, 0)]
  | 2 => x.ver
  | _ => 0

/-- A register of a free-page pool (R290). -/
def Pool.readReg (p : Pool) (k : Nat) : Word :=
  match k with
  | 0 => dlo p.base
  | 1 => dhi p.base
  | 2 => p.cfg
  | 3 => p.head
  | 4 => p.tail
  | 5 => fieldsWord [(bit p.lowf, 31), (p.bad, 8), (p.fallbk, 0)]
  | _ => 0

/-- What the host reads of the physical function (R8, R26, R290, R297, R298, R379, R380, R383, R384, R393): 0 of a write-only register and
where no rule lists one. -/
def State.pfRead (s : State) (off : Nat) : Word :=
  let k := off % 16 / 4
  if off % 4 ≠ 0 then 0
  else if 0x8000 ≤ off ∧ off < 0x8000 + 32 * 12 then (s.pool ((off - 0x8000) / 32)).readReg ((off - 0x8000) % 32 / 4)
  else if 0x9000 ≤ off ∧ off < 0x9000 + 48 then s.part.getD ((off - 0x9000) / 4) 0
  else if 0xA000 ≤ off ∧ off < 0xA000 + 192 then s.ceOwn.getD ((off - 0xA000) / 4) 0
  else if 0xB000 ≤ off ∧ off < 0xB400 then
    let w := s.lmap.getD ((off - 0xB000) / 16) (0, 0)
    if k = 0 then w.1 else if k = 1 then w.2 else 0
  else if 0xB800 ≤ off ∧ off < 0xBC00 then
    let w := s.inwin.getD ((off - 0xB800) / 16) (0, 0)
    if k = 0 then w.1 else if k = 1 then w.2 else 0
  else if 0xC000 ≤ off ∧ off < 0xC100 then (s.port ((off - 0xC000) / 16)).readReg k
  else if off = 0xC100 then fieldsWord [(s.linkId, 0)]
  else if 0xD000 ≤ off ∧ off < 0xE000 then
    let f := s.filters.getD ((off - 0xD000) / 16) { w0 := 0, w1 := 0, drop := 0 }
    if k = 0 then f.w0 else if k = 1 then f.w1 else if k = 2 then fieldsWord [(f.drop, 0)] else 0
  else if off = 0xF004 then fieldsWord [(s.fw.stat, 0)]
  else if off = 0xF008 then fieldsWord [(s.fw.leaf, 0)]
  else 0

/-- What the host reads of the firmware staging window: 0 (R26). -/
def State.stagingRead (_ : State) (_off n : Nat) : List Byte := List.replicate n 0

/-- A register of a host queue (R264). -/
def Queue.readReg (x : Queue) (k : Nat) : Word :=
  match k with
  | 0 => dlo x.qbase
  | 1 => dhi x.qbase
  | 2 => fieldsWord [(bit x.en, 31), (bit x.err, 30), (x.log2n, 0)]
  | 3 => x.rp
  | 4 => x.wp
  | _ => 0

/-- SRC.WP of a source: its stream, when the unit holds it. -/
def Ctx.srcWp (c : Ctx) (i n : Nat) : Word :=
  match c.streams.find? fun x => x.idx == i with
  | some x => ((x.srcs[n]?).map (·.wp)).getD 0
  | none => 0

/-- What the host reads of a context's virtual function (R8, R264, R301, R354, R360, R394): 0 of a write-only register, as STRM.UNB, and
where no rule lists one. -/
def State.vfRead (s : State) (ctx off : Nat) : Word :=
  match s.ctx? ctx with
  | none => 0
  | some c =>
    if off % 4 ≠ 0 then 0
    else if off = 0 then dlo c.vfwin
    else if off = 4 then dhi c.vfwin
    else if 0x1000 ≤ off ∧ off < 0x2000 then
      match c.queue? ((off - 0x1000) / 64) with
      | some x => x.readReg ((off - 0x1000) % 64 / 4)
      | none => 0
    else if 0x2000 ≤ off ∧ off < 0x40000 then (s.readCtxReg c ((off - 0x2000) / 4)).getD 0
    else if off = 0x40000 then dlo c.strmBase
    else if off = 0x40004 then dhi c.strmBase
    else if off = 0x40008 then c.strmCfg
    else if 0x41000 ≤ off ∧ off < 0x49000 then c.srcWp ((off - 0x41000) / 128) ((off - 0x41000) % 128 / 4)
    else 0

end Sys2Proof.Machine
end

