-- ==== Sys2Proof/Machine/Settle.lean ====
section
/-!
DEFINITION. What follows of itself once a step has changed the machine: arrivals count (R219), waits end (R66), kernels move on
(R250), held records and inbound requests are tried again; and the age order of teams that became Ready (R259).
-/

namespace Sys2Proof.Machine

/-- The team becomes Ready. -/
def State.wake (s : State) (t : Team) : State := s.putTeam { t with st := .ready }

/-- The context of the team runs, or the team is a handler. -/
def State.runs (s : State) (t : Team) : Bool :=
  t.isHandler || (match s.ctx? t.ctx with | some c => c.st == .running | none => false)

/-! ## Arrivals (R219) -/

/-- The first arrival that waits to count at a barrier counts. A count of 0 is the membership at this moment; the spec does not say
whether it is that of the issue (notes/assumptions/65.md). -/
def State.countArv (s : State) (id : Nat) (a : Arrival) : State :=
  match s.team? id with
  | none => s
  | some t =>
    (s.modTeam id fun u => { u with arvs := u.arvs.erase a }).modCircuits t.ctx fun cs =>
      modCircuit cs a.key fun k => k.arrive a.members (expCount k a.exp)

/-- The arrivals of a team whose release conditions hold count, in program order at each barrier. -/
def State.countArvs (s : State) (id : Nat) : List Arrival → List CKey → State
  | [], _ => s
  | a :: rest, held =>
    if held.contains a.key || !s.releaseDone id (keyScope a.key) a.upto then s.countArvs id rest (a.key :: held)
    else (s.countArv id a).countArvs id rest held

/-! ## Waits (R66) -/

/-- The end of a wait in Waiting-barrier (R82, R219): the path whose phase completed goes on, the active path first. -/
def State.settleBarrier (s : State) (t : Team) (ws : List BWait) : State :=
  match ws with
  | [] => s.wake t
  | w :: rest =>
    if s.phaseDone t.ctx w then s.acquireThen ctlNone { t with st := .ready } (keyScope w.key)
    else
      match rest, t.stack with
      | w2 :: _, e :: es =>
        if s.phaseDone t.ctx w2 then
          let mine : Entry := { kind := .yielded w, mask := t.mask, pc := t.pc, fmt := t.fmt }
          s.putTeam { t with stack := mine :: es, mask := e.mask, pc := e.pc, fmt := e.fmt, st := .ready }
        else s
      | _, _ => s

/-- The team's arrival to a barrier has counted, or not yet: a WT is reissued, a SYN waits for its phase (R219). -/
def State.settleArrival (s : State) (t : Team) (key : CKey) (again : Bool) : State :=
  if t.arvs.any fun a => a.key == key then s
  else if again then s.wake t
  else
    match s.circuit? t.ctx key with
    | none => s.acquireThen ctlNone { t with st := .ready } (keyScope key)
    | some c =>
      if c.arrived.contains t.id then s.putTeam { t with st := .waitingBarrier [{ key := key, phase := c.phase }] }
      else s.acquireThen ctlNone { t with st := .ready } (keyScope key)

/-- A wait at a latch: a held arrival is made once the tag's latch is Idle and one is free (R227); REORD checks its set (R100). -/
def State.settleLatch (s : State) (t : Team) (w : LatchWait) : State :=
  match w with
  | .gang _ _ => s
  | .gangHeld pair tag =>
    match s.latch? t.ctx pair tag with
    | some l => if l.computing.isSome then s else s.wake t
    | none => if s.latchesOf pair < 32 then s.wake t else s
  | .reord => s.reordTry t

/-- The condition of a wait in Waiting-counter holds. -/
def State.waitOver (s : State) (t : Team) (w : WaitFor) : Bool :=
  match w with
  | .cnt p n => t.count p ≤ n
  | .room p => t.count p < 255
  | .batches n => s.batchesOver t n
  | .children hd => s.childrenDone t hd && s.boundDone t.id s.nextId
  | .release sc upto => s.releaseDone t.id sc upto
  | .bound _ upto => s.boundDone t.id upto
  | .cpyRoom => (s.copiesOf t.id).length < 256
  | .cpyEarlier upto => s.boundDone t.id upto && s.registeredDone t.id upto
  | .loads upto => s.reqs.all fun r => r.team != t.id || upto ≤ r.id || !(r.kind.isLoad || r.kind.isLda)
  | .staging page => (s.stage t.ctx (page * 65536)).isSome
  | .emitted => !s.emittedWaits t.ctx t.id

/-- The end of a wait in Waiting-counter: the instruction completes, or it is issued again. An RCOM completes by RCOM_COMMIT. -/
def State.settleFinish (s : State) (t : Team) : State :=
  let u := { t with finish := .none }
  match t.finish with
  | .none => s.wake t
  | .acquire sc => (s.wake u).acquire t.core sc
  | .retireHandle c a hd => s.joinEnd u c a hd
  | .reportBatches c a n => s.waitbEnd u c a n
  | .rcom _ _ _ _ _ => s
  | .tryDone _ _ _ _ => s.wake u
  | .again _ => s.wake t

/-- A TRY whose phase has completed returns 1 once its acquire may be made (R220). -/
def State.settleTry (s : State) (t : Team) (w : BWait) : State :=
  match t.finish with
  | .tryDone c d lvl _ =>
    if s.phaseDone t.ctx w && (levelScope lvl == .team || s.boundDone t.id s.nextId) then
      s.tryEnd { t with finish := .none } c d lvl true
    else s
  | _ => s

/-- A parked team goes on without a completion: RACQ once the slot at TAIL is Empty (R275), SYSC once an entry is Free (R278). -/
def State.settleParked (s : State) (t : Team) (w : ParkWhy) : State :=
  match w with
  | .racq key => if ((s.rcb t.ctx key).slot (s.rcb t.ctx key).tail).st = .empty then s.wake t else s
  | .event n => if (s.events.any fun e => e.num == n && e.kind == 4) && (s.syscFree t.ctx).isSome then s.wake t else s
  | .intercept _ => s
  | .overflow => s

/-- A CHINST that waits for the conditions of R166 is issued again once they hold (R202). -/
def State.settleInstall (s : State) (t : Team) : State :=
  match t.hold with
  | some (.install upto) => if s.releaseDone t.id .device upto then s.putTeam { t with hold := none } else s
  | _ => s

/-- One team's wait, when its context runs. -/
def State.settleTeam (s : State) (id : Nat) : State :=
  match s.team? id with
  | none => s
  | some t =>
    if !s.runs t then s
    else
      match t.st with
      | .placed => s.wake t
      | .ready => s.settleInstall t
      | .issuing => s
      | .waitingEmpty rs => if rs.all fun r => (t.reg r).full then s.wake t else s
      | .waitingBarrier ws => s.settleBarrier t ws
      | .waitingHeld w => if s.phaseDone t.ctx w then s.wake t else s
      | .waitingArrival key again => s.settleArrival t key again
      | .waitingLatch w => s.settleLatch t w
      | .waitingCounter w => if s.waitOver t w then s.settleFinish t else s
      | .suspended w _ => s.settleTry t w
      | .parked w => s.settleParked t w
      | .preempted => s
      | .exited => s

/-! ## Packets that have lost a page (notes/assumptions/44.md) -/

/-- The bytes that a replay packet translates for a lane: the access, or the place of its descriptor. -/
def ReqKind.packetBytes : ReqKind → Nat
  | .ldg sz _ _ _ => sizeBytes sz
  | .lda _ n _ => n
  | _ => 1

/-- The first absent page that a lost lane names and whose wait has not been given up. -/
def State.lostPage (s : State) (t : Team) (r : Req) : Option Nat :=
  ((r.lanes.filter (·.lost)).flatMap fun x => (pieces x.va r.kind.packetBytes).map (·.1)).find? fun va =>
    match s.coreSeg t.core t.ctx 0 va with
    | .fault _ => !(s.skips (.packet r.id)).contains (va / 65536)
    | _ => false

/-- A lost lane gets free values: the words of a load, or the destination bytes of an LDA. -/
def State.freeLane (s : State) (t : Team) (r : Req) (x : Lane) : State × List Lane :=
  match r.kind with
  | .lda lvl n _ =>
    let b := s.freeBytes n
    (b.2.levelWrite t (ldaLevel lvl) x.lane x.dst b.1, [])
  | _ =>
    let k := r.dests.length
    ({ s with freeCtr := s.freeCtr + k },
     [{ x.bind ((List.range k).map fun i => Config.freeWord (s.freeCtr + i)) with lost := false }])

/-- What a lost lane held is over: free values for the lost lanes, the other lanes as they are. -/
def State.freeLost (s : State) (t : Team) (r : Req) : State :=
  let w := r.lanes.foldl (fun (u : State × List Lane) x =>
    if x.lost then (let v := u.1.freeLane t r x; (v.1, u.2 ++ v.2)) else (u.1, u.2 ++ [x])) (s, [])
  (w.1.forgive (.packet r.id)).putReq { r with lanes := w.2 }

/-- A packet that has lost a page waits for it as an agent does (R417): it is reissued once the page is there, and a page that is bad, forbids
the read or has been given up leaves Undefined values. -/
def State.settleLost (s : State) (id : Nat) : State :=
  match s.req? id with
  | none => s
  | some r =>
    match s.team? r.team with
    | none => s
    | some t =>
      if !r.lost || !s.runs t || t.st == .preempted || s.parkedPacket t r || t.earlierEntry r.id || s.faulting (.packet id) then s
      else
        let r1 := s.reissue t r
        if !r1.lost then (s.putReq r1).forgive (.packet id)
        else
          match s.lostPage t r1 with
          | some va => s.engineFault t.ctx (.packet id) va 0
          | none => s.freeLost t r1

/-! ## Kernels (R250, R366, R378) -/

/-- Every team, child and instance of a kernel has come to its end. -/
def State.kernelIdle (s : State) (c : Ctx) (k : Nat) : Bool :=
  (s.teams.all fun t => t.ctx != c.num || t.kernel != k || t.st == .exited) &&
  (c.children.all fun x => x.kernel != k) && c.insts.all fun x => x.kernel != k

/-- The binding of a standing kernel is bound. -/
def Ctx.bound (c : Ctx) (k : Nat) : Bool := c.bindings.any fun b => b.kernel == k && !b.unbound

/-- The state that a kernel moves to by itself. -/
def State.kernelNext (s : State) (c : Ctx) (k : Kernel) : KernelSt :=
  let placed := if k.desc.strm then true else decide (k.desc.teams ≤ k.next)
  let ended := placed && s.kernelIdle c k.id && !(k.desc.strm && c.bound k.id)
  match k.st with
  | .placing => if ended then .draining else if placed then .running else .placing
  | .running => if ended then .draining else .running
  | x => x

def State.settleKernels (s : State) (ctx : Nat) : State :=
  match s.ctx? ctx with
  | none => s
  | some c =>
    if c.st = .running then
      s.modCtx ctx fun x => { x with kernels := x.kernels.map fun k => { k with st := s.kernelNext c k } }
    else s

/-! ## Together -/

/-- A context that is switching out stops the teams that nothing holds any more (R302). -/
def State.settleStops (s : State) : State :=
  (s.ctxs.filter fun c => c.st == .switchingOut).foldl (fun u c => u.stopTeams c.num) s

def State.settleArrivals (s : State) : State :=
  s.teams.foldl (fun u t => if t.arvs.isEmpty then u else u.countArvs t.id t.arvs []) s

def State.settleTeams (s : State) : State := (s.teams.map fun t => t.id).foldl State.settleTeam s

/-- The armature units of every context do what is due (R364 to R367). -/
def State.settleStreams (s : State) : State :=
  (s.ctxs.map fun c => c.num).foldl (fun (u : State) n =>
    let v := u.retryWp n
    match v.ctx? n with
    | some c => v.armature c
    | none => v) s

/-- Packets that have lost a page. -/
def State.settlePackets (s : State) : State := ((s.reqs.filter Req.lost).map (·.id)).foldl State.settleLost s

/-- Everything that follows of itself. -/
def State.settle (s : State) : State :=
  if s.dev ≠ .operational then s
  else
    let s0 := (s.ctxs.map fun c => c.num).foldl State.settleSysc s.sendAcks.settleStops
    let s1 := s0.settleArrivals.settleTeams
    let s2 := (s1.ctxs.map fun c => c.num).foldl State.settleKernels s1
    s2.settleStreams.settlePackets.drainEth.retryInbound

/-- Teams that became Ready from a state other than Issuing enter at the young end (R259). -/
def State.age (s old : State) : State :=
  let came (t : Team) : Bool := t.st == .ready &&
    match old.team? t.id with
    | some u => u.st != .ready && u.st != .issuing
    | none => false
  ((s.teams.filter came).map fun t => t.id).foldl State.youngest s

end Sys2Proof.Machine
end

