-- ==== Sys2Proof/Machine/Dispatch.lean ====
section
/-!
DEFINITION. One arm for each constructor of Instr: the direct call of its meaning.
-/

namespace Sys2Proof.Machine

def exec (i : Instr) (s : State) : Host.Outcome State Fault Refusal :=
  match i with
  | .iadd c d a b => Sys2Proof.Machine.execIadd c d a b s
  | .isub c d a b => Sys2Proof.Machine.execIsub c d a b s
  | .imul c d a b => Sys2Proof.Machine.execImul c d a b s
  | .imad c d a b => Sys2Proof.Machine.execImad c d a b s
  | .imulhS c d a b => Sys2Proof.Machine.execImulhS c d a b s
  | .imulhN c d a b => Sys2Proof.Machine.execImulhN c d a b s
  | .and c d a b => Sys2Proof.Machine.execAnd c d a b s
  | .andn c d a b => Sys2Proof.Machine.execAndn c d a b s
  | .or c d a b => Sys2Proof.Machine.execOr c d a b s
  | .xor c d a b => Sys2Proof.Machine.execXor c d a b s
  | .shl c d a b => Sys2Proof.Machine.execShl c d a b s
  | .rol c d a b => Sys2Proof.Machine.execRol c d a b s
  | .shr c d a b => Sys2Proof.Machine.execShr c d a b s
  | .sar c d a b => Sys2Proof.Machine.execSar c d a b s
  | .iminS c d a b => Sys2Proof.Machine.execIminS c d a b s
  | .iminN c d a b => Sys2Proof.Machine.execIminN c d a b s
  | .imaxS c d a b => Sys2Proof.Machine.execImaxS c d a b s
  | .imaxN c d a b => Sys2Proof.Machine.execImaxN c d a b s
  | .cmpeq c d a b => Sys2Proof.Machine.execCmpeq c d a b s
  | .cmpne c d a b => Sys2Proof.Machine.execCmpne c d a b s
  | .cmpltS c d a b => Sys2Proof.Machine.execCmpltS c d a b s
  | .cmpltN c d a b => Sys2Proof.Machine.execCmpltN c d a b s
  | .cmpleS c d a b => Sys2Proof.Machine.execCmpleS c d a b s
  | .cmpleN c d a b => Sys2Proof.Machine.execCmpleN c d a b s
  | .sel c d a b => Sys2Proof.Machine.execSel c d a b s
  | .iabsd c d a b => Sys2Proof.Machine.execIabsd c d a b s
  | .fadd c d a b => Sys2Proof.Machine.execFadd c d a b s
  | .fsub c d a b => Sys2Proof.Machine.execFsub c d a b s
  | .fmul c d a b => Sys2Proof.Machine.execFmul c d a b s
  | .ffma c d a b => Sys2Proof.Machine.execFfma c d a b s
  | .fmin c d a b => Sys2Proof.Machine.execFmin c d a b s
  | .fmax c d a b => Sys2Proof.Machine.execFmax c d a b s
  | .fcmpeq c d a b => Sys2Proof.Machine.execFcmpeq c d a b s
  | .fcmplt c d a b => Sys2Proof.Machine.execFcmplt c d a b s
  | .fcmple c d a b => Sys2Proof.Machine.execFcmple c d a b s
  | .fcmpun c d a b => Sys2Proof.Machine.execFcmpun c d a b s
  | .shfl c d a b => Sys2Proof.Machine.execShfl c d a b s
  | .shflx c d a b => Sys2Proof.Machine.execShflx c d a b s
  | .idivS c d a b => Sys2Proof.Machine.execIdivS c d a b s
  | .idivN c d a b => Sys2Proof.Machine.execIdivN c d a b s
  | .iremS c d a b => Sys2Proof.Machine.execIremS c d a b s
  | .iremN c d a b => Sys2Proof.Machine.execIremN c d a b s
  | .fdiv c d a b => Sys2Proof.Machine.execFdiv c d a b s
  | .mov c d a => Sys2Proof.Machine.execMov c d a s
  | .not c d a => Sys2Proof.Machine.execNot c d a s
  | .neg c d a => Sys2Proof.Machine.execNeg c d a s
  | .iabs c d a => Sys2Proof.Machine.execIabs c d a s
  | .popc c d a => Sys2Proof.Machine.execPopc c d a s
  | .clz c d a => Sys2Proof.Machine.execClz c d a s
  | .ctz c d a => Sys2Proof.Machine.execCtz c d a s
  | .brev c d a => Sys2Proof.Machine.execBrev c d a s
  | .sext8 c d a => Sys2Proof.Machine.execSext8 c d a s
  | .sext16 c d a => Sys2Proof.Machine.execSext16 c d a s
  | .zext8 c d a => Sys2Proof.Machine.execZext8 c d a s
  | .zext16 c d a => Sys2Proof.Machine.execZext16 c d a s
  | .isuni c d a => Sys2Proof.Machine.execIsuni c d a s
  | .fneg c d a => Sys2Proof.Machine.execFneg c d a s
  | .fabs c d a => Sys2Proof.Machine.execFabs c d a s
  | .fsqrt c d a => Sys2Proof.Machine.execFsqrt c d a s
  | .frcp c d a => Sys2Proof.Machine.execFrcp c d a s
  | .frsq c d a => Sys2Proof.Machine.execFrsq c d a s
  | .fex2 c d a => Sys2Proof.Machine.execFex2 c d a s
  | .flg2 c d a => Sys2Proof.Machine.execFlg2 c d a s
  | .fsin c d a => Sys2Proof.Machine.execFsin c d a s
  | .fcos c d a => Sys2Proof.Machine.execFcos c d a s
  | .ffloor c d a => Sys2Proof.Machine.execFfloor c d a s
  | .fceil c d a => Sys2Proof.Machine.execFceil c d a s
  | .ftrunc c d a => Sys2Proof.Machine.execFtrunc c d a s
  | .frint c d a => Sys2Proof.Machine.execFrint c d a s
  | .fsat c d a => Sys2Proof.Machine.execFsat c d a s
  | .fclass c d a => Sys2Proof.Machine.execFclass c d a s
  | .cvtF32I32 c d a => Sys2Proof.Machine.execCvtF32I32 c d a s
  | .cvtF32N32 c d a => Sys2Proof.Machine.execCvtF32N32 c d a s
  | .cvtI32F32 c d a => Sys2Proof.Machine.execCvtI32F32 c d a s
  | .cvtN32F32 c d a => Sys2Proof.Machine.execCvtN32F32 c d a s
  | .cvtB16F32 c d a => Sys2Proof.Machine.execCvtB16F32 c d a s
  | .cvtB16hF32 c d a => Sys2Proof.Machine.execCvtB16hF32 c d a s
  | .cvtF32B16 c d a => Sys2Proof.Machine.execCvtF32B16 c d a s
  | .cvtF32B16h c d a => Sys2Proof.Machine.execCvtF32B16h c d a s
  | .cvtE4F32 c n d a => Sys2Proof.Machine.execCvtE4F32 c n d a s
  | .cvtE5F32 c n d a => Sys2Proof.Machine.execCvtE5F32 c n d a s
  | .cvtF32E4 c n d a => Sys2Proof.Machine.execCvtF32E4 c n d a s
  | .cvtF32E5 c n d a => Sys2Proof.Machine.execCvtF32E5 c n d a s
  | .cvtF32Q4 c n d a => Sys2Proof.Machine.execCvtF32Q4 c n d a s
  | .qscale c d a => Sys2Proof.Machine.execQscale c d a s
  | .qenc c d a => Sys2Proof.Machine.execQenc c d a s
  | .voteAny c d a => Sys2Proof.Machine.execVoteAny c d a s
  | .voteAll c d a => Sys2Proof.Machine.execVoteAll c d a s
  | .ballot c d a => Sys2Proof.Machine.execBallot c d a s
  | .gredIadd c d a => Sys2Proof.Machine.execGredIadd c d a s
  | .gredIminS c d a => Sys2Proof.Machine.execGredIminS c d a s
  | .gredImaxS c d a => Sys2Proof.Machine.execGredImaxS c d a s
  | .gredFadd c d a => Sys2Proof.Machine.execGredFadd c d a s
  | .gredFmax c d a => Sys2Proof.Machine.execGredFmax c d a s
  | .gscanIadd c d a => Sys2Proof.Machine.execGscanIadd c d a s
  | .matchG c d a => Sys2Proof.Machine.execMatchG c d a s
  | .firstl c d => Sys2Proof.Machine.execFirstl c d s
  | .bcast c d a => Sys2Proof.Machine.execBcast c d a s
  | .rdc c d r => Sys2Proof.Machine.execRdc c d r s
  | .wrc c a r => Sys2Proof.Machine.execWrc c a r s
  | .iaddi c d a imm => Sys2Proof.Machine.execIaddi c d a imm s
  | .shli c d a n => Sys2Proof.Machine.execShli c d a n s
  | .shri c d a n => Sys2Proof.Machine.execShri c d a n s
  | .sari c d a n => Sys2Proof.Machine.execSari c d a n s
  | .roli c d a n => Sys2Proof.Machine.execRoli c d a n s
  | .chk a code => Sys2Proof.Machine.execChk a code s
  | .ldi d imm => Sys2Proof.Machine.execLdi d imm s
  | .ldhi d imm => Sys2Proof.Machine.execLdhi d imm s
  | .ldg c d a x sz sx strong stream => Sys2Proof.Machine.execLdg c d a x sz sx strong stream s
  | .stg c d a x sz strong stream => Sys2Proof.Machine.execStg c d a x sz strong stream s
  | .lds c d a ap sz sx => Sys2Proof.Machine.execLds c d a ap sz sx s
  | .sts c d a ap sz => Sys2Proof.Machine.execSts c d a ap sz s
  | .ldcl c d a sz sx => Sys2Proof.Machine.execLdcl c d a sz sx s
  | .stcl c d a sz => Sys2Proof.Machine.execStcl c d a sz s
  | .ldxs c d a sz sx => Sys2Proof.Machine.execLdxs c d a sz sx s
  | .stxs c d a sz => Sys2Proof.Machine.execStxs c d a sz s
  | .ldl c d a sz sx => Sys2Proof.Machine.execLdl c d a sz sx s
  | .stl c d a sz => Sys2Proof.Machine.execStl c d a sz s
  | .lda c d a x lvl n stream => Sys2Proof.Machine.execLda c d a x lvl n stream s
  | .atomLd d a x sc => Sys2Proof.Machine.execAtomLd d a x sc s
  | .atomSt d a x sc => Sys2Proof.Machine.execAtomSt d a x sc s
  | .atomXchg d a x sc => Sys2Proof.Machine.execAtomXchg d a x sc s
  | .atomCas d a x sc => Sys2Proof.Machine.execAtomCas d a x sc s
  | .atomAdd d a x sc => Sys2Proof.Machine.execAtomAdd d a x sc s
  | .atomAnd d a x sc => Sys2Proof.Machine.execAtomAnd d a x sc s
  | .atomOr d a x sc => Sys2Proof.Machine.execAtomOr d a x sc s
  | .atomXor d a x sc => Sys2Proof.Machine.execAtomXor d a x sc s
  | .atomMinS d a x sc => Sys2Proof.Machine.execAtomMinS d a x sc s
  | .atomMaxS d a x sc => Sys2Proof.Machine.execAtomMaxS d a x sc s
  | .atomMinN d a x sc => Sys2Proof.Machine.execAtomMinN d a x sc s
  | .atomMaxN d a x sc => Sys2Proof.Machine.execAtomMaxN d a x sc s
  | .atomIncw d a x sc => Sys2Proof.Machine.execAtomIncw d a x sc s
  | .atomDecw d a x sc => Sys2Proof.Machine.execAtomDecw d a x sc s
  | .atomAddb d a x sc => Sys2Proof.Machine.execAtomAddb d a x sc s
  | .atomFadd d a x sc => Sys2Proof.Machine.execAtomFadd d a x sc s
  | .atomFmin d a x sc => Sys2Proof.Machine.execAtomFmin d a x sc s
  | .atomFmax d a x sc => Sys2Proof.Machine.execAtomFmax d a x sc s
  | .atomAdd64 d a x sc => Sys2Proof.Machine.execAtomAdd64 d a x sc s
  | .atomXchg64 d a x sc => Sys2Proof.Machine.execAtomXchg64 d a x sc s
  | .chx d a x idx => Sys2Proof.Machine.execChx d a x idx s
  | .mma d a b z xd => Sys2Proof.Machine.execMma d a b z xd s
  | .mms d a b sl xd => Sys2Proof.Machine.execMms d a b sl xd s
  | .mclr c d => Sys2Proof.Machine.execMclr c d s
  | .mscl c d a => Sys2Proof.Machine.execMscl c d a s
  | .mabs c d a => Sys2Proof.Machine.execMabs c d a s
  | .mqpk c d a => Sys2Proof.Machine.execMqpk c d a s
  | .mcvt c d a => Sys2Proof.Machine.execMcvt c d a s
  | .bra a disp => Sys2Proof.Machine.execBra a disp s
  | .brz a disp => Sys2Proof.Machine.execBrz a disp s
  | .bdiv a disp => Sys2Proof.Machine.execBdiv a disp s
  | .jpt disp => Sys2Proof.Machine.execJpt disp s
  | .call a disp => Sys2Proof.Machine.execCall a disp s
  | .join c => Sys2Proof.Machine.execJoin c s
  | .brk c => Sys2Proof.Machine.execBrk c s
  | .exitI c => Sys2Proof.Machine.execExitI c s
  | .ret c a => Sys2Proof.Machine.execRet c a s
  | .jmpr c a => Sys2Proof.Machine.execJmpr c a s
  | .callr c d a => Sys2Proof.Machine.execCallr c d a s
  | .yield c => Sys2Proof.Machine.execYield c s
  | .winb c a => Sys2Proof.Machine.execWinb c a s
  | .nop c => Sys2Proof.Machine.execNop c s
  | .tret c => Sys2Proof.Machine.execTret c s
  | .tskip c => Sys2Proof.Machine.execTskip c s
  | .arv c lvl n a => Sys2Proof.Machine.execArv c lvl n a s
  | .syn c lvl n a => Sys2Proof.Machine.execSyn c lvl n a s
  | .wt c lvl n => Sys2Proof.Machine.execWt c lvl n s
  | .trySync c lvl n d => Sys2Proof.Machine.execTrySync c lvl n d s
  | .fenceAcq c sc => Sys2Proof.Machine.execFenceAcq c sc s
  | .fenceRel c sc => Sys2Proof.Machine.execFenceRel c sc s
  | .fenceAr c sc => Sys2Proof.Machine.execFenceAr c sc s
  | .seal c d => Sys2Proof.Machine.execSeal c d s
  | .waitb c a => Sys2Proof.Machine.execWaitb c a s
  | .waitcL c a => Sys2Proof.Machine.execWaitcL c a s
  | .waitcS c a => Sys2Proof.Machine.execWaitcS c a s
  | .waitcC c a => Sys2Proof.Machine.execWaitcC c a s
  | .waitcX c a => Sys2Proof.Machine.execWaitcX c a s
  | .waitcG c a => Sys2Proof.Machine.execWaitcG c a s
  | .xltX0 c a => Sys2Proof.Machine.execXltX0 c a s
  | .xltX1 c a => Sys2Proof.Machine.execXltX1 c a s
  | .xltX2 c a => Sys2Proof.Machine.execXltX2 c a s
  | .xltX3 c a => Sys2Proof.Machine.execXltX3 c a s
  | .xltX4 c a => Sys2Proof.Machine.execXltX4 c a s
  | .xltX5 c a => Sys2Proof.Machine.execXltX5 c a s
  | .xltX6 c a => Sys2Proof.Machine.execXltX6 c a s
  | .xltX7 c a => Sys2Proof.Machine.execXltX7 c a s
  | .cpy c a => Sys2Proof.Machine.execCpy c a s
  | .spawn c d a => Sys2Proof.Machine.execSpawn c d a s
  | .joinc c a => Sys2Proof.Machine.execJoinc c a s
  | .racq c d a => Sys2Proof.Machine.execRacq c d a s
  | .rcom c a => Sys2Proof.Machine.execRcom c a s
  | .rpeek c d a => Sys2Proof.Machine.execRpeek c d a s
  | .rrel c a => Sys2Proof.Machine.execRrel c a s
  | .sysc c d => Sys2Proof.Machine.execSysc c d s
  | .sysct c d => Sys2Proof.Machine.execSysct c d s
  | .reord c d a => Sys2Proof.Machine.execReord c d a s
  | .rld c d a => Sys2Proof.Machine.execRld c d a s
  | .rstp c d a => Sys2Proof.Machine.execRstp c d a s
  | .rstc c d a => Sys2Proof.Machine.execRstc c d a s
  | .rstm c d a => Sys2Proof.Machine.execRstm c d a s
  | .rblk c d a => Sys2Proof.Machine.execRblk c d a s
  | .rseal c d a => Sys2Proof.Machine.execRseal c d a s
  | .trace c d a => Sys2Proof.Machine.execTrace c d a s
  | .boxt c d a => Sys2Proof.Machine.execBoxt c d a s
  | .trit c d a => Sys2Proof.Machine.execTrit c d a s
  | .covr c d a => Sys2Proof.Machine.execCovr c d a s
  | .bint c d a => Sys2Proof.Machine.execBint c d a s
  | .winfo c d => Sys2Proof.Machine.execWinfo c d s
  | .rnext c d => Sys2Proof.Machine.execRnext c d s
  | .remit c a => Sys2Proof.Machine.execRemit c a s
  | .wmark c a => Sys2Proof.Machine.execWmark c a s
  | .sidle c a => Sys2Proof.Machine.execSidle c a s
  | .publ c a => Sys2Proof.Machine.execPubl c a s
  | .lateq c d => Sys2Proof.Machine.execLateq c d s
  | .trapI c a => Sys2Proof.Machine.execTrapI c a s
  | .bkpt c => Sys2Proof.Machine.execBkpt c s
  | .rdtime c d => Sys2Proof.Machine.execRdtime c d s
  | .eret c a => Sys2Proof.Machine.execEret c a s
  | .chinst c d a => Sys2Proof.Machine.execChinst c d a s
  | .halt c a => Sys2Proof.Machine.execHalt c a s
  | .rdid c d => Sys2Proof.Machine.execRdid c d s
  | .csrr c d a => Sys2Proof.Machine.execCsrr c d a s
  | .csrw c d a => Sys2Proof.Machine.execCsrw c d a s
  | .powerGood => Sys2Proof.Machine.execPowerGood s
  | .perstAssert => Sys2Proof.Machine.execPerstAssert s
  | .mgmtResetCommand => Sys2Proof.Machine.execMgmtResetCommand s
  | .resetRelease => Sys2Proof.Machine.execResetRelease s
  | .freezePinAssert => Sys2Proof.Machine.execFreezePinAssert s
  | .mgmtFreezeCommand => Sys2Proof.Machine.execMgmtFreezeCommand s
  | .stagingWindowWrite off bytes => Sys2Proof.Machine.execStagingWindowWrite off bytes s
  | .fwCmdVerify v => Sys2Proof.Machine.execFwCmdVerify v s
  | .firmwareVerifyDone => Sys2Proof.Machine.execFirmwareVerifyDone s
  | .thermalThrottle die => Sys2Proof.Machine.execThermalThrottle die s
  | .thermalCooled die => Sys2Proof.Machine.execThermalCooled die s
  | .thermalTrip die => Sys2Proof.Machine.execThermalTrip die s
  | .l2MissServe req lane => Sys2Proof.Machine.execL2MissServe req lane s
  | .loadReturn req => Sys2Proof.Machine.execLoadReturn req s
  | .leaseExpiry core word => Sys2Proof.Machine.execLeaseExpiry core word s
  | .storeRegistration req lane => Sys2Proof.Machine.execStoreRegistration req lane s
  | .revocationAck req lane => Sys2Proof.Machine.execRevocationAck req lane s
  | .storeAck req lane => Sys2Proof.Machine.execStoreAck req lane s
  | .localDeadlinePass id => Sys2Proof.Machine.execLocalDeadlinePass id s
  | .atomExecute req lane => Sys2Proof.Machine.execAtomExecute req lane s
  | .atomResultReturn req lane => Sys2Proof.Machine.execAtomResultReturn req lane s
  | .chiselRun req lane => Sys2Proof.Machine.execChiselRun req lane s
  | .chiselResultReturn req lane => Sys2Proof.Machine.execChiselResultReturn req lane s
  | .xltWalkDone team => Sys2Proof.Machine.execXltWalkDone team s
  | .chinstDone team => Sys2Proof.Machine.execChinstDone team s
  | .ldaLand req => Sys2Proof.Machine.execLdaLand req s
  | .copyCommandComplete id => Sys2Proof.Machine.execCopyCommandComplete id s
  | .copyCommandFail id => Sys2Proof.Machine.execCopyCommandFail id s
  | .rcomCommit team => Sys2Proof.Machine.execRcomCommit team s
  | .tileWrite req => Sys2Proof.Machine.execTileWrite req s
  | .mabsResult req => Sys2Proof.Machine.execMabsResult req s
  | .tryHintExpiry team => Sys2Proof.Machine.execTryHintExpiry team s
  | .teamExited team => Sys2Proof.Machine.execTeamExited team s
  | .distributorTakeKernel ctx kernel => Sys2Proof.Machine.execDistributorTakeKernel ctx kernel s
  | .teamPlace ctx kernel => Sys2Proof.Machine.execTeamPlace ctx kernel s
  | .childPlace ctx child => Sys2Proof.Machine.execChildPlace ctx child s
  | .instancePlace ctx inst => Sys2Proof.Machine.execInstancePlace ctx inst s
  | .kernelDone ctx kernel => Sys2Proof.Machine.execKernelDone ctx kernel s
  | .localityWindowEnd ctx core hits => Sys2Proof.Machine.execLocalityWindowEnd ctx core hits s
  | .qbaseWrite ctx q hi v => Sys2Proof.Machine.execQbaseWrite ctx q hi v s
  | .qcfgWrite ctx q v => Sys2Proof.Machine.execQcfgWrite ctx q v s
  | .qwpWrite ctx q v => Sys2Proof.Machine.execQwpWrite ctx q v s
  | .queueEntryFetch ctx q => Sys2Proof.Machine.execQueueEntryFetch ctx q s
  | .entryLaunch ctx q n => Sys2Proof.Machine.execEntryLaunch ctx q n s
  | .entryCopy ctx q n => Sys2Proof.Machine.execEntryCopy ctx q n s
  | .entrySignal ctx q n => Sys2Proof.Machine.execEntrySignal ctx q n s
  | .entryWait ctx q n => Sys2Proof.Machine.execEntryWait ctx q n s
  | .entryMaquette ctx q n => Sys2Proof.Machine.execEntryMaquette ctx q n s
  | .entryTlbinv ctx q n => Sys2Proof.Machine.execEntryTlbinv ctx q n s
  | .entryRseal ctx q n => Sys2Proof.Machine.execEntryRseal ctx q n s
  | .waitRereadTimer ctx q n => Sys2Proof.Machine.execWaitRereadTimer ctx q n s
  | .entryComplete ctx q n => Sys2Proof.Machine.execEntryComplete ctx q n s
  | .rcbCfgWrite ctx key v => Sys2Proof.Machine.execRcbCfgWrite ctx key v s
  | .syscReply ctx entry w0 w1 w2 w3 => Sys2Proof.Machine.execSyscReply ctx entry w0 w1 w2 w3 s
  | .poolTailWrite slice v => Sys2Proof.Machine.execPoolTailWrite slice v s
  | .poolCfgWrite slice v => Sys2Proof.Machine.execPoolCfgWrite slice v s
  | .poolStatWrite slice v => Sys2Proof.Machine.execPoolStatWrite slice v s
  | .writeInterceptComplete num skip => Sys2Proof.Machine.execWriteInterceptComplete num skip s
  | .partCfgWrite slice v => Sys2Proof.Machine.execPartCfgWrite slice v s
  | .ceOwnWrite chan v => Sys2Proof.Machine.execCeOwnWrite chan v s
  | .contextCreate ctx => Sys2Proof.Machine.execContextCreate ctx s
  | .ctxCmdStart ctx => Sys2Proof.Machine.execCtxCmdStart ctx s
  | .ctxCmdHalt ctx => Sys2Proof.Machine.execCtxCmdHalt ctx s
  | .ctxCmdResume ctx => Sys2Proof.Machine.execCtxCmdResume ctx s
  | .ctxCmdDestroy ctx => Sys2Proof.Machine.execCtxCmdDestroy ctx s
  | .ctxCmdMaquette ctx => Sys2Proof.Machine.execCtxCmdMaquette ctx s
  | .ctxCfgWrite ctx v => Sys2Proof.Machine.execCtxCfgWrite ctx v s
  | .ctxXscrWrite ctx v => Sys2Proof.Machine.execCtxXscrWrite ctx v s
  | .ctxAddressWrite ctx reg v => Sys2Proof.Machine.execCtxAddressWrite ctx reg v s
  | .ctxMaqiWrite ctx v => Sys2Proof.Machine.execCtxMaqiWrite ctx v s
  | .evdoneRetry ctx num => Sys2Proof.Machine.execEvdoneRetry ctx num s
  | .evdoneSkip ctx num => Sys2Proof.Machine.execEvdoneSkip ctx num s
  | .evdoneFatal ctx num => Sys2Proof.Machine.execEvdoneFatal ctx num s
  | .contextLoad ctx => Sys2Proof.Machine.execContextLoad ctx s
  | .timeSliceBegin ctx => Sys2Proof.Machine.execTimeSliceBegin ctx s
  | .timeSliceEnd ctx => Sys2Proof.Machine.execTimeSliceEnd ctx s
  | .contextSaveComplete ctx => Sys2Proof.Machine.execContextSaveComplete ctx s
  | .maquetteTimer ctx => Sys2Proof.Machine.execMaquetteTimer ctx s
  | .maquettePageStreamed ctx page => Sys2Proof.Machine.execMaquettePageStreamed ctx page s
  | .maquetteCommit ctx => Sys2Proof.Machine.execMaquetteCommit ctx s
  | .maquetteStreamError ctx => Sys2Proof.Machine.execMaquetteStreamError ctx s
  | .containmentEvent ctx what => Sys2Proof.Machine.execContainmentEvent ctx what s
  | .rollbackComplete ctx => Sys2Proof.Machine.execRollbackComplete ctx s
  | .vfReset ctx => Sys2Proof.Machine.execVfReset ctx s
  | .vfResetComplete ctx => Sys2Proof.Machine.execVfResetComplete ctx s
  | .tapBypass => Sys2Proof.Machine.execTapBypass s
  | .tapSamplePreload => Sys2Proof.Machine.execTapSamplePreload s
  | .tapExtest => Sys2Proof.Machine.execTapExtest s
  | .tapIdcode => Sys2Proof.Machine.execTapIdcode s
  | .tapFrzsel sl => Sys2Proof.Machine.execTapFrzsel sl s
  | .tapFrzdata => Sys2Proof.Machine.execTapFrzdata s
  | .reliefRequest req => Sys2Proof.Machine.execReliefRequest req s
  | .reliefAcceptReturn req => Sys2Proof.Machine.execReliefAcceptReturn req s
  | .reliefResultReturn req => Sys2Proof.Machine.execReliefResultReturn req s
  | .sealBlockCommit surf => Sys2Proof.Machine.execSealBlockCommit surf s
  | .blockEvict surf block => Sys2Proof.Machine.execBlockEvict surf block s
  | .rayRecordArrive req lane => Sys2Proof.Machine.execRayRecordArrive req lane s
  | .rayNodeTest req lane => Sys2Proof.Machine.execRayNodeTest req lane s
  | .rayRecordReturn req lane => Sys2Proof.Machine.execRayRecordReturn req lane s
  | .isecNodeRequest req lane => Sys2Proof.Machine.execIsecNodeRequest req lane s
  | .isecResultReturn req => Sys2Proof.Machine.execIsecResultReturn req s
  | .strmBaseWrite ctx hi v => Sys2Proof.Machine.execStrmBaseWrite ctx hi v s
  | .strmCfgWrite ctx v => Sys2Proof.Machine.execStrmCfgWrite ctx v s
  | .strmUnbWrite ctx v => Sys2Proof.Machine.execStrmUnbWrite ctx v s
  | .srcWpWrite ctx stream src v => Sys2Proof.Machine.execSrcWpWrite ctx stream src v s
  | .ringRecordRead ctx stream src => Sys2Proof.Machine.execRingRecordRead ctx stream src s
  | .sourceIdleTimeout ctx stream src => Sys2Proof.Machine.execSourceIdleTimeout ctx stream src s
  | .instanceEnd ctx team => Sys2Proof.Machine.execInstanceEnd ctx team s
  | .recordDelivery req => Sys2Proof.Machine.execRecordDelivery req s
  | .linkIdWrite v => Sys2Proof.Machine.execLinkIdWrite v s
  | .linkEnSet port => Sys2Proof.Machine.execLinkEnSet port s
  | .linkEnClear port => Sys2Proof.Machine.execLinkEnClear port s
  | .linkTrained port => Sys2Proof.Machine.execLinkTrained port s
  | .linkTrainTimeout port => Sys2Proof.Machine.execLinkTrainTimeout port s
  | .linkNegotiated port offer => Sys2Proof.Machine.execLinkNegotiated port offer s
  | .linkFailure port => Sys2Proof.Machine.execLinkFailure port s
  | .linkPortError port => Sys2Proof.Machine.execLinkPortError port s
  | .inboundRead q => Sys2Proof.Machine.execInboundRead q s
  | .inboundWrite q bytes => Sys2Proof.Machine.execInboundWrite q bytes s
  | .inboundAtomic q op v w => Sys2Proof.Machine.execInboundAtomic q op v w s
  | .inboundFaultTimeout id => Sys2Proof.Machine.execInboundFaultTimeout id s
  | .switchInvalidation line => Sys2Proof.Machine.execSwitchInvalidation line s
  | .collectiveAbort ctx coll => Sys2Proof.Machine.execCollectiveAbort ctx coll s
  | .ethMessageReceive q bytes => Sys2Proof.Machine.execEthMessageReceive q bytes s
  | .rdmaPlacement q bytes => Sys2Proof.Machine.execRdmaPlacement q bytes s
  | .streamDatagram eth port payload => Sys2Proof.Machine.execStreamDatagram eth port payload s
  | .hostBar2Access ctx off n wr => Sys2Proof.Machine.execHostBar2Access ctx off n wr s
  | .registerWrite fn off v => Sys2Proof.Machine.execRegisterWrite fn off v s
  | .powerLoss => Sys2Proof.Machine.execPowerLoss s
  | .enginePageFault copy => Sys2Proof.Machine.execEnginePageFault copy s

end Sys2Proof.Machine
end

