-- ==== Sys2Proof/Machine/Advance.lean ====
section
/-!
DEFINITION. How the machine moves: instruction fetch (R31, R32, R88), the choice of the team that issues (R259, R260), the
agenda, and the events that the device itself has due (notes/assumptions/1.md).
-/

namespace Sys2Proof.Machine

/-! ## Instruction fetch (R31, R32, R287, R291) -/

/-- What a fetch brings: the word, and the state after it; or the state after its trap or park. -/
inductive Fetch where
  | word (s : State) (w : Word)
  | stop (s : State)
  deriving DecidableEq, Repr

/-- The word at the physical address of a page that permits fetching; a poisoned line contains the context (R209). -/
def State.fetchAt (s : State) (t : Team) (va pa : Nat) (a : Attr) : Fetch :=
  if a.nx || a.rlf || a.raw || isRemote pa || s.tableAt pa 4 then .stop (s.trap t 9 0 t.mask t.pc)
  else
    match s.poisonIn pa 4 with
    | some l => .stop (s.contain t.ctx (some l))
    | none => .word (s.tlbFill t.core t.ctx va) (s.physWord pa)

/-- The fetch of a team's next word. A handler team runs firmware code (R301). User-handler mode acts as park-and-swap (R287);
access kind 4 is a fetch. The bytes are those at the address, aligned or not: the spec gives no fate to a code base that is no multiple
of 4 (notes/assumptions/90.md). -/
def State.fetch (s : State) (t : Team) : Fetch :=
  let va := t.codeBase + t.pc.toNat
  if t.isHandler then .word s (memWord s.fw.code va)
  else if 2 ^ 55 < va + 4 then .stop (s.trap t 9 0 t.mask t.pc)
  else
    match s.coreSeg t.core t.ctx t.faultm.toNat va with
    | .bad => .stop (s.trap t 9 0 t.mask t.pc)
    | .ok pa a => s.fetchAt t va pa a
    | .fault (.pool e at_) =>
      let s1 := (s.install t.ctx (t.core / 32) e at_).2
      match s1.coreSeg t.core t.ctx t.faultm.toNat va with
      | .bad => .stop (s1.trap t 9 0 t.mask t.pc)
      | .ok pa a => s1.fetchAt t va pa a
      | .fault _ => .stop (s1.pageFault t t.mask va 4)
    | .fault _ => .stop (s.pageFault t t.mask va 4)

/-! ## Issue -/

/-- The team begins to issue (R66). -/
def State.issuing (s : State) (id : Nat) : State :=
  { s.modTeam id fun t => { t with st := .issuing } with focus := some id }

/-- The team issues the instruction in w, or takes the illegal-encoding trap (R44 to R46). -/
def State.runWord (s : State) (id : Nat) (w : Word) : Res :=
  match decodeWord w with
  | .ok i => exec i (s.issuing id)
  | .error _ => (s.issuing id).withTeam fun t => (s.issuing id).illegal t w

/-- One issue of a team: an instruction that goes on from its wait, or the next word. -/
def State.issueTeam (s : State) (t : Team) : Res :=
  match t.finish with
  | .again i => exec i ((s.modTeam t.id fun u => { u with finish := .none }).issuing t.id)
  | _ =>
    match s.fetch t with
    | .stop s1 => .next s1
    | .word s1 w => s1.runWord t.id w

/-! ## The choice of a team (R259, R260) -/

/-- The team's next instruction is an LDG or LDA (R260). -/
def State.nextLoads (s : State) (t : Team) : Bool :=
  match s.coreSeg t.core t.ctx t.faultm.toNat (t.codeBase + t.pc.toNat) with
  | .ok pa _ =>
    match decodeWord (s.physWord pa) with
    | .ok (.ldg _ _ _ _ _ _ _ _) => true
    | .ok (.lda _ _ _ _ _ _ _) => true
    | _ => false
  | _ => false

/-- The team is Ready, and no hold keeps it back. -/
def State.pickable (s : State) (t : Team) : Bool :=
  t.st == .ready && t.hold.isNone && t.mask != 0 && s.runs t && !(s.capped t && s.nextLoads t)

/-- The oldest team that may issue, of one quadrant of one core or of all. -/
def State.pick (s : State) (at_ : Option (Nat × Nat)) : Option Team :=
  s.order.findSome? fun id =>
    match s.team? id with
    | none => none
    | some t => if s.pickable t && (at_ == none || at_ == some (t.core, t.quad)) then some t else none

/-- Two teams share a quadrant. -/
def sameQuad (t u : Team) : Bool := t.core == u.core && t.quad == u.quad

/-- The chosen team has issued once more in a row while another Ready team waited; after four it is the youngest (R259). -/
def State.countStreak (s : State) (t : Team) : State :=
  let waited := s.teams.any fun u => u.id != t.id && sameQuad t u && u.st == .ready
  let n := if waited then t.streak + 1 else 0
  let count (u : Team) : Team :=
    if u.id = t.id then { u with streak := if 4 ≤ n then 0 else n }
    else if sameQuad t u then { u with streak := 0 } else u
  let s1 : State := { s with teams := s.teams.map count }
  if 4 ≤ n then s1.youngest t.id else s1

/-- A quadrant issues from its oldest team that may issue; none when there is none. -/
def State.issueFrom (s : State) (at_ : Option (Nat × Nat)) : Option Res :=
  match s.pick at_ with
  | none => none
  | some t =>
    let s1 := s.countStreak t
    some (s1.issueTeam ((s1.team? t.id).getD t))

/-! ## The events that the device has due -/

/-- An event of the device, as what it makes of the machine. -/
abbrev Ev := State → Res

/-- What may happen to one lane of a request. -/
def Req.laneDue (r : Req) (x : Lane) : List Ev :=
  match x.st with
  | .pending =>
    match r.kind with
    | .ldg _ _ _ _ => [execL2MissServe r.id x.lane]
    | .stg _ _ _ => [execStoreRegistration r.id x.lane]
    | .stl _ _ => [execStoreRegistration r.id x.lane]
    | .atom _ _ => [execAtomExecute r.id x.lane]
    | .drain => [execAtomExecute r.id x.lane]
    | .chx _ _ _ _ => [execChiselRun r.id x.lane]
    | .isec _ _ _ _ => [execIsecNodeRequest r.id x.lane]
    | _ => []
  | .bound => if r.kind.twoStep then [execStoreRegistration r.id x.lane] else []
  | .registered _ _ => [execRevocationAck r.id x.lane]
  | .acked _ =>
    [execStoreAck r.id x.lane, execAtomResultReturn r.id x.lane, execChiselResultReturn r.id x.lane]
  | _ => []

/-- What may happen to one ray record. -/
def Req.rayDue (r : Req) (y : Ray) : List Ev :=
  match y.st with
  | .travelling => [execRayRecordArrive r.id y.lane]
  | .queued => [execRayNodeTest r.id y.lane]
  | .returning _ => [execRayRecordReturn r.id y.lane]
  | .gone => []

/-- What may happen to a request as a whole. -/
def Req.wholeDue (r : Req) : List Ev :=
  match r.kind with
  | .ldg _ _ _ _ =>
    (if r.lanes.any fun x => x.attr.rlf || x.attr.raw then [execReliefRequest r.id] else []) ++ [execLoadReturn r.id]
  | .ldl _ _ _ => [execLoadReturn r.id]
  | .stg _ _ _ => if r.lanes.any fun x => x.attr.raw then [execReliefRequest r.id, execReliefAcceptReturn r.id] else []
  | .lda _ _ _ => [execLdaLand r.id]
  | .mabs => [execMabsResult r.id]
  | .tile _ _ => [execTileWrite r.id]
  | .relief _ _ _ => [execReliefRequest r.id, execReliefAcceptReturn r.id, execReliefResultReturn r.id]
  | .isec _ _ _ _ => [execIsecResultReturn r.id]
  | .strm _ _ => [execRecordDelivery r.id]
  | _ => []

/-- What may happen to a request, first the events of its lanes. -/
def Req.due (r : Req) : List Ev := r.lanes.flatMap r.laneDue ++ r.rays.flatMap r.rayDue ++ r.wholeDue

def Team.due (t : Team) : List Ev :=
  (match t.hold with
   | some (.walk _ _ _ _) => [execXltWalkDone t.id]
   | some (.chinst _ _ _ _ _ _) => [execChinstDone t.id]
   | _ => []) ++
  (match t.st with
   | .suspended _ _ => [execTryHintExpiry t.id]
   | .waitingCounter _ => [execRcomCommit t.id]
   | .exited => [execInstanceEnd t.ctx t.id]
   | _ => []) ++ if t.exiting then [execTeamExited t.id] else []

/-- A started WAIT reads its word again as soon as that word suffices: a write to it has been registered (R267). -/
def execWaitHome (ctx q n : Nat) (s : State) : Res :=
  let ended (u : State) : Bool :=
    match (u.ctx? ctx).bind fun c => (c.queue? q).bind fun x => x.entry? n with
    | some e => e.status.isSome
    | none => false
  match execEntryWait ctx q n s with
  | .next s1 => if ended s1 && !ended s then .next s1 else .next s
  | r => r

/-- What may happen to a fetched queue entry. -/
def QEntry.due (e : QEntry) (ctx q : Nat) : List Ev :=
  execEntryComplete ctx q e.n ::
    match e.type with
    | 1 => [execEntryLaunch ctx q e.n]
    | 2 => [execEntryCopy ctx q e.n]
    | 3 => [execEntrySignal ctx q e.n]
    | 4 => execWaitRereadTimer ctx q e.n :: if e.started then [execWaitHome ctx q e.n] else [execEntryWait ctx q e.n]
    | 5 => [execEntryMaquette ctx q e.n]
    | 6 => [execEntryTlbinv ctx q e.n]
    | 7 => [execEntryRseal ctx q e.n]
    | _ => []

def Queue.due (x : Queue) (ctx : Nat) : List Ev :=
  (x.entries.flatMap fun e => e.due ctx x.q) ++ if x.en && x.rp != x.wp then [execQueueEntryFetch ctx x.q] else []

def Stream.due (x : Stream) (ctx : Nat) : List Ev :=
  (List.range x.srcs.length).flatMap fun i => [execRingRecordRead ctx x.idx i, execSourceIdleTimeout ctx x.idx i]

def Ctx.due (c : Ctx) : List Ev :=
  (match c.st with
   | .switchingOut => [execContextSaveComplete c.num]
   | .rollingBack => [execRollbackComplete c.num]
   | .reset => [execVfResetComplete c.num]
   | _ => []) ++
  (c.children.map fun x => execChildPlace c.num x.id) ++ (c.insts.map fun x => execInstancePlace c.num x.id) ++
  (c.kernels.flatMap fun k =>
    match k.st with
    | .submitted => [execDistributorTakeKernel c.num k.id]
    | .placing => [execTeamPlace c.num k.id]
    | .draining => [execKernelDone c.num k.id]
    | _ => []) ++
  (c.queues.flatMap fun x => x.due c.num) ++ (c.streams.flatMap fun x => x.due c.num) ++ [execMaquetteTimer c.num]

def Maq.due (m : Maq) : List Ev :=
  if m.streaming then (m.todo.map fun p => execMaquettePageStreamed m.ctx p) ++ [execMaquetteCommit m.ctx] else []

/-- The request is young: while a team may issue, such requests stay on their way. -/
def State.young (s : State) (r : Req) : Bool := s.coreTime r.core < r.at_ + 8

/-- The device's own events with those of some of the requests, in the order in which they are tried when the agenda is empty. -/
def State.due (s : State) (rs : List Req) : List Ev :=
  rs.flatMap Req.due ++ (s.deadlines.map fun d => execLocalDeadlinePass d.id) ++ s.teams.flatMap Team.due ++
    (s.copies.flatMap fun k => [execCopyCommandComplete k.id, execCopyCommandFail k.id, execEnginePageFault k.id]) ++
    ((s.surfaces.filter fun f => f.st == .sealing).map fun f => execSealBlockCommit f.frame) ++ s.ctxs.flatMap Ctx.due ++
    s.maqs.flatMap Maq.due ++ ((s.l1.filter fun c => !s.usable c).map fun c => execLeaseExpiry c.core c.word) ++
    s.detectors.flatMap fun d => d.ended.flatMap fun h => s.ctxs.map fun c => execLocalityWindowEnd c.num d.core h

/-- The first of some events that changes the machine. -/
def State.firstEvent (s : State) : List Ev → Option Res
  | [] => none
  | e :: rest =>
    match e s with
    | .next s1 => if s1 = s then s.firstEvent rest else some (.next s1)
    | r => some r

/-! ## Moves -/

/-- A TLB gives up its translation of a page (R284). -/
def State.dropTlb (s : State) (core ctx page : Nat) : State :=
  { s with tlb := s.tlb.filter fun e => !(e.core == core && e.ctx == ctx && e.page == page) }

/-- One move of the agenda. Only what is no instruction word happens as an event. -/
def State.makeMove (s : State) (m : Move) : Res :=
  match m with
  | .quadrant core quad =>
    if s.dev ≠ .operational then .next s else (s.issueFrom (some (core, quad))).getD (.next s)
  | .event e => if (encode e).isNone then exec e s else .next s
  | .elapse ns => .next (if s.dev = .frozen then s else { s with clock := s.clock + ns })
  | .evict core word => .next (if s.dev = .operational then s.evictCopy core word else s)
  | .dropTlb core ctx page => .next (if s.dev = .operational then s.dropTlb core ctx page else s)
  | .power watts => .next (if watts ≤ 2800 then { s with tdp := watts } else s)

/-- The team that issues when the agenda is empty: the quadrants that have a team to issue take turns. -/
def State.defaultIssue (s : State) : Option Res :=
  let qs := ((s.order.filterMap s.team?).filter s.pickable).map fun t => (t.core, t.quad)
  match qs.eraseDups with
  | [] => none
  | q :: rest =>
    ({ s with turn := s.turn + 1 } : State).issueFrom (some ((q :: rest).getD (s.turn % (rest.length + 1)) q))

/-- No team of a Running context can issue, and another context of its partition is eligible: it gives way (R300). -/
def State.givesWay (s : State) (c : Ctx) : Bool :=
  c.st == .running && (s.nextInTurn (c.num / 16)).isSome && !s.teams.any fun t => t.ctx == c.num && s.pickable t

/-- What the partition schedulers do (R300; notes/assumptions/67.md): a context that gives way stops, once nothing that it has sent can move on;
the next context in turn is loaded, and its time slice begins. -/
def State.schedule (s : State) : List Ev :=
  let gives := s.ctxs.filter s.givesWay
  (s.reqs.filter fun r => gives.any fun c => c.num == r.ctx).flatMap Req.due ++
  s.ctxs.flatMap fun c =>
    match c.st with
    | .running => if s.givesWay c then [execTimeSliceEnd c.num] else []
    | .loaded => [execTimeSliceBegin c.num]
    | .created => [execContextLoad c.num]
    | .saved => [execContextLoad c.num]
    | _ => []

/-- The partition schedulers and the quadrants take turns, step by step, while both have something to do. -/
def State.schedOrIssue (s : State) : Option Res :=
  if s.clock / s.stepNs % 2 = 0 then
    match s.firstEvent s.schedule with
    | some r => some r
    | none => s.defaultIssue
  else
    match s.defaultIssue with
    | some r => some r
    | none => s.firstEvent s.schedule

/-- What moves next: the head of the agenda; with none, an event that the device has due, or else what a partition scheduler does or a team
that may issue, or else an event of a young request. -/
def State.nextMove (s : State) : Res :=
  match s.agenda with
  | m :: rest => { s with agenda := rest }.makeMove m
  | [] =>
    if s.dev ≠ .operational then (s.firstEvent [execFirmwareVerifyDone]).getD (.next s)
    else
      match s.firstEvent (s.due (s.reqs.filter fun r => !s.young r)) with
      | some r => r
      | none =>
        match s.schedOrIssue with
        | some r => r
        | none => (s.firstEvent (s.reqs.flatMap Req.due)).getD (.next s)

/-- Time passes but in Frozen, where every clock stands (R23). -/
def State.tick (s : State) : State := if s.dev = .frozen then s else { s with clock := s.clock + s.stepNs }

/-- The end of a step that began in old: nothing issues any more, and what follows of itself happens. -/
def State.endStep (s old : State) : State :=
  let s1 : State := { s with focus := none }.settle
  s1.age old

/-! ## A program in place -/

/-- The team that withFetchWord sets up: 16 lanes in one group, 128 registers. -/
def fetchTeam (id : Nat) : Team :=
  { Team.blank with
    id := id, kernel := 1, g := 16, nlanes := 16, p := 128, st := .ready, mask := 65535, frame := List.replicate 128 Reg.zero }

/-- Its kernel, in Running. -/
def fetchKernel : Kernel :=
  { id := 1, st := .running, entry := none, next := 1, last := none
    desc := { fmode := 0, strm := false, wide := false, coop := false, code := 0, entry := 0, amend := 0, teams := 1, p := 128,
              g := 16, lanes := 16, scr := 0, clm := 0, priv := 0, cset := 0, reord := 0, nest := 0, bgrid := 0, bclu := 0,
              bteam := 0, bind := 0, args := [0, 0, 0, 0] } }

/-- The translation of its code page: page 0 lies at frame 0. -/
def fetchTlb : Tlb := { core := 0, ctx := 0, page := 0, large := false, frame := 0, attr := Attr.none }

/-- s with a word stored at the code base of a Running kernel's one team, which is the next to issue. -/
def State.placeWord (s : State) (w : Word) : State :=
  let id := s.nextId
  let c : Ctx := { Ctx.create 0 with st := .running, kernels := [fetchKernel] }
  { s with
    agenda := [.quadrant 0 0], dev := .operational, nextId := id + 1, mem := memWrite s.mem 0 (wordBytes w), poisoned := [],
    part := s.part.set 0 0x80000001#32, tlb := fetchTlb :: s.tlb, teams := fetchTeam id :: s.teams, order := id :: s.order,
    ctxs := c :: s.ctxs.filter fun x => x.num != 0 }

end Sys2Proof.Machine
end

