-- ==== Sys2Proof/Machine/Step.lean ====
section
/-!
DEFINITION. One step of the machine, and a state whose next step runs a given instruction word.
-/

namespace Sys2Proof.Machine

/-- One step: time passes, one thing moves, and what follows of itself happens. -/
def step (s : State) : Host.Outcome State Fault Refusal :=
  match s.tick.nextMove with
  | .next t => .next (t.endStep s)
  | .fault f => .fault f
  | .refused r => .refused r

/-- s with an instruction word where step fetches next, in a program that runs. -/
def State.withFetchWord (s : State) (nbits w : Nat) : State := s.placeWord (BitVec.ofNat 32 (w % 2 ^ nbits))

end Sys2Proof.Machine
end

