-- ==== Sys2Proof/Safety.lean ====
section
/-!
DEFINITION. The words that the statements speak in: what a safe state is, a team that issues, operands that may be read, what a
team's registers hold and what leaves them alone.
-/

namespace Sys2Proof.Safety

open Sys2Proof.Machine

/-- DRAM and the memory across the links are in canonical form. -/
abbrev MemOk (s : State) : Prop := Memory.wf s.mem = true ∧ Memory.wf s.fabric = true

/-- Team t is the one that issues. -/
abbrev Issues (s : State) (t : Team) : Prop := s.focusTeam = some t

/-- The device runs, and so does context n, which is c. -/
abbrev Runs (s : State) (n : Nat) (c : Ctx) : Prop := s.dev = .operational ∧ s.ctx? n = some c ∧ c.st = .running

/-- Every field that names a frame register names a full register inside the frame. -/
abbrev Readable (t : Team) (fs : List Fld) : Prop :=
  ∀ f ∈ fs, isFrame f = true → t.fieldReg f < t.p ∧ (t.reg (t.fieldReg f)).full = true

/-- A destination in k0 to k3 is written with one value (R73). -/
abbrev KOk (t : Team) (d : Fld) (f : Nat → Word) : Prop := isK d = true → t.uniform f = true

/-- Field f holds one value in the active lanes. -/
abbrev Uniform (t : Team) (f : Fld) : Prop := t.uniform (t.get f) = true

/-- The top stack entry is no skip entry of the instruction at PC: a completion restores nothing (R85). -/
abbrev NoSkip (t : Team) : Prop := ∀ e rest, t.stack = e :: rest → ¬(e.kind = .skip ∧ e.pc = t.pc + 4)

/-- The forwarding window is as the instructions leave it (R75): at most eight entries, and each names registers of the frame,
each at most once. -/
abbrev WindowOk (t : Team) : Prop :=
  t.frame.length = t.p ∧ t.window.length ≤ 8 ∧
  ∀ e ∈ t.window, (∀ x ∈ e, x.1 < t.p) ∧ (e.map (·.1)).Nodup

end Sys2Proof.Safety
end

