-- ==== Sys2Proof/Certificates/Slice0/Obligations.lean ====
section
/-!
DEFINITION. The statements for the provers. What the spec gives each instruction is written out here anew, from its rule, in
plain arithmetic; the statements say that the machine does just that, and what it leaves alone.
-/

namespace Sys2Proof.Claims

open Sys2Proof.Machine
open Sys2Proof.Safety

/-! ## Instructions on registers alone -/

/-- An instruction on registers: its control bits, the operands that LA, TA and LB, TB cover, its other sources, its destination,
and the value of each lane. -/
structure RegOp where
  c : Ctl
  as : List Fld
  bs : List Fld
  ds : List Fld
  d : Fld
  f : Team → Nat → Word

def two (c : Ctl) (d a b : Fld) (f : Word → Word → Word) : Option RegOp :=
  some { c := c, as := [a], bs := [b], ds := [], d := d, f := fun t l => f (t.get a l) (t.get b l) }

def three (c : Ctl) (d a b : Fld) (f : Word → Word → Word → Word) : Option RegOp :=
  some { c := c, as := [a], bs := [b], ds := [d], d := d, f := fun t l => f (t.get d l) (t.get a l) (t.get b l) }

def one (c : Ctl) (d a : Fld) (f : Word → Word) : Option RegOp :=
  some { c := c, as := [a], bs := [], ds := [], d := d, f := fun t l => f (t.get a l) }

/-- One source, and D read as well. -/
def oneD (c : Ctl) (d a : Fld) (f : Word → Word → Word) : Option RegOp :=
  some { c := c, as := [a], bs := [], ds := [d], d := d, f := fun t l => f (t.get d l) (t.get a l) }

/-- The instruction does what o says: with its operands full and in frame, and a k destination written with one value, the next
state is that of its completion with D written in the active lanes, and everything else of the machine as it was. -/
def Does (i : Instr) (o : RegOp) : Prop :=
  ∀ s t, Issues s t → Readable t (o.as ++ o.bs ++ o.ds ++ [o.d]) → KOk t o.d (o.f t) →
    exec i s = .next (s.complete o.c ((t.useMarks o.c o.as o.bs).write t [(o.d, o.f t)]))

def one01 (b : Bool) : Word := if b then 1 else 0

/-- R124 but for the divisions. -/
def intF3 : Instr → Option RegOp
  | .iadd c d a b => two c d a b fun x y => BitVec.ofInt 32 (x.toInt + y.toInt)
  | .isub c d a b => two c d a b fun x y => BitVec.ofInt 32 (x.toInt - y.toInt)
  | .imul c d a b => two c d a b fun x y => BitVec.ofNat 32 (x.toNat * y.toNat)
  | .imad c d a b => three c d a b fun z x y => BitVec.ofNat 32 (z.toNat + x.toNat * y.toNat)
  | .imulhS c d a b => two c d a b fun x y => (x.signExtend 64 * y.signExtend 64).extractLsb' 32 32
  | .imulhN c d a b => two c d a b fun x y => (x.setWidth 64 * y.setWidth 64).extractLsb' 32 32
  | .and c d a b => two c d a b fun x y => x &&& y
  | .andn c d a b => two c d a b fun x y => x &&& ~~~y
  | .or c d a b => two c d a b fun x y => x ||| y
  | .xor c d a b => two c d a b fun x y => x ^^^ y
  | .shl c d a b => two c d a b fun x y => BitVec.ofNat 32 (x.toNat * 2 ^ (y.toNat % 32))
  | .rol c d a b => two c d a b fun x y => x <<< (y.toNat % 32) ||| x >>> (32 - y.toNat % 32)
  | .shr c d a b => two c d a b fun x y => BitVec.ofNat 32 (x.toNat / 2 ^ (y.toNat % 32))
  | .sar c d a b => two c d a b fun x y => BitVec.ofInt 32 (x.toInt / 2 ^ (y.toNat % 32))
  | .iminS c d a b => two c d a b fun x y => BitVec.ofInt 32 (min x.toInt y.toInt)
  | .iminN c d a b => two c d a b fun x y => BitVec.ofNat 32 (min x.toNat y.toNat)
  | .imaxS c d a b => two c d a b fun x y => BitVec.ofInt 32 (max x.toInt y.toInt)
  | .imaxN c d a b => two c d a b fun x y => BitVec.ofNat 32 (max x.toNat y.toNat)
  | .cmpeq c d a b => two c d a b fun x y => one01 (decide (x = y))
  | .cmpne c d a b => two c d a b fun x y => one01 (decide (x ≠ y))
  | .cmpltS c d a b => two c d a b fun x y => one01 (x.slt y)
  | .cmpltN c d a b => two c d a b fun x y => one01 (x.ult y)
  | .cmpleS c d a b => two c d a b fun x y => one01 (x.sle y)
  | .cmpleN c d a b => two c d a b fun x y => one01 (x.ule y)
  | .sel c d a b => three c d a b fun z x y => if z = 0 then y else x
  | .iabsd c d a b => two c d a b fun x y => BitVec.ofInt 32 |x.toInt - y.toInt|
  | _ => none

/-- R125. -/
def intDiv : Instr → Option RegOp
  | .idivS c d a b => two c d a b fun x y =>
      if y = 0 then 0xFFFFFFFF#32
      else if x = 0x80000000#32 ∧ y = 0xFFFFFFFF#32 then 0x80000000#32
      else BitVec.ofInt 32 (x.toInt.tdiv y.toInt)
  | .iremS c d a b => two c d a b fun x y =>
      if y = 0 then x
      else if x = 0x80000000#32 ∧ y = 0xFFFFFFFF#32 then 0
      else BitVec.ofInt 32 (x.toInt - x.toInt.tdiv y.toInt * y.toInt)
  | .idivN c d a b => two c d a b fun x y => if y = 0 then 0xFFFFFFFF#32 else BitVec.ofNat 32 (x.toNat / y.toNat)
  | .iremN c d a b => two c d a b fun x y =>
      if y = 0 then x else BitVec.ofNat 32 (x.toNat - x.toNat / y.toNat * y.toNat)
  | _ => none

/-- R128 and R130. -/
def intF2 : Instr → Option RegOp
  | .iaddi c d a i => one c d a fun x => BitVec.ofInt 32 (x.toInt + i.toInt)
  | .shli c d a n => one c d a fun x => BitVec.ofNat 32 (x.toNat * 2 ^ n.toNat)
  | .shri c d a n => one c d a fun x => BitVec.ofNat 32 (x.toNat / 2 ^ n.toNat)
  | .sari c d a n => one c d a fun x => BitVec.ofInt 32 (x.toInt / 2 ^ n.toNat)
  | .roli c d a n => one c d a fun x => x <<< n.toNat ||| x >>> (32 - n.toNat)
  | .ldi d i => some { c := ctlNone, as := [], bs := [], ds := [], d := d, f := fun _ _ => BitVec.ofInt 32 i.toInt }
  | .ldhi d i =>
      some { c := ctlNone, as := [], bs := [], ds := [d], d := d
             f := fun t l => BitVec.ofNat 32 (2 ^ 16 * i.toNat + (t.get d l).toNat % 2 ^ 16) }
  | .mov c d a => one c d a fun x => x
  | .not c d a => one c d a fun x => 0xFFFFFFFF#32 - x
  | .neg c d a => one c d a fun x => BitVec.ofInt 32 (-x.toInt)
  | .iabs c d a => one c d a fun x => BitVec.ofInt 32 |x.toInt|
  | .popc c d a => one c d a fun x => x.cpop
  | .clz c d a => one c d a fun x => x.clz
  | .ctz c d a => one c d a fun x => x.ctz
  | .brev c d a => one c d a fun x => x.reverse
  | .sext8 c d a => one c d a fun x => BitVec.ofInt 32 (x.setWidth 8).toInt
  | .sext16 c d a => one c d a fun x => BitVec.ofInt 32 (x.setWidth 16).toInt
  | .zext8 c d a => one c d a fun x => x &&& 0xFF#32
  | .zext16 c d a => one c d a fun x => x &&& 0xFFFF#32
  | .isuni c d a => some { c := c, as := [a], bs := [], ds := [], d := d, f := fun t _ => one01 (t.formBit a) }
  | _ => none

end Sys2Proof.Claims

open Sys2Proof Sys2Proof.Machine Sys2Proof.Safety Sys2Proof.Claims

/-- Each integer instruction with two or three sources writes D as R124 says. -/
def Sys2Proof.Claims.IntegerF3 : Prop := ∀ i o, intF3 i = some o → Does i o

/-- Division and remainder, with the edge results of R125. -/
def Obligations.Division : Prop := ∀ i o, intDiv i = some o → Does i o

/-- The immediate instructions of R128 and the IOP1 functs of R130. -/
def Sys2Proof.Claims.IntegerF2 : Prop := ∀ i o, intF2 i = some o → Does i o

/-! ## Floating point and conversions -/

namespace Sys2Proof.Claims

/-- R126 and R131 to R133: each value is rounded once from the exact one. -/
def floatOp : Instr → Option RegOp
  | .fadd c d a b => two c d a b fun x y => rne32 (sumExact [F x, F y])
  | .fsub c d a b => two c d a b fun x y => rne32 (sumExact [F x, (F y).neg])
  | .fmul c d a b => two c d a b fun x y => rne32 ((F x).mul (F y))
  | .ffma c d a b => three c d a b fun z x y => rne32 (sumExact [(F x).mul (F y), F z])
  | .fmin c d a b => two c d a b fmin
  | .fmax c d a b => two c d a b fmax
  | .fcmpeq c d a b => two c d a b fun x y => one01 ((F x).eqv (F y))
  | .fcmplt c d a b => two c d a b fun x y => one01 ((F x).lt (F y))
  | .fcmple c d a b => two c d a b fun x y => one01 ((F x).lt (F y) || (F x).eqv (F y))
  | .fcmpun c d a b => two c d a b fun x y => one01 ((F x).isNan || (F y).isNan)
  | .fdiv c d a b => two c d a b fdiv
  | .fneg c d a => one c d a fun x => if (F x).isNan then 0x7FC00000#32 else x ^^^ 0x80000000#32
  | .fabs c d a => one c d a fun x => if (F x).isNan then 0x7FC00000#32 else x &&& 0x7FFFFFFF#32
  | .fsqrt c d a => one c d a fsqrt
  | .frcp c d a => one c d a fun x => fdiv 0x3F800000#32 x
  | .frsq c d a => one c d a frsq
  | .fex2 c d a => one c d a fex2
  | .flg2 c d a => one c d a flg2
  | .fsin c d a => one c d a fsin
  | .fcos c d a => one c d a fcos
  | .ffloor c d a => one c d a (fround .floor)
  | .fceil c d a => one c d a (fround .ceil)
  | .ftrunc c d a => one c d a (fround .trunc)
  | .frint c d a => one c d a (fround .nearest)
  | .fsat c d a => one c d a fun x =>
      if (F x).isNan ∨ x.msb then 0 else if (F 0x3F800000#32).lt (F x) then 0x3F800000#32 else x
  | .fclass c d a => one c d a fclass
  | _ => none

/-- What a pattern stands for: a NaN, an infinity or a number, with its sign. -/
inductive Val where
  | nan
  | inf (s : Bool)
  | num (s : Bool) (q : ℚ)

/-- The value of a pattern of a format with eb exponent and mb mantissa bits (R101, R102); one with infinities when ieee holds. -/
def valOf (eb mb bias : Nat) (ieee : Bool) (x : Nat) : Val :=
  let s : Bool := x / 2 ^ (eb + mb) % 2 = 1
  let e := x / 2 ^ mb % 2 ^ eb
  let m := x % 2 ^ mb
  let sg : ℚ := if s then -1 else 1
  if e = 2 ^ eb - 1 ∧ (if ieee then m ≠ 0 else m = 2 ^ mb - 1) then .nan
  else if ieee ∧ e = 2 ^ eb - 1 then .inf s
  else if e = 0 then .num s (sg * m * (2 : ℚ) ^ (1 - (bias : ℤ) - mb))
  else .num s (sg * (2 ^ mb + m) * (2 : ℚ) ^ ((e : ℤ) - bias - mb))

/-- The values of FP32, BF16, E4 and E5 patterns (R101). -/
def val32 : Nat → Val := valOf 8 23 127 true
def valB16 : Nat → Val := valOf 8 7 127 true
def valE4 : Nat → Val := valOf 4 3 7 false
def valE5 : Nat → Val := valOf 5 2 15 true

abbrev V (x : Word) : Val := val32 x.toNat

/-- Pattern w of a format has sign s and a value to which no other is nearer to v; of two that are as near it is the even one (R6, R103). -/
def NearestIn (val : Nat → Val) (s : Bool) (v : ℝ) (w : Nat) : Prop :=
  ∃ q : ℚ, val w = .num s q ∧ ∀ p z (r : ℚ), val p = .num z r → |v - q| ≤ |v - r| ∧ (r ≠ q → |v - q| = |v - r| → w % 2 = 0)

def infW (s : Bool) : Word := if s then 0xFF800000#32 else 0x7F800000#32

/-- RNE of a number to FP32: an infinity from the middle between the largest finite value and 2^128 on (R103). -/
def RoundR (s : Bool) (v : ℝ) (w : Word) : Prop :=
  if (2 : ℝ) ^ 128 - 2 ^ 103 ≤ |v| then w = infW s else NearestIn val32 s v w.toNat

/-- RNE of an exact result, with the canonical NaN (R103, R104). -/
def Rounds : Val → Word → Prop
  | .nan, w => w = 0x7FC00000#32
  | .inf s, w => w = infW s
  | .num s q, w => RoundR s q w

/-- Exact sums, products and quotients, with the special operands of R103 and R127. -/
def addV : Val → Val → Val
  | .num s p, .num t q => .num (if p = 0 ∧ q = 0 then s && t else p + q < 0) (p + q)
  | .inf s, .inf t => if s = t then .inf s else .nan
  | .inf s, .num _ _ => .inf s
  | .num _ _, .inf t => .inf t
  | _, _ => .nan

def mulV : Val → Val → Val
  | .num s p, .num t q => .num (s != t) (p * q)
  | .inf s, .inf t => .inf (s != t)
  | .inf s, .num t q => if q = 0 then .nan else .inf (s != t)
  | .num s p, .inf t => if p = 0 then .nan else .inf (s != t)
  | _, _ => .nan

def divV : Val → Val → Val
  | .num s p, .num t q => if q = 0 then (if p = 0 then .nan else .inf (s != t)) else .num (s != t) (p / q)
  | .inf s, .num t _ => .inf (s != t)
  | .num s _, .inf t => .num (s != t) 0
  | _, _ => .nan

def negV : Val → Val
  | .num s q => .num (!s) (-q)
  | .inf s => .inf (!s)
  | .nan => .nan

/-- The order of values; a NaN has none. -/
def LessV : Val → Val → Prop
  | .num _ p, .num _ q => p < q
  | .inf s, .inf t => s = true ∧ t = false
  | .inf s, .num _ _ => s = true
  | .num _ _, .inf t => t = false
  | _, _ => False

/-- Values are equal; −0 equals +0 (R127). -/
def SameV : Val → Val → Prop
  | .num _ p, .num _ q => p = q
  | .inf s, .inf t => s = t
  | _, _ => False

def IsNan (x : Word) : Prop := V x = .nan

/-- The order of FMIN and FMAX, with −0 below +0 (R127). -/
def Below (x y : Word) : Prop := LessV (V x) (V y) ∨ (V x = .num true 0 ∧ V y = .num false 0)

/-- FMIN and FMAX (R127): w is the one of x and y that none of them is better than. -/
def Picks (better : Word → Word → Prop) (x y w : Word) : Prop :=
  (IsNan x → IsNan y → w = 0x7FC00000#32) ∧ (IsNan x → ¬IsNan y → w = y) ∧ (¬IsNan x → IsNan y → w = x) ∧
  (¬IsNan x → ¬IsNan y → (w = x ∨ w = y) ∧ ¬better x w ∧ ¬better y w)

/-- A funct of FOP1 on a NaN, on an infinity and on a number (R131, R132). -/
def Fop1 (f : Word → Word) (onInf : Word → Bool → Word) (onNum : Word → Bool → ℚ → Word → Prop) : Prop :=
  ∀ x, match V x with
    | .nan => f x = 0x7FC00000#32
    | .inf s => f x = onInf x s
    | .num s q => onNum x s q (f x)

/-- FFLOOR to FRINT: the integer r is written exactly, a zero with the sign of the operand (R131, R132). -/
def ToInt (f : Word → Word) (r : ℚ → ℤ → Prop) : Prop :=
  Fop1 f (fun x _ => x) fun _ s q w => ∃ n, r q n ∧ V w = .num (if n = 0 then s else n < 0) n

/-- w has v's sign, and no pattern is nearer to v by more than 2^-60 of v (R131, notes/assumptions/59.md). -/
def Close (v : ℝ) (w : Word) : Prop :=
  ∃ (s : Bool) (q : ℚ), V w = .num s q ∧ (s = true ↔ v < 0) ∧
    ∀ p z (r : ℚ), val32 p = .num z r → |v - q| ≤ |v - r| + 2 ^ (-60 : ℤ) * |v|

def oneW (neg : Bool) : Word := if neg then 0xBF800000#32 else 0x3F800000#32
def zeroW (neg : Bool) : Word := if neg then 0x80000000#32 else 0

/-- Truncation toward zero, within lo and hi (R107). -/
def TruncTo (lo hi : ℤ) (x w : Word) : Prop :=
  match V x with
  | .nan => w = 0
  | .inf s => w = BitVec.ofInt 32 (if s then lo else hi)
  | .num s q => w = BitVec.ofInt 32 (max lo (min hi (if s then ⌈q⌉ else ⌊q⌋)))

/-- A narrow pattern w of FP32 pattern x (R107): RNE, with what a NaN gives, what an infinity of a sign gives, and what a number of a sign
gives from a bound on. -/
def Narrow (val : Nat → Val) (x : Word) (w nan : Nat) (inf : Bool → Nat) (far : ℚ → Prop) (ovf : Bool → Nat) : Prop :=
  match V x with
  | .nan => w = nan
  | .inf s => w = inf s
  | .num s q => (far |q| → w = ovf s) ∧ (¬far |q| → NearestIn val s q w)

/-- A value written exactly (R107). -/
def Exactly : Val → Word → Prop
  | .nan, w => w = 0x7FC00000#32
  | .inf s, w => w = infW s
  | .num s q, w => V w = .num s q

/-- The levels of the Q4 codes, in units of 1 / 1024 (R108). -/
def q4Ks : List ℤ := [-1024, -712, -540, -404, -290, -188, -92, 0, 82, 166, 256, 352, 460, 588, 752, 1024]

/-- The nearest code of a value; of two that are as near, that of smaller magnitude (R109). -/
def Q4Code (v : Val) (c : Nat) : Prop :=
  match v with
  | .nan => c = 7
  | .inf s => c = if s then 0 else 15
  | .num _ y => c < 16 ∧ ∀ j < 16,
      let k (i : Nat) : ℚ := q4Ks.getD i 0
      |1024 * y - k c| ≤ |1024 * y - k j| ∧ (|1024 * y - k c| = |1024 * y - k j| → |k c| ≤ |k j|)

/-- R134 and R135. -/
def cvtOp : Instr → Option RegOp
  | .cvtF32I32 c d a => one c d a fun x => rne32 (FVal.ofInt x.toInt)
  | .cvtF32N32 c d a => one c d a fun x => rne32 (FVal.ofInt x.toNat)
  | .cvtI32F32 c d a => one c d a fun x => truncSat (-2147483648) 2147483647 (F x)
  | .cvtN32F32 c d a => one c d a fun x => truncSat 0 4294967295 (F x)
  | .cvtB16F32 c d a => oneD c d a fun z x => z &&& 0xFFFF0000#32 ||| (toB16 x).setWidth 32
  | .cvtB16hF32 c d a => oneD c d a fun z x => z &&& 0x0000FFFF#32 ||| (toB16 x).setWidth 32 <<< 16
  | .cvtF32B16 c d a => one c d a fun x => if (F (x <<< 16)).isNan then 0x7FC00000#32 else x <<< 16
  | .cvtF32B16h c d a => one c d a fun x => if (F (x >>> 16 <<< 16)).isNan then 0x7FC00000#32 else x >>> 16 <<< 16
  | .cvtE4F32 c n d a => oneD c d a fun z x =>
      z &&& ~~~(0xFF#32 <<< (8 * n.toNat)) ||| (toE4 x).setWidth 32 <<< (8 * n.toNat)
  | .cvtE5F32 c n d a => oneD c d a fun z x =>
      z &&& ~~~(0xFF#32 <<< (8 * n.toNat)) ||| (toE5 x).setWidth 32 <<< (8 * n.toNat)
  | .cvtF32E4 c n d a => one c d a fun x => rne32 (fmtE4.value (x.toNat / 2 ^ (8 * n.toNat) % 256))
  | .cvtF32E5 c n d a => one c d a fun x => rne32 (fmtE5.value (x.toNat / 2 ^ (8 * n.toNat) % 256))
  | .cvtF32Q4 c n d a => one c d a fun x => rne32 (q4Value (BitVec.ofNat 4 (x.toNat / 2 ^ (4 * n.toNat))))
  | .qscale c d a => oneD c d a fun z x => rne32 ((F z).mul (.fin false (x.toNat % 256 + 1) (-8)))
  | .qenc c d a => oneD c d a fun z x => (q4Encode (F x) (F z)).setWidth 32
  | _ => none

/-- The rational number that an exact value stands for. -/
def rat : FVal → ℚ
  | .fin s m e => (if s then -1 else 1) * m * (2 : ℚ) ^ e
  | _ => 0

def finite : FVal → Bool
  | .fin _ _ _ => true
  | _ => false

end Sys2Proof.Claims

/-- Each floating-point instruction writes D as R126, R127 and R131 to R133 say. -/
def Sys2Proof.Claims.FloatOps : Prop := ∀ i o, floatOp i = some o → Does i o

/-- Each conversion writes D as R134 and R135 say, keeping the rest of D where it writes a part. -/
def Sys2Proof.Claims.ConvertOps : Prop := ∀ i o, cvtOp i = some o → Does i o

/-- What those instructions write: the values of patterns (R101, R102), their order, sums, products and quotients rounded once, with the
special operands of R103 and R127; FMIN and FMAX; the FOP1 functs of R131 with the special operands of R132, and the classes of R133. FEX2,
FLG2, FSIN and FCOS have a statement of their own. -/
def Sys2Proof.Claims.FloatValues : Prop :=
  (∀ x, (IsNan x ↔ (F x).isNan = true) ∧ (∀ s, V x = .inf s ↔ F x = .inf s) ∧
    ∀ s q, V x = .num s q → finite (F x) = true ∧ rat (F x) = q) ∧
  (∀ x y, ((F x).lt (F y) = true ↔ LessV (V x) (V y)) ∧ ((F x).eqv (F y) = true ↔ SameV (V x) (V y))) ∧
  (∀ x y, Rounds (addV (V x) (V y)) (rne32 (sumExact [F x, F y])) ∧
    Rounds (addV (V x) (negV (V y))) (rne32 (sumExact [F x, (F y).neg])) ∧
    Rounds (mulV (V x) (V y)) (rne32 ((F x).mul (F y))) ∧ Rounds (divV (V x) (V y)) (fdiv x y)) ∧
  (∀ x y z, Rounds (addV (mulV (V x) (V y)) (V z)) (rne32 (sumExact [(F x).mul (F y), F z]))) ∧
  (∀ x y, Picks Below x y (fmin x y) ∧ Picks (fun p w => Below w p) x y (fmax x y)) ∧
  Fop1 fsqrt (fun x s => if s then 0x7FC00000#32 else x) (fun x s q w =>
    if q = 0 then w = x else if s then w = 0x7FC00000#32 else RoundR false (Real.sqrt q) w) ∧
  Fop1 frsq (fun _ s => if s then 0x7FC00000#32 else 0) (fun _ s q w =>
    if q = 0 then w = infW s else if s then w = 0x7FC00000#32 else RoundR false (1 / Real.sqrt q) w) ∧
  ToInt (fround .floor) (fun q n => n = ⌊q⌋) ∧ ToInt (fround .ceil) (fun q n => n = ⌈q⌉) ∧
  ToInt (fround .trunc) (fun q n => n = if q < 0 then ⌈q⌉ else ⌊q⌋) ∧
  ToInt (fround .nearest) (fun q n => |q - n| ≤ 1 / 2 ∧ (|q - n| = 1 / 2 → n % 2 = 0)) ∧
  ∀ x, fclass x = match V x with
    | .nan => 256
    | .inf s => if s then 1 else 128
    | .num s q =>
      if q = 0 then (if s then 8 else 16)
      else if |q| < 2 ^ (-126 : ℤ) then (if s then 4 else 32)
      else if s then 2 else 64

/-- FEX2, FLG2, FSIN and FCOS: exactly what R132 gives of special operands, and of every other operand a pattern to which no other is nearer
by more than 2^-60 of the value. That no value lies so near a rounding boundary that this leaves two patterns is a computation outside the
package (notes/assumptions/59.md: the model's choice of an approximation). -/
def Sys2Proof.Claims.Transcendentals : Prop :=
  Fop1 fex2 (fun _ s => if s then 0 else 0x7F800000#32) (fun _ _ q w =>
    (∀ n : ℤ, q = n → RoundR false ((2 : ℝ) ^ n) w) ∧ (128 ≤ q → w = 0x7F800000#32) ∧
    (q < 128 → Close ((2 : ℝ) ^ (q : ℝ)) w)) ∧
  Fop1 flg2 (fun x s => if s then 0x7FC00000#32 else x) (fun _ s q w =>
    if q = 0 then w = 0xFF800000#32 else if s then w = 0x7FC00000#32
    else (∀ n : ℤ, q = (2 : ℚ) ^ n → V w = .num (n < 0) n) ∧ Close (Real.logb 2 q) w) ∧
  Fop1 fsin (fun _ _ => 0x7FC00000#32) (fun _ s q w =>
    (∀ n : ℤ, q = n → w = zeroW s) ∧ (∀ n : ℤ, q = n + 1 / 2 → w = oneW (n % 2 = 1)) ∧
    ((∀ n : ℤ, q ≠ n) → Close (Real.sin (Real.pi * q)) w)) ∧
  Fop1 fcos (fun _ _ => 0x7FC00000#32) (fun _ _ q w =>
    (∀ n : ℤ, q = n → w = oneW (n % 2 = 1)) ∧ (∀ n : ℤ, q = n + 1 / 2 → w = 0) ∧
    ((∀ n : ℤ, q ≠ n + 1 / 2) → Close (Real.cos (Real.pi * q)) w))

/-- What the conversions write: the truncations with their saturation, BF16, E4 and E5 rounded to nearest with the overflow and NaN columns of
R107, the exact values of the patterns of BF16, E4, E5 and Q4, the scaled and the encoded Q4 code (R107 to R111). -/
def Sys2Proof.Claims.ConvertValues : Prop :=
  (∀ i : ℤ, Rounds (.num (i < 0) i) (rne32 (FVal.ofInt i))) ∧
  (∀ x, TruncTo (-2147483648) 2147483647 x (truncSat (-2147483648) 2147483647 (F x)) ∧
    TruncTo 0 4294967295 x (truncSat 0 4294967295 (F x)) ∧
    Narrow valB16 x (toB16 x).toNat 0x7FC0 (fun s => if s then 0xFF80 else 0x7F80) (fun m => 2 ^ 128 - 2 ^ 119 ≤ m)
      (fun s => if s then 0xFF80 else 0x7F80) ∧
    Narrow valE4 x (toE4 x).toNat 0x7F (fun s => if s then 0xFE else 0x7E) (fun m => 448 < m) (fun s => if s then 0xFE else 0x7E) ∧
    Narrow valE5 x (toE5 x).toNat 0x7E (fun s => if s then 0xFC else 0x7C) (fun m => 57344 < m) (fun s => if s then 0xFB else 0x7B)) ∧
  (∀ h : BitVec 16, valB16 h.toNat = V (h.setWidth 32 <<< 16)) ∧
  (∀ b < 256, Exactly (valE4 b) (rne32 (fmtE4.value b)) ∧ Exactly (valE5 b) (rne32 (fmtE5.value b))) ∧
  (∀ n : BitVec 4, Exactly (.num (q4Ks.getD n.toNat 0 < 0) (q4Ks.getD n.toNat 0 / 1024)) (rne32 (q4Value n))) ∧
  (∀ (z : Word) (c : Nat), c < 256 → Rounds (mulV (V z) (.num false ((c + 1) / 256))) (rne32 ((F z).mul (.fin false (c + 1) (-8))))) ∧
  ∀ x z, Q4Code (divV (V x) (V z)) (q4Encode (F x) (F z)).toNat

/-- The exact sum of finite values is their sum as rational numbers, and the exact product their product (R103, R126). -/
def Sys2Proof.Claims.ExactSum : Prop :=
  (∀ l : List FVal, (∀ v ∈ l, finite v = true) → finite (sumExact l) = true ∧ rat (sumExact l) = (l.map rat).sum) ∧
  ∀ v w : FVal, finite v = true → finite w = true → finite (v.mul w) = true ∧ rat (v.mul w) = rat v * rat w

/-- RNE to FP32 gives a pattern to which no finite pattern is nearer, when it gives a finite one; and a pattern that is not NaN
rounds to itself (R6, R103). -/
def Sys2Proof.Claims.RoundNearest : Prop :=
  (∀ v p, finite v = true → finite (F (rne32 v)) = true → finite (F p) = true →
    |rat (F (rne32 v)) - rat v| ≤ |rat (F p) - rat v|) ∧
  ∀ x, (F x).isNan = false → rne32 (F x) = x

/-! ## Lanes of a group -/

namespace Sys2Proof.Claims

/-- The active lanes of lane l's group, g(l) (R96). -/
def act (t : Team) (l : Nat) : List Nat := (List.range t.nlanes).filter fun i => t.mask.getLsbD i && i / t.g == l / t.g

def grp (c : Ctl) (d a : Fld) (f : Team → Nat → Word) : Option RegOp :=
  some { c := c, as := [a], bs := [], ds := [], d := d, f := f }

/-- The tree of R97 over 2^n leaves. -/
def tree : Nat → (Nat → Word) → Word
  | 0, x => x 0
  | n + 1, x => tree n fun i => fadd (x (2 * i)) (x (2 * i + 1))

/-- R96 to R98, but for BALLOT and MATCH. -/
def groupOp : Instr → Option RegOp
  | .voteAny c d a => grp c d a fun t l => one01 ((act t l).any fun i => t.get a i != 0)
  | .voteAll c d a => grp c d a fun t l => one01 ((act t l).all fun i => t.get a i != 0)
  | .gredIadd c d a => grp c d a fun t l => BitVec.ofNat 32 ((act t l).map fun i => (t.get a i).toNat).sum
  | .gredIminS c d a => grp c d a fun t l =>
      BitVec.ofInt 32 (((act t l).map fun i => (t.get a i).toInt).foldr min 2147483647)
  | .gredImaxS c d a => grp c d a fun t l =>
      BitVec.ofInt 32 (((act t l).map fun i => (t.get a i).toInt).foldr max (-2147483648))
  | .gredFmax c d a => grp c d a fun t l =>
      match ((act t l).map (t.get a)).filter fun x => !(F x).isNan with
      | [] => 0x7FC00000#32
      | x :: rest => rest.foldl fmax x
  | .gredFadd c d a => grp c d a fun t l =>
      tree (Nat.log2 t.g) fun i => if t.mask.getLsbD (l / t.g * t.g + i) then t.get a (l / t.g * t.g + i) else 0
  | .gscanIadd c d a => grp c d a fun t l =>
      BitVec.ofNat 32 (((act t l).filter fun i => i % t.g ≤ l % t.g).map fun i => (t.get a i).toNat).sum
  | .firstl c d => some { c := c, as := [], bs := [], ds := [], d := d
                          f := fun t l => BitVec.ofNat 32 ((act t l).headD l % t.g) }
  | .bcast c d a => grp c d a fun t l => t.get a ((act t l).headD l)
  | .shfl c d a b => some { c := c, as := [a], bs := [b], ds := [], d := d
                            f := fun t l => t.get a (l - l % t.g + (t.get b l).toNat % t.g) }
  | .shflx c d a b => some { c := c, as := [a], bs := [b], ds := [], d := d
                             f := fun t l => t.get a (l - l % t.g + (l % t.g ^^^ (t.get b l).toNat % t.g)) }
  | _ => none

/-- A group width of R68. -/
abbrev Width (t : Team) : Prop := t.g = 16 ∨ t.g = 32 ∨ t.g = 64

/-- The lane bits of some lanes (R96). -/
def lbits (t : Team) (ls : List Nat) : Nat := (ls.map fun l => 2 ^ (l % t.g)).sum

/-- BALLOT and MATCH: what they read and the lane bits they write. -/
def ballotOp : Instr → Option (Ctl × Fld × Fld × (Team → Nat → Nat))
  | .ballot c d a => some (c, d, a, fun t l => lbits t ((act t l).filter fun i => t.get a i != 0))
  | .matchG c d a => some (c, d, a, fun t l => lbits t ((act t l).filter fun i => t.get a i == t.get a l))
  | _ => none

/-- What a ballot writes: D, and D+1 when G = 64. -/
def ballotDests (t : Team) (d : Fld) (f : Nat → Nat) : List Dest :=
  (d, fun l => BitVec.ofNat 32 (f l)) :: if t.g = 64 then [(fplus d 1, fun l => BitVec.ofNat 32 (f l / 2 ^ 32))] else []

end Sys2Proof.Claims

/-- The votes, reductions, scans, broadcasts and shuffles of a group write D as R96 to R98 say. -/
def Sys2Proof.Claims.GroupOps : Prop :=
  ∀ i o, groupOp i = some o → ∀ s t, Issues s t → Width t → Readable t (o.as ++ o.bs ++ o.ds ++ [o.d]) → KOk t o.d (o.f t) →
    exec i s = .next (s.complete o.c ((t.useMarks o.c o.as o.bs).write t [(o.d, o.f t)]))

/-- BALLOT and MATCH write lane bits into D, and into D+1 when G = 64; a D without room for D+1 is then illegal (R41, R96). -/
def Sys2Proof.Claims.Ballots : Prop :=
  ∀ i c d a f, ballotOp i = some (c, d, a, f) → ∀ s t, Issues s t → Width t →
    (t.g = 64 → 118 < d.toNat → exec i s = .next (s.trap t 1 0 t.mask (encodeWord i))) ∧
    (¬(t.g = 64 ∧ 118 < d.toNat) → Readable t ([a] ++ (ballotDests t d (f t)).map (·.1)) →
      (∀ x ∈ ballotDests t d (f t), KOk t x.1 x.2) →
      exec i s = .next (s.complete c ((t.useMarks c [a] []).write t (ballotDests t d (f t)))))

/-! ## Control registers -/

namespace Sys2Proof.Claims

/-- The control registers of R54 that are fields of the team, as R87 and the chapters of the others lay them out. -/
def ctlWord (s : State) (t : Team) : Nat → Option Word
  | 0 => some t.fmt
  | 1 => some t.gangLo
  | 2 => some t.gangHi
  | 3 => some (BitVec.ofNat 32 t.wbase)
  | 5 => some (BitVec.ofNat 32 t.nlanes)
  | 6 => some (BitVec.ofNat 32 t.g)
  | 7 => some t.trapv
  | 8 => some t.trapc
  | 9 => some t.trapa
  | 10 => some (t.faultm.setWidth 32)
  | 11 => some (s.batchDone t)
  | 12 => some (BitVec.ofNat 32 (t.count .l))
  | 13 => some (BitVec.ofNat 32 (t.count .s))
  | 14 => some (BitVec.ofNat 32 (t.count .c))
  | 15 => some (BitVec.ofNat 32 (t.count .x))
  | 16 => some (BitVec.ofNat 32 (t.count .g))
  | 17 => some t.surf
  | 18 => some t.bvh
  | 19 => some (BitVec.ofNat 32 (s.capOf t.ctx t.core))
  | n =>
    if 32 ≤ n ∧ n ≤ 47 then
      let x := t.xl.getD ((n - 32) / 2) Xl.reset
      some (if n % 2 = 0 then x.vbase.setWidth 32 else x.limit.setWidth 32)
    else none

/-- The team after a WRC of v to register n (R86, R87, R146, R228, R234, R286, R316, R342). -/
def wrcTeam (t : Team) (n : Nat) (v : Word) : Option Team :=
  match n with
  | 0 => some { t with fmt := v &&& 0x07FFFFFF#32 }
  | 1 => some { t with gangLo := v }
  | 2 => some { t with gangHi := v &&& 0x00FFFFFF#32 }
  | 7 => some { t with trapv := v &&& 0xFFFFFFFC#32 }
  | 10 => some (if v.toNat % 4 = 3 then t else { t with faultm := BitVec.ofNat 2 v.toNat })
  | 17 => some { t with surf := v &&& 0xFFFF0007#32 }
  | 18 => some { t with bvh := v &&& 0xFFFFFFC7#32 }
  | n =>
    if 32 ≤ n ∧ n ≤ 47 then
      let k := (n - 32) / 2
      let x := t.xl.getD k Xl.reset
      let y : Xl :=
        if n % 2 = 0 then { x with vbase := BitVec.ofNat 55 (x.vbase.toNat / 2 ^ 32 * 2 ^ 32 + v.toNat), limit := 0 }
        else { x with limit := BitVec.ofNat 30 (min v.toNat x.limit.toNat) }
      some { t with xl := t.xl.set k y }
    else none

end Sys2Proof.Claims

/-- RDC copies the control register into D as one value (R54, R86); MASKW holds bit w when mask word w has an active lane (R69). -/
def Sys2Proof.Claims.ReadControl : Prop :=
  ∀ s t c d (r : BitVec 8), Issues s t → Readable t [d] →
    (∀ v, ctlWord s t r.toNat = some v →
      exec (.rdc c d r) s = .next (s.complete c (t.write t [(d, fun _ => v)]))) ∧
    (r.toNat = 4 → ∃ v : Word, (∀ w < 32, v.getLsbD w = (t.mask.extractLsb' (32 * w) 32 != 0)) ∧
      exec (.rdc c d r) s = .next (s.complete c (t.write t [(d, fun _ => v)])))

/-- WRC writes a control register from a uniform A; a write of GANG breaks the Gathering latches that name the team, WBASE is
written as WINB writes it, and an A that is not uniform takes the nonuniform-write trap (R86, R94, R227). -/
def Sys2Proof.Claims.WriteControl : Prop :=
  ∀ s t c a (r : BitVec 8), Issues s t → Readable t [a] →
    (¬Uniform t a → exec (.wrc c a r) s = .next (s.trap t 5 0 t.mask (BitVec.ofNat 32 (256 + r.toNat)))) ∧
    (Uniform t a → ∀ u, wrcTeam (t.useMarks c [a] []) r.toNat (t.getLow a) = some u →
      exec (.wrc c a r) s =
        .next (if r.toNat = 1 ∨ r.toNat = 2 then (s.complete c u).breakNamed t else s.complete c u)) ∧
    (Uniform t a → r.toNat = 3 → exec (.wrc c a r) s = exec (.winb c a) s)

/-! ## What the instructions on registers leave alone -/

namespace Sys2Proof.Claims

/-- Every instruction on registers alone that has one destination. -/
def regOp (i : Instr) : Option RegOp :=
  (intF3 i).or <| (intDiv i).or <| (intF2 i).or <| (floatOp i).or <| (cvtOp i).or (groupOp i)

/-- The operands that a last-use mark of c covers. -/
def lastUsed (c : Ctl) (as bs : List Fld) : List Fld := (if ctlLa c then as else []) ++ if ctlLb c then bs else []

/-- The operands under a trap-if-empty mark of c. -/
def trapped (c : Ctl) (as bs : List Fld) : List Fld := (if ctlTa c then as else []) ++ if ctlTb c then bs else []

/-- Field f names frame register r. -/
abbrev Names (t : Team) (f : Fld) (r : Nat) : Prop := isFrame f = true ∧ t.fieldReg f = r

/-- Register r of u reads as it does in t, in every lane, and is as full. -/
abbrev SameReg (t u : Team) (r : Nat) : Prop :=
  (∀ l < t.nlanes, (u.regVal r).lane l = (t.regVal r).lane l) ∧ (u.reg r).full = (t.reg r).full

end Sys2Proof.Claims

/-- The frame of the instructions on registers alone: D is written in the active lanes and keeps the others; every other
register but those read for the last time keeps its value, k0 to k3 but a k destination too; PC moves on; nothing else of the team, of
the other teams and of the machine changes, memory and control registers among it (R40, R72, R75, R119). -/
def Obligations.RegFrame : Prop :=
  ∀ i o, regOp i = some o → ∀ s t, Issues s t → Width t → Readable t (o.as ++ o.bs ++ o.ds ++ [o.d]) → KOk t o.d (o.f t) →
    WindowOk t → t.k.length = 4 → NoSkip t →
    ∃ s' t', exec i s = .next s' ∧ Issues s' t' ∧
      (∀ r < t.p, Names t o.d r → ∀ l < t.nlanes,
        (t'.regVal r).lane l = if t.mask.getLsbD l then o.f t l else (t.regVal r).lane l) ∧
      (∀ r < t.p, ¬Names t o.d r → (∀ f ∈ lastUsed o.c o.as o.bs, ¬Names t f r) → SameReg t t' r) ∧
      (∀ j < 4, t'.k.getD j 0 = if o.d.toNat = 124 + j then o.f t t.low else t.k.getD j 0) ∧
      t'.pc = t.pc + 4 ∧ t'.st = .ready ∧ WindowOk t' ∧
      { t' with pc := t.pc, st := t.st, k := t.k, frame := t.frame, window := t.window } = t ∧
      (∀ n, n ≠ t.id → s'.team? n = s.team? n) ∧ { s' with teams := s.teams, order := s.order } = s

/-- What stops an instruction on registers before it does anything: a field outside the frame traps; an empty operand under TA or TB
traps; the team waits while any other operand or the destination is empty; and values that differ for a k destination trap
(R39, R73, R74). That an empty operand under TA or TB traps even while another register is empty, the trap before the wait, is the model's
choice (notes/assumptions/91.md). -/
def Obligations.OperandChecks : Prop :=
  ∀ i o, regOp i = some o → ∀ s t, Issues s t → Width t →
    let all := o.as ++ o.bs ++ o.ds ++ [o.d]
    ((∃ f ∈ all, isFrame f = true ∧ t.p ≤ t.fieldReg f) →
      ∃ f ∈ all, isFrame f = true ∧ t.p ≤ t.fieldReg f ∧
        exec i s = .next (s.trap t 6 0 t.mask (BitVec.ofNat 32 (t.fieldReg f)))) ∧
    ((∀ f ∈ all, isFrame f = true → t.fieldReg f < t.p) →
      ((∃ f ∈ trapped o.c o.as o.bs, isFrame f = true ∧ (t.reg (t.fieldReg f)).full = false) →
        ∃ f ∈ trapped o.c o.as o.bs, isFrame f = true ∧ (t.reg (t.fieldReg f)).full = false ∧
          exec i s = .next (s.trap t 3 0 t.mask (BitVec.ofNat 32 (t.fieldReg f)))) ∧
      ((∀ f ∈ trapped o.c o.as o.bs, isFrame f = true → (t.reg (t.fieldReg f)).full = true) →
        (∃ f ∈ all, isFrame f = true ∧ (t.reg (t.fieldReg f)).full = false) →
        ∃ rs, (∀ r, r ∈ rs ↔ ∃ f ∈ all, Names t f r ∧ (t.reg r).full = false) ∧
          exec i s = .next (s.putTeam { t with st := .waitingEmpty rs }))) ∧
    (Readable t all → ¬KOk t o.d (o.f t) → exec i s = .next (s.trap t 5 0 t.mask (BitVec.ofNat 32 o.d.toNat)))

/-! ## Reset, encodings, memory and the step -/

/-- What reset leaves: the device in Reset with no context, team, request or queue; every array cleared; the pools with CFG 4;
the ports down and disabled; the windows, filters, partitions and channel owners 0 (R23, R27, R290, R297, R298, R380). FW.STAT 0, the inbound
windows, the filters with DROP 0 and POOL.BASE 0 are the model's choice, where no rule gives a reset value (notes/assumptions/4.md). -/
def Obligations.ResetState : Prop :=
  let s := State.reset
  s.dev = .reset ∧ s.ctxs = [] ∧ s.teams = [] ∧ s.order = [] ∧ s.reqs = [] ∧ s.deadlines = [] ∧ s.copies = [] ∧ s.events = [] ∧
  s.intercepts = [] ∧ s.surfaces = [] ∧ s.l1 = [] ∧ s.banks = [] ∧ s.tlb = [] ∧ s.poisoned = [] ∧ s.maqs = [] ∧ s.dirty = [] ∧
  s.inbound = [] ∧ s.ethBuf = [] ∧ s.acks = [] ∧ s.ended = [] ∧ s.fenced = [] ∧ s.removed = [] ∧ s.detectors = [] ∧ s.holders = [] ∧ s.fwCircuits = [] ∧ s.unseenPte = [] ∧ s.giveUp = [] ∧ s.tdp = 2800 ∧
   s.fw.stat = 0 ∧ s.fw.running = false ∧
  s.part = List.replicate 12 0 ∧ s.ceOwn = List.replicate 48 0 ∧
  (∀ p ∈ s.pools, p = { base := 0, cfg := 4, head := 0, tail := 0, lowf := false, bad := 0, fallbk := 0 }) ∧
  (∀ p ∈ s.ports, p.en = false ∧ p.st = .down ∧ p.err = 0) ∧
  (∀ w ∈ s.lmap, w = (0, 0)) ∧ (∀ w ∈ s.inwin, w = (0, 0)) ∧ (∀ f ∈ s.filters, f.w0 = 0 ∧ f.w1 = 0 ∧ f.drop = 0) ∧ MemOk s

/-- Words that the manual writes out, and the instructions that they are. -/
def Obligations.DecodeWords : Prop :=
  decodeWord 0x35F00006#32 = .ok (.jpt 6) ∧ decodeWord 0x34020002#32 = .ok (.bdiv 1 2) ∧
  decodeWord 0x3A29E018#32 = .ok (.sysc ctlNone 20) ∧ decodeWord 0x3A29E01C#32 = .ok (.sysct ctlNone 20)

/-- Decoding the word of a well-formed instruction gives the instruction back, with every operand (R33 to R64). -/
def Obligations.DecodeEncode : Prop := ∀ i w, i.wf = true → encode i = some w → decodeWord w = .ok i

/-- A word that decodes is the word of the instruction it decodes to, which is well-formed: no two words are one instruction. -/
def Obligations.EncodeDecode : Prop := ∀ i w, decodeWord w = .ok i → encode i = some w ∧ i.wf = true

/-- A word that does not decode takes the illegal-encoding trap, with the word in TRAPA, in the team that fetched it (R44, R46). -/
def Sys2Proof.Claims.IllegalWord : Prop :=
  ∀ (s : State) (t : Team) (w : Word) e, s.team? t.id = some t → decodeWord w = .error e →
    s.runWord t.id w = .next ((s.issuing t.id).trap { t with st := .issuing } 1 0 t.mask w)

/-- The word that is fetched is the one in memory at the code base plus PC, where the page lets it be fetched and no line of it is
poisoned; a page with NX, a relief page, a raw page, one across the links and a chisel table (notes/assumptions/84.md) take the protection
trap (R31, R32, R282). -/
def Sys2Proof.Claims.Fetching : Prop :=
  ∀ (s : State) (t : Team) (pa : Nat) (a : Attr), t.isHandler = false → t.codeBase + t.pc.toNat + 4 ≤ 2 ^ 55 →
    s.coreSeg t.core t.ctx t.faultm.toNat (t.codeBase + t.pc.toNat) = .ok pa a →
    (a.nx = false → a.rlf = false → a.raw = false → isRemote pa = false → s.tableAt pa 4 = false → s.poisonIn pa 4 = none →
      ∃ s1, s.fetch t = .word s1 (BitVec.ofNat 32 (leNat (memRead s.mem pa 4))) ∧ { s1 with tlb := s.tlb } = s) ∧
    (a.nx = true ∨ a.rlf = true ∨ a.raw = true ∨ isRemote pa = true ∨ s.tableAt pa 4 = true → s.fetch t = .stop (s.trap t 9 0 t.mask t.pc))

/-- A step in which a quadrant issues runs the instruction that the word at the team's PC decodes to: it is exec of that instruction on
the state after time has passed, the issue has been counted and the fetch been made, followed by what ends every step. -/
def Obligations.StepRuns : Prop :=
  ∀ (s : State) core quad rest t u s2 w i, s.dev = .operational → s.agenda = .quadrant core quad :: rest →
    let s0 : State := { s.tick with agenda := rest }
    s0.pick (some (core, quad)) = some t → (s0.countStreak t).team? t.id = some u → (∀ j, u.finish ≠ .again j) →
    (s0.countStreak t).fetch u = .word s2 w → decodeWord w = .ok i →
    (∀ x, exec i (s2.issuing t.id) = .next x → step s = .next (x.endStep s)) ∧
    (∀ f, exec i (s2.issuing t.id) = .fault f → step s = .fault f) ∧
    (∀ r, exec i (s2.issuing t.id) = .refused r → step s = .refused r)

/-! ## Exceptions -/

/-- A trap pushes a trap entry, writes TRAPC and TRAPA and goes on at TRAPV with the faulting set; with TRAPV 0, or for the
privileged-instruction trap, the team keeps its stack, active set and PC, is parked, and a handler starts with the cause, the detail and
the datum and with group barrier 0 (R83, R211, R288, R306). The handler team's shape, with one group circuit of membership 32, is the model's
choice (notes/assumptions/7.md). -/
def Obligations.TakeTrap : Prop :=
  ∀ s t cause detail f datum, Issues s t →
    let code := BitVec.ofNat 32 (cause + 256 * detail)
    (t.trapv ≠ 0 → cause ≠ 2 → t.stack.length < 1024 →
      s.trap t cause detail f datum = s.putTeam
        { t with stack := { kind := .trap f, mask := t.mask, pc := t.pc, fmt := t.fmt } :: t.stack,
                 trapc := code, trapa := datum, mask := f, pc := t.trapv, st := .ready }) ∧
    (t.trapv = 0 ∨ cause = 2 → ∀ c, s.ctx? t.ctx = some c →
      let s' := s.trap t cause detail f datum
      ∃ num, (∀ e ∈ s.events, e.num ≠ num) ∧
        Issues s' { t with trapc := code, trapa := datum, st := .parked (.event num) } ∧
        (∃ e, s'.events = e :: s.events ∧ e.num = num ∧ e.what = .team t.id ∧ e.kind = 1 ∧ e.cause = cause ∧ e.detail = detail ∧
          e.f = f ∧ e.trapa = datum) ∧
        (∃ h ts, s'.teams = ts ++ [h] ∧ h.kind = .handler num ∧ h.st = .ready ∧ h.privileged = true ∧ h.pc = 0 ∧
          h.codeBase = c.svec.toNat ∧
          h.k = [BitVec.ofNat 32 num, BitVec.ofNat 32 (1 + 256 * cause + 65536 * detail),
                 BitVec.ofNat 32 (256 * t.core + t.slot), datum] ∧
          s'.ctxs = s.ctxs.map fun x => if x.num = t.ctx then
            { x with circuits := x.circuits ++ [{ key := .group h.id 0, phase := 0, count := 0, expected := none, membership := 32, arrived := [] }] }
            else x) ∧
        { s' with teams := s.teams, order := s.order, events := s.events, nextId := s.nextId, ctxs := s.ctxs } = s)

/-- TRET goes back to the trapped instruction with the active set of the entry; TSKIP leaves it to the lanes outside the faulting set,
under a skip entry that holds them all, or passes over it when there are none; both restore FMT and drop the entry; on any other top entry
they take the barrier-misuse trap with detail 2 (R81, R85). -/
def Sys2Proof.Claims.TrapReturn : Prop :=
  ∀ s t c, Issues s t →
    (∀ f m pc fmt rest, t.stack = { kind := .trap f, mask := m, pc := pc, fmt := fmt } :: rest →
      exec (.tret c) s =
        .next ((s.putTeam { t with stack := rest, mask := m, pc := pc, fmt := fmt, st := .ready }).yieldIf c t.id) ∧
      (m &&& ~~~f ≠ 0 → rest.length < 1024 →
        exec (.tskip c) s = .next ((s.putTeam
          { t with stack := { kind := .skip, mask := m, pc := pc + 4, fmt := fmt } :: rest,
                   mask := m &&& ~~~f, pc := pc, fmt := fmt, st := .ready }).yieldIf c t.id)) ∧
      (m &&& ~~~f = 0 → (∀ e es, rest = e :: es → ¬(e.kind = .skip ∧ e.pc = pc + 4)) →
        exec (.tskip c) s =
          .next ((s.putTeam { t with stack := rest, mask := m, pc := pc + 4, fmt := fmt, st := .ready }).yieldIf c t.id))) ∧
    ((∀ e rest, t.stack = e :: rest → ∀ f, e.kind ≠ .trap f) →
      exec (.tret c) s = .next (s.trap t 12 2 t.mask 0) ∧ exec (.tskip c) s = .next (s.trap t 12 2 t.mask 0))

/-- An instruction that completes takes the skip entries that were pushed for it off the stack, and goes on at the next instruction with
the active set and FMT of the outermost of them (R85). -/
def Sys2Proof.Claims.SkipEntries : Prop :=
  ∀ s t c, Issues s t → ∀ es rest, t.stack = es ++ rest → (∀ e ∈ es, e.kind = .skip ∧ e.pc = t.pc + 4) →
    (∀ e l, rest = e :: l → ¬(e.kind = .skip ∧ e.pc = t.pc + 4)) →
    (es = [] → exec (.nop c) s = .next ((s.putTeam { t with pc := t.pc + 4, st := .ready }).yieldIf c t.id)) ∧
    (∀ e l, es = l ++ [e] →
      exec (.nop c) s = .next ((s.putTeam
        { t with stack := rest, mask := e.mask, fmt := e.fmt, pc := t.pc + 4, st := .ready }).yieldIf c t.id))

/-! ## Branches and paths -/

namespace Sys2Proof.Claims

/-- Where a branch with a displacement goes (R34). -/
def target (t : Team) (disp : BitVec 17) : Word := BitVec.ofInt 32 (t.pc.toInt + 4 + 4 * disp.toInt)

/-- The set of the active lanes of which p holds. -/
abbrev LanesOf (t : Team) (p : Nat → Bool) (m : Mask) : Prop :=
  ∀ l, m.getLsbD l = (decide (l < t.nlanes) && t.mask.getLsbD l && p l)

/-- The state of a team on the path of entry e above rest: a yielded path goes on waiting, beside a yielded path on top of rest. -/
def pathSt (e : Entry) (rest : List Entry) : TeamSt :=
  match e.kind, rest with
  | .yielded w, { kind := .yielded w2, .. } :: _ => .waitingBarrier [w, w2]
  | .yielded w, _ => .waitingBarrier [w]
  | _, _ => .ready

/-- Team u is t after a pop: entries without lanes are dropped, the first other one gives its path; without one no lane is left (R80). -/
abbrev Popped (t u : Team) : Prop :=
  (∀ es e rest, t.stack = es ++ e :: rest → (∀ x ∈ es, x.mask = 0) → e.mask ≠ 0 →
    u = { t with stack := rest, mask := e.mask, pc := e.pc, fmt := e.fmt, st := pathSt e rest }) ∧
  ((∀ x ∈ t.stack, x.mask = 0) → u = { t with stack := [], mask := 0, st := .issuing })

/-- A join entry lies above the innermost trap entry. -/
abbrev JoinAbove (t : Team) : Prop :=
  ∃ es e rest, t.stack = es ++ e :: rest ∧ e.kind = .join ∧ ∀ x ∈ es, ∀ f, x.kind ≠ .trap f

end Sys2Proof.Claims

/-- BRA branches when A is nonzero, BRZ when it is zero; mask and stack stay, but for what a completion restores; an A that is not uniform
takes the nonuniform-branch trap (R34, R73, R84, R89). -/
def Obligations.Branches : Prop :=
  ∀ s t a disp, Issues s t → Readable t [a] →
    (Uniform t a →
      exec (.bra a disp) s = .next (s.putTeam (t.advance (if t.getLow a ≠ 0 then target t disp else t.pc + 4))) ∧
      exec (.brz a disp) s = .next (s.putTeam (t.advance (if t.getLow a = 0 then target t disp else t.pc + 4)))) ∧
    (¬Uniform t a →
      exec (.bra a disp) s = .next (s.trap t 4 0 t.mask (t.getLow a)) ∧
      exec (.brz a disp) s = .next (s.trap t 4 0 t.mask (t.getLow a)))

/-- BDIV splits the active set; JPT pushes a join entry (R90, R91). With 1,024 entries on the stack the team parks with the event of a stack
overflow and its kernel fails (R79). -/
def Sys2Proof.Claims.Divergence : Prop :=
  ∀ s t, Issues s t →
    (∀ a disp T N, Readable t [a] → LanesOf t (fun l => t.get a l != 0) T → LanesOf t (fun l => t.get a l == 0) N →
      (T = 0 → exec (.bdiv a disp) s = .next (s.putTeam (t.advance (t.pc + 4)))) ∧
      (T ≠ 0 → N = 0 → exec (.bdiv a disp) s = .next (s.putTeam (t.advance (target t disp)))) ∧
      (T ≠ 0 → N ≠ 0 → t.stack.length < 1024 →
        exec (.bdiv a disp) s = .next (s.putTeam
          { t with stack := { kind := .pending, mask := N, pc := t.pc + 4, fmt := t.fmt } :: t.stack,
                   mask := T, pc := target t disp, st := .ready }))) ∧
    (∀ disp, t.stack.length < 1024 →
      exec (.jpt disp) s = .next (s.putTeam
        { t with stack := { kind := .join, mask := t.mask, pc := target t disp, fmt := t.fmt } :: t.stack,
                 pc := t.pc + 4, st := .ready })) ∧
    (∀ disp, 1024 ≤ t.stack.length →
      exec (.jpt disp) s = .next ((s.park t 3 0 0 t.mask t.trapa 0 0).failKernel t.ctx t.kernel))

/-- JOIN and BRK pop; JOIN on an empty stack or on a trap entry and BRK without a join entry take the barrier-misuse trap with detail 1
(R80, R81, R94). -/
def Sys2Proof.Claims.Joins : Prop :=
  ∀ s t c, Issues s t →
    (t.stack ≠ [] → (∀ e rest, t.stack = e :: rest → ∀ f, e.kind ≠ .trap f) →
      ∃ u, Popped t u ∧ exec (.join c) s = .next ((s.putTeam u).yieldIf c t.id)) ∧
    (t.stack = [] ∨ (∃ e rest f, t.stack = e :: rest ∧ e.kind = .trap f) → exec (.join c) s = .next (s.trap t 12 1 t.mask 0)) ∧
    (JoinAbove t → ∃ u, Popped t u ∧ exec (.brk c) s = .next ((s.putTeam u).yieldIf c t.id)) ∧
    (¬JoinAbove t → exec (.brk c) s = .next (s.trap t 12 1 t.mask 0))

/-- EXIT takes the active lanes out of the active set and of every entry, and pops; the barriers of the team are told which lanes leave; an EXIT that
leaves no lane notes its lanes, whose returns still land (notes/assumptions/62.md); YIELD makes the team the youngest; NOP only goes on (R80, R94, R216). -/
def Sys2Proof.Claims.ExitYieldNop : Prop :=
  ∀ s t c, Issues s t →
    (∃ u, Popped { t with mask := 0, stack := t.stack.map fun e => { e with mask := e.mask &&& ~~~t.mask } } u ∧
      exec (.exitI c) s = .next (((s.leaveLanes t t.alive t.mask).putTeam
        { u with leaving := if u.mask = 0 then t.mask else t.leaving }).yieldIf c t.id)) ∧
    exec (.yield c) s = .next ((s.complete c t).youngest t.id) ∧ exec (.nop c) s = .next (s.complete c t)

/-- CALL, RET, JMPR and CALLR go to their targets, CALL and CALLR with PC + 4 in A and D; a target that is not uniform or not aligned traps;
WINB moves the window, unless the value is not uniform, no multiple of 8 or more than P - 8 (R92, R94). -/
def Sys2Proof.Claims.Jumps : Prop :=
  ∀ s t, Issues s t →
    (∀ a disp, Readable t [a] →
      exec (.call a disp) s = .next (s.putTeam ((t.write t [(a, fun _ => t.pc + 4)]).advance (target t disp)))) ∧
    (∀ c d a, Readable t [a, d] →
      let x := t.getLow a
      let u := t.useMarks c [a] []
      (Uniform t a → x.toNat % 4 = 0 →
        exec (.ret c a) s = .next ((s.putTeam (u.advance x)).yieldIf c t.id) ∧
        exec (.jmpr c a) s = .next ((s.putTeam (u.advance x)).yieldIf c t.id) ∧
        exec (.callr c d a) s = .next ((s.putTeam ((u.write t [(d, fun _ => t.pc + 4)]).advance x)).yieldIf c t.id)) ∧
      ∀ i ∈ [Instr.ret c a, .jmpr c a, .callr c d a],
        (¬Uniform t a → exec i s = .next (s.trap t 4 0 t.mask x)) ∧
        (Uniform t a → x.toNat % 4 ≠ 0 → exec i s = .next (s.trap t 7 0 t.mask x))) ∧
    (∀ c a, Readable t [a] → 8 ≤ t.p →
      let x := t.getLow a
      (¬Uniform t a → exec (.winb c a) s = .next (s.trap t 5 0 t.mask 259)) ∧
      (Uniform t a → x.toNat % 8 ≠ 0 ∨ t.p < x.toNat + 8 → exec (.winb c a) s = .next (s.trap t 6 0 t.mask x)) ∧
      (Uniform t a → x.toNat % 8 = 0 → x.toNat + 8 ≤ t.p →
        exec (.winb c a) s = .next (s.complete c { t.useMarks c [a] [] with wbase := x.toNat })))

/-! ## Global memory -/

namespace Sys2Proof.Claims

/-- A load, store or atomic of global memory: its operands, its bytes and whether it writes, and the request it sends. -/
structure GlobalOp where
  c : Ctl
  a : Fld
  x : BitVec 3
  n : Nat
  write : Bool
  srcs : List Fld
  dests : List Fld
  kind : ReqKind
  path : Option Path

def bytesOf : Size → Nat
  | .b => 1
  | .h => 2
  | .w => 4
  | .q => 16

/-- D, or D to D+3. -/
def regs (d : Fld) : Size → List Fld
  | .q => [d, d + 1, d + 2, d + 3]
  | _ => [d]

/-- The atomics use D, and D+1 when wide is set; they read them but for LD. -/
def atomic (op : AtomOp) (d a : Fld) (x : BitVec 3) (sc : Scope) (wide : Bool) (n : Nat) : Option GlobalOp :=
  let ds := if wide then [d, d + 1] else [d]
  some { c := ctlNone, a := a, x := x, n := n, write := op != .ld, srcs := if op = .ld then [] else ds, dests := ds,
         kind := .atom op sc, path := none }

/-- LDG, STG and the twenty operations of ATOM (R148, R186). -/
def globalOp : Instr → Option GlobalOp
  | .ldg c d a x sz sx strong stream =>
    some { c := c, a := a, x := x, n := bytesOf sz, write := false, srcs := [], dests := if d = 120#7 then [] else regs d sz,
           kind := .ldg sz sx strong stream, path := some .g }
  | .stg c d a x sz strong stream =>
    some { c := c, a := a, x := x, n := bytesOf sz, write := true, srcs := regs d sz, dests := [],
           kind := .stg sz strong stream, path := none }
  | .atomLd d a x sc => atomic .ld d a x sc false 4
  | .atomSt d a x sc => atomic .st d a x sc false 4
  | .atomXchg d a x sc => atomic .xchg d a x sc false 4
  | .atomCas d a x sc => atomic .cas d a x sc true 4
  | .atomAdd d a x sc => atomic .add d a x sc false 4
  | .atomAnd d a x sc => atomic .and d a x sc false 4
  | .atomOr d a x sc => atomic .or d a x sc false 4
  | .atomXor d a x sc => atomic .xor d a x sc false 4
  | .atomMinS d a x sc => atomic .minS d a x sc false 4
  | .atomMaxS d a x sc => atomic .maxS d a x sc false 4
  | .atomMinN d a x sc => atomic .minN d a x sc false 4
  | .atomMaxN d a x sc => atomic .maxN d a x sc false 4
  | .atomIncw d a x sc => atomic .incw d a x sc false 4
  | .atomDecw d a x sc => atomic .decw d a x sc false 4
  | .atomAddb d a x sc => atomic .addb d a x sc true 4
  | .atomFadd d a x sc => atomic .fadd d a x sc false 4
  | .atomFmin d a x sc => atomic .fmin d a x sc false 4
  | .atomFmax d a x sc => atomic .fmax d a x sc false 4
  | .atomAdd64 d a x sc => atomic .add64 d a x sc true 8
  | .atomXchg64 d a x sc => atomic .xchg64 d a x sc true 8
  | _ => none

/-- Translation register x of the team. -/
def xreg (t : Team) (x : BitVec 3) : Xl := t.xl.getD x.toNat Xl.reset

/-- The address of lane l: VBASE plus the signed offset (R143). -/
def addr (t : Team) (x : BitVec 3) (a : Fld) (l : Nat) : Int := ((xreg t x).vbase.toNat : Int) + (t.get a l).toInt

/-- Lane l reaches n bytes at physical address pa with attributes at: by the fast path of the translation register when the offset lies
within LIMIT, else through the core's TLB or a walk (R143). -/
abbrev Reaches (s : State) (t : Team) (x : BitVec 3) (a : Fld) (n l pa : Nat) (at_ : Attr) : Prop :=
  let o := (t.get a l).toInt
  0 ≤ addr t x a l ∧ addr t x a l + n ≤ 2 ^ 55 ∧
  (if 0 ≤ o ∧ o + n ≤ (xreg t x).limit.toNat then ((pa : Int) = (xreg t x).frame + o ∧ at_ = (xreg t x).attr)
   else s.coreSeg t.core t.ctx t.faultm.toNat (addr t x a l).toNat = .ok pa at_)

/-- The page lets this access be made: a write needs W, a store no relief page, an atomic neither relief nor raw view; a raw view must
hold the address, a remote address a port, and a remote atomic system scope and a port that carries it (R187, R282, R291, R325); a chisel
table is out of reach (R193; that an access to it has the fate of one to a page that forbids it is the model's choice,
notes/assumptions/84.md). -/
abbrev Permits (s : State) (t : Team) (o : GlobalOp) (l pa : Nat) (at_ : Attr) : Prop :=
  (o.write = true → at_.w = true) ∧ s.unreachable pa = false ∧ s.tableAt pa o.n = false ∧
  match o.kind with
  | .atom op sc => at_.rlf = false ∧ at_.raw = false ∧ s.atomRemoteBad op sc pa = false
  | _ => (at_.raw = true → s.rawOutside t.ctx (addr t o.x o.a l).toNat pa o.n = false) ∧ (o.write = true → at_.rlf = false)

/-- Which of n bytes at an address, in chip scratch or in global memory, are destination bytes of an incomplete copy of the team: what it
stores there leaves Undefined values; a copy that has failed is over (R173, R174). -/
def copyBytes (s : State) (t : Team) (chip : Bool) (a n : Nat) : List Nat :=
  (List.range n).filter fun i => s.copies.any fun k =>
    k.team == some t.id && k.chip == chip && !k.complete && !k.failed && decide (k.dst ≤ a + i ∧ a + i < k.dst + k.n)

/-- The lane of a request as it is sent, with what translated its address: the run of the translation register, or a page (R143). -/
def lane (s : State) (t : Team) (o : GlobalOp) (pa : Nat → Nat) (at_ : Nat → Attr) (l : Nat) : Lane :=
  let off := (t.get o.a l).toInt
  { lane := l, va := (addr t o.x o.a l).toNat, pa := pa l, pa2 := pa l + o.n, cut := o.n, attr := at_ l, dst := 0,
    via := [if 0 ≤ off ∧ off + o.n ≤ (xreg t o.x).limit.toNat then ((xreg t o.x).vbase.toNat, (xreg t o.x).limit.toNat)
            else s.pageRange t.core t.ctx (addr t o.x o.a l).toNat],
    data := o.srcs.map fun f => t.get f l, got := [],
    spoil := if o.write then copyBytes s t false (addr t o.x o.a l).toNat o.n else [], st := .pending }

/-- The copies of u are those of s, but for which bytes the team has stored to (R173). -/
abbrev SameCopies (s u : State) : Prop :=
  u.copies.map (fun k => { k with spoil := [] }) = s.copies.map (fun k => { k with spoil := [] })

/-- What issue does for a request that is sent (R74, R76, R153): the last-used operands are vacated, the destinations become empty, the
path counter holds one more entry, and the team goes on. -/
def goes (s : State) (t : Team) (c : Ctl) (as : List Fld) (k : ReqKind) (dests : List Fld) (path : Option Path) (ls : List Lane) : State :=
  let u := (dests.map t.fieldReg).foldl Team.markEmpty (t.useMarks c as [])
  let v := match path with
    | none => u
    | some p => { u with cnt := u.cnt ++ [(p, s.nextId)] }
  let r : Req := { id := s.nextId, ctx := t.ctx, team := t.id, gen := t.gen, core := t.core, kind := k,
                   at_ := s.coreTime t.core, pc := t.pc, dests := dests.map t.fieldReg, mask := t.mask, lanes := ls, rays := [] }
  { s with nextId := s.nextId + 1, reqs := s.reqs ++ [r] }.complete c v

def sent (s : State) (t : Team) (o : GlobalOp) (ls : List Lane) : State := goes s t o.c [o.a] o.kind o.dests o.path ls

/-- The registers of a global operation are frame registers, but for a data register of a store. -/
abbrev DestsOk (o : GlobalOp) : Prop := ∀ f ∈ o.dests, isFrame f = true

/-- No earlier load of the team, an LDA among them, still names a word that n bytes at pa meet (R185 note 5, R303). -/
abbrev NoLoadAhead (s : State) (t : Team) (n pa : Nat) : Prop :=
  ∀ r ∈ s.reqs, r.team = t.id → r.kind.isLoad = true ∨ r.kind.isLda = true →
    (∀ x ∈ r.lanes, ∀ p ∈ r.kind.laneSpans x, sameWord p.1 p.2 pa n = false) ∧ ∀ p ∈ r.wholeSpans, sameWord p.1 p.2 pa n = false

end Sys2Proof.Claims

/-- A global load, store or atomic that passes its checks in every active lane goes out: one request with the address, the attributes and
the operands of every active lane, in ascending order; the destinations are empty. An LDG binds a lane at once from a copy in the core's
L1 that the team may still use, but for a strong load, a relief, raw or remote page, and a word that an earlier access of the team has yet to
be served on, or reads at its home and has not returned (R143, R148, R149, R150, R153, R160, R185, R186, R187). A store to a raw view is not among them: see RawStore. -/
def Sys2Proof.Claims.GlobalIssue : Prop :=
  ∀ i o, globalOp i = some o → ∀ s t (pa : Nat → Nat) (at_ : Nat → Attr), Issues s t →
    Readable t ([o.a] ++ o.srcs ++ o.dests) → DestsOk o →
    (∀ l ∈ t.lanes, addr t o.x o.a l % o.n = 0 ∧ Reaches s t o.x o.a o.n l (pa l) (at_ l) ∧ Permits s t o l (pa l) (at_ l)) →
    (o.write = true → ∀ l ∈ t.lanes, NoLoadAhead s t o.n (pa l) ∧ (s.stage t.ctx (pa l)).isSome = true) →
    (o.path = some .g → s.capped t = false ∧ t.count .g < 255) →
    (∀ sz strong stream, o.kind = .stg sz strong stream → ∀ l ∈ t.lanes, (at_ l).raw = false) →
    ∃ s1, { s1 with tlb := s.tlb, copies := s.copies, detectors := s.detectors } = s ∧ SameCopies s s1 ∧
      (o.path = none → s1.detectors = s.detectors) ∧ ∃ ls, exec i s = .next (sent s1 t o ls) ∧
      (match o.kind with
       | .ldg sz sx strong _ =>
         ls = t.lanes.map fun l =>
           if strong || (at_ l).rlf || (at_ l).raw || isRemote (pa l) || s.blocked t.id s.nextId (pa l) o.n ||
              s.homeAhead t.id s.nextId (pa l) o.n then lane s t o pa at_ l
           else match s.l1Read t.id t.core (pa l) o.n with
             | some bs => { lane s t o pa at_ l with got := loadWords sz sx bs, st := .bound }
             | none => lane s t o pa at_ l
       | _ => ls = t.lanes.map (lane s t o pa at_))

/-- A lane whose address is not a multiple of the size takes the misalignment trap, before anything else, in the misaligned lanes and
with the offset of the lowest of them (R141, R143, R148, R186). -/
def Sys2Proof.Claims.GlobalMisaligned : Prop :=
  ∀ i o, globalOp i = some o → ∀ s t m l0, Issues s t → Readable t ([o.a] ++ o.srcs ++ o.dests) →
    (o.path = some .g → s.capped t = false) →
    LanesOf t (fun l => decide (addr t o.x o.a l % o.n ≠ 0)) m →
    m.getLsbD l0 = true → (∀ l < l0, m.getLsbD l = false) →
    exec i s = .next (s.trap t 7 0 m (t.get o.a l0))

/-- An aligned access whose address lies below 0 or beyond 2^55, or on a present page that forbids it, takes the protection trap in those
lanes, with the offset of the lowest of them, when no lane needs a page first (R143, R291). So does one that meets a chisel table: R193 gives
it no fate, and this one is the model's choice (notes/assumptions/84.md). -/
def Sys2Proof.Claims.GlobalForbidden : Prop :=
  ∀ i o, globalOp i = some o → ∀ s t m l0, Issues s t → Readable t ([o.a] ++ o.srcs ++ o.dests) →
    (o.path = some .g → s.capped t = false) → (∀ l ∈ t.lanes, addr t o.x o.a l % o.n = 0) →
    (∀ l ∈ t.lanes, m.getLsbD l = false → ∃ pa at_, Reaches s t o.x o.a o.n l pa at_ ∧ Permits s t o l pa at_) →
    (∀ l, m.getLsbD l = true → l ∈ t.lanes ∧
      (addr t o.x o.a l < 0 ∨ 2 ^ 55 < addr t o.x o.a l + o.n ∨
       ∃ pa at_, Reaches s t o.x o.a o.n l pa at_ ∧
         ((o.write = true ∧ at_.w = false ∧ at_.wi = false) ∨ s.unreachable pa = true ∨ s.tableAt pa o.n = true ∨
          (o.write = true ∧ at_.rlf = true)))) →
    m.getLsbD l0 = true → (∀ l < l0, m.getLsbD l = false) →
    exec i s = .next (s.trap t 9 0 m (t.get o.a l0))

/-- A store with a lane on a raw view sends its request and holds the team at the store until the engines answer (R326). -/
def Sys2Proof.Claims.RawStore : Prop :=
  ∀ s t c d a x sz strong stream (pa : Nat → Nat) (at_ : Nat → Attr), Issues s t → Readable t ([a] ++ regs d sz) →
    let o : GlobalOp := { c := c, a := a, x := x, n := bytesOf sz, write := true, srcs := regs d sz, dests := [],
                          kind := .stg sz strong stream, path := none }
    (∀ l ∈ t.lanes, addr t x a l % o.n = 0 ∧ Reaches s t x a o.n l (pa l) (at_ l) ∧ Permits s t o l (pa l) (at_ l)) →
    (∀ l ∈ t.lanes, NoLoadAhead s t o.n (pa l) ∧ (s.stage t.ctx (pa l)).isSome = true ∧
      s.blockLoadAhead t.id (s.viewBlocks t.ctx (addr t x a l).toNat (pa l) o.n (at_ l)) = false) →
    (∃ l ∈ t.lanes, (at_ l).raw = true) →
    ∃ s', exec (.stg c d a x sz strong stream) s = .next s' ∧
      Issues s' { t with hold := some (.relief c a s.nextId), st := .ready } ∧
      (∃ r, s'.reqs = s.reqs ++ [r] ∧ r.id = s.nextId ∧ r.team = t.id ∧ r.kind = o.kind ∧
        r.lanes = t.lanes.map (lane s t o pa at_)) ∧
      s'.mem = s.mem ∧ s'.fabric = s.fabric

/-! ## Local memory -/

namespace Sys2Proof.Claims

/-- A load or store of a local level (R137, R148). -/
structure LocalOp where
  c : Ctl
  d : Fld
  a : Fld
  lvl : Level
  sz : Size
  sx : Bool

def localLoadOp : Instr → Option LocalOp
  | .lds c d a false sz sx => some ⟨c, d, a, .core, sz, sx⟩
  | .ldcl c d a sz sx => some ⟨c, d, a, .clm, sz, sx⟩
  | .ldxs c d a sz sx => some ⟨c, d, a, .chip, sz, sx⟩
  | .ldl c d a sz sx => some ⟨c, d, a, .lane, sz, sx⟩
  | _ => none

def localStoreOp : Instr → Option LocalOp
  | .sts c d a false sz => some ⟨c, d, a, .core, sz, false⟩
  | .stcl c d a sz => some ⟨c, d, a, .clm, sz, false⟩
  | .stxs c d a sz => some ⟨c, d, a, .chip, sz, false⟩
  | .stl c d a sz => some ⟨c, d, a, .lane, sz, false⟩
  | _ => none

/-- Every active lane's offset is aligned and in the level (R141, R148). -/
abbrev InLevel (s : State) (t : Team) (o : LocalOp) : Prop :=
  ∀ l ∈ t.lanes, (t.get o.a l).toNat % bytesOf o.sz = 0 ∧ (t.get o.a l).toNat + bytesOf o.sz ≤ s.levelSize t o.lvl

/-- The value of little-endian bytes (R4). -/
def le : List Byte → Nat
  | [] => 0
  | b :: bs => b.toNat + 256 * le bs

/-- What a load of bytes gives: the value extended as SX says, or four words (R148). -/
def loaded (sz : Size) (sx : Bool) (bs : List Byte) : List Word :=
  match sz with
  | .b => [if sx then BitVec.ofInt 32 (BitVec.ofNat 8 (le bs)).toInt else BitVec.ofNat 32 (le bs)]
  | .h => [if sx then BitVec.ofInt 32 (BitVec.ofNat 16 (le bs)).toInt else BitVec.ofNat 32 (le bs)]
  | .w => [BitVec.ofNat 32 (le bs)]
  | .q => (List.range 4).map fun i => BitVec.ofNat 32 (le ((bs.drop (4 * i)).take 4))

/-- Byte i of a store's data (R148). -/
def dataByte (t : Team) (d : Fld) (sz : Size) (l i : Nat) : Byte :=
  BitVec.ofNat 8 ((t.get ((regs d sz).getD (i / 4) d) l).toNat / 2 ^ (8 * (i % 4)))

/-- Request r is an LDA of the team that has byte x of a level that all its lanes share among its destination bytes (R154). -/
def ldaNames (t : Team) (lvl : Level) (r : Req) (x : Nat) : Bool :=
  r.team == t.id && match r.kind with
    | .lda lv n _ => ldaLevel lv == lvl && r.lanes.any fun y => decide (y.dst ≤ x ∧ x < y.dst + n)
    | _ => false

/-- The requests of s1 are those of s, but that an LDA of the team keeps, lane by lane, which of its destination bytes the team has stored to:
no lane forgets one, every byte that a lane of the store names is among those of each LDA lane that has it as a destination, and none beside
(R154). -/
abbrev SpoiledLdas (s : State) (t : Team) (o : LocalOp) (s1 : State) : Prop :=
  s1.reqs.map (fun r : Req => { r with lanes := r.lanes.map fun x : Lane => { x with spoil := [] } }) =
      s.reqs.map (fun r : Req => { r with lanes := r.lanes.map fun x : Lane => { x with spoil := [] } }) ∧
    ∀ (i j : Nat) (r r1 : Req) (x x1 : Lane), s.reqs[i]? = some r → s1.reqs[i]? = some r1 → r.lanes[j]? = some x → r1.lanes[j]? = some x1 →
      match r.kind with
      | .lda lv n _ =>
        if r.team = t.id ∧ ldaLevel lv = o.lvl then
          ∀ b, x.dst ≤ b → b < x.dst + n → (b ∈ x1.spoil ↔
            b ∈ x.spoil ∨ ∃ l ∈ t.lanes, (t.get o.a l).toNat ≤ b ∧ b < (t.get o.a l).toNat + bytesOf o.sz)
        else x1.spoil = x.spoil
      | _ => x1.spoil = x.spoil

end Sys2Proof.Claims

/-- A load of core scratch or lane-private memory binds its lanes at issue, from the team's own memory; one of cluster memory or chip scratch is
sent to its backing store. Lane l of lane-private memory has a slice of its own (R137, R139, R148, R164). -/
def Sys2Proof.Claims.LocalLoads : Prop :=
  ∀ i o, localLoadOp i = some o → ∀ s t, Issues s t → o.d.toNat ≤ 120 → (o.sz = .q → o.d.toNat ≤ 116 ∨ o.d.toNat = 120) →
    let ds := if o.d = 120#7 then [] else regs o.d o.sz
    Readable t ([o.a] ++ ds) → InLevel s t o →
    exec i s = .next (sent s t { c := o.c, a := o.a, x := 0, n := 0, write := false, srcs := [], dests := ds,
                                 kind := .ldl o.lvl o.sz o.sx, path := none }
      (t.lanes.map fun l =>
        let off := (t.get o.a l).toNat
        let w : List Word := match o.lvl with
          | .core => loaded o.sz o.sx (memRead t.scratch off (bytesOf o.sz))
          | .lane => loaded o.sz o.sx (memRead t.lanePriv (65536 * l + off) (bytesOf o.sz))
          | _ => []
        { lane := l, va := off, pa := 0, pa2 := 0, cut := 0, attr := Attr.none, dst := 0, via := [], data := [], got := w, spoil := [],
          st := if o.lvl = .core ∨ o.lvl = .lane then .bound else .pending }))

/-- A store to core scratch or lane-private memory writes the team's own memory at issue, where no load of the team is ahead and no LDA of it
is pending: each byte that a lane names holds the byte of the highest such lane, every other byte of the level what it held, and the other
levels, the registers and global memory are as they were (R139, R148, R149). -/
def Sys2Proof.Claims.OwnStores : Prop :=
  ∀ i o, localStoreOp i = some o → o.lvl = .core ∨ o.lvl = .lane → ∀ s t, Issues s t → (o.sz = .q → o.d.toNat ≤ 116) →
    Readable t ([o.a] ++ regs o.d o.sz) → InLevel s t o → NoSkip t → (∀ r ∈ s.reqs, r.team ≠ t.id) →
    Memory.wf t.scratch = true → Memory.wf t.lanePriv = true →
    let at_ (l b : Nat) : Nat := (if o.lvl = .lane then 65536 * l else 0) + (t.get o.a l).toNat + b
    let mem (u : Team) : Mem := if o.lvl = .lane then u.lanePriv else u.scratch
    ∃ s' t', exec i s = .next s' ∧ Issues s' t' ∧
      (∀ l ∈ t.lanes, ∀ b < bytesOf o.sz, (∀ k ∈ t.lanes, l < k → ∀ j < bytesOf o.sz, at_ k j ≠ at_ l b) →
        memGet (mem t') (at_ l b) = dataByte t o.d o.sz l b) ∧
      (∀ x, (∀ l ∈ t.lanes, ∀ b < bytesOf o.sz, at_ l b ≠ x) → memGet (mem t') x = memGet (mem t) x) ∧
      (if o.lvl = .lane then t'.scratch = t.scratch else t'.lanePriv = t.lanePriv) ∧
      { t' with scratch := t.scratch, lanePriv := t.lanePriv, pc := t.pc, st := t.st, window := t.window } = t ∧
      t'.pc = t.pc + 4 ∧ { s' with teams := s.teams, order := s.order } = s

/-- A store to cluster memory or chip scratch is sent to its backing store, where no load of the team is ahead; in chip scratch, bytes that
an incomplete copy of the team names are marked, and so are bytes that an LDA of the team names, in the store and in the LDA (R148, R149, R154,
R164, R173). -/
def Sys2Proof.Claims.SharedStores : Prop :=
  ∀ i o, localStoreOp i = some o → o.lvl = .clm ∨ o.lvl = .chip → ∀ s t, Issues s t → (o.sz = .q → o.d.toNat ≤ 116) →
    Readable t ([o.a] ++ regs o.d o.sz) → InLevel s t o → (∀ r ∈ s.reqs, r.team = t.id → r.kind.isLoad = false) →
    ∃ s1, { s1 with copies := s.copies, reqs := s.reqs } = s ∧ SameCopies s s1 ∧ (o.lvl = .clm → s1.copies = s.copies) ∧
      SpoiledLdas s t o s1 ∧
      exec i s = .next (sent s1 t { c := o.c, a := o.a, x := 0, n := 0, write := true, srcs := [], dests := [],
                                    kind := .stl o.lvl o.sz, path := none }
        (t.lanes.map fun l =>
          { lane := l, va := (t.get o.a l).toNat, pa := 0, pa2 := 0, cut := 0, attr := Attr.none, dst := 0, via := [],
            data := (regs o.d o.sz).map fun f => t.get f l, got := [],
            spoil := (if o.lvl = .chip then copyBytes s t true (t.get o.a l).toNat (bytesOf o.sz) else []) ++
              (List.range (bytesOf o.sz)).filter fun i => s.reqs.any fun r => ldaNames t o.lvl r ((t.get o.a l).toNat + i),
            st := .pending }))

/-- The checks of the local levels: the misaligned lanes trap first, then those that reach beyond the level (R141). -/
def Sys2Proof.Claims.LocalChecks : Prop :=
  ∀ i o, localLoadOp i = some o ∨ localStoreOp i = some o → ∀ s t m l0, Issues s t → o.d.toNat ≤ 120 →
    (o.sz = .q → o.d.toNat ≤ 116) → Readable t ([o.a] ++ regs o.d o.sz) →
    m.getLsbD l0 = true → (∀ l < l0, m.getLsbD l = false) →
    (LanesOf t (fun l => decide ((t.get o.a l).toNat % bytesOf o.sz ≠ 0)) m →
      exec i s = .next (s.trap t 7 0 m (t.get o.a l0))) ∧
    ((∀ l ∈ t.lanes, (t.get o.a l).toNat % bytesOf o.sz = 0) →
      LanesOf t (fun l => decide (s.levelSize t o.lvl < (t.get o.a l).toNat + bytesOf o.sz)) m →
      exec i s = .next (s.trap t 9 0 m (t.get o.a l0)))

/-- The register aperture names lane slots of the team's own frame (SEL 0) or, for a team with privilege, of another team of the core: a load
reads them from the banks once the team's window is drained, a store writes them, lane after lane; a misaligned offset traps, and so do another
frame's offset without privilege and one that names no register or lane of the frame (R77, R140). That a load reads the banks after the drain,
and that the drain comes before the access's own last-use mark on A, are the model's choices (notes/assumptions/68.md,
notes/assumptions/78.md). -/
def Obligations.Aperture : Prop :=
  ∀ s t c d a, Issues s t → d.toNat ≤ 120 → Readable t [a, d] →
    let off (l : Nat) : Nat := (t.get a l).toNat
    let r (l : Nat) : Nat := off l / 4096 % 512
    let k (l : Nat) : Nat := off l / 4 % 1024
    (∀ m l0, LanesOf t (fun l => decide (off l % 4 ≠ 0)) m → m.getLsbD l0 = true → (∀ l < l0, m.getLsbD l = false) →
      exec (.lds c d a true .w false) s = .next (s.trap t 7 0 m (t.get a l0)) ∧
      exec (.sts c d a true .w) s = .next (s.trap t 7 0 m (t.get a l0))) ∧
    ((∀ l ∈ t.lanes, off l % 4 = 0) →
      (t.privileged = false ∨ (∀ l ∈ t.lanes, off l < 2 ^ 21) →
        ∀ m l0, LanesOf t (fun l => decide (2 ^ 21 ≤ off l ∨ t.p ≤ r l ∨ t.nlanes ≤ k l)) m → m.getLsbD l0 = true →
          (∀ l < l0, m.getLsbD l = false) →
          exec (.lds c d a true .w false) s = .next (s.trap t 9 0 m (t.get a l0)) ∧
          exec (.sts c d a true .w) s = .next (s.trap t 9 0 m (t.get a l0))) ∧
      (∀ own : Nat → Team,
        (∀ l ∈ t.lanes, (∃ u, s.apTeam t (t.get a l) = some u ∧ r l < u.p ∧ k l < u.nlanes) ∧
          (if off l < 2 ^ 21 then own l = t.drain else (s.putTeam t.drain).apTeam t.drain (t.get a l) = some (own l))) →
        exec (.lds c d a true .w false) s =
          .next (sent s t.drain { c := c, a := a, x := 0, n := 0, write := false, srcs := [],
                                  dests := if d = 120#7 then [] else [d], kind := .ldl .aperture .w false, path := none }
            (t.lanes.map fun l =>
              { lane := l, va := off l, pa := 0, pa2 := 0, cut := 0, attr := Attr.none, dst := 0, via := [], data := [],
                got := [(((own l).reg (r l)).bank).lane (k l)], spoil := [], st := .bound }))) ∧
      ((∀ l ∈ t.lanes, off l < 2 ^ 21 ∧ r l < t.p ∧ k l < t.nlanes) → (∀ q ∈ s.reqs, q.team ≠ t.id) →
        exec (.sts c d a true .w) s = .next (s.complete c
          ((t.lanes.foldl (fun u l => u.setSlot (r l) (k l) (t.get d l)) t.drain).useMarks c [a] []))) ∧
      (∀ u, u.id ≠ t.id →
        (∀ l ∈ t.lanes, 2 ^ 21 ≤ off l ∧ s.apTeam t (t.get a l) = some u ∧ r l < u.p ∧ k l < u.nlanes) →
        (∀ q ∈ s.reqs, q.team ≠ t.id) →
        exec (.sts c d a true .w) s = .next ((s.modTeam u.id fun w =>
          t.lanes.foldl (fun w l => w.setSlot (r l) (k l) (t.get d l)) w).complete c (t.drain.useMarks c [a] []))))

/-! ## LDA, chisels and XLT at issue -/

namespace Sys2Proof.Claims

/-- Lane l's n bytes lie in one page or go on in the next one: where they start, where the bytes from cut on lie, and the attributes of the
pages; neither page forbids the access (R143, R152). -/
abbrev Spans (s : State) (t : Team) (x : BitVec 3) (a : Fld) (n l pa pb cut : Nat) (at_ bt : Attr) (ok : Nat → Nat → Nat → Attr → Prop) : Prop :=
  let o := (t.get a l).toInt
  let va := (addr t x a l).toNat
  let seg (v : Nat) := s.coreSeg t.core t.ctx t.faultm.toNat v
  0 ≤ addr t x a l ∧ addr t x a l + n ≤ 2 ^ 55 ∧ ok va pa cut at_ ∧ s.tableAt pa cut = false ∧
  (if n ≤ 65536 - va % 65536 then cut = n ∧ pb = pa + n ∧ bt = Attr.none else cut = 65536 - va % 65536 ∧ s.tableAt pb (n - cut) = false) ∧
  (if 0 ≤ o ∧ o + n ≤ (xreg t x).limit.toNat then
     ((pa : Int) = (xreg t x).frame + o ∧ at_ = (xreg t x).attr ∧ pb = pa + cut ∧ (cut < n → bt = at_ ∧ ok (va + cut) pb (n - cut) at_))
   else (seg va = .ok pa at_ ∧ (cut < n → seg (va + cut) = .ok pb bt ∧ ok (va + cut) pb (n - cut) bt)))

/-- What translated a lane's n bytes: the run of the translation register, or one page or two (R143). -/
def spanVia (s : State) (t : Team) (x : BitVec 3) (a : Fld) (n l : Nat) : List (Nat × Nat) :=
  let o := (t.get a l).toInt
  let va := (addr t x a l).toNat
  if 0 ≤ o ∧ o + n ≤ (xreg t x).limit.toNat then [((xreg t x).vbase.toNat, (xreg t x).limit.toNat)]
  else
    let c := 65536 - va % 65536
    s.pageRange t.core t.ctx va :: if n ≤ c then [] else [s.pageRange t.core t.ctx (va + c)]

def localLevel : LdaLevel → Level
  | .lane => .lane
  | .core => .core
  | .clm => .clm
  | .chip => .chip

def pathOf : LdaLevel → Path
  | .lane => .l
  | .core => .s
  | .clm => .c
  | .chip => .x

/-- XLT into each of the eight translation registers. -/
def xltOp : Instr → Option (Ctl × Fld × Nat)
  | .xltX0 c a => some (c, a, 0)
  | .xltX1 c a => some (c, a, 1)
  | .xltX2 c a => some (c, a, 2)
  | .xltX3 c a => some (c, a, 3)
  | .xltX4 c a => some (c, a, 4)
  | .xltX5 c a => some (c, a, 5)
  | .xltX6 c a => some (c, a, 6)
  | .xltX7 c a => some (c, a, 7)
  | _ => none

/-- Entry i of the chisel table of a context is Installed with CHKP, LEN and GEN (R194, R196). -/
abbrev Installed (s : State) (c : Ctx) (i : Nat) (chkp : Bool) (len gen : Nat) : Prop :=
  let w := s.physWord (c.cht.toNat + 128 * i)
  w.getLsbD 15 = true ∧ w.getLsbD 14 = chkp ∧ w.toNat / 256 % 32 = len ∧ w.toNat % 256 = gen

end Sys2Proof.Claims

/-- An LDA that passes the checks of both sides goes out with the address, the attributes of the page or pages, the cut at a page's end and the
destination offset of every active lane, and raises the counter of its path (R152, R153). -/
def Sys2Proof.Claims.LdaIssue : Prop :=
  ∀ s t c d a x lvl (nn : BitVec 2) stream (pa pb cut : Nat → Nat) (at_ bt : Nat → Attr), Issues s t → Readable t [a, d] →
    let n : Nat := 4 ^ (nn.toNat + 1)
    let al : Nat := min n 16
    s.capped t = false → t.count (pathOf lvl) < 255 →
    (∀ l ∈ t.lanes, addr t x a l % al = 0 ∧ (t.get d l).toNat % al = 0 ∧
      (t.get d l).toNat + n ≤ s.levelSize t (localLevel lvl) ∧
      Spans s t x a n l (pa l) (pb l) (cut l) (at_ l) (bt l) fun va p m b =>
        s.unreachable p = false ∧ (b.raw = true → s.rawOutside t.ctx va p m = false)) →
    ∃ s1, { s1 with tlb := s.tlb, detectors := s.detectors } = s ∧
      exec (.lda c d a x lvl nn stream) s =
        .next (sent s1 t { c := c, a := a, x := x, n := n, write := false, srcs := [], dests := [],
                           kind := .lda lvl n stream, path := some (pathOf lvl) }
          (t.lanes.map fun l =>
            { lane := l, va := (addr t x a l).toNat, pa := pa l, pa2 := pb l, cut := cut l, attr := at_ l, attr2 := bt l,
              dst := (t.get d l).toNat, via := spanVia s t x a n l, data := [], got := [], spoil := [], st := .pending }))

/-- CHX sends one request with the entry, its generation, the operands and the offset of every active lane; without CHKP the team goes on with D
to D+3 empty, with CHKP it is held at the CHX; an entry that is not Installed, or one with CHKP and several active lanes, takes the chisel-fault
trap (R203, R204); a poisoned entry contains the context (R209). -/
def Sys2Proof.Claims.ChxIssue : Prop :=
  ∀ s t k d a x (idx : BitVec 7), Issues s t → s.ctx? t.ctx = some k → d.toNat ≤ 116 →
    let ds := [d, d + 1, d + 2, d + 3]
    Readable t (a :: ds) →
    let at0 := k.cht.toNat + 128 * idx.toNat
    (∀ l, s.poisonIn at0 128 = some l → exec (.chx d a x idx) s = .next (s.contain t.ctx (some l))) ∧
    (s.poisonIn at0 128 = none → (s.physWord at0).getLsbD 15 = false →
      exec (.chx d a x idx) s = .next (s.trap t 11 0 t.mask (t.getLow a))) ∧
    (s.poisonIn at0 128 = none → ∀ chkp len gen, Installed s k idx.toNat chkp len gen →
      (chkp = true → 1 < t.lanes.length → exec (.chx d a x idx) s = .next (s.trap t 11 1 t.mask (t.getLow a))) ∧
      (∀ (pa : Nat → Nat) (at_ : Nat → Attr), (chkp = true → t.lanes.length ≤ 1) →
        (∀ l ∈ t.lanes, addr t x a l % 64 = 0 ∧ Reaches s t x a 64 l (pa l) (at_ l) ∧ (at_ l).w = true ∧ (at_ l).rlf = false ∧
          (at_ l).raw = false ∧ isRemote (pa l) = false ∧ s.tableAt (pa l) 64 = false ∧ NoLoadAhead s t 64 (pa l) ∧
          (s.stage t.ctx (pa l)).isSome = true) →
        ∃ s1, { s1 with tlb := s.tlb, copies := s.copies } = s ∧ SameCopies s s1 ∧ ∃ code ls,
          let o : GlobalOp := { c := ctlNone, a := a, x := x, n := 64, write := true, srcs := ds, dests := ds,
                                kind := .chx idx.toNat gen code chkp, path := none }
          code = (bytesWords (s.phys (k.cht.toNat + 128 * idx.toNat + 4) 64)).take len ∧
          ls = t.lanes.map (fun l => { lane s t o pa at_ l with data := (ds.map fun f => t.get f l) ++ [t.get a l] }) ∧
          (chkp = false → exec (.chx d a x idx) s = .next (sent s1 t o ls)) ∧
          (chkp = true →
            ∃ s', exec (.chx d a x idx) s = .next s' ∧
              Issues s' { t with hold := some (.chx s.nextId), st := .ready } ∧
              (∃ r, s'.reqs = s.reqs ++ [r] ∧ r.id = s.nextId ∧ r.team = t.id ∧ r.kind = o.kind ∧ r.lanes = ls ∧
                r.dests = ds.map t.fieldReg) ∧ s'.mem = s.mem)))

/-- CHINST checks its operands and the right; once the conditions of a release at device scope hold for the team's earlier accesses it reads the
routine, writes the entry and holds the team, and until then it is held to be issued again (R202); code is empty when no word is read. CHINST_DONE
ends the hold once no request of the old generation is left, and writes the status. CHK stands in chisel code alone: as an instruction of
a team its word is illegal (R44, R198, R201). -/
def Sys2Proof.Claims.ChiselInstall : Prop :=
  (∀ s t c d a, Issues s t → a.toNat ≤ 118 → Readable t [a, a + 1, d] →
    let w := t.getLow a
    let i := w.toNat % 128
    let n := w.toNat / 128 % 32
    let x := BitVec.ofNat 3 (w.toNat / 4096)
    let old := (s.chHeader t.ctx i).toNat % 256
    let held (u : State) (st : Nat) (code : List Word) (status : Nat) : State :=
      (u.chInstall t.ctx i st code).putTeam
        { t with hold := some (.chinst c d a (BitVec.ofNat 32 status) i old), st := .ready }
    let waits (u : State) : State := u.putTeam { t with hold := some (.install s.nextId), st := .ready }
    let free := s.releaseDone t.id .device s.nextId
    (¬Uniform t a → exec (.chinst c d a) s = .next (s.trap t 5 0 t.mask (BitVec.ofNat 32 a.toNat))) ∧
    (Uniform t a → ¬Uniform t (a + 1) → exec (.chinst c d a) s = .next (s.trap t 5 0 t.mask (BitVec.ofNat 32 (a.toNat + 1)))) ∧
    (Uniform t a → Uniform t (a + 1) →
      (s.chi t.ctx = false → exec (.chinst c d a) s = .next (s.trap t 9 0 t.mask 0)) ∧
      (s.chi t.ctx = true →
        (w.toNat / 2 ^ 15 ≠ 0 → exec (.chinst c d a) s = .next (s.trap t 9 0 t.mask w)) ∧
        (w.toNat / 2 ^ 15 = 0 → s.chPoison t.ctx i = none →
          (16 < n → exec (.chinst c d a) s = .next (if free then held s 2 [] 2 else waits s)) ∧
          (n = 0 → exec (.chinst c d a) s = .next (if free then held s 1 [] 1 else waits s)) ∧
          (∀ pa pb cut at_ bt, 1 ≤ n → n ≤ 16 → addr t x (a + 1) t.low % 4 = 0 →
            Spans s t x (a + 1) (4 * n) t.low pa pb cut at_ bt (fun _ p _ b =>
              s.unreachable p = false ∧ b.rlf = false ∧ b.raw = false) →
            s.poisonIn pa cut = none → (cut < 4 * n → s.poisonIn pb (4 * n - cut) = none) →
            let code := bytesWords (s.phys pa cut ++ s.phys pb (4 * n - cut))
            ∃ s1, { s1 with tlb := s.tlb } = s ∧
              exec (.chinst c d a) s = .next (if free then
                held s1 (chStatus 0 code).1 code ((chStatus 0 code).1 + 256 * (chStatus 0 code).2) else waits s1)))))) ∧
  (∀ s t team c d a status i gen, s.dev = .operational → s.team? team = some t → t.hold = some (.chinst c d a status i gen) →
    (∀ r ∈ s.reqs, r.ctx = t.ctx → ∀ code chkp, r.kind ≠ .chx i gen code chkp) →
    let u : Team := { t with hold := none }
    exec (.chinstDone team) s = .next (s.complete c ((u.useMarks c [a, a + 1] []).write u [(d, fun _ => status)]))) ∧
  (∀ s t a code, Issues s t → exec (.chk a code) s = .next (s.trap t 1 0 t.mask (encodeWord (.chk a code))))

namespace Sys2Proof.Claims

/-- The words that a routine may hold, by V, C and OP (R197): IADD and ISUB, the logic and shift operations, MIN, MAX and the compares, SEL and
IABSD, FADD and FSUB, FMIN and FMAX, the FP compares, IADDI, SHI, CHK and LDI, whose format has no C bits. -/
abbrev InSubset (w : Word) : Prop :=
  let op := w.toNat / 2 ^ 24 % 64
  w.toNat / 2 ^ 30 = 0 ∧
    (op = 0x20 ∨
     w.toNat % 4 = 0 ∧ op ∈ [0x01, 0x04, 0x05, 0x06, 0x07, 0x08, 0x09, 0x0A, 0x0B, 0x0C, 0x0D, 0x0E, 0x10, 0x11, 0x12, 0x1D, 0x1E, 0x1F])

/-- The fields that a word of the subset may hold (R198). -/
abbrev FieldsOk (w : Word) : Prop :=
  let op := w.toNat / 2 ^ 24 % 64
  let d := w.toNat / 2 ^ 17 % 128
  let a := w.toNat / 2 ^ 10 % 128
  let imm := w.toNat / 4 % 256
  let dest := d ≤ 15 ∨ (20 ≤ d ∧ d ≤ 31) ∨ d = 120
  let src (f : Nat) := f ≤ 31 ∨ f = 120
  if op = 0x1F then d = 120 ∧ src a ∧ 2 ≤ imm
  else if op = 0x20 then dest
  else if op = 0x1E then dest ∧ src a ∧ imm / 32 % 2 = 0
  else if op = 0x1D then dest ∧ src a
  else dest ∧ src a ∧ src (w.toNat / 8 % 128) ∧ (op = 0x0D → w.toNat / 4 % 2 = 0 → src d)

end Sys2Proof.Claims

/-- A routine is refused at its first word outside the subset (3) or with a field that it may not hold (4), and the entry that CHINST writes is
Installed with the routine, Empty or Refused, with the next generation (R196, R197, R198, R201). A Refused entry's CHKP of 0 is the model's choice
(notes/assumptions/79.md). -/
def Sys2Proof.Claims.ChiselEntry : Prop :=
  (∀ code k : List Word, ∀ w, (∀ v ∈ code, InSubset v ∧ FieldsOk v) →
    chStatus 0 code = (0, 0) ∧
    (¬InSubset w → chStatus 0 (code ++ w :: k) = (3, code.length)) ∧
    (InSubset w → ¬FieldsOk w → chStatus 0 (code ++ w :: k) = (4, code.length))) ∧
  (∀ s c n i code, MemOk s → s.ctx? n = some c → c.cht.toNat + 128 * i + 128 ≤ dramEnd → code.length ≤ 16 →
    let gen := (s.chHeader n i).toNat % 256 + 1
    (code ≠ [] → Installed (s.chInstall n i 0 code) c i (code.any fun w => (w.toNat / 2 ^ 24) % 64 == 31) code.length (gen % 256) ∧
      (s.chInstall n i 0 code).chCode n i = code) ∧
    (∀ st, st ≠ 0 →
      let w := (s.chInstall n i st []).physWord (c.cht.toNat + 128 * i)
      w.getLsbD 15 = false ∧ w.getLsbD 14 = false ∧ w.getLsbD 13 = (st != 1) ∧ w.toNat % 256 = gen % 256))

/-- XLT holds the team while it walks from the base in A and A+1; the walk leaves FRAME, ATTR and the bytes to the end of the page that it finds, or a
LIMIT of 0, and the team goes on; bases that are not uniform or too large trap (R145); a poisoned table line contains the context (R209). -/
def Obligations.XltWalk : Prop :=
  (∀ i c a n, xltOp i = some (c, a, n) → ∀ s t, Issues s t → a.toNat ≤ 118 → Readable t [a, a + 1] →
    let lo := (t.getLow a).toNat
    let hi := (t.getLow (a + 1)).toNat
    (¬(Uniform t a ∧ Uniform t (a + 1)) → exec i s = .next (s.trap t 5 0 t.mask (BitVec.ofNat 32 (256 + 32 + 2 * n)))) ∧
    (Uniform t a → Uniform t (a + 1) → 2 ^ 23 ≤ hi → exec i s = .next (s.trap t 9 0 t.mask (t.getLow (a + 1)))) ∧
    (Uniform t a → Uniform t (a + 1) → hi < 2 ^ 23 →
      exec i s = .next (s.putTeam { t with hold := some (.walk c a n (lo + 2 ^ 32 * hi)), st := .ready }))) ∧
  (∀ s t team c a n va, s.dev = .operational → s.team? team = some t → t.hold = some (.walk c a n va) → va < 2 ^ 55 →
    (∀ l, s.walkPoison (s.rootOf t.ctx) va = some l → exec (.xltWalkDone team) s = .next (s.contain t.ctx (some l))) ∧
    (s.walkPoison (s.rootOf t.ctx) va = none → ∃ x : Xl, x.vbase.toNat = va ∧
      exec (.xltWalkDone team) s =
        .next (s.complete c { t.useMarks c [a, a + 1] [] with xl := t.xl.set n x, hold := none }) ∧
      (∀ f large at_, s.walk (s.rootOf t.ctx) va = .leaf f large at_ →
        let size := if large then 2 ^ 29 else 65536
        x.frame = f + va % size ∧ x.limit.toNat = size - va % size ∧ x.attr = at_) ∧
      ((∀ f large at_, s.walk (s.rootOf t.ctx) va ≠ .leaf f large at_) → x.limit.toNat = 0)))

/-! ## Requests on their way -/

namespace Sys2Proof.Claims

/-- Lane x of request r is being served, under number req and lane. -/
abbrev AtLane (s : State) (req lane : Nat) (r : Req) (x : Lane) : Prop :=
  s.dev = .operational ∧ s.req? req = some r ∧ s.live r = true ∧ r.lane? lane = some x

/-- The lane stands so after the event. -/
abbrev LaneIs (s : State) (req lane : Nat) (x : Lane) : Prop := ∃ r, s.req? req = some r ∧ r.lane? lane = some x

/-- The eight bytes of word w of memory. -/
def wordAt (s : State) (w : Nat) : Dword := BitVec.ofNat 64 (le (memRead s.mem (8 * w) 8))

/-- The bytes lie in DRAM (R14). -/
abbrev InDram (pa n : Nat) : Prop := pa + n ≤ dramEnd

/-- No engine and no armature unit holds a coded view or a descriptor that has one of the bytes (R314, R356, R358). -/
abbrev NotHeld (s : State) (pa n : Nat) : Prop := ∀ a, pa ≤ a → a < pa + n → s.heldAt a = false


/-- Lane y of a load is served with lane x: it misses on a word of x (R149). -/
def together (x : Lane) (n : Nat) (y : Lane) : Bool :=
  y.lane == x.lane || (y.st == .pending && !y.attr.rlf && !y.attr.raw && sameWord x.pa n y.pa n)

/-- The bytes per lane that a request reads at their home while the core's L1 may hold older copies of their words (R150, R170, R190). -/
def homeBytes : ReqKind → Nat
  | .ldg sz _ strong stream => if strong || stream then bytesOf sz else 0
  | .atom op sc => if sc = .team then 0 else if op = .add64 ∨ op = .xchg64 then 8 else 4
  | .chx _ _ _ _ => 64
  | .drain => 4
  | _ => 0

/-- The copies of s' are those of s; the request's team has now seen, of the words that the request read at their home, the copies that its core
holds without owning them: it uses these no more (R185 note 4). -/
abbrev Sees (s s' : State) (r : Req) : Prop :=
  s'.l1.map (fun c : Copy => { c with seen := [] }) = s.l1.map (fun c : Copy => { c with seen := [] }) ∧
    ∀ (i : Nat) (c c' : Copy), s.l1[i]? = some c → s'.l1[i]? = some c' → ∀ team, team ∈ c'.seen ↔ team ∈ c.seen ∨
      (team = r.team ∧ c.core = r.core ∧ c.owned = false ∧
        ∃ x ∈ r.lanes, sameWord x.pa (homeBytes r.kind) (8 * c.word) 8 = true)

/-- A request as its replay packet of generation g: nothing of it has been served, and it will reach its datapath, engine or bank anew; a
record starts at its root again (R302, R303, R341). -/
def packetOf (r : Req) (g : BitVec 16) : Req :=
  let places : Bool := match r.kind with
    | .isec _ _ _ _ | .relief _ _ _ | .ldg _ _ _ _ => true
    | _ => false
  let root (l : Nat) : Nat := ((r.lanes.find? fun x => x.lane == l).map (·.dst)).getD 0
  { r with gen := g
           lanes := r.lanes.map fun x => { x with got := [], st := .pending, dst := if places then 0 else x.dst }
           rays := r.rays.map fun y => { y with best := none, stack := [BitVec.ofNat 32 (root y.lane)], visits := 0, bad := 0, came := 0,
                                                st := .travelling } }

/-- Memory outside n bytes at pa is as it was, and stays canonical. -/
abbrev OnlyBytes (s s' : State) (pa n : Nat) : Prop :=
  (∀ a, ¬(pa ≤ a ∧ a < pa + n) → memGet s'.mem a = memGet s.mem a) ∧ s'.fabric = s.fabric ∧ MemOk s'

end Sys2Proof.Claims

/-- L2_MISS_SERVE binds the lane, and with it the lanes that miss on its words, to the bytes of memory at their home, where no earlier access of
the team is ahead and the lines are clean; unless the load is strong or a stream, the core then holds a copy of each word: the one it owns, or a
copy leased until λ after the load's issue, whose expiry the bank keeps; a poisoned line contains the context (R149, R150, R159, R160, R209). -/
def Sys2Proof.Claims.LoadMiss : Prop :=
  ∀ s req lane r x sz sx strong stream, AtLane s req lane r x → r.kind = .ldg sz sx strong stream → x.st = .pending →
    x.attr.rlf = false → x.attr.raw = false →
    let n : Nat := bytesOf sz
    (∀ y ∈ r.lanes, together x n y = true → InDram y.pa n ∧ s.blocked r.team r.id y.pa n = false) →
    ((∃ y ∈ r.lanes, together x n y = true ∧ s.poisonIn y.pa n ≠ none) →
      ∃ y ∈ r.lanes, ∃ line, together x n y = true ∧ s.poisonIn y.pa n = some line ∧
        exec (.l2MissServe req lane) s = .next (s.contain r.ctx (some line))) ∧
    ((∀ y ∈ r.lanes, together x n y = true → s.poisonIn y.pa n = none) →
      ∃ s', exec (.l2MissServe req lane) s = .next s' ∧
        (let serve (y : Lane) : Lane :=
          if together x n y = true then { y with got := loaded sz sx (memRead s.mem y.pa n), st := .bound } else y
        s'.req? req = some { r with lanes := r.lanes.map serve }) ∧
        (strong = true ∨ stream = true → s'.l1 = s.l1 ∧ s'.banks = s.banks) ∧
        (strong = false → stream = false → ∀ y ∈ r.lanes, together x n y = true → ∀ w ∈ wordsOf y.pa n,
          (∃ c ∈ s'.l1, c.core = r.core ∧ c.word = w ∧
            (c.owned = true ∧ c ∈ s.l1 ∨ c.owned = false ∧ c.seen = [] ∧ c.expiry = r.at_ + s.leaseNs r.ctx ∧ c.val = wordAt s w)) ∧
          (s'.bankWord w).expiry = max (s.bankWord w).expiry (s.clock - s.released + s.leaseNs r.ctx + 10) ∧
          (s'.bankWord w).owner = (s.bankWord w).owner) ∧
        { s' with reqs := s.reqs, l1 := s.l1, banks := s.banks } = s)

/-- LOAD_RETURN lands a load whose lanes are bound: each destination is full and holds the lane's value in every lane of the request that the team
still has or is leaving with, the request leaves, its entry leaves the path counter, and what it read at the home makes the team use older copies
of those words no more. That a lane which is leaving by EXIT still takes its value is the model's reading against R95's plain words
(notes/assumptions/62.md). The return of an old generation is dropped: the request is its replay packet again, of the team's present generation,
or leaves with a team that is gone, and registers, counters and memory are as before. A load of cluster memory or
chip scratch takes its bytes as they stand in the level on its arrival. LEASE_EXPIRY takes away a copy whose lease has run out (R74, R95, R148,
R153, R159, R164, R185, R302). -/
def Sys2Proof.Claims.LoadReturn : Prop :=
  (∀ s req r t, s.dev = .operational → s.req? req = some r → s.live r = true → s.team? r.team = some t →
    (∃ sz sx strong stream, r.kind = .ldg sz sx strong stream) ∨ (∃ lvl sz sx, r.kind = .ldl lvl sz sx ∧ lvl ≠ .clm ∧ lvl ≠ .chip) →
    (∀ x ∈ r.lanes, x.st ≠ .pending) →
    (t.gen ≠ r.gen → exec (.loadReturn req) s = .next (s.dropOld r)) ∧
    (t.gen = r.gen → t.nlanes ≤ 1024 →
      ∃ s' t', exec (.loadReturn req) s = .next s' ∧ s'.team? r.team = some t' ∧ s'.reqs = s.reqs.filter (fun q => q.id != r.id) ∧
        (∀ j q, r.dests[j]? = some q → q < t.frame.length → r.dests.Nodup →
          (t'.reg q).full = true ∧
          ∀ l < t.nlanes, ((t'.reg q).bank).lane l =
            if (r.mask &&& t.landing).getLsbD l then ((r.lane? l).map fun x => x.got.getD j 0).getD 0 else ((t.reg q).bank).lane l) ∧
        (∀ q, q ∉ r.dests → t'.reg q = t.reg q) ∧
        Sees s s' r ∧ { t' with frame := t.frame, cnt := t.cnt } = t ∧ { s' with teams := s.teams, reqs := s.reqs, l1 := s.l1 } = s)) ∧
  (∀ (s : State) (r : Req),
    (s.team? r.team = none → s.dropOld r = { s with reqs := s.reqs.filter fun q => q.id != r.id }) ∧
    (∀ t, s.team? r.team = some t →
      s.dropOld r = { s with reqs := s.reqs.map fun q => if q.id = r.id then packetOf r t.gen else q })) ∧
  (∀ s req r t lvl sz sx, s.dev = .operational → s.req? req = some r → s.live r = true → s.team? r.team = some t →
    r.kind = .ldl lvl sz sx → lvl = .clm ∨ lvl = .chip → t.gen = r.gen → (∀ x ∈ r.lanes, x.st = .pending) →
    (∀ x ∈ r.lanes, s.localBlocked r.team r.id lvl x.va (bytesOf sz) = false) →
    exec (.loadReturn req) s = .next (s.landReq { r with lanes := r.lanes.map fun x =>
      { x with got := loaded sz sx (s.levelRead t lvl x.lane x.va (bytesOf sz)), st := .bound } })) ∧
  (∀ s core word c, s.dev = .operational → s.l1.find? (fun c => c.core == core && c.word == word) = some c →
    c.owned = false → c.expiry ≤ s.coreTime core →
    exec (.leaseExpiry core word) s = .next { s with l1 := s.l1.filter fun c => !(c.core == core && c.word == word) })

/-- STORE_REGISTRATION writes a lane's bytes at their home once nothing earlier of the team is ahead: the bytes of memory are the lane's, every
other byte is as it was; the copies of the other owners are gone at once, and a store that is neither strong nor a stream leaves its core the
owner, any other none (the model's readings of R161, notes/assumptions/37.md and notes/assumptions/38.md); a store to a shared local level writes it; what an atomic of team scope has computed is registered as a plain store, that of one at
cluster scope as a strong one (R149, R161, R164, R169, R190). -/
def Sys2Proof.Claims.StoreRegistration : Prop :=
  (∀ s req lane r x sz strong stream op sc n (d : List Word) keep, AtLane s req lane r x → MemOk s →
    (r.kind = .stg sz strong stream ∧ x.st = .pending ∧ n = bytesOf sz ∧ d = x.data ∧ keep = (!strong && !stream) ∧
       x.attr.raw = false ∧ s.heldRelief r = false ∧ s.heldBack r x n = false ∧ x.data.length = (if sz = .q then 4 else 1)) ∨
    (r.kind = .atom op sc ∧ x.st = .bound ∧ (n = if op = .add64 ∨ op = .xchg64 then 8 else 4) ∧ d = x.data ∧ keep = decide (sc = .team) ∧
       x.data.length = 2) →
    InDram x.pa n → x.spoil = [] → (∀ m ∈ s.maqs, m.ctx = r.ctx → m.streaming = false) → NotHeld s x.pa n →
    ∃ s' st, exec (.storeRegistration req lane) s = .next s' ∧ LaneIs s' req lane { x with st := st } ∧
      (∀ i < n, memGet s'.mem (x.pa + i) = BitVec.ofNat 8 ((d.getD (i / 4) 0).toNat / 2 ^ (8 * (i % 4)))) ∧
      OnlyBytes s s' x.pa n ∧
      (∀ w ∈ wordsOf x.pa n,
        (s'.bankWord w).owner = (if keep = true then some r.core else none) ∧
        (s'.bankWord w).expiry = (s.bankWord w).expiry ∧
        (∀ o c, (s.bankWord w).owner = some o → o ≠ r.core → c ∈ s'.l1 → c.core = o → c.word ≠ w)) ∧
      ((∀ w ∈ wordsOf x.pa n, ∀ o, (s.bankWord w).owner = some o → o = r.core) →
        st = .acked (s'.completionDelay (wordsOf x.pa n))) ∧
      s'.teams = s.teams ∧ s'.ctxs = s.ctxs ∧ s'.tlb = s.tlb ∧ s'.deadlines = s.deadlines) ∧
  (∀ s req lane r x lvl sz t, AtLane s req lane r x → r.kind = .stl lvl sz → x.st = .pending → s.team? r.team = some t →
    s.localBlocked r.team r.id lvl x.va (bytesOf sz) = false → s.relAhead r.team r.id = false → x.spoil = [] →
    (∀ y ∈ r.lanes, y.lane < x.lane → y.st ≠ .pending) → (∀ q ∈ s.reqs, q.team = t.id → ∀ lv n b, q.kind ≠ .lda lv n b) →
    exec (.storeRegistration req lane) s =
      .next ((s.levelWrite t lvl x.lane x.va (storeBytes sz x.data)).setLane r { x with st := .acked 0 }))

/-- REVOCATION_ACK lets the acknowledgement leave with the completion delay of that moment; STORE_ACK sets a deadline d + 10 ns from now on the
core's clock, and the store leaves with its last lane (a store that waits for relief to take it, R333, is acknowledged after that); LOCAL_DEADLINE_PASS takes a deadline away when the clock has reached it (R161, R162). -/
def Sys2Proof.Claims.StoreAcks : Prop :=
  (∀ s req lane r x os d, AtLane s req lane r x → x.st = .registered os d → isRemote x.pa = false → r.kind.globalBytes ≠ 0 →
    exec (.revocationAck req lane) s =
      .next (s.setLane r { x with st := .acked (s.completionDelay (wordsOf x.pa r.kind.globalBytes)) })) ∧
  (∀ s req lane r x d, AtLane s req lane r x → r.kind.isStore = true → s.heldRelief r = false → x.st = .acked d →
    ∃ s' n, exec (.storeAck req lane) s = .next s' ∧
      s'.deadlines = { id := n, via := r.lanes.flatMap (·.via), req := r.id, ctx := r.ctx, team := r.team, core := r.core,
                       at_ := s.coreTime r.core + d + 10 } :: s.deadlines ∧
      ((∀ y ∈ r.lanes, y.lane ≠ x.lane → y.st = .done) → s'.reqs = s.reqs.filter (fun q => q.id != r.id)) ∧
      ((∃ y ∈ r.lanes, y.lane ≠ x.lane ∧ y.st ≠ .done) → LaneIs s' req lane { x with st := .done }) ∧
      { s' with reqs := s.reqs, deadlines := s.deadlines, nextId := s.nextId } = s) ∧
  (∀ s id d, s.dev = .operational → s.deadlines.find? (fun d => d.id == id) = some d →
    (d.at_ ≤ s.coreTime d.core →
      exec (.localDeadlinePass id) s = .next { s with deadlines := s.deadlines.filter fun x => x.id != id }) ∧
    (s.coreTime d.core < d.at_ → exec (.localDeadlinePass id) s = .next s))

namespace Sys2Proof.Claims

/-- The table of R188: the value stored, if one is, from the old value and the operands. -/
def stored (op : AtomOp) (old v w : Nat) : Option Nat :=
  let o : Word := BitVec.ofNat 32 old
  let x : Word := BitVec.ofNat 32 v
  match op with
  | .ld => none
  | .st | .xchg => some v
  | .cas => if old = v then some w else none
  | .add => some ((old + v) % 2 ^ 32)
  | .and => some (o &&& x).toNat
  | .or => some (o ||| x).toNat
  | .xor => some (o ^^^ x).toNat
  | .minS => some (BitVec.ofInt 32 (min o.toInt x.toInt)).toNat
  | .maxS => some (BitVec.ofInt 32 (max o.toInt x.toInt)).toNat
  | .minN => some (min old v)
  | .maxN => some (max old v)
  | .incw => some (if old ≥ v then 0 else old + 1)
  | .decw => some (if old = 0 ∨ old > v then v else old - 1)
  | .addb => if old + v ≤ w then some (old + v) else none
  | .fadd => some (rne32 (sumExact [F o, F x])).toNat
  | .fmin => some (fmin o x).toNat
  | .fmax => some (fmax o x).toNat
  | .add64 => some ((old + (2 ^ 32 * w + v)) % 2 ^ 64)
  | .xchg64 => some (2 ^ 32 * w + v)

def wide64 : AtomOp → Bool
  | .add64 | .xchg64 => true
  | _ => false

/-- The results of R188. -/
def results (op : AtomOp) (old v w : Nat) : List Word :=
  match op with
  | .st => [BitVec.ofNat 32 v]
  | .cas | .addb => [BitVec.ofNat 32 old, one01 (stored op old v w).isSome]
  | .add64 | .xchg64 => [BitVec.ofNat 32 old, BitVec.ofNat 32 (old / 2 ^ 32)]
  | _ => [BitVec.ofNat 32 old]

end Sys2Proof.Claims

/-- ATOM_EXECUTE reads the old value of one lane at its execution point, computes what the table of R188 gives, and keeps the results for the
return. At device and system scope the value is registered in the same step; at cluster and team scope the lane keeps it for its registration,
so that another party's may come between; at team scope the old value is the one in the home core's L1 when that holds the word and the team may use it (R169, R188,
R189, R190). -/
def Sys2Proof.Claims.AtomExecute : Prop :=
  ∀ s req lane r x op sc, AtLane s req lane r x → r.kind = .atom op sc → x.st = .pending → MemOk s →
    let n : Nat := if wide64 op then 8 else 4
    InDram x.pa n → x.spoil = [] →
    s.heldBack r x n = false → s.pointBusy r x sc n = false → s.poisonIn x.pa n = none →
    (∀ m ∈ s.maqs, m.ctx = r.ctx → m.streaming = false) → NotHeld s x.pa n →
    let old := le (if sc = .team then (s.l1Read r.team r.core x.pa n).getD (memRead s.mem x.pa n) else memRead s.mem x.pa n)
    let v := (x.data.getD 0 0).toNat
    let w := (x.data.getD 1 0).toNat
    let y : Lane := { x with got := results op old v w }
    (stored op old v w = none → exec (.atomExecute req lane) s = .next (s.setLane r { y with st := .acked 0 })) ∧
    (∀ u, stored op old v w = some u → sc = .team ∨ sc = .cluster →
      exec (.atomExecute req lane) s =
        .next (s.setLane r { y with data := [BitVec.ofNat 32 u, BitVec.ofNat 32 (u / 2 ^ 32)], st := .bound })) ∧
    (∀ u, stored op old v w = some u → sc = .device ∨ sc = .system →
      ∃ s' st, exec (.atomExecute req lane) s = .next s' ∧ LaneIs s' req lane { y with st := st } ∧
        (∀ i < n, memGet s'.mem (x.pa + i) = BitVec.ofNat 8 (u / 2 ^ (8 * i))) ∧
        OnlyBytes s s' x.pa n ∧ s'.teams = s.teams ∧ s'.ctxs = s.ctxs)

/-- ATOM_RESULT_RETURN and CHISEL_RESULT_RETURN drop the core's copies of the words, but for team scope, and set a deadline; the last lane lands
the results; an aborted chisel takes the chisel-fault trap in its lane with the abort's code (R162, R170, R188, R190, R205). -/
def Sys2Proof.Claims.AtomReturn : Prop :=
  (∀ s req lane r x op sc d, AtLane s req lane r x → r.kind = .atom op sc → x.st = .acked d →
    let s1 : State := if sc = .team then s else
      { s with l1 := s.l1.filter fun c => !(c.core == r.core && (wordsOf x.pa (if wide64 op then 8 else 4)).contains c.word) }
    let r1 := r.setLane { x with st := .done }
    ((∀ y ∈ r1.lanes, y.st = .done) → exec (.atomResultReturn req lane) s = .next ((s1.setDeadline r d).landReq r1)) ∧
    ((∃ y ∈ r1.lanes, y.st ≠ .done) → exec (.atomResultReturn req lane) s = .next ((s1.setDeadline r d).putReq r1))) ∧
  (∀ s req lane r x idx gen code chkp d, AtLane s req lane r x → r.kind = .chx idx gen code chkp → x.st = .acked d →
    let s1 : State := { s with l1 := s.l1.filter fun c => !(c.core == r.core && (wordsOf x.pa 64).contains c.word) }.setDeadline r d
    let r1 := r.setLane { x with st := .done }
    (x.dst = 0 → (∃ y ∈ r1.lanes, y.st ≠ .done) → exec (.chiselResultReturn req lane) s = .next (s1.putReq r1)) ∧
    (x.dst = 0 → (∀ y ∈ r1.lanes, y.st = .done) → ∀ t, s.team? r.team = some t →
      ((∀ q, t.hold ≠ some (.chx q)) → exec (.chiselResultReturn req lane) s = .next (s1.landReq r1)) ∧
      (t.hold = some (.chx r.id) → exec (.chiselResultReturn req lane) s =
        .next ((s1.dropReq r.id).putTeam
          ({ (r.dests.foldl Team.markEmpty t).landAll r1 with hold := none }.advance (t.pc + 4))))) ∧
    (x.dst ≠ 0 → ∀ t, s.team? r.team = some t →
      exec (.chiselResultReturn req lane) s = .next ((s1.dropReq r.id).trap { t with hold := none } 11 x.dst
        (BitVec.ofNat 1024 (2 ^ lane)) (x.data.getD 4 0))))

/-- CHISEL_RUN runs the routine on the sixteen words of the line with P0 to P3 from the lane: the line words that it has changed are
written at once, Y0 to Y3 return; after an abort the line is as it was (R199, R205). -/
def Sys2Proof.Claims.ChiselRun : Prop :=
  ∀ s req lane r x idx gen code chkp, AtLane s req lane r x → r.kind = .chx idx gen code chkp → x.st = .pending → MemOk s →
    InDram x.pa 64 → s.heldBack r x 64 = false → s.poisonIn x.pa 64 = none → 4 ≤ x.data.length → x.spoil = [] →
    (∀ m ∈ s.maqs, m.ctx = r.ctx → m.streaming = false) → NotHeld s x.pa 64 →
    let start : List Word := x.data.take 4 ++ List.replicate 12 0
    let line (m : Mem) : List Word := (List.range 16).map fun i => BitVec.ofNat 32 (le (memRead m (x.pa + 4 * i) 4))
    ∃ s', exec (.chiselRun req lane) s = .next s' ∧ OnlyBytes s s' x.pa 64 ∧ s'.teams = s.teams ∧
      (∀ k, chRun code (line s.mem ++ start) [] = .abort k →
        s'.mem = s.mem ∧ LaneIs s' req lane { x with dst := k, st := .acked 0 }) ∧
      (∀ regs ch, chRun code (line s.mem ++ start) [] = .done regs ch →
        line s'.mem = regs.take 16 ∧ ∃ d, LaneIs s' req lane { x with got := (regs.drop 28).take 4, st := .acked d })

/-- A word of a routine does to the chisel registers what its instruction does to the registers of a lane; CHK with a nonzero A ends the
routine with its code, with a zero A it does nothing (R197 to R199). -/
def Sys2Proof.Claims.ChiselWords : Prop :=
  ∀ w ws r ch, InSubset w → FieldsOk w → r.length = 32 →
    (∀ i o t l, decodeWord w = .ok i → regOp i = some o →
      (∀ f : Fld, f.toNat ≤ 31 ∨ f.toNat = 120 → t.get f l = chGet r f) →
      chRun (w :: ws) r ch =
        chRun ws (chSet r o.d (o.f t l)) (if o.d.toNat ≤ 15 then o.d.toNat :: ch else ch)) ∧
    (∀ a code, decodeWord w = .ok (.chk a code) →
      chRun (w :: ws) r ch = if chGet r a = 0 then chRun ws r ch else .abort code.toNat)

/-- LDA_LAND lands an LDA whose path has no earlier entry, where no earlier access of the team is ahead and the lines are clean: the bytes go to the
destination of each lane in the level, ascending, and the request leaves its counter; no earlier access to the same words of a shared level is
ahead, and no earlier load of the destination bytes; the return of an old generation is dropped (R149, R152, R153, R154). -/
def Sys2Proof.Claims.LdaLand : Prop :=
  ∀ s req r t lvl n stream, s.dev = .operational → s.req? req = some r → s.live r = true → s.team? r.team = some t →
    r.kind = .lda lvl n stream →
    (t.gen ≠ r.gen → exec (.ldaLand req) s = .next (s.dropOld r)) ∧
    (t.gen = r.gen → t.earlierEntry r.id = false → s.faulting (.relief req) = false →
      (∀ x ∈ r.lanes, s.blocked r.team r.id x.pa x.cut = false ∧ s.blocked r.team r.id x.pa2 (n - x.cut) = false ∧
        s.localBlocked r.team r.id (localLevel lvl) x.dst n = false ∧ s.localLoadAhead r.team r.id (localLevel lvl) x.lane x.dst n = false ∧
        s.poisonIn x.pa (max 1 x.cut) = none ∧ (x.cut < n → s.poisonIn x.pa2 (n - x.cut) = none) ∧ x.attr.rlf = false ∧ x.attr.raw = false ∧
        x.attr2.rlf = false ∧ x.attr2.raw = false ∧ x.spoil = []) →
      exec (.ldaLand req) s =
        .next (((r.lanes.foldl (fun u x =>
          u.levelWrite t (localLevel lvl) x.lane x.dst (s.phys x.pa x.cut ++ s.phys x.pa2 (n - x.cut))) s).dropReq r.id).settleCnt r.team))

/-! ## The matrix arrays -/

namespace Sys2Proof.Claims

/-- The table of R235 by AF, BF, CF, SYN and SAT: dense K, A registers, the quarter registers of MMA and of MMS (0: no MMS). -/
def combo (f : Word) : Option Combo :=
  match f.toNat % 8, f.toNat / 8 % 8, f.toNat / 64 % 2, f.toNat / 128 % 4, f.toNat / 512 % 2 with
  | 0, 0, 0, 0, 0 => some ⟨32, 16, 4, 8⟩
  | 1, 1, 0, 0, 0 | 1, 2, 0, 0, 0 | 2, 1, 0, 0, 0 | 2, 2, 0, 0, 0 => some ⟨64, 16, 4, 8⟩
  | 3, 3, 1, 0, _ => some ⟨64, 16, 4, 8⟩
  | 1, 4, 0, 0, 0 => some ⟨256, 64, 9, 18⟩
  | 5, 5, 0, 1, 0 | 5, 5, 0, 2, 0 => some ⟨32, 32, 8, 0⟩
  | _, _, _, _, _ => none

def af (t : Team) : Nat := t.fmt.toNat % 8
def bf (t : Team) : Nat := t.fmt.toNat / 8 % 8
def cf (t : Team) : Bool := t.fmt.getLsbD 6

/-- n registers from f on. -/
def many (f : Fld) (n : Nat) : List Fld := (List.range n).map fun i => BitVec.ofNat 7 (f.toNat + i)

/-- The magnitude of an element for MABS and the drain (R243). -/
def magnitude (cf : Bool) (c : Word) : Nat :=
  if cf then c.toInt.natAbs else if (F c).isNan then 0x7FC00000 else c.toNat % 2 ^ 31

/-- The word n of the run that MCVT writes, from the elements (R107, R246). -/
def mcvtResult (af : Nat) (x : Nat → Word) (w : Nat) : Word :=
  match af with
  | 0 => BitVec.ofNat 32 ((toB16 (x (2 * w))).toNat + 2 ^ 16 * (toB16 (x (2 * w + 1))).toNat)
  | 1 => BitVec.ofNat 32 (((List.range 4).map fun i => (toE4 (x (4 * w + i))).toNat * 2 ^ (8 * i)).sum)
  | 2 => BitVec.ofNat 32 (((List.range 4).map fun i => (toE5 (x (4 * w + i))).toNat * 2 ^ (8 * i)).sum)
  | _ => BitVec.ofNat 32 (((List.range 4).map fun i =>
      (BitVec.ofInt 8 (max (-128) (min 127 (x (4 * w + i)).toInt))).toNat * 2 ^ (8 * i)).sum)

/-- A lane of a request that holds values. -/
def values (l : Nat) (ws : List Word) : Lane :=
  { lane := l, va := 0, pa := 0, pa2 := 0, cut := 0, attr := Attr.none, dst := 0, via := [], data := [], got := ws, spoil := [], st := .pending }

end Sys2Proof.Claims

/-- MCLR, MSCL, MQPK and MCVT write their registers at once; MABS sends its result, the largest magnitude, on its way, and MABS_RESULT
lands it; an FMT outside the table of R235, or one that MCVT does not allow, is illegal (R234, R235, R245, R246). -/
def Obligations.MatrixRegisters : Prop :=
  (∀ s t c d, Issues s t → d.toNat ≤ 88 → Readable t (many d 32) →
    exec (.mclr c d) s = .next (s.complete c (t.write t ((many d 32).map fun f => (f, fun _ => 0))))) ∧
  (∀ s t c d a, Issues s t → d.toNat ≤ 88 → Readable t (a :: many d 32) →
    ((combo t.fmt).isSome = true →
      exec (.mscl c d a) s = .next (s.complete c ((t.useMarks c [a] []).write t ((many d 32).map fun f =>
        (f, fun l => rne32 (FVal.mul (if cf t then FVal.ofInt (t.get f l).toInt else F (t.get f l)) (F (t.get a l)))))))) ∧
    (combo t.fmt = none → exec (.mscl c d a) s = .next (s.trap t 1 0 t.mask (encodeWord (.mscl c d a))))) ∧
  (∀ s t c d a, Issues s t → d.toNat ≤ 119 → a.toNat ≤ 112 → Readable t (d :: many a 8) →
    exec (.mqpk c d a) s = .next (s.complete c ((t.useMarks c (many a 8) []).write t [(d, fun l =>
      BitVec.ofNat 32 ((List.range 8).map fun i => (t.get (BitVec.ofNat 7 (a.toNat + i)) l).toNat % 16 * 2 ^ (4 * i)).sum)]))) ∧
  (∀ s t c d a, Issues s t → a.toNat ≤ 88 →
    let n := if af t = 0 then 16 else 8
    let ok := (combo t.fmt).isSome = true ∧ ((af t ≤ 2 ∧ cf t = false) ∨ (af t = 3 ∧ cf t = true)) ∧ d.toNat + n ≤ 120
    (ok → Readable t (many a 32 ++ many d n) →
      exec (.mcvt c d a) s = .next (s.complete c ((t.useMarks c (many a 32) []).write t ((List.range n).map fun w =>
        (BitVec.ofNat 7 (d.toNat + w), fun l => mcvtResult (af t) (fun k => t.get (BitVec.ofNat 7 (a.toNat + k)) l) w))))) ∧
    (¬ok → exec (.mcvt c d a) s = .next (s.trap t 1 0 t.mask (encodeWord (.mcvt c d a))))) ∧
  (∀ s t c d a, Issues s t → d.toNat ≤ 119 → a.toNat ≤ 88 → Readable t (d :: many a 32) → (combo t.fmt).isSome = true →
    let m := (t.lanes.flatMap fun l => (many a 32).map fun f => magnitude (cf t) (t.get f l)).foldl max 0
    exec (.mabs c d a) s =
      .next (goes s t c (many a 32) .mabs [d] none (t.lanes.map fun l => values l [BitVec.ofNat 32 m]))) ∧
  (∀ s req r, s.dev = .operational → s.req? req = some r → s.live r = true → r.kind = .mabs →
    exec (.mabsResult req) s = .next (s.landReq r))

namespace Sys2Proof.Claims

/-- An exact value stands for what a pattern stands for (R101, R102). -/
def Means (v : FVal) : Val → Prop
  | .nan => v = .nan
  | .inf s => v = .inf s
  | .num _ q => finite v = true ∧ rat v = q

/-- r is the value of a BF16 pattern to which no other is nearer to q, of an even one where two are as near (R116). -/
def SliceOf (q r : ℚ) : Prop := ∃ (w : Nat) (s : Bool), valB16 w = .num s r ∧ NearestIn valB16 s q w

/-- A product of an element of A and one of B; an absent element gives +0 (R112). -/
def product : Option FVal → FVal → FVal
  | some x, y => x.mul y
  | none, _ => .fin false 0 0

end Sys2Proof.Claims

/-- The accumulation of one element of C: chunks of sixteen products, each chunk summed exactly and each partial result rounded once; I32 wraps or
saturates after each chunk; a block scale multiplies each chunk's sum; a synthesised product takes its three or six passes in order, over the
slices of R116 (R112 to R117). The elements are those of the packed runs (R236). -/
def Sys2Proof.Claims.MatrixArithmetic : Prop :=
  (∀ (ws : Nat → Word) k,
    Means (elem 0 ws k) (valB16 ((ws (k / 2)).toNat / 2 ^ (16 * (k % 2)) % 2 ^ 16)) ∧
    Means (elem 1 ws k) (valE4 ((ws (k / 4)).toNat / 2 ^ (8 * (k % 4)) % 256)) ∧
    Means (elem 2 ws k) (valE5 ((ws (k / 4)).toNat / 2 ^ (8 * (k % 4)) % 256)) ∧
    intOf (elem 3 ws k) = (BitVec.ofNat 8 ((ws (k / 4)).toNat / 2 ^ (8 * (k % 4)))).toInt ∧
    Means (elem 4 ws k) (.num false (q4Ks.getD ((ws (k / 8)).toNat / 2 ^ (4 * (k % 8)) % 16) 0 / 1024)) ∧
    Means (elem 5 ws k) (V (ws k))) ∧
  (∀ x, match V x with
    | .nan => sliceHi (F x) = .nan ∧ sliceMid (F x) = .fin false 0 0 ∧ sliceLo (F x) = .fin false 0 0
    | .inf s => sliceHi (F x) = .inf s ∧ sliceMid (F x) = .fin false 0 0 ∧ sliceLo (F x) = .fin false 0 0
    | .num _ q =>
      (finite (sliceHi (F x)) = true ∧ finite (sliceMid (F x)) = true ∧ finite (sliceLo (F x)) = true) ∧
      (if (2 : ℚ) ^ 128 - 2 ^ 119 ≤ |q| then rat (sliceHi (F x)) = if q < 0 then 2 ^ 120 - 2 ^ 128 else 2 ^ 128 - 2 ^ 120
       else SliceOf q (rat (sliceHi (F x)))) ∧
      SliceOf (q - rat (sliceHi (F x))) (rat (sliceMid (F x))) ∧
      SliceOf (q - rat (sliceHi (F x)) - rat (sliceMid (F x))) (rat (sliceLo (F x))) ∧
      rat (sliceHi (F x)) + rat (sliceMid (F x)) + rat (sliceLo (F x)) = q) ∧
  ∀ f k a b s c, combo f ≠ none →
    let chunk (a : Nat → Option FVal) (b : Nat → FVal) (j : Nat) : FVal :=
      sumExact ((List.range 16).map fun i => product (a (16 * j + i)) (b (16 * j + i)))
    let pass (a : Nat → Option FVal) (b : Nat → FVal) (c : Word) : Word :=
      (List.range (k / 16)).foldl (fun c j => rne32 (sumExact [F c, chunk a b j])) c
    let syn := f.toNat / 128 % 4
    (f.getLsbD 6 = false → f.toNat / 8 % 8 ≠ 4 → syn = 0 → matElem f k a b s c = pass a b c) ∧
    (f.toNat / 8 % 8 = 4 → matElem f k a b s c = (List.range (k / 16)).foldl (fun c j =>
      rne32 (sumExact [F c, F (rne32 ((chunk a b j).mul (F (s (j / 4)))))])) c) ∧
    (f.getLsbD 6 = true → matElem f k a b s c = (List.range (k / 16)).foldl (fun c j =>
      let v := c.toInt + ((List.range 16).map fun i => ((a (16 * j + i)).map intOf).getD 0 * intOf (b (16 * j + i))).sum
      BitVec.ofInt 32 (if f.getLsbD 9 then max (-2147483648) (min 2147483647 v) else v)) c) ∧
    let part (x y : FVal → FVal) : Word → Word := pass (fun i => (a i).map x) fun i => y (b i)
    (syn = 1 → matElem f k a b s c = part sliceHi sliceHi (part sliceHi sliceMid (part sliceMid sliceHi c))) ∧
    (syn = 2 → matElem f k a b s c =
      part sliceHi sliceHi (part sliceHi sliceMid (part sliceMid sliceHi (part sliceMid sliceMid (part sliceHi sliceLo (part sliceLo sliceHi c))))))

namespace Sys2Proof.Claims

/-- The fields of a solo MMA or MMS: D, A, B, whether C starts from 0, the drain bit, and the index selector of an MMS. -/
structure TileOp where
  d : Fld
  a : Fld
  b : Fld
  z : Bool
  x : Bool
  sel : Option Nat

def tileOp : Instr → Option TileOp
  | .mma d a b z x => some ⟨d, a, b, z, x, none⟩
  | .mms d a b sl x => some ⟨d, a, b, false, x, some sl.toNat⟩
  | _ => none

/-- The index registers (R241). -/
def TileOp.nidx (o : TileOp) (k : Nat) : Nat :=
  match o.sel with
  | none => 0
  | some 0 => k / 16
  | some 1 => 1
  | some _ => k / 8

def TileOp.quarter (o : TileOp) (c : Combo) : Nat := if o.sel.isSome then c.nqs else c.nq

/-- Field f + n of the team in lane l. -/
def rd (t : Team) (f : Fld) (n l : Nat) : Word := t.get (BitVec.ofNat 7 (f.toNat + n)) l

/-- The 2-bit index of stored element j of row i (R241). -/
def index (t : Team) (o : TileOp) (c : Combo) (i j : Nat) : Nat :=
  let w := match o.sel with
    | some 0 => rd t o.a (c.na + j / 16) i
    | some 1 => rd t o.a c.na (j / 16)
    | _ => rd t o.a (c.na + i % 2 * (c.k / 16) + j / 16) (i / 2)
  w.toNat / 2 ^ (2 * (j % 16)) % 4

/-- Row i of A, or the logical row A′ of an MMS; none: no stored element stands there (R236, R241, R242). -/
def rowA (t : Team) (o : TileOp) (c : Combo) (i k : Nat) : Option FVal :=
  let e (j : Nat) : FVal := elem (af t) (fun n => rd t o.a n i) j
  match o.sel with
  | none => some (e k)
  | some _ =>
    let js := [2 * (k / 4), 2 * (k / 4) + 1].filter fun j => index t o c i j == k % 4
    if js = [] then none else some (sumExact (js.map e))

/-- Column n of B: quarter after quarter, each a packed run (R232, R236). -/
def colB (t : Team) (o : TileOp) (c : Combo) (kk n k : Nat) : FVal :=
  elem (bf t) (fun w => rd t o.b (o.quarter c * (k / (kk / 4)) + w) n) (k % (kk / 4))

/-- The block scale of block b of column n: RNE(G x (code + 1) / 256), the code in the registers that end each quarter (R110, R236). -/
def scale (t : Team) (o : TileOp) (c : Combo) (kk n b : Nat) : Word :=
  let per := kk / 256
  let code := (rd t o.b (o.quarter c * (b / per) + (o.quarter c - per + b % per)) n).toNat % 256
  rne32 ((F (t.get (BitVec.ofNat 7 (t.fmt.toNat / 1024)) n)).mul (.fin false (code + 1) (-8)))

/-- The C tile: for each active lane below 32 its 32 elements (R239). -/
def tile (t : Team) (o : TileOp) (c : Combo) : List (Nat × List Word) :=
  let kk := if o.sel.isSome then 2 * c.k else c.k
  (t.lanes.filter fun i => decide (i < 32)).map fun i => (i, (List.range 32).map fun n =>
    matElem t.fmt kk (rowA t o c i) (colB t o c kk n) (scale t o c kk n) (if o.z then 0 else rd t o.d n i))

/-- The operands that a solo MMA or MMS reads. -/
def tileSources (t : Team) (o : TileOp) (c : Combo) : List Fld :=
  many o.a (c.na + o.nidx c.k) ++ many o.b (4 * o.quarter c) ++ (if bf t = 4 then [BitVec.ofNat 7 (t.fmt.toNat / 1024)] else [])

/-- The runs and GSR fit (R41, R238). -/
abbrev TileFits (t : Team) (o : TileOp) (c : Combo) : Prop :=
  (bf t = 4 → t.fmt.toNat / 1024 % 128 < 120) ∧
  32 ≤ t.nlanes ∧ (o.sel.isSome = true → c.nqs ≠ 0) ∧ o.a.toNat + c.na + o.nidx c.k ≤ 120 ∧ o.b.toNat + 4 * o.quarter c ≤ 120

/-- The drain word w: its uniform offset is in register DOFF of FMT, through translation register DX; the page lets it be written, and no earlier
load of the team names it (R243, R303). -/
abbrev DrainsTo (s : State) (t : Team) (w : Drain) : Prop :=
  let doff := BitVec.ofNat 7 (t.fmt.toNat / 2 ^ 20)
  let dx := BitVec.ofNat 3 (t.fmt.toNat / 2 ^ 17)
  Uniform t doff ∧ addr t dx doff t.low = w.va ∧ w.va % 4 = 0 ∧ w.via = spanVia s t dx doff 4 t.low ∧ w.came = s.nextId ∧
    NoLoadAhead s t 4 w.pa ∧ s.tableAt w.pa 4 = false ∧
    ∃ at_, Reaches s t dx doff 4 t.low w.pa at_ ∧ at_.w = true ∧ at_.rlf = false ∧ at_.raw = false ∧ isRemote w.pa = false

end Sys2Proof.Claims

/-- A solo MMA or MMS issues at once: its C registers become empty and its tile, computed from A, B, C, the scales and FMT, is on its way, with
the drain word when X is set; in the lanes from 32 on and in the inactive ones C keeps its values. An FMT, a lane count or runs that are not legal
trap (R230, R235 to R243). -/
def Sys2Proof.Claims.SoloTiles : Prop :=
  ∀ i o, tileOp i = some o → ∀ s t, Issues s t → o.d.toNat ≤ 88 → t.gangLo.toNat % 8 = 1 → NoSkip t → t.frame.length = t.p →
    (combo t.fmt = none → exec i s = .next (s.trap t 1 0 t.mask (encodeWord i))) ∧
    (∀ c, combo t.fmt = some c →
      (¬TileFits t o c → exec i s = .next (s.trap t 1 0 t.mask (encodeWord i))) ∧
      (TileFits t o c → ∀ drain : Option Drain, (drain.isSome = o.x) →
        let doff := BitVec.ofNat 7 (t.fmt.toNat / 2 ^ 20)
        Readable t (tileSources t o c ++ many o.d 32 ++ if o.x then [doff] else []) →
        (∀ w, drain = some w → DrainsTo s t w) →
        ∃ s' t' r, exec i s = .next s' ∧ s'.reqs = s.reqs ++ [r] ∧ Issues s' t' ∧
          r.kind = .tile drain none ∧ r.dests = (many o.d 32).map t.fieldReg ∧
          r.lanes.map (fun x => (x.lane, x.got)) = tile t o c ∧
          (∀ q ∈ r.dests, (t'.reg q).full = false) ∧ (∀ q, q ∉ r.dests → t'.reg q = t.reg q) ∧
          { t' with frame := t.frame, window := t.window, pc := t.pc, st := t.st, hold := t.hold, finish := t.finish } = t ∧
          t'.pc = t.pc + 4 ∧ t'.st = .ready ∧
          { s' with reqs := s.reqs, teams := s.teams, nextId := s.nextId, tlb := s.tlb } = s))

namespace Sys2Proof.Claims

/-- An earlier tile on the array of the same quadrant has not been written: members that share an array write in order (R240). -/
abbrev ArrayBusy (s : State) (r : Req) (t : Team) : Prop :=
  ∃ q ∈ s.reqs, q.id < r.id ∧ s.live q = true ∧ (∃ d l, q.kind = .tile d l) ∧
    ∃ u, s.team? q.team = some u ∧ u.core = t.core ∧ u.quad = t.quad

/-- COUNT, POS, TAG and SLOT i of the gang registers (R228). -/
def gangWord (t : Team) : Nat := t.gangLo.toNat + 2 ^ 32 * t.gangHi.toNat
def gangCount (t : Team) : Nat := gangWord t % 8
def gangPos (t : Team) : Nat := gangWord t / 8 % 8
def gangTag (t : Team) : Nat := gangWord t / 64 % 256
def gangSlot (t : Team) (i : Nat) : Nat := gangWord t / 2 ^ (14 + 7 * i) % 128

/-- The other core of a pair. -/
def otherCore (core : Nat) : Nat := if core % 2 = 0 then core + 1 else core - 1

/-- The core of position 0, for a member (R229). -/
def gangCore (t : Team) : Nat := if gangPos t < 4 then t.core else otherCore t.core

/-- The team takes room on its core: it has not exited, and its context is on the cores (R254, R302). -/
def present (s : State) (u : Team) : Bool :=
  u.st != .exited &&
    match s.ctx? u.ctx with
    | some c => c.st != .saved && c.st != .halted && c.st != .created
    | none => false

/-- The team that occupies a slot, as the gang of t names it (R229, R254). -/
def occupant (s : State) (t : Team) (v : Nat) : Option Team :=
  s.teams.find? fun u => u.core == (if v < 64 then gangCore t else otherCore (gangCore t)) && u.slot == v % 64 && present s u

/-- Checks 1 to 5 of R230, with the slots of R229. -/
abbrev GangFits (s : State) (t : Team) : Prop :=
  let n := gangCount t
  (n ≠ 0 ∧ n ≠ 7 ∧ gangPos t < n) ∧ t.slot < 64 ∧
  (∃ u, occupant s t (gangSlot t (gangPos t)) = some u ∧ u.id = t.id) ∧
  (∀ i < n, (i < 4 ↔ gangSlot t i < 64) ∧ ∀ j < n, gangSlot t i = gangSlot t j → i = j) ∧
  ∀ i < n, ∃ u, occupant s t (gangSlot t i) = some u ∧ u.ctx = t.ctx ∧ u.kernel = t.kernel ∧
    gangWord u % 8 = gangWord t % 8 ∧ gangWord u / 64 = gangWord t / 64

/-- What a latch records of the first arrival (R227). -/
def record (t : Team) (o : TileOp) : Latch :=
  { pair := t.core / 2, core := gangCore t, tag := gangTag t, ctx := t.ctx, count := gangCount t,
    slots := (List.range (gangCount t)).map (gangSlot t), sparse := o.sel.isSome, fmt := t.fmt.toNat % 1024, selector := o.sel.getD 0,
    members := [], computing := none }

/-- Check 6 of R230: COUNT, the slots, the opcode, FMT[9:0] and the selector are those of the record. -/
abbrev Fits (l : Latch) (t : Team) (o : TileOp) : Prop := { l with members := [], computing := none } = record t o

/-- The latches of a pair that contexts on the cores hold (R226). -/
def latchesUsed (s : State) (pair : Nat) : Nat :=
  (s.ctxs.map fun c =>
    if c.st = .running ∨ c.st = .switchingOut then (c.latches.filter fun x => x.pair == pair).length else 0).sum

/-- The quarters of B that position p of n holds (R232). -/
def quarters (n p : Nat) : List Nat := [0, 1, 2, 3].filter fun q => q % min n 4 == if n = 1 then 0 else p

/-- Column j of B for a gang of n: quarter q comes from position q mod min(n, 4), the later ones of a position after its first (R232, R233). -/
def gangColB (u : Nat → Team) (p : Nat → TileOp) (c : Combo) (n kk j k : Nat) : FVal :=
  let q := k / (kk / 4)
  let h := q % min n 4
  elem (bf (u h)) (fun w => rd (u h) (p h).b ((p h).quarter c * (q / min n 4) + w) j) (k % (kk / 4))

/-- The block scale of block b of column j, from the holder of its quarter (R110, R236, R239). -/
def gangScale (u : Nat → Team) (p : Nat → TileOp) (c : Combo) (n kk j b : Nat) : Word :=
  let per := kk / 256
  let q := 64 * b / (kk / 4)
  let h := q % min n 4
  let code := (rd (u h) (p h).b ((p h).quarter c * (q / min n 4) + ((p h).quarter c - per + b % per)) j).toNat % 256
  rne32 ((F ((u h).get (BitVec.ofNat 7 ((u h).fmt.toNat / 1024)) j)).mul (.fin false (code + 1) (-8)))

/-- The C tile of position x of a gang: its own A, C and Z, and B of the gang (R233, R239). -/
def gangTile (u : Nat → Team) (p : Nat → TileOp) (c : Combo) (n x : Nat) : List (Nat × List Word) :=
  let kk := if (p x).sel.isSome then 2 * c.k else c.k
  ((u x).lanes.filter fun i => decide (i < 32)).map fun i => (i, (List.range 32).map fun j =>
    matElem (u x).fmt kk (rowA (u x) (p x) c i) (gangColB u p c n kk j) (gangScale u p c n kk j)
      (if (p x).z then 0 else rd (u x) (p x).d j i))

end Sys2Proof.Claims

/-- The arrival of a gang's member. Gang registers that do not fit take the gang-broken trap with the tag, and so do the members of a Gathering
latch that the arrival does not fit. The first arrival takes a free latch and waits in it; without a free latch, or while the latch computes, the
team is held. The last arrival releases the latch: the instruction issues in every member, whose C registers become empty and whose tile, with B
and its scales from the holders of the quarters, is on its way (R226, R227, R229, R230, R232, R233, R239). TILE_WRITE lands a tile in the rows of its
request, after the earlier tiles of the same array; a latch whose last tile is written becomes Idle; a drain goes on as a device-scope maximum
of the largest magnitude at its word (R239, R240, R243). Which quarters a COUNT of 0 holds is the model's choice (notes/assumptions/107.md), and
so is that a restored member counts as it was recorded (notes/assumptions/108.md). -/
def Sys2Proof.Claims.GangTiles : Prop :=
  (∀ i o, tileOp i = some o → ∀ s t c k drain, Issues s t → s.ctx? t.ctx = some k → o.d.toNat ≤ 88 → gangCount t ≠ 1 →
    combo t.fmt = some c → drain.isSome = o.x →
    let nb := (quarters (gangCount t) (gangPos t)).length * o.quarter c
    let doff := BitVec.ofNat 7 (t.fmt.toNat / 2 ^ 20)
    32 ≤ t.nlanes → (bf t = 4 → t.fmt.toNat / 1024 % 128 < 120 ∧ t.fieldReg (BitVec.ofNat 7 (t.fmt.toNat / 1024)) < t.p) →
    (o.sel.isSome = true → c.nqs ≠ 0) → o.a.toNat + c.na + o.nidx c.k ≤ 120 → (nb ≠ 0 → o.b.toNat + nb ≤ 120) →
    Readable t (many o.a (c.na + o.nidx c.k) ++ many o.b nb ++
      (if bf t = 4 ∧ nb ≠ 0 then [BitVec.ofNat 7 (t.fmt.toNat / 1024)] else []) ++ many o.d 32 ++ if o.x then [doff] else []) →
    (∀ w, drain = some w → DrainsTo s t w) →
    let pair := t.core / 2
    let tag := gangTag t
    let trapped (u : State) (v : Team) : State := u.trap { v with finish := .none } 10 0 v.mask (BitVec.ofNat 32 tag)
    let latch := k.latches.find? fun x => x.pair == pair && x.tag == tag
    let entered (l : Latch) : Latch := { l with members := (l.members.filter fun x => x.1 != t.id) ++ [(t.id, i, drain)] }
    let others := k.latches.filter fun x => !(x.pair == pair && x.tag == tag)
    let waits (l : Latch) (u : State) : State :=
      (u.modCtx t.ctx fun k => { k with latches := entered l :: others }).putTeam
        { t with st := .waitingLatch (.gang pair tag), finish := .none }
    let held (u : State) : State := u.putTeam { t with st := .waitingLatch (.gangHeld pair tag), finish := .again i }
    ∃ s1 : State, { s1 with tlb := s.tlb } = s ∧
    (¬GangFits s t → latch = none → exec i s = .next (trapped s1 t)) ∧
    (GangFits s t → latch = none →
      (latchesUsed s pair < 32 → exec i s = .next (waits (record t o) s1)) ∧
      (32 ≤ latchesUsed s pair → exec i s = .next (held s1))) ∧
    (∀ l, latch = some l → l.computing.isSome = true →
      (GangFits s t → exec i s = .next (held s1)) ∧ (¬GangFits s t → exec i s = .next (trapped s1 t))) ∧
    (∀ l, latch = some l → l.computing = none → l.ctx = t.ctx → l.pair = pair → l.tag = tag → ¬(GangFits s t ∧ Fits l t o) →
      (∀ x ∈ l.members, x.1 ≠ t.id ∧ ∃ v, s.team? x.1 = some v ∧ v.st = .waitingLatch (.gang pair tag)) →
      exec i s = .next (trapped
        (l.members.foldl (fun u x => match u.team? x.1 with | some v => trapped u v | none => u)
          (s1.modCtx t.ctx fun k => { k with latches := others })) t)) ∧
    (∀ l, latch = some l → l.computing = none → GangFits s t → Fits l t o →
      let n := (entered l).members.length
      (n ≠ l.count → exec i s = .next (waits l s1)) ∧
      (n = l.count → ∀ (id : Nat → Nat) (j : Nat → Instr) (dr : Nat → Option Drain) (u : Nat → Team) (p : Nat → TileOp),
        (∀ q < n, (∃ x : Nat, (entered l).members[x]? = some (id q, j q, dr q)) ∧ s.team? (id q) = some (u q) ∧ (u q).id = id q ∧
          tileOp (j q) = some (p q) ∧ gangCount (u q) = n ∧ gangPos (u q) = q ∧ (u q).fmt.toNat % 1024 = t.fmt.toNat % 1024 ∧
          (p q).sel.isSome = o.sel.isSome ∧ NoSkip (u q) ∧ (∀ f ∈ many (p q).d 32, (u q).fieldReg f < (u q).frame.length) ∧ (p q).d.toNat ≤ 88) →
        ∃ s', exec i s = .next s' ∧ s'.nextId = s.nextId + n ∧
          (∃ rs, s'.reqs = s.reqs ++ rs ∧ rs.length = n ∧ ∀ q r, rs[q]? = some r →
            r.id = s.nextId + q ∧ r.team = id q ∧ r.ctx = (u q).ctx ∧ r.kind = .tile (dr q) (some (pair, tag)) ∧
            r.dests = (many (p q).d 32).map (u q).fieldReg ∧ r.lanes.map (fun x => (x.lane, x.got)) = gangTile u p c n q) ∧
          (∀ q < n, ∃ v, s'.team? (id q) = some v ∧
            (∀ f ∈ many (p q).d 32, (v.reg ((u q).fieldReg f)).full = false) ∧
            (∀ x, (∀ f ∈ many (p q).d 32, x ≠ (u q).fieldReg f) → v.reg x = (u q).reg x) ∧
            v.pc = (u q).pc + 4 ∧ v.st = .ready ∧
            { v with frame := (u q).frame, window := (u q).window, pc := (u q).pc, st := (u q).st, hold := (u q).hold,
                     finish := (u q).finish } = u q) ∧
          (∀ x, (∀ q < n, x ≠ id q) → s'.team? x = s.team? x) ∧
          (∃ k', s'.ctx? t.ctx = some k' ∧ { k' with latches := k.latches } = k ∧
            k'.latches = { entered l with computing := some ((List.range n).map fun q => s.nextId + q) } :: others) ∧
          s'.mem = s.mem ∧ s'.fabric = s.fabric))) ∧
  (∀ s req r t, s.dev = .operational → s.req? req = some r → s.live r = true → s.team? r.team = some t →
    let landed := s.modTeam r.team fun u => u.landAll r
    let written (latch : Option (Nat × Nat)) (u : State) : State :=
      match latch with
      | none => u
      | some (pair, tag) => u.modCtx r.ctx fun k => { k with latches := k.latches.flatMap fun l =>
          if l.pair = pair ∧ l.tag = tag then
            match l.computing with
            | none => [l]
            | some ids =>
              if ids.all (fun x => x == r.id) then [] else [{ l with computing := some (ids.filter fun x => x != r.id) }]
          else [l] }
    (ArrayBusy s r t → exec (.tileWrite req) s = .next s) ∧
    (¬ArrayBusy s r t → ∀ latch,
      (r.kind = .tile none latch → exec (.tileWrite req) s = .next (written latch (landed.dropReq r.id))) ∧
      (∀ w, r.kind = .tile (some w) latch →
        ∃ m x s1, { s1 with copies := s.copies } = landed ∧ SameCopies s s1 ∧
          exec (.tileWrite req) s = .next (written latch (s1.putReq { r with kind := .drain, dests := [], lanes := [x] })) ∧
          x.va = w.va ∧ x.pa = w.pa ∧ x.via = w.via ∧ x.data = [BitVec.ofNat 32 m] ∧ x.st = .pending ∧ x.spoil = copyBytes s t false w.va 4 ∧
          m = (r.lanes.flatMap fun y => y.got.map (magnitude (r.lanes.any fun z => z.dst == 1))).foldl max 0)))

/-! ## Barriers -/

namespace Sys2Proof.Claims

/-- The circuits that the active path reaches at a level, each with the members that are active (R210). -/
def reached (t : Team) (lvl : SyncLevel) (n : BitVec 4) : List (CKey × List Nat) :=
  let gs := (List.range (t.nlanes / t.g)).filter fun g => (t.lanes.any fun l => l / t.g == g)
  match lvl with
  | .group => gs.map fun g => (.group t.id g, t.lanes.filter fun l => l / t.g == g)
  | .team => [(.team t.id n.toNat, gs)]
  | .cluster => [(.cluster t.cset n.toNat, [t.id])]
  | .grid => [(.grid t.kernel n.toNat, [t.id])]

def scopeAt : SyncLevel → Scope
  | .group | .team => .team
  | .cluster => .cluster
  | .grid => .device

/-- The count that an arrival names at a circuit (R215). -/
def named (k : Circuit) (e : Nat) : Nat := if e = 0 then k.membership else e

/-- The circuit after the members have arrived (R213, R219). -/
def after (k : Circuit) (ms : List Nat) (e : Nat) : Circuit :=
  let x := k.expected.getD (named k e)
  if x ≤ k.count + ms.length then { k with phase := k.phase + 1, count := 0, expected := none, arrived := [] }
  else { k with count := k.count + ms.length, expected := some x, arrived := k.arrived ++ ms }

/-- The barrier is usable, and the count fits every circuit (R211, R218). -/
abbrev Usable (s : State) (t : Team) (lvl : SyncLevel) (n : BitVec 4) : Prop :=
  (lvl = .grid → t.kind = .ordinary) ∧ ∀ x ∈ reached t lvl n, s.circuit? t.ctx x.1 ≠ none

abbrev CountOk (s : State) (t : Team) (lvl : SyncLevel) (n : BitVec 4) (e : Nat) : Prop :=
  ∀ x ∈ reached t lvl n, ∀ k, s.circuit? t.ctx x.1 = some k →
    named k e ≤ k.membership ∧ (k.expected = none ∨ k.expected = some (named k e))

/-- No active member has arrived, and no arrival of the team has yet to count. -/
abbrev NoneArrived (s : State) (t : Team) (lvl : SyncLevel) (n : BitVec 4) : Prop :=
  ∀ x ∈ reached t lvl n, (∀ k, s.circuit? t.ctx x.1 = some k → ∀ m ∈ x.2, m ∉ k.arrived) ∧ ∀ a ∈ t.arvs, a.key ≠ x.1

/-- Every arrival of the members completes its phase. -/
abbrev AllComplete (s : State) (t : Team) (lvl : SyncLevel) (n : BitVec 4) (e : Nat) : Prop :=
  ∀ x ∈ reached t lvl n, ∀ k, s.circuit? t.ctx x.1 = some k → named k e ≤ k.count + x.2.length

/-- Earlier loads, atomics and chisels of the team have bound their values, but for loads that a pre-emption has dropped (R166, R167;
notes/assumptions/83.md). -/
abbrev Bound (s : State) (team : Nat) : Prop :=
  ∀ r ∈ s.reqs, r.team = team → r.id < s.nextId → r.kind.isLoad = true ∨ r.kind.isAtomic = true →
    (∀ x ∈ r.lanes, x.st ≠ .pending) ∨ s.packetHeld r = true

/-- A phase that is waited for has completed, or its circuit has been freed (R213). -/
abbrev PhaseOver (s : State) (ctx : Nat) (w : BWait) : Prop := ∀ k, s.circuit? ctx w.key = some k → w.phase < k.phase

/-- The release conditions at a scope (R166). -/
abbrev Released (s : State) (team : Nat) (sc : Scope) : Prop :=
  sc = .team ∨ (Bound s team ∧
    (∀ r ∈ s.reqs, r.team = team → r.id < s.nextId → r.kind.isStore = false ∧ r.kind.isAtomic = false) ∧
    ∀ d ∈ s.deadlines, d.team = team → s.nextId ≤ d.req)

/-- An acquire drops what the core does not own (R167). -/
def acquired (s : State) (core : Nat) (sc : Scope) : State :=
  { s with l1 := if sc = .team then s.l1 else s.l1.filter fun c => c.core != core || c.owned }

/-- The members have arrived at every circuit that they reach; no other circuit of any context, no other field of one and nothing else has
changed. -/
abbrev Arrived (s s1 : State) (t : Team) (lvl : SyncLevel) (n : BitVec 4) (e : Nat) : Prop :=
  (∀ x ∈ reached t lvl n, ∀ k, s.circuit? t.ctx x.1 = some k → s1.circuit? t.ctx x.1 = some (after k x.2 e)) ∧
  (∀ key, (∀ x ∈ reached t lvl n, x.1 ≠ key) → s1.circuit? t.ctx key = s.circuit? t.ctx key) ∧
  (∀ m key, (s.ctx? m).isSome = true → m ≠ t.ctx → s1.circuit? m key = s.circuit? m key) ∧
  s1.ctxs.map (fun c : Ctx => { c with circuits := [] }) = s.ctxs.map (fun c : Ctx => { c with circuits := [] }) ∧
  ((s.ctx? t.ctx).isSome = true → s1.fwCircuits = s.fwCircuits) ∧ { s1 with ctxs := s.ctxs, fwCircuits := s.fwCircuits } = s

/-- An active member has arrived in the present phase of a circuit. -/
abbrev SomeArrived (s : State) (t : Team) (lvl : SyncLevel) (n : BitVec 4) : Prop :=
  ∃ x ∈ reached t lvl n, ∃ k, s.circuit? t.ctx x.1 = some k ∧ ∃ m ∈ x.2, m ∈ k.arrived

/-- The team waits for a phase; at team level a path that lies on top of the stack runs meanwhile (R82). -/
def waits (u : Team) (lvl : SyncLevel) (w : BWait) : Team :=
  match lvl, u.stack with
  | .team, e :: rest =>
    let mine : Entry := { kind := .yielded w, mask := u.mask, pc := u.pc, fmt := u.fmt }
    match e.kind with
    | .pending => { u with stack := mine :: rest, mask := e.mask, pc := e.pc, fmt := e.fmt, st := .ready }
    | .yielded v => { u with stack := mine :: rest, mask := e.mask, pc := e.pc, fmt := e.fmt, st := .waitingBarrier [v, w] }
    | _ => { u with st := .waitingBarrier [w] }
  | _, _ => { u with st := .waitingBarrier [w] }

def levelNum : SyncLevel → Nat
  | .group => 0
  | .team => 1
  | .cluster => 2
  | .grid => 3

end Sys2Proof.Claims

/-- SYNC takes the barrier-misuse trap, with FN in TRAPA, at a barrier that is not usable, and in ARV and SYN with a count above the membership or
unlike the one already named; at group level a SYN or WT whose wait would not be met at once takes it too, with no arrival made (R211, R218,
R221). -/
def Sys2Proof.Claims.BarrierMisuse : Prop :=
  ∀ s t c lvl n a d, Issues s t → Readable t [a, d] →
    let fn (mode : Nat) : Word := BitVec.ofNat 32 (64 * levelNum lvl + 4 * n.toNat + mode)
    let e := (t.getLow a).toNat
    (¬Usable s t lvl n →
      exec (.arv c lvl n a) s = .next (s.trap t 12 0 t.mask (fn 0)) ∧ exec (.syn c lvl n a) s = .next (s.trap t 12 0 t.mask (fn 1)) ∧
      exec (.wt c lvl n) s = .next (s.trap t 12 0 t.mask (fn 2)) ∧ exec (.trySync c lvl n d) s = .next (s.trap t 12 0 t.mask (fn 3))) ∧
    (Usable s t lvl n → ¬CountOk s t lvl n e →
      exec (.arv c lvl n a) s = .next (s.trap t 12 0 t.mask (fn 0)) ∧ exec (.syn c lvl n a) s = .next (s.trap t 12 0 t.mask (fn 1))) ∧
    (lvl = .group → Usable s t lvl n →
      (CountOk s t lvl n e → SomeArrived s t lvl n ∨ ¬AllComplete s t lvl n e →
        exec (.syn c lvl n a) s = .next (s.trap t 12 0 t.mask (fn 1))) ∧
      (SomeArrived s t lvl n → exec (.wt c lvl n) s = .next (s.trap t 12 0 t.mask (fn 2))))

/-- ARV and SYN: the members arrive at once when the release conditions hold, else the arrival is kept; a phase that all of them complete lets SYN go
on after its acquire, one that they do not complete makes the team or its path wait, but for the group level, where such a SYN has trapped (R82,
R167, R213, R219, R221). That a load which a pre-emption has dropped does not hold an arrival back is the model's reading
(notes/assumptions/83.md). -/
def Sys2Proof.Claims.Arrivals : Prop :=
  ∀ s t c lvl n a, Issues s t → Readable t [a] → Usable s t lvl n → NoneArrived s t lvl n →
    let e := (t.getLow a).toNat
    let rs := reached t lvl n
    let u := t.useMarks c [a] []
    let next := u.advance (t.pc + 4)
    let later : List Arrival := u.arvs ++ rs.map fun x => { key := x.1, members := x.2, exp := e, upto := s.nextId }
    CountOk s t lvl n e →
    (Released s t.id (scopeAt lvl) → ∃ s1, Arrived s s1 t lvl n e ∧ exec (.arv c lvl n a) s = .next (s1.complete c u)) ∧
    (¬Released s t.id (scopeAt lvl) → exec (.arv c lvl n a) s = .next (s.complete c { u with arvs := later })) ∧
    (AllComplete s t lvl n e → Released s t.id (scopeAt lvl) →
      ∃ s1, Arrived s s1 t lvl n e ∧
        exec (.syn c lvl n a) s = .next ((acquired (s1.putTeam next) t.core (scopeAt lvl)).yieldIf c t.id)) ∧
    (lvl ≠ .group → Released s t.id (scopeAt lvl) → ∀ key ms k, rs = [(key, ms)] → ms ≠ [] → s.circuit? t.ctx key = some k →
      k.count + ms.length < named k e →
      ∃ s1, Arrived s s1 t lvl n e ∧
        exec (.syn c lvl n a) s = .next ((s1.putTeam (waits next lvl { key := key, phase := k.phase })).yieldIf c t.id)) ∧
    (lvl ≠ .group → ¬Released s t.id (scopeAt lvl) → ∀ key ms, rs = [(key, ms)] →
      exec (.syn c lvl n a) s =
        .next ((s.putTeam { next with st := .waitingArrival key false, arvs := later }).yieldIf c t.id))

/-- WT waits for the phase in which an active member has arrived, and goes on at once when none has; TRY answers 1 then and 0 otherwise, after at most its
hint, which TRY_HINT_EXPIRY ends: with 1 and an acquire where the phase has completed, else with 0. An ARV or SYN of a member that has arrived is held
until the phase flips (R167, R219, R220, R221). That TRY counts an arrival of the team which has not counted yet as made is the model's reading
(notes/assumptions/9.md). -/
def Sys2Proof.Claims.WaitsAndTries : Prop :=
  (∀ s t c lvl n d, Issues s t → Readable t [d] → Usable s t lvl n →
    (NoneArrived s t lvl n → (scopeAt lvl = .team ∨ Bound s t.id) → reached t lvl n ≠ [] →
      exec (.wt c lvl n) s = .next ((acquired (s.putTeam (t.advance (t.pc + 4))) t.core (scopeAt lvl)).yieldIf c t.id) ∧
      exec (.trySync c lvl n d) s = .next ((acquired s t.core (scopeAt lvl)).complete c (t.write t [(d, fun _ => 1)]))) ∧
    (∀ key ms k m, reached t lvl n = [(key, ms)] → s.circuit? t.ctx key = some k → m ∈ ms → m ∈ k.arrived → lvl ≠ .group →
      (∀ a ∈ t.arvs, a.key ≠ key) →
      exec (.wt c lvl n) s = .next ((s.putTeam (waits (t.advance (t.pc + 4)) lvl { key := key, phase := k.phase })).yieldIf c t.id) ∧
      ((t.getLow d).toNat = 0 → exec (.trySync c lvl n d) s = .next (s.complete c (t.write t [(d, fun _ => 0)]))) ∧
      ((t.getLow d).toNat ≠ 0 → exec (.trySync c lvl n d) s = .next (s.putTeam
        { t with st := .suspended { key := key, phase := k.phase } (s.coreTime t.core + (t.getLow d).toNat),
                 finish := .tryDone c d lvl n }))) ∧
    (lvl = .group → ¬NoneArrived s t lvl n → exec (.trySync c lvl n d) s = .next (s.complete c (t.write t [(d, fun _ => 0)])))) ∧
  (∀ s t c lvl n a key ms k, Issues s t → Readable t [a] → Usable s t lvl n → CountOk s t lvl n (t.getLow a).toNat → lvl ≠ .group →
    reached t lvl n = [(key, ms)] → s.circuit? t.ctx key = some k → ¬NoneArrived s t lvl n →
    exec (.arv c lvl n a) s = .next (s.putTeam { t with st := .waitingHeld { key := key, phase := k.phase } }) ∧
    exec (.syn c lvl n a) s = .next (s.putTeam { t with st := .waitingHeld { key := key, phase := k.phase } })) ∧
  (∀ s t team w at_ c d lvl n, s.dev = .operational → s.team? team = some t → t.st = .suspended w at_ →
    t.finish = .tryDone c d lvl n → at_ ≤ s.coreTime t.core →
    let u : Team := { t with finish := .none }
    (¬PhaseOver s t.ctx w → exec (.tryHintExpiry team) s = .next ((s.complete c (u.write u [(d, fun _ => 0)])).youngest t.id)) ∧
    (PhaseOver s t.ctx w → scopeAt lvl = .team ∨ Bound s t.id → exec (.tryHintExpiry team) s =
      .next (((acquired s t.core (scopeAt lvl)).complete c (u.write u [(d, fun _ => 1)])).youngest t.id)) ∧
    (PhaseOver s t.ctx w → ¬(scopeAt lvl = .team ∨ Bound s t.id) → exec (.tryHintExpiry team) s = .next s))

/-! ## Fences, batches and copies -/

/-- The fences: a release waits for its conditions, an acquire until earlier loads are bound, and then drops what the core does not own (R166, R167,
R168). -/
def Sys2Proof.Claims.Fences : Prop :=
  ∀ s t c sc, Issues s t →
    let u := t.advance (t.pc + 4)
    (sc = .team ∨ Bound s t.id → exec (.fenceAcq c sc) s = .next ((acquired (s.putTeam u) t.core sc).yieldIf c t.id)) ∧
    (¬(sc = .team ∨ Bound s t.id) → exec (.fenceAcq c sc) s =
      .next ((s.putTeam { u with st := .waitingCounter (.bound sc s.nextId), finish := .acquire sc }).yieldIf c t.id)) ∧
    (Released s t.id sc →
      exec (.fenceRel c sc) s = .next ((s.putTeam u).yieldIf c t.id) ∧
      exec (.fenceAr c sc) s = .next ((acquired (s.putTeam u) t.core sc).yieldIf c t.id)) ∧
    (¬Released s t.id sc →
      exec (.fenceRel c sc) s =
        .next ((s.putTeam { u with st := .waitingCounter (.release sc s.nextId), finish := .acquire .team }).yieldIf c t.id) ∧
      exec (.fenceAr c sc) s =
        .next ((s.putTeam { u with st := .waitingCounter (.release sc s.nextId), finish := .acquire sc }).yieldIf c t.id))

namespace Sys2Proof.Claims

def waitcOp : Instr → Option (Ctl × Fld × Path)
  | .waitcL c a => some (c, a, .l)
  | .waitcS c a => some (c, a, .s)
  | .waitcC c a => some (c, a, .c)
  | .waitcX c a => some (c, a, .x)
  | .waitcG c a => some (c, a, .g)
  | _ => none

/-- Copy command n is over: complete, or its batch has failed. -/
abbrev Over (s : State) (n : Nat) : Prop := ∀ k, s.copy? n = some k → k.complete = true ∨ k.failed = true

end Sys2Proof.Claims

/-- WAITC goes on when the counter is no higher than A, else it waits, and is not issued again. SEAL closes the open batch under the next number. WAITB waits for the
batches up to A, drops the copies of what they wrote, and reports the lowest failed one that has not been reported by a protection trap (R155,
R175, R176). -/
def Sys2Proof.Claims.CountersAndBatches : Prop :=
  (∀ i c a p, waitcOp i = some (c, a, p) → ∀ s t, Issues s t → Readable t [a] →
    let n := (t.getLow a).toNat
    let u := t.useMarks c [a] []
    (t.count p ≤ n → exec i s = .next (s.complete c u)) ∧
    (n < t.count p → exec i s = .next ((s.putTeam
      { u.advance (t.pc + 4) with st := .waitingCounter (.cnt p n), finish := .acquire .team }).yieldIf c t.id))) ∧
  (∀ s t c d, Issues s t → Readable t [d] →
    let n := if t.sealed + 1 = 2 ^ 32 then 1 else t.sealed + 1
    let u : Team := { t with sealed := n, openBatch := [],
                             batches := t.batches ++ [{ num := n, cmds := t.openBatch, reported := false }] }
    exec (Instr.seal c d) s = .next (s.complete c (u.write u [(d, fun _ => BitVec.ofNat 32 n)]))) ∧
  (∀ s t c a, Issues s t → Readable t [a] → t.sealed < 2 ^ 32 →
    let n := t.getLow a
    let m : Word := if 2 ^ 31 ≤ (BitVec.ofNat 32 t.sealed - n).toNat then BitVec.ofNat 32 t.sealed else n
    let mine (b : Batch) : Prop := (m - BitVec.ofNat 32 b.num).toNat < 2 ^ 31
    (n = 0 → exec (.waitb c a) s = .next (s.complete c (t.useMarks c [a] []))) ∧
    (n ≠ 0 → (∀ b ∈ t.batches, mine b → ∀ k ∈ b.cmds, Over s k) →
      ((∀ b ∈ t.batches, mine b → b.reported = false → ∀ k ∈ b.cmds, s.copyFailed k = false) →
        exec (.waitb c a) s = .next ((s.dropBatchWords t m).complete c (t.useMarks c [a] []))) ∧
      (∀ l b r, t.batches = l ++ b :: r → mine b → b.reported = false → (∃ k ∈ b.cmds, s.copyFailed k = true) →
        (∀ x ∈ l, mine x → x.reported = false → ∀ k ∈ x.cmds, s.copyFailed k = false) →
        ∃ bs, exec (.waitb c a) s =
          .next ((s.dropBatchWords t m).trap { t with batches := bs } 9 0 t.mask (BitVec.ofNat 32 b.num)) ∧
          bs.map (fun x => (x.num, x.cmds)) = t.batches.map (fun x => (x.num, x.cmds)))) ∧
    (n ≠ 0 → (∃ b ∈ t.batches, mine b ∧ ∃ k ∈ b.cmds, ¬Over s k) →
      exec (.waitb c a) s = .next (s.putTeam { t with st := .waitingCounter (.batches m), finish := .reportBatches c a m })))

/-- CPY checks its operands in the manual's order, with the no-channel trap after the uniformity of its operands and before the rest, a place that
the manual leaves open and the model chooses (notes/assumptions/92.md), and appends one command to the open batch; a command of no bytes is
complete at once and credits its ring (R172, R173, R271, R298). -/
def Obligations.CopyIssue : Prop :=
  ∀ s t c a, Issues s t → a.toNat ≤ 116 → Readable t [a, a + 1, a + 2, a + 3] →
    (∀ l f r, [a, a + 1, a + 2, a + 3] = l ++ f :: r → (∀ g ∈ l, Uniform t g) → ¬Uniform t f →
      exec (.cpy c a) s = .next (s.trap t 5 0 t.mask (BitVec.ofNat 32 f.toNat))) ∧
    ((∀ f ∈ [a, a + 1, a + 2, a + 3], Uniform t f) →
    let x (n : Nat) : BitVec 3 := BitVec.ofNat 3 n
    let o := t.getLow a
    let p := t.getLow (a + 1)
    let n := (t.getLow (a + 2)).toNat
    let w := t.getLow (a + 3)
    let chip := w.getLsbD 6
    let src := addr t (x w.toNat) a t.low
    let dst := if chip then (p.toNat : Int) else addr t (x (w.toNat / 8)) (a + 1) t.low
    let fits (v : Int) : Prop := 0 ≤ v ∧ v + n ≤ 2 ^ 55
    let dstOk : Prop := if chip then p.toNat + n ≤ s.levelSize t .chip else fits dst
    let bad (v : Word) : State := s.trap t 9 0 t.mask v
    (s.ownsChannel t.ctx = true →
      (2 ^ 23 ≤ w.toNat → exec (.cpy c a) s = .next (bad w)) ∧
      (w.toNat < 2 ^ 23 → 0x4000000 < n → exec (.cpy c a) s = .next (bad (t.getLow (a + 2)))) ∧
      (w.toNat < 2 ^ 23 → n ≤ 0x4000000 →
        (chip = true → w.toNat / 8 % 8 ≠ 0 → exec (.cpy c a) s = .next (bad w)) ∧
        ((chip = true → w.toNat / 8 % 8 = 0) →
          (¬fits src → exec (.cpy c a) s = .next (bad o)) ∧
          (fits src → ¬dstOk → exec (.cpy c a) s = .next (bad p)) ∧
          (fits src → dstOk → (s.copies.filter fun k => k.team == some t.id && !(k.complete || k.failed)).length < 256 → Bound s t.id →
            (∀ r ∈ s.reqs, r.team = t.id → r.id < s.nextId → r.kind.isStore = true ∨ r.kind.isAtomic = true →
              ∀ y ∈ r.lanes, r.laneOpen y = false) →
            let key : RcbKey := if w.getLsbD 8 then .slice (w.toNat / 512 % 64) else .cluster (t.core / 8) (w.toNat / 512 % 64)
            let credit := if w.getLsbD 7 then some (key, w.toNat / 2 ^ 15 % 256) else none
            let k : Copyc := { id := s.nextId, ctx := t.ctx, team := some t.id, entry := none, src := src.toNat, dst := dst.toNat,
                               chip := chip, n := n, credit := credit, failed := false, complete := n == 0, ready := none,
                               spoil := [], wrote := [], via := [] }
            let s1 : State := { s with nextId := s.nextId + 1, copies := s.copies ++ [k] }
            exec (.cpy c a) s = .next ((if n = 0 then s1.creditRing t.ctx credit 0 false else s1).complete c
              { t.useMarks c [a, a + 1, a + 2, a + 3] [] with openBatch := t.openBatch ++ [s.nextId] }))))) ∧
    (s.ownsChannel t.ctx = false → exec (.cpy c a) s = .next (bad 0)))

/-! ## Children, rings, services -/

namespace Sys2Proof.Claims

/-- Bits hi to lo of a word. -/
def fld (w : Word) (hi lo : Nat) : Nat := w.toNat / 2 ^ lo % 2 ^ (hi - lo + 1)

/-- Granules of 16 KiB. -/
def kib16 (n : Nat) : Nat := (n + 16383) / 16384

/-- The team's instruction ends with nothing but one value in D. -/
def puts (s : State) (t : Team) (c : Ctl) (as : List Fld) (ds : List (Fld × Word)) : State :=
  s.complete c ((t.useMarks c as []).write t (ds.map fun x => (x.1, fun _ => x.2)))

/-- The operands of SPAWN break a rule that gives status 3 (R261, R262, R254). -/
abbrev SpawnBad (t : Team) (k : Desc) (e f g h : Word) : Prop :=
  let p := 8 * fld f 22 16
  let lanes := fld f 10 0
  let scr := 256 * fld g 29 16
  let len := fld h 31 16
  fld f 31 23 ≠ 0 ∨ fld f 15 11 ≠ 0 ∨ fld g 31 30 ≠ 0 ∨ fld g 15 12 ≠ 0 ∨ e.toNat % 4 ≠ 0 ∨ p < 32 ∨ 512 < p ∨
  lanes < t.g ∨ 1024 < lanes ∨ lanes % t.g ≠ 0 ∨ 256 * 8192 < scr ∨ fld g 11 0 = 0 ∨ len % 16 ≠ 0 ∨ 4096 < len ∨
  fld h 15 0 % 16 ≠ 0 ∨ t.scrSize < fld h 15 0 + len ∨ scr < len ∨
  224 < kib16 (lanes * p * 4) + kib16 (lanes * k.priv) + kib16 scr + kib16 (k.clm / 8)

/-- Handle hd is outstanding for a team. -/
abbrev Outstanding (t : Team) (hd : Nat) : Prop := ∃ x ∈ t.handles, x.hd = hd

/-- The children of handle hd have exited, and their accesses meet the release conditions at device scope (R263). -/
abbrev ChildrenDone (s : State) (x : Handle) : Prop :=
  ∀ id ∈ x.children, (∀ c ∈ s.ctxs, ∀ y ∈ c.children, y.id ≠ id) ∧ (∀ u, s.team? id = some u → u.st = .exited) ∧
    Released s id .device

/-- The ring that a reference names, and its scope (R271). -/
def ringOf (t : Team) (w : Word) : RcbKey := if w.getLsbD 6 then .slice (fld w 5 0) else .cluster (t.core / 8) (fld w 5 0)

def scopeOf (w : Word) : Scope := if w.getLsbD 6 then .device else .cluster

/-- Slot n of a ring. -/
abbrev SlotIs (r : Rcb) (n : Nat) (x : Slot) : Prop := r.slots[n]? = some x

/-- The ring after one of its slots has changed. -/
def slotTo (r : Rcb) (n : Nat) (x : Slot) : Rcb := { r with slots := r.slots.set n x }

def slotSize (r : Rcb) : Nat := 2 ^ fld r.cfg 28 24

def slotCount (r : Rcb) : Nat := fld r.cfg 23 16 + 1

/-- A slot operand of RCOM and RREL obeys R274 for ring r. -/
abbrev SlotOperand (r : Rcb) (w : Word) : Prop :=
  fld w 31 16 = 0 ∧ w.getLsbD 7 = false ∧ r.cfg.getLsbD 31 = true ∧ fld w 15 8 < slotCount r

/-- The slot once a commit of e bytes has reached it (R273). -/
def committed (x : Slot) (e : Nat) : Slot := { x with exp := e, st := if x.credit = e then .full else .pendingBytes }

end Sys2Proof.Claims

/-- SPAWN puts into D what the first failing check of R262 says, or the handle of new children, which then wait for placement with the record as it
is now; JOINC waits for the children of its handle, acquires and retires the handle; a handle that is not outstanding traps (R261, R262, R263). -/
def Sys2Proof.Claims.SpawnJoin : Prop :=
  (∀ s t c d a x k, Issues s t → Readable t (run a 4 ++ [d]) → s.ctx? t.ctx = some x → x.kernel? t.kernel = some k →
    let e := t.getLow a
    let f := t.getLow (fplus a 1)
    let g := t.getLow (fplus a 2)
    let h := t.getLow (fplus a 3)
    let count := fld g 11 0
    let gives (v : Nat) := exec (.spawn c d a) s = .next (puts s t c (run a 4) [(d, BitVec.ofNat 32 v)])
    (∀ i < 4, (∀ j < i, Uniform t (fplus a j)) → ¬Uniform t (fplus a i) →
      exec (.spawn c d a) s = .next (s.trap t 5 0 t.mask (BitVec.ofNat 32 (fplus a i).toNat))) ∧
    ((∀ i < 4, Uniform t (fplus a i)) →
      (SpawnBad t k.desc e f g h → gives 3) ∧
      (¬SpawnBad t k.desc e f g h →
        (k.desc.nest < t.depth + 1 → gives 2) ∧
        (t.depth + 1 ≤ k.desc.nest → x.quota < count → gives 1) ∧
        (t.depth + 1 ≤ k.desc.nest → count ≤ x.quota → 64 ≤ t.handles.length → gives 4) ∧
        (t.depth + 1 ≤ k.desc.nest → count ≤ x.quota → t.handles.length < 64 →
          ∃ n hd kids, hd = (t.nextHandle - 1 + n) % 65535 + 1 ∧ ¬Outstanding t hd ∧
            (∀ j < n, Outstanding t ((t.nextHandle - 1 + j) % 65535 + 1)) ∧ kids.length = count ∧
            (∀ i (y : Child), kids[i]? = some y →
              y = { id := s.nextId + i, kernel := t.kernel, parent := t.id, parentTid := t.tid, parentCore := t.core, handle := hd,
                    status := BitVec.ofNat 32 (65536 * hd), index := i, entry := e, p := 8 * fld f 22 16, lanes := fld f 10 0,
                    scr := 256 * fld g 29 16, record := memRead t.scratch (fld h 15 0) (fld h 31 16), depth := t.depth + 1,
                    upto := s.nextId }) ∧
            let u : Team := { t with nextHandle := hd % 65535 + 1, handles := t.handles ++ [{ hd := hd, children := kids.map (·.id) }] }
            exec (.spawn c d a) s =
              .next (puts ({ s with nextId := s.nextId + count }.modCtx t.ctx fun y =>
                  { y with quota := y.quota - count, children := y.children ++ kids }) u c (run a 4)
                [(d, BitVec.ofNat 32 (65536 * hd))]))))) ∧
  (∀ s t c a, Issues s t → Readable t [a] →
    let hd := fld (t.getLow a) 31 16
    (hd = 0 ∨ ¬Outstanding t hd → exec (.joinc c a) s = .next (s.trap t 9 0 t.mask (t.getLow a))) ∧
    (∀ x, hd ≠ 0 → t.handles.find? (fun y => y.hd == hd) = some x →
      (ChildrenDone s x → Bound s t.id →
        exec (.joinc c a) s = .next ((acquired s t.core .device).complete c
          { t.useMarks c [a] [] with handles := t.handles.filter fun y => y.hd != hd })) ∧
      (¬(ChildrenDone s x ∧ Bound s t.id) →
        exec (.joinc c a) s =
          .next (s.putTeam { t with st := .waitingCounter (.children hd), finish := .retireHandle c a hd }))))

/-- RACQ acquires the slot at TAIL when it is Empty and parks otherwise; RCOM commits an Acquired slot once the release conditions at the ring's
scope hold; RPEEK, which never waits, takes the Full slot at HEAD and acquires, or reports none; RREL empties a Peeked slot, and any other slot only counts. Bad
operands trap (R271, R273, R274, R275). -/
def Sys2Proof.Claims.Rings : Prop :=
  (∀ s t c d a x, Issues s t → Readable t [a, d, fplus d 1] → Uniform t a →
    let w := t.getLow a
    let r := s.rcb t.ctx (ringOf t w)
    let bad := fld w 31 7 ≠ 0 ∨ r.cfg.getLsbD 31 = false
    let at_ (n : Nat) (more : Nat) : List (Fld × Word) :=
      [(d, BitVec.ofNat 32 (n + more)), (fplus d 1, BitVec.ofNat 32 (n * slotSize r))]
    (bad → exec (.racq c d a) s = .next (s.trap t 9 0 t.mask w) ∧ exec (.rpeek c d a) s = .next (s.trap t 9 0 t.mask w)) ∧
    (¬bad → SlotIs r r.tail x →
      (x.st = .empty → exec (.racq c d a) s = .next (puts
        (s.putRcb t.ctx { slotTo r r.tail { st := .acquired, credit := 0, exp := 0, fail := false } with
          tail := (r.tail + 1) % slotCount r }) t c [a] (at_ r.tail 0))) ∧
      (x.st ≠ .empty → exec (.racq c d a) s = .next (s.putTeam { t with st := .parked (.racq (ringOf t w)) }))) ∧
    (¬bad → SlotIs r r.head x →
      (x.st ≠ .full → exec (.rpeek c d a) s = .next (puts s t c [a] [(d, 0xFFFFFFFF#32), (fplus d 1, 0)])) ∧
      (x.st = .full → exec (.rpeek c d a) s = .next (puts
        (acquired (s.putRcb t.ctx { slotTo r r.head { x with st := .peeked } with head := (r.head + 1) % slotCount r }) t.core
          (scopeOf w)) t c [a] (at_ r.head (if x.fail then 256 else 0)))))) ∧
  (∀ s t c a x, Issues s t → Readable t (run a 2) → (∀ f ∈ run a 2, Uniform t f) →
    let w := t.getLow a
    let e := (t.getLow (fplus a 1)).toNat
    let key := ringOf t w
    let r := s.rcb t.ctx key
    (¬SlotOperand r w ∨ 0xFFFFFF < e → exec (.rcom c a) s = .next (s.trap t 9 0 t.mask w)) ∧
    (SlotOperand r w → e ≤ 0xFFFFFF → SlotIs r (fld w 15 8) x →
      (x.st ≠ .acquired → exec (.rcom c a) s = .next (s.trap t 9 0 t.mask w)) ∧
      (x.st = .acquired → Released s t.id (scopeOf w) → exec (.rcom c a) s =
        .next ((s.putRcb t.ctx (slotTo r (fld w 15 8) (committed x e))).complete c (t.useMarks c (run a 2) []))) ∧
      (x.st = .acquired → ¬Released s t.id (scopeOf w) → exec (.rcom c a) s = .next (s.putTeam
        { t with st := .waitingCounter (.release (scopeOf w) s.nextId), finish := .rcom c a key (fld w 15 8) e }))) ∧
    (¬SlotOperand r w → exec (.rrel c a) s = .next (s.trap t 9 0 t.mask w)) ∧
    (SlotOperand r w → SlotIs r (fld w 15 8) x →
      (x.st = .peeked → exec (.rrel c a) s =
        .next ((s.putRcb t.ctx (slotTo r (fld w 15 8) { x with st := .empty })).complete c (t.useMarks c [a] []))) ∧
      (x.st ≠ .peeked → exec (.rrel c a) s =
        .next ((s.putRcb t.ctx { r with ovf := min 255 (r.ovf + 1) }).complete c (t.useMarks c [a] []))))) ∧
  ∀ s t team sc upto c a key n e x, s.dev = .operational → s.team? team = some t → t.st = .waitingCounter (.release sc upto) →
    t.finish = .rcom c a key n e → s.releaseDone team sc upto = true → SlotIs (s.rcb t.ctx key) n x → x.st = .acquired →
    exec (.rcomCommit team) s = .next (((s.putRcb t.ctx (slotTo (s.rcb t.ctx key) n (committed x e))).complete c
      ({ t with finish := .none }.useMarks c (run a 2) [])).youngest team)

/-- SYSC and SYSCT post D to D+3 of the lowest active lane into the lowest Free entry once every earlier access is released at system scope, and leave
them empty; a request that sends a message across a port with MSEQ carries the next number of its context's sequence (R389; whether it sends one
is a free function, notes/assumptions/59.md); on a full ring SYSC parks the team and SYSCT reports it; the reply makes the entry Serviced,
whatever its context does; in a context that runs it is Delivered, which fills the registers after an acquire, and then Free (R277, R278). That
the reply also fills lanes that are leaving by EXIT is the model's reading (notes/assumptions/62.md). -/
def Sys2Proof.Claims.Services : Prop :=
  (∀ s t c d x, Issues s t → Readable t (run d 4) → s.ctx? t.ctx = some x →
    (¬Released s t.id .system → ∀ i ∈ [Instr.sysc c d, .sysct c d],
      exec i s = .next (s.putTeam { t with st := .waitingCounter (.release .system s.nextId), finish := .again i })) ∧
    (Released s t.id .system →
      ((∀ n < 256, ∃ e ∈ x.sysc, e.n = n) →
        exec (.sysc c d) s = .next (s.park t 4 0 0 t.mask t.trapa 0 0) ∧
        exec (.sysct c d) s = .next (puts s t c [] [(d, 0xFFFFFFFF#32)])) ∧
      (∀ n < 256, (∀ e ∈ x.sysc, e.n ≠ n) → (∀ m < n, ∃ e ∈ x.sysc, e.n = m) → ∀ i ∈ [Instr.sysc c d, .sysct c d],
        let ws := (run d 4).map t.getLow
        let tagged (u : State) : State :=
          match Config.message ws with
          | none => u
          | some p =>
            if (s.ports.getD p Port.reset).cap.getLsbD 3 then
              (u.modCtx t.ctx fun y => { y with seq := y.seq + 1 }).say (.sent p s.linkId t.ctx x.maqn.toNat (x.seq + 1))
            else u
        exec i s = .next ((tagged (s.modCtx t.ctx fun y => { y with sysc := y.sysc ++
            [{ n := n, st := .posted, reply := [], team := t.id, words := ws, dests := t.regsOf (run d 4), mask := t.mask }] })).complete c
          ((t.regsOf (run d 4)).foldl Team.markEmpty t))))) ∧
  (∀ s n x e w0 w1 w2 w3 r, s.dev = .operational → s.ctx? n = some x → x.sysc.find? (fun y => y.n == r && y.st == .posted) = some e →
    (w0 ≠ 0xFFFFFFFF#32 → exec (.syscReply n r w0 w1 w2 w3) s = .next (s.modCtx n fun y =>
      { y with sysc := y.sysc.map fun z => if z.n = r then { z with st := .serviced, reply := [w0, w1, w2, w3] } else z })) ∧
    (w0 = 0xFFFFFFFF#32 → exec (.syscReply n r w0 w1 w2 w3) s = .next s)) ∧
  (∀ (s : State) n x e t w0 w1 w2 w3, s.ctx? n = some x → s.team? e.team = some t → e.reply = [w0, w1, w2, w3] →
    ∀ r0 r1 r2 r3, e.dests = [r0, r1, r2, r3] → e.mask &&& t.landing ≠ 0 →
    let m := e.mask &&& t.landing
    s.deliverReply n e = acquired
      ((s.modCtx n fun y => { y with sysc := y.sysc.map fun z => if z.n = e.n then { z with st := .delivered } else z }).putTeam
        ((((t.land r0 m fun _ => w0).land r1 m fun _ => w1).land r2 m fun _ => w2).land r3 m fun _ => w3)) t.core .system) ∧
  ∀ (s : State) n x, s.ctx? n = some x →
    (x.st ≠ .running → s.settleSysc n = s) ∧
    (x.st = .running → s.settleSysc n = (x.sysc.filter fun e => e.st == .serviced).foldl (fun u e => u.deliverReply n e)
      (s.modCtx n fun y => { y with sysc := y.sysc.filter fun z => z.st != .delivered }))

namespace Sys2Proof.Claims

/-- The lanes of a list of REORD that a participant brings (R100). -/
def brought (u : Team) (key : Nat → Nat) : List RLane :=
  ((List.range u.nlanes).filter fun l => u.mask.getLsbD l).map fun l => { key := key l, tid := u.tid, lid := l, id := u.id }

/-- Ascending by key, tid, lid. -/
abbrev Ascends (ls : List RLane) : Prop :=
  ls.Pairwise fun a b => a.key < b.key ∨ (a.key = b.key ∧ (a.tid < b.tid ∨ (a.tid = b.tid ∧ a.lid < b.lid)))

/-- The fields that the live mask selects (R99). -/
def live (t : Team) : List Fld :=
  ((List.range 120).filter fun n => (t.k.getD (n / 32) 0).getLsbD (n % 32)).map fun n => BitVec.ofNat 7 n

/-- The REORD that a waiting participant executes. -/
abbrev AtReord (u : Team) (c : Ctl) (d a : Fld) : Prop := u.st = .waitingLatch .reord ∧ u.finish = .again (.reord c d a)

end Sys2Proof.Claims

/-- REORD drains the window and arrives; with others still to come the team waits. When the last arrives and the PCs or live masks differ, every
participant takes the reorder-mismatch trap; otherwise the i-th slot by (tid, lid) receives the live registers of the i-th lane by (key, tid,
lid) and that lane's identity in D, the generations advance, and every participant goes on (R99, R100). -/
def Sys2Proof.Claims.Reorder : Prop :=
  ∀ s t c d a, Issues s t → Readable t (a :: live t ++ [d]) → (s.teams.map (·.id)).Nodup →
    let t1 : Team := { t.drain with st := .waitingLatch .reord, finish := .again (.reord c d a) }
    let s1 := s.putTeam t1
    let ts := s1.reordSet t1
    ((∃ u ∈ ts, u.st ≠ .waitingLatch .reord) → exec (.reord c d a) s = .next s1) ∧
    ((∀ u ∈ ts, u.st = .waitingLatch .reord) → t1 ∈ ts →
      ((∃ u ∈ ts, u.pc ≠ t.pc ∨ live u ≠ live t) →
        exec (.reord c d a) s = .next (ts.foldl (fun v u => v.trap { u with finish := .none } 13 0 u.mask 0) s1)) ∧
      ((∀ u ∈ ts, u.pc = t.pc ∧ live u = live t) → (ts.map (·.tid)).Nodup →
        ∀ (dOf : Nat → Fld) (aOf : Nat → Fld) (cOf : Nat → Ctl), (∀ u ∈ ts, AtReord u (cOf u.id) (dOf u.id) (aOf u.id)) →
        (∀ u ∈ ts, isFrame (dOf u.id) = true ∧ ∀ f ∈ dOf u.id :: live t, u.fieldReg f < u.frame.length) →
        ∃ s', exec (.reord c d a) s = .next s' ∧
          ∀ (S O : List RLane), S.Perm (ts.flatMap fun u => brought u fun l => (u.get (aOf u.id) l).toNat) → Ascends S →
            O.Perm (ts.flatMap fun u => brought u fun _ => 0) → Ascends O →
            ∀ (i : Nat) (x y : RLane), O[i]? = some x → S[i]? = some y → ∀ u ∈ ts, u.id = x.id → ∀ v ∈ ts, v.id = y.id →
              ∃ u', s'.team? u.id = some u' ∧ u'.gen = u.gen + 1 ∧ u'.pc = u.pc + 4 ∧ u'.st = .ready ∧
                (∀ f ∈ live t, f ≠ dOf u.id →
                  (u'.reg (u.fieldReg f)).bank.lane x.lid = (v.reg (v.fieldReg f)).bank.lane y.lid) ∧
                (u'.reg (u.fieldReg (dOf u.id))).bank.lane x.lid = BitVec.ofNat 32 (1024 * y.tid + y.lid)))

/-! ## The SYS class -/

namespace Sys2Proof.Claims

def stateCode : CtxSt → Nat
  | .created => 0
  | .loaded => 1
  | .running => 2
  | .switchingOut => 3
  | .saved => 4
  | .halted => 5
  | .rollingBack => 6
  | .reset => 7

def lowHalf (v : Dword) : Word := BitVec.ofNat 32 (v.toNat % 2 ^ 32)

def highHalf (v : Dword) : Word := BitVec.ofNat 32 (v.toNat / 2 ^ 32)

/-- The context registers of R301, but for the ring control blocks. -/
def ctxReg (x : Ctx) : Nat → Option Word
  | 0x01 => some (BitVec.ofNat 32 (2 ^ 28 * stateCode x.st + x.status))
  | 0x02 => some x.cfg
  | 0x03 => some (BitVec.ofNat 32 x.quota)
  | 0x04 => some (BitVec.ofNat 32 x.xscr)
  | 0x05 => some (lowHalf x.root)
  | 0x06 => some (highHalf x.root)
  | 0x07 => some (lowHalf x.cht)
  | 0x08 => some (highHalf x.cht)
  | 0x09 => some (lowHalf x.save)
  | 0x0A => some (highHalf x.save)
  | 0x0B => some (lowHalf x.svec)
  | 0x0C => some (highHalf x.svec)
  | 0x0D => some (BitVec.ofNat 32 x.maqi)
  | 0x0E => some x.maqn
  | 0x0F => some (lowHalf x.safe)
  | 0x10 => some (highHalf x.safe)
  | _ => none

/-- Register k of a ring control block (R272). -/
def ringReg (r : Rcb) : Nat → Word
  | 0 => r.cfg
  | 1 => lowHalf r.base
  | 2 => highHalf r.base
  | _ => BitVec.ofNat 32 (2 ^ 16 * r.ovf + 2 ^ 8 * r.head + r.tail)

/-- The privileged instructions, with the operands that they read, and their D. -/
def privOp : Instr → Option (List Fld × List Fld)
  | .eret _ a => some ([a], [])
  | .halt _ a => some ([a], [])
  | .csrr _ d a => some ([a], [d])
  | .csrw _ d a => some (run a 2, [d])
  | _ => none

end Sys2Proof.Claims

/-- TRAP and BKPT trap with codes 15 and 14; RDTIME reads the counter of the team's core and RDID the identities; a privileged instruction in an
unprivileged team takes the privileged-instruction trap with its word (R18, R52, R307). -/
def Sys2Proof.Claims.SystemReads : Prop :=
  (∀ s t c a, Issues s t → Readable t [a] → exec (.trapI c a) s = .next (s.trap t 15 0 t.mask (t.getLow a))) ∧
  (∀ s t c, Issues s t → exec (.bkpt c) s = .next (s.trap t 14 0 t.mask (encodeWord (.bkpt c)))) ∧
  (∀ s t c d, Issues s t → Readable t [d, fplus d 1] →
    let n := s.coreTime t.core
    exec (.rdtime c d) s =
      .next (puts s t c [] [(d, BitVec.ofNat 32 (n % 2 ^ 32)), (fplus d 1, BitVec.ofNat 32 (n / 2 ^ 32))])) ∧
  (∀ s t c d x, Issues s t → Readable t (run d 4) → s.ctx? t.ctx = some x →
    let slice := t.ctx / 16
    let size := fld (s.part.getD slice 0) 3 0
    exec (.rdid c d) s = .next (puts s t c []
      [(d, 0x09600001#32), (fplus d 1, BitVec.ofNat 32 (2 ^ 8 * t.ctx + 2 ^ 4 * slice + size)),
       (fplus d 2, BitVec.ofNat 32 (2 ^ 12 * t.core + 2 ^ 8 * t.quad + t.slot)), (fplus d 3, x.maqn)])) ∧
  ∀ i o, privOp i = some o → ∀ s t, Issues s t → t.privileged = false → exec i s = .next (s.trap t 2 0 t.mask (encodeWord i))

/-- In a privileged team ERET completes the event in k0 and ends the team; HALT posts a halt; CSRR reads and CSRW writes the register of the context
that the selector names, and what names none takes the protection trap (R300, R301, R306, R307). That HALT of a Loaded or Switching-out context
stays pending until the context can move is the model's reading (notes/assumptions/56.md). -/
def Sys2Proof.Claims.SystemControl : Prop :=
  (∀ i as ds, privOp i = some (as, ds) → ∀ s t f, Issues s t → t.privileged = true → Readable t (as ++ ds) → f ∈ as →
    (∀ g, as.head? = some g → g ≠ f → Uniform t g) → ¬Uniform t f →
    exec i s = .next (s.trap t 5 0 t.mask (BitVec.ofNat 32 f.toNat))) ∧
  (∀ s t c a, Issues s t → t.privileged = true → Readable t [a] → Uniform t a →
    (∀ n, t.kind = .handler n → exec (.eret c a) s =
      .next ((s.evdone t.ctx (t.k.getD 0 0).toNat (fld (t.getLow a) 1 0)).exitLanes t t.alive)) ∧
    ((∀ n, t.kind ≠ .handler n) → exec (.eret c a) s = .next (s.trap t 9 0 t.mask 0))) ∧
  (∀ s t c a, Issues s t → t.privileged = true → Readable t [a] → Uniform t a →
    let n := fld (t.getLow a) 7 0
    (s.ctx? n = none ∨ (∃ x, s.ctx? n = some x ∧ (x.st = .reset ∨ x.st = .rollingBack)) →
      exec (.halt c a) s = .next (s.trap t 9 0 t.mask (t.getLow a))) ∧
    (∀ x, s.ctx? n = some x →
      (x.st = .created ∨ x.st = .halted → exec (.halt c a) s = .next (s.complete c (t.useMarks c [a] []))) ∧
      (x.st = .loaded ∨ x.st = .switchingOut → exec (.halt c a) s =
        .next ((s.modCtx n fun y => { y with haltPending := true }).complete c (t.useMarks c [a] []))) ∧
      (x.st = .saved → exec (.halt c a) s =
        .next ((s.modCtx n fun y => { y with st := .halted }).complete c (t.useMarks c [a] []))) ∧
      (x.st = .running → ∀ s1, s1 = (s.modCtx n fun y => { y with haltPending := true, st := .switchingOut, capture := false }).stopTeams n →
        ∀ u, s1.team? t.id = some u → exec (.halt c a) s = .next (s1.complete c (u.useMarks c [a] []))))) ∧
  (∀ s t c d a, Issues s t → t.privileged = true → Readable t [a, d] → Uniform t a →
    let w := t.getLow a
    let reg := fld w 15 0
    (∀ x v, fld w 31 24 = 0 → s.ctx? (fld w 23 16) = some x → ctxReg x reg = some v →
      exec (.csrr c d a) s = .next (puts s t c [a] [(d, v)])) ∧
    (∀ x key j, fld w 31 24 = 0 → s.ctx? (fld w 23 16) = some x → s.rcbReg x.num reg = some (key, j) → 0x12 < reg →
      exec (.csrr c d a) s = .next (puts s t c [a] [(d, ringReg (s.rcb x.num key) j)])) ∧
    (fld w 31 24 ≠ 0 ∨ s.ctx? (fld w 23 16) = none → exec (.csrr c d a) s = .next (s.trap t 9 0 t.mask w)) ∧
    (∀ x, s.ctx? (fld w 23 16) = some x → 0x12 < reg → s.rcbReg x.num reg = none →
      exec (.csrr c d a) s = .next (s.trap t 9 0 t.mask w))) ∧
  (∀ s t c d a x, Issues s t → t.privileged = true → Readable t (run a 2 ++ [d]) → (∀ f ∈ run a 2, Uniform t f) →
    let w := t.getLow a
    let v := t.getLow (fplus a 1)
    s.ctx? (fld w 23 16) = some x →
    (fld w 31 24 ≠ 0 ∨ s.writeCtxReg x (fld w 15 0) v = none → exec (.csrw c d a) s = .next (s.trap t 9 0 t.mask w)) ∧
    (∀ s1 ok u, fld w 31 24 = 0 → s.writeCtxReg x (fld w 15 0) v = some (s1, ok) → s1.team? t.id = some u →
      exec (.csrw c d a) s = .next (s1.complete c ((u.useMarks c (run a 2) []).write u [(d, fun _ => if ok then 0 else 4)])))) ∧
  (∀ (s : State) (x : Ctx) n v, (s.writeCtxReg x n v).isSome = true ↔ (1 ≤ n ∧ n ≤ 0x12) ∨ (s.rcbReg x.num n).isSome = true) ∧
  ∀ (s : State) n, let p := fld (s.part.getD (n / 16) 0) 3 0
    (∀ k < 256, s.rcbReg n (0x400 + k) = some (.slice (k / 4), k % 4)) ∧
    (∀ k < 256, ∀ j < 4 * p, s.rcbReg n (0x8000 + 0x100 * j + k) = some (.cluster (4 * (n / 16) + j) (k / 4), k % 4))

/-! ## The device -/

namespace Sys2Proof.Claims

/-- The device after a reset: every state at its reset value but what lies outside the chip's arrays, the committed maquettes in the safe
tier among it (R14, R23, R26, R27, R30, R308). -/
def cleared (s : State) : State :=
  { State.reset with
    agenda := s.agenda, clock := s.clock, stepNs := s.stepNs, coreSkew := s.coreSkew, released := s.clock, freeCtr := s.freeCtr,
    nextId := s.nextId, outbox := s.outbox, thermal := s.thermal, fw := { State.reset.fw with leaf := s.fw.leaf }, mem := s.mem,
    fabric := s.fabric, poisoned := s.poisoned, maqs := s.maqs.filter fun m => m.streaming = false }

/-- The states that a freeze ends (R23). -/
abbrev Freezes (s : State) : Prop := s.dev = .awaiting ∨ s.dev = .verifying ∨ s.dev = .operational

/-- Word i of the image in the staging window. -/
def imageWord (s : State) (i : Nat) : Word := memWord s.fw.staging (4 * i)

abbrev LenOk (s : State) : Prop :=
  (imageWord s 1).toNat % 64 = 0 ∧ 128 ≤ (imageWord s 1).toNat ∧ (imageWord s 1).toNat ≤ 0x4000000

/-- The signature lies at LEN, is valid over the image, and its leaf index is above the last accepted one (R25, R26). -/
abbrev Signed (s : State) : Prop :=
  let len := (imageWord s 1).toNat
  Config.xmssValid (memRead s.fw.staging 0 len) (memRead s.fw.staging len 2820) = true ∧
  s.fw.leaf < (memWord s.fw.staging len).toNat

/-- A team as a service core starts it at ENTRY, with privilege (R26): its 32 lanes and its 128 full registers that hold 0 are the model's
presumption (notes/assumptions/30.md). -/
abbrev ServiceTeam (u : Team) (id core : Nat) (entry : Word) : Prop :=
  u.id = id ∧ u.core = core ∧ u.kind = .firmware ∧ u.privileged = true ∧ u.st = .ready ∧ u.pc = entry ∧ u.codeBase = 0 ∧
  u.nlanes = 32 ∧ u.g = 32 ∧ (∀ l < 1024, u.mask.getLsbD l = decide (l < 32)) ∧ u.p = 128 ∧
  u.frame = List.replicate 128 { full := true, uniform := true, bank := .uni 0 }

/-- The other header fields (R26). -/
abbrev HeaderOk (s : State) : Prop :=
  let entry := (imageWord s 2).toNat
  fld (imageWord s 0) 15 0 = 0 ∧ entry % 4 = 0 ∧ 64 ≤ entry ∧ entry + 4 ≤ (imageWord s 1).toNat ∧
  ∀ i, 3 ≤ i → i ≤ 15 → imageWord s i = 0

end Sys2Proof.Claims

/-- Power, reset and freeze move the device as R23 and R24 say: a reset clears every on-chip array and keeps DRAM and the accepted leaf index; a loss of
power clears DRAM too; FREEZE is sampled when reset is released, and a freeze ends only with reset. That memory then reads as 0, that the FREEZE pin
counts as released after a reset, and that the thermal status is lost with power are the model's choices (notes/assumptions/5.md,
notes/assumptions/10.md, notes/assumptions/58.md). -/
def Sys2Proof.Claims.ResetFreeze : Prop :=
  ∀ s : State,
    (s.dev = .off → exec .powerGood s = .next { s with dev := .reset }) ∧
    (s.dev ≠ .off → exec .powerGood s = .next s) ∧
    exec .powerLoss s = .next { cleared s with dev := .off, mem := [], poisoned := [], thermal := false } ∧
    exec .perstAssert s = .next (cleared s) ∧ exec .mgmtResetCommand s = .next (cleared s) ∧ (cleared s).dev = .reset ∧
    (s.dev = .reset → exec .resetRelease s =
      .next { s with dev := if s.freezePin then .frozen else .awaiting, released := s.clock }) ∧
    (s.dev ≠ .reset → exec .resetRelease s = .next s) ∧
    (Freezes s → exec .freezePinAssert s = .next { s with dev := .frozen, freezePin := true } ∧
      exec .mgmtFreezeCommand s = .next { s with dev := .frozen }) ∧
    (¬Freezes s → exec .freezePinAssert s = .next { s with freezePin := true } ∧ exec .mgmtFreezeCommand s = .next s)

/-- The staging window takes writes only in Awaiting firmware; FW.CMD starts verification there; the first failing check (LEN, signature, version, other
fields) decides the status; an image that passes all of them runs, and the 32 service cores start at its entry point, each team with group barrier 0
(R23, R26, R211; the shape of these teams is notes/assumptions/30.md). -/
def Sys2Proof.Claims.FirmwareLoad : Prop :=
  ∀ s : State,
    (∀ off bytes, s.dev = .awaiting → off + bytes.length ≤ 2 ^ 27 →
      exec (.stagingWindowWrite off bytes) s = .next { s with fw := { s.fw with staging := memWrite s.fw.staging off bytes } }) ∧
    (∀ off bytes, s.dev ≠ .awaiting → exec (.stagingWindowWrite off bytes) s = .next s) ∧
    (s.dev = .awaiting →
      exec (.fwCmdVerify 1) s = .next { s with dev := .verifying, fw := { s.fw with stat := 1 } }) ∧
    (∀ v, s.dev ≠ .awaiting ∨ v.getLsbD 0 = false ∨ fld v 31 1 ≠ 0 → exec (.fwCmdVerify v) s = .next s) ∧
    (s.dev = .verifying →
      let refused (n : Nat) := exec .firmwareVerifyDone s = .next { s with dev := .awaiting, fw := { s.fw with stat := n } }
      (¬LenOk s → refused 5) ∧ (LenOk s → ¬Signed s → refused 3) ∧
      (LenOk s → Signed s → fld (imageWord s 0) 31 24 ≠ 1 → refused 4) ∧
      (LenOk s → Signed s → fld (imageWord s 0) 31 24 = 1 → ¬HeaderOk s → refused 5) ∧
      (LenOk s → Signed s → fld (imageWord s 0) 31 24 = 1 → HeaderOk s →
        let len := (imageWord s 1).toNat
        ∃ us : List Team, us.length = 32 ∧ (∀ i u, us[i]? = some u → ServiceTeam u (s.nextId + i) (384 + i) (imageWord s 2)) ∧
          exec .firmwareVerifyDone s = .next { s with
            dev := .operational, nextId := s.nextId + 32, teams := s.teams ++ us, order := s.order ++ us.map (·.id)
            fwCircuits := us.map fun u =>
              { key := .group u.id 0, phase := 0, count := 0, expected := none, membership := 32, arrived := [] }
            fw := { s.fw with stat := 2, leaf := (memWord s.fw.staging len).toNat, code := memSlice s.fw.staging 0 len,
                              entry := imageWord s 2, running := true } })) ∧
    (s.dev ≠ .verifying → exec .firmwareVerifyDone s = .next s)

/-- A hot die is throttled until it has cooled, and a thermal trip resets the device and latches its status (R23, R29, R30); the TAP selects and shifts
out words of a frozen device, and IDCODE reads 0x1096022F (R313). -/
def Sys2Proof.Claims.HeatAndTap : Prop :=
  ∀ s : State,
    (∀ die, s.dev ≠ .off → s.dev ≠ .frozen → die ∉ s.throttled →
      exec (.thermalThrottle die) s = .next { s with throttled := die :: s.throttled }) ∧
    (∀ die, s.dev ≠ .frozen →
      exec (.thermalCooled die) s = .next { s with throttled := s.throttled.filter fun d => d ≠ die }) ∧
    (∀ die, s.dev = .frozen → exec (.thermalThrottle die) s = .next s ∧ exec (.thermalCooled die) s = .next s) ∧
    (∀ die, s.dev = .operational → exec (.thermalTrip die) s = .next { cleared s with thermal := true }) ∧
    (∀ die, s.dev ≠ .operational → exec (.thermalTrip die) s = .next s) ∧
    (s.dev ≠ .off →
      let goes (x : Tap) : Host.Outcome State Fault Refusal := .next { s with tap := x }
      exec .tapBypass s = goes { s.tap with ir := .bypass } ∧ exec .tapSamplePreload s = goes { s.tap with ir := .sample } ∧
      exec .tapExtest s = goes { s.tap with ir := .extest } ∧
      exec .tapIdcode s = goes { s.tap with ir := .idcode, out := 0x1096022F } ∧
      (∀ x, s.dev = .frozen → exec (.tapFrzsel x) s = goes { s.tap with ir := .frzsel, sel := x }) ∧
      (∀ x, s.dev ≠ .frozen → exec (.tapFrzsel x) s = goes { s.tap with ir := .frzsel }) ∧
      (∀ (arr : BitVec 16) (ix : Word), s.dev = .frozen → s.tap.sel = arr ++ ix →
        exec .tapFrzdata s = goes { ir := .frzdata, out := Config.frozenWord arr.toNat ix.toNat s, sel := arr ++ (ix + 1) }) ∧
      (s.dev ≠ .frozen → exec .tapFrzdata s = goes { s.tap with ir := .frzdata, out := 0 }))

/-! ## Kernels and teams -/

namespace Sys2Proof.Claims

/-- A team of kernel k as R66, R87 and R258 place it. -/
abbrev PlacedAs (u : Team) (ctx : Nat) (k : Kernel) (kind : TeamKind) (tid : Nat) (pc : Word) (ks : List Word) (p lanes scr : Nat) : Prop :=
  let d := k.desc
  u.ctx = ctx ∧ u.kernel = k.id ∧ u.kind = kind ∧ u.privileged = false ∧ u.tid = tid ∧ u.codeBase = d.code ∧ u.g = d.g ∧
  u.nlanes = lanes ∧ u.p = p ∧ u.scrSize = scr ∧ u.privSize = d.priv ∧ u.st = .placed ∧ u.pc = pc ∧ u.k = ks ∧
  (∀ l < 1024, u.mask.getLsbD l = decide (l < lanes)) ∧ u.stack = [] ∧ u.wbase = 0 ∧ u.trapv = 0 ∧ u.trapc = 0 ∧ u.trapa = 0 ∧
  u.faultm = BitVec.ofNat 2 d.fmode ∧ u.fmt = 0x781E000#32 ∧ u.gangLo = 1 ∧ u.gangHi = 0 ∧ u.surf = 0 ∧ u.bvh = 0 ∧
  u.window = [] ∧ u.handles = [] ∧ u.batches = [] ∧ u.cnt = [] ∧
  u.frame = List.replicate p { full := true, uniform := true, bank := .uni 0 } ∧ ∀ x ∈ u.xl, x.limit = 0

/-- The kernels that come before one in Placing: submitted earlier, with teams still to place (R255). -/
def elders (c : Ctx) (kernel : Nat) : List Kernel :=
  c.kernels.filter fun o => o.st = .placing ∧ o.id < kernel ∧ o.next < o.desc.teams ∧ o.desc.strm = false

/-- How many teams are placed at once (R256 steps 2 to 4). -/
def atOnce (d : Desc) : Nat :=
  if d.coop then d.teams
  else if d.cset = 0 ∨ d.reord = 0 ∨ d.reord % d.cset = 0 ∨ d.cset % d.reord = 0 then max 1 (max d.cset d.reord)
  else max 1 d.cset

/-- A member leaves a circuit (R216). -/
def lessOne (k : Circuit) : Circuit :=
  match k.expected with
  | none => { k with membership := k.membership - 1 }
  | some e =>
    let e1 := min e (k.membership - 1)
    if e1 ≤ k.count then { k with membership := k.membership - 1, phase := k.phase + 1, count := 0, expected := none, arrived := [] }
    else { k with membership := k.membership - 1, expected := some e1 }

/-- The circuits of a context once team t is gone (R213, R216); last says that no team of its cluster set is left. -/
def without (t : Team) (last : Bool) (ks : List Circuit) : List Circuit :=
  ks.filterMap fun k =>
    match k.key with
    | .group i _ => if i = t.id then none else some k
    | .team i _ => if i = t.id then none else some k
    | .cluster i _ => if i = t.cset then (if last then none else some (lessOne k)) else some k
    | .grid i _ => if i = t.kernel ∧ t.kind = .ordinary then some (lessOne k) else some k

/-- The work of queue entry e has ended with status v, unless it had ended before (R269). -/
def ended (s : State) (ctx : Nat) (e : Option (Nat × Nat)) (v : Nat) : State :=
  match e with
  | none => s
  | some (q, n) =>
    s.modCtx ctx fun c => { c with queues := c.queues.map fun x =>
      if x.q = q then
        { x with entries := x.entries.map fun y => if y.n = n then { y with status := some (y.status.getD v) } else y }
      else x }

/-- The cap after a window (R260). -/
def capAfter (cap mincap hits : Nat) : Nat :=
  if 512 < hits then max mincap (cap - max 1 (cap / 4)) else if hits ≤ 128 then min 256 (cap + 1) else cap

/-- A kernel whose teams are units, cluster sets and reorder sets of one, on one core each, without cluster memory or circuits. -/
abbrev PlainKernel (d : Desc) : Prop :=
  d.coop = false ∧ d.wide = false ∧ d.cset = 0 ∧ d.reord = 0 ∧ d.clm = 0 ∧ d.bclu = 0 ∧ d.lanes * d.p ≠ 0

/-- Nothing but whole teams on one core takes room in the core stores. -/
abbrev OnlyTeams (s : State) : Prop := (∀ u ∈ s.teams, u.pairSlot = none) ∧ (∀ c ∈ s.ctxs, c.csets = []) ∧ s.removed = []

/-- The granules of a frame, and of a footprint (R254). -/
def frameSize (lanes p : Nat) : Nat := kib16 (lanes * p * 4)
def footprint (lanes p priv scr : Nat) : Nat := frameSize lanes p + kib16 (lanes * priv) + kib16 scr

/-- The teams that take room on a core, what they take of it, and the runs that their frames and other parts occupy. -/
def onCore (s : State) (core : Nat) : List Team := s.teams.filter fun u => u.core == core && present s u
def used (s : State) (core : Nat) : Nat := ((onCore s core).map fun u => footprint u.nlanes u.p u.privSize u.scrSize).sum
def partRuns (core : Nat) (us : List Team) : List (Nat × Nat) :=
  us.flatMap fun u => (u.parts.filter fun x => x.1 == core).map fun x => (x.2, 1)
def frameRuns (us : List Team) : List (Nat × Nat) := us.map fun u => (u.base, frameSize u.nlanes u.p)

/-- Granule x starts a run of n granules, aligned to n rounded up to a power of two, that misses the runs rs (R254). -/
abbrev Clear (rs : List (Nat × Nat)) (n x : Nat) : Prop :=
  x < 256 ∧ x % 2 ^ Nat.clog 2 n = 0 ∧ x + n ≤ 256 ∧ ∀ r ∈ rs, ¬(x < r.1 + r.2 ∧ r.1 < x + n)

abbrev SlotFree (s : State) (core n : Nat) : Prop := n < 256 ∧ ∀ u ∈ onCore s core, u.slot ≠ n

/-- A team of descriptor d fits the core as it stands: granules, a run for its frame, a slot (R254). -/
abbrev HasRoom (s : State) (core : Nat) (d : Desc) : Prop :=
  used s core + footprint d.lanes d.p d.priv d.scr ≤ 224 ∧
  (∃ x, Clear (frameRuns (onCore s core) ++ partRuns core (onCore s core)) (frameSize d.lanes d.p) x) ∧ ∃ n, SlotFree s core n

/-- It does not fit, whichever frames of Parked teams move (R254, R257). -/
abbrev NoRoom (s : State) (core : Nat) (d : Desc) : Prop :=
  224 < used s core + footprint d.lanes d.p d.priv d.scr ∨ (∀ n, ¬SlotFree s core n) ∨
  ∀ x, ¬Clear (frameRuns ((onCore s core).filter fun u => match u.st with | .parked _ => false | _ => true) ++
    partRuns core (onCore s core)) (frameSize d.lanes d.p) x

/-- The cores of a partition, from the one after the last used on, with wrap-around (R256). -/
def coreOrder (s : State) (ctx : Nat) (last : Option Nat) : List Nat :=
  let first := 32 * (ctx / 16)
  let n := 32 * fld (s.part.getD (ctx / 16) 0) 3 0
  let start := match last with | none => 0 | some c => c + 1 - first
  (List.range n).map fun i => first + (start % n + i) % n

end Sys2Proof.Claims

/-- A team of a plain kernel goes to the first core that has room for it, in the order of the cores, with the lowest free slot there and the
lowest run for its frame, and no other team moves; where no core has room it stays unplaced (R254, R256, R257). Which granules the other parts
of a footprint occupy is the model's choice (notes/assumptions/16.md). -/
def Sys2Proof.Claims.CoreFit : Prop :=
  ∀ (s : State) ctx c k, s.ctx? ctx = some c → PlainKernel k.desc → OnlyTeams s → k.next < k.desc.teams →
    let order := coreOrder s ctx k.last
    (∀ x ∈ order, x < 384) →
    ((∀ x ∈ order, NoRoom s x k.desc) → s.tryUnit ctx k = none) ∧
    ∀ pre core post, order = pre ++ core :: post → (∀ x ∈ pre, NoRoom s x k.desc) → HasRoom s core k.desc →
      ∃ s' u, s.tryUnit ctx k = some s' ∧ u ∈ s'.teams ∧ u.id = s.nextId + 1 ∧ u.tid = k.next ∧ u.core = core ∧
        (SlotFree s core u.slot ∧ ∀ n < u.slot, ¬SlotFree s core n) ∧
        (let rs := frameRuns (onCore s core) ++ partRuns core (onCore s core)
         let n := frameSize k.desc.lanes k.desc.p
         Clear rs n u.base ∧ ∀ y < u.base, ¬Clear rs n y) ∧
        (∀ v ∈ s.teams, v ∈ s'.teams) ∧ s'.teams.length = s.teams.length + 1

/-- TEAM_PLACE places the next teams of a kernel when no child, instance or older kernel comes before them; each starts with the values of R258; what
fits nowhere stays unplaced, and a cooperative kernel that is the oldest in Placing bars the younger ones (R254 to R258). -/
def Sys2Proof.Claims.TeamPlacement : Prop :=
  ∀ s ctx kernel c k, Runs s ctx c → c.kernel? kernel = some k → k.st = .placing → k.desc.strm = false →
    (s.elderWork c = true ∨ (∃ o, (elders c kernel).head? = some o ∧ o.desc.coop = true) ∨
        (∃ o ∈ elders c kernel, s.tryUnit ctx o ≠ none) → exec (.teamPlace ctx kernel) s = .next s) ∧
    (s.elderWork c = false → (∀ o, (elders c kernel).head? = some o → o.desc.coop = false) →
    (∀ o ∈ elders c kernel, s.tryUnit ctx o = none) →
    (s.tryUnit ctx k = none → exec (.teamPlace ctx kernel) s = .next s) ∧
    ∀ s', s.tryUnit ctx k = some s' →
      exec (.teamPlace ctx kernel) s = .next s' ∧
      (∀ i, k.next ≤ i → i < k.next + atOnce k.desc → i < k.desc.teams → ∃ u ∈ s'.teams,
        PlacedAs u ctx k .ordinary i k.desc.entry k.desc.args k.desc.p k.desc.lanes k.desc.scr ∧ u.depth = 0) ∧
      (∀ u ∈ s.teams, ∃ b b2, { u with base := b, base2 := b2 } ∈ s'.teams) ∧
      (∃ c' k', s'.ctx? ctx = some c' ∧ c'.kernel? kernel = some k' ∧
        k' = { k with next := min k.desc.teams (k.next + atOnce k.desc), last := k'.last }) ∧
      s'.mem = s.mem ∧ s'.reqs = s.reqs)

/-- DISTRIBUTOR_TAKE_KERNEL takes the oldest submitted kernel (R250, R255). CHILD_PLACE places a child after its elder siblings, once its parent's
accesses are released, with its record in the core scratch (R262). INSTANCE_PLACE places a fire or amend instance, whose core acquires (R366). -/
def Sys2Proof.Claims.OtherPlacement : Prop :=
  (∀ s ctx kernel c k, Runs s ctx c → c.kernels.find? (fun x => x.st == .submitted) = some k → k.id = kernel →
    exec (.distributorTakeKernel ctx kernel) s =
      .next (s.modCtx ctx fun y => { y with kernels := y.kernels.map fun x => if x.id = kernel then { x with st := .placing } else x })) ∧
  (∀ s ctx child c x k, Runs s ctx c → c.children.find? (fun y => y.id == child) = some x → c.kernel? x.kernel = some k →
    ((∃ y ∈ c.children, y.parent = x.parent ∧ y.handle = x.handle ∧ y.index < x.index) ∨ s.releaseDone x.parent .device x.upto = false →
      exec (.childPlace ctx child) s = .next s) ∧
    ∀ s', s.tryChild c x = some s' →
      exec (.childPlace ctx child) s = .next s' ∧
      (∃ u ∈ s'.teams, u.id = child ∧ u.depth = x.depth ∧ u.parent = some x.parent ∧
        PlacedAs u ctx k (.child x.handle) x.index x.entry
          [BitVec.ofNat 32 x.parentTid, x.status, BitVec.ofNat 32 x.depth, 0] x.p x.lanes x.scr ∧
        memRead u.scratch 0 x.record.length = x.record) ∧
      (∃ c', s'.ctx? ctx = some c' ∧ c'.children = c.children.filter fun y => y.id ≠ child) ∧ s'.mem = s.mem) ∧
  (∀ s ctx inst c x k, Runs s ctx c → c.inst? inst = some x → c.kernel? x.kernel = some k →
    (x.team ≠ none → exec (.instancePlace ctx inst) s = .next s) ∧
    ∀ s', s.tryInst c x = some s' →
      exec (.instancePlace ctx inst) s = .next s' ∧
      ∃ u ∈ s'.teams, PlacedAs u ctx k (if x.amend then .amend inst else .fire inst) 0 (if x.amend then k.desc.amend else k.desc.entry)
          k.desc.args k.desc.p k.desc.lanes k.desc.scr ∧
        (∃ c' y, s'.ctx? ctx = some c' ∧ c'.inst? inst = some y ∧ y = { x with team := some u.id }) ∧
        ∀ w ∈ s'.l1, w.core = u.core → w.owned = true)

/-- TEAM_EXITED takes a team with nothing outstanding out of its barriers and gives a child's quota back; KERNEL_DONE ends a drained kernel and its queue
entry; LOCALITY_WINDOW_END takes the hits of the oldest ended window of a core and moves its load-issue cap (R66, R213, R216, R250, R260, R262). -/
def Sys2Proof.Claims.TeamsAndKernelsEnd : Prop :=
  (∀ s team t c k, s.dev = .operational → s.team? team = some t → t.mask = 0 → t.st ≠ .exited → t.st ≠ .placed → t.st ≠ .preempted →
    (∀ r ∈ s.reqs, r.team ≠ team) → t.arvs = [] → s.ctx? t.ctx = some c → c.latches = [] → c.kernel? t.kernel = some k → k.st ≠ .failed →
    ∀ last : Bool, (last = true ↔ ∀ u ∈ s.teams, u.id ≠ team → u.ctx = t.ctx → u.cset = t.cset → u.st = .exited) →
    exec (.teamExited team) s = .next
      { (s.putTeam { t with st := .exited, handles := [], hold := none, finish := .none }).modCtx t.ctx fun y =>
          { y with circuits := without t last y.circuits
                   quota := y.quota + (match t.kind with | .child _ => 1 | _ => 0)
                   csets := y.csets.filter fun x => !(last && x.id == t.cset) } with
        order := s.order.filter fun i => i ≠ team }) ∧
  (∀ s ctx kernel c k, s.dev = .operational → s.ctx? ctx = some c → c.kernel? kernel = some k → k.st = .draining →
    (∀ t ∈ s.teams, t.ctx = ctx → t.kernel = kernel → (∀ r ∈ s.reqs, r.team ≠ t.id) ∧ ∀ d ∈ s.deadlines, d.team ≠ t.id) →
    exec (.kernelDone ctx kernel) s = .next (ended
      (s.modCtx ctx fun y =>
          { y with kernels := y.kernels.map fun x => if x.id = kernel then { x with st := .done } else x
                   circuits := y.circuits.filter fun x => match x.key with | .grid j _ => j ≠ kernel | _ => true
                   bindings := y.bindings.filter fun b => b.kernel ≠ kernel }) ctx k.entry 0)) ∧
  (∀ s ctx kernel c k, s.dev = .operational → s.ctx? ctx = some c → c.kernel? kernel = some k →
    (k.st ≠ .draining ∨ ∃ t ∈ s.teams, t.ctx = ctx ∧ t.kernel = kernel ∧ ∃ r ∈ s.reqs, r.team = t.id) →
    exec (.kernelDone ctx kernel) s = .next s) ∧
  (∀ s ctx core hits c, Runs s ctx c → (s.detector core).ended.head? ≠ some hits → exec (.localityWindowEnd ctx core hits) s = .next s) ∧
  ∀ s ctx core hits c, Runs s ctx c → (s.detector core).ended.head? = some hits → 32 * (ctx / 16) ≤ core →
    core < 32 * (ctx / 16 + fld (s.part.getD (ctx / 16) 0) 3 0) →
    exec (.localityWindowEnd ctx core hits) s =
      .next ((s.putDetector { s.detector core with ended := (s.detector core).ended.drop 1 }).modCtx ctx fun y =>
        { y with caps := (core, capAfter (s.capOf ctx core) (fld c.cfg 22 14) hits) :: y.caps.filter fun x => x.1 ≠ core })

/-! ## Queues and their entries -/

namespace Sys2Proof.Claims

/-- Queue q of a context after a change. -/
def onQueue (s : State) (ctx q : Nat) (f : Queue → Queue) : State :=
  s.modCtx ctx fun c => { c with queues := c.queues.map fun x => if x.q = q then f x else x }

/-- Entry n of a queue after a change. -/
def onEntry (s : State) (ctx q n : Nat) (f : QEntry → QEntry) : State :=
  onQueue s ctx q fun x => { x with entries := x.entries.map fun e => if e.n = n then f e else e }

/-- An access of n bytes by an engine lies in one page or goes on in the next: where it starts and where its bytes from cut on lie; both pages
are present and ok for the bytes in them (R143, R417). -/
abbrev EngineSpans (s : State) (ctx va n pa pb cut : Nat) (ok : Nat → Nat → Attr → Prop) : Prop :=
  va + n ≤ 2 ^ 55 ∧ ∃ a, s.engineSeg ctx va = .ok pa a ∧ ok pa cut a ∧
    if n ≤ 65536 - va % 65536 then cut = n ∧ pb = pa + n
    else cut = 65536 - va % 65536 ∧ ∃ b, s.engineSeg ctx (va + cut) = .ok pb b ∧ ok pb (n - cut) b

/-- What R416 lets the queue engine reach, and R193: a chisel table is in no address's reach, and an access to one has the fate of one to a page
that forbids it, which is the model's choice (notes/assumptions/84.md). -/
abbrev Plain (s : State) (p n : Nat) (a : Attr) : Prop :=
  a.rlf = false ∧ a.raw = false ∧ s.unreachable p = false ∧ s.tableAt p n = false

/-- No event of the engine's agent is open, and no answer to one is still to be used (R417). -/
abbrev Unheld (s : State) (w : EventOf) : Prop := (∀ p ∈ s.giveUp, p.1 ≠ w) ∧ ∀ e ∈ s.events, e.what ≠ w

/-- The queue engine reads these n bytes: both pages permit it, and no line of them is poisoned (R209, R416). -/
abbrev QueueReads (s : State) (ctx va n : Nat) (bs : List Byte) : Prop :=
  ∃ pa pb cut, EngineSpans s ctx va n pa pb cut (Plain s) ∧ bs = s.phys pa cut ++ s.phys pb (n - cut) ∧
    s.poisonIn pa cut = none ∧ (cut < n → s.poisonIn pb (n - cut) = none)

/-- n bytes of one page that are forbidden to the queue engine (R193, R416). -/
abbrev QueueForbidden (s : State) (ctx va n : Nat) (write : Bool) : Prop :=
  s.engineSeg ctx va = .bad ∨
  ∃ pa a, s.engineSeg ctx va = .ok pa a ∧ (¬Plain s pa n a ∨ (write = true ∧ a.w = false))

/-- Eight bytes that the queue engine may write, and no engine holds: where they lie. -/
abbrev QueueWrites (s : State) (ctx va pa : Nat) : Prop :=
  va % 8 = 0 ∧ va + 8 ≤ 2 ^ 55 ∧ (∃ a, s.engineSeg ctx va = .ok pa a ∧ Plain s pa 8 a ∧ a.w = true) ∧ InDram pa 8 ∧
  (s.stage ctx pa).isSome = true ∧ ∀ i < 8, s.heldAt (pa + i) = false

/-- A write of the byte at va is still on its way: a copy's, a link's or host's, a store's, an atomic's or a chisel's (R266). -/
abbrev OnItsWay (s : State) (ctx va : Nat) : Prop :=
  (∃ k ∈ s.copies, k.ctx = ctx ∧ k.chip = false ∧ k.ready = none ∧ k.complete = false ∧ k.dst ≤ va ∧ va < k.dst + k.n) ∨
  (∃ x ∈ s.inbound, x.ctx = ctx ∧ x.work ≠ .read ∧ x.va ≤ va ∧ va < x.va + x.n) ∨
  ∃ pa a, s.engineSeg ctx va = .ok pa a ∧ ∃ r ∈ s.reqs, (r.kind.isStore = true ∨ r.kind.isAtomic = true) ∧
    ∃ p, (p ∈ r.wholeSpans ∨ ∃ x ∈ r.lanes, r.laneOpen x = true ∧ p ∈ r.kind.laneSpans x) ∧ p.1 ≤ pa ∧ pa < p.1 + p.2

def word (e : QEntry) (i : Nat) : Word := e.words.getD i 0

def entryType (e : QEntry) : Nat := fld (word e 0) 15 8

/-- The 55-bit address in two words. -/
def addrAt (e : QEntry) (i : Nat) : Nat := (word e i).toNat + 2 ^ 32 * fld (word e (i + 1)) 22 0

/-- Reserved bits of R267. -/
abbrev EntryFields (e : QEntry) : Prop :=
  let high (i : Nat) : Prop := fld (word e i) 31 23 = 0
  let zero (i : Nat) : Prop := ∀ j, i ≤ j → j < e.words.length → word e j = 0
  fld (word e 0) 6 0 = 0 ∧ high 2 ∧
  match entryType e with
  | 1 => high 5 ∧ zero 6
  | 2 => high 5 ∧ high 7 ∧ (word e 8).toNat ≤ 0x4000000 ∧ zero 9
  | 3 => high 5 ∧ zero 8
  | 4 => high 5 ∧ zero 8
  | 5 => zero 4
  | 6 => high 5 ∧ zero 7
  | 7 => high 5 ∧ zero 6
  | _ => False

/-- The alignment that R268 asks of the address of a type. -/
def alignOf : Nat → Nat
  | 1 => 64
  | 3 => 8
  | 4 => 8
  | 6 => 65536
  | 7 => 65536
  | _ => 1

/-- The entry passes the checks of R267 and R268. -/
abbrev EntryOk (e : QEntry) : Prop :=
  fld (word e 0) 31 24 = 1 ∧ EntryFields e ∧ addrAt e 4 % alignOf (entryType e) = 0

/-- The status of an entry that does not. -/
abbrev EntryBad (e : QEntry) (v : Nat) : Prop :=
  (fld (word e 0) 31 24 ≠ 1 ∧ v = 3) ∨ (fld (word e 0) 31 24 = 1 ∧ ¬EntryFields e ∧ v = 4) ∨
  (fld (word e 0) 31 24 = 1 ∧ EntryFields e ∧ addrAt e 4 % alignOf (entryType e) ≠ 0 ∧ v = 7)

/-- Every earlier entry has started and none is a WAIT; all are gone where FENCE or the type asks for it (R267, R416). -/
abbrev Due (x : Queue) (e : QEntry) : Prop :=
  ∀ pre post, x.entries = pre ++ post → (∀ y ∈ pre, y.n ≠ e.n) → (∃ y rest, post = y :: rest ∧ y.n = e.n) →
    (∀ y ∈ pre, y.started = true ∧ ¬(EntryOk y ∧ entryType y = 4)) ∧
    (EntryOk e → (word e 0).getLsbD 7 = true ∨ (3 ≤ entryType e ∧ entryType e ≤ 5) → pre = [])

/-- Entry n of queue q is e. -/
abbrev EntryAt (s : State) (ctx q n : Nat) (c : Ctx) (x : Queue) (e : QEntry) : Prop :=
  Runs s ctx c ∧ c.queue? q = some x ∧ x.entry? n = some e

/-- The entry is of a type, and does its part now. -/
abbrev Acts (s : State) (ctx q n type : Nat) (c : Ctx) (x : Queue) (e : QEntry) : Prop :=
  EntryAt s ctx q n c x e ∧ EntryOk e ∧ entryType e = type ∧ e.status = none ∧ (e.started = true ∨ Due x e) ∧
  Unheld s (.entry ctx q n)

/-- Some port is Up and has agreed on a version of the save format (R308, R381). -/
abbrev SavePort (s : State) : Prop := ∃ p ∈ s.ports, p.st = .up ∧ p.ver.toNat % 256 ≠ 0

/-- The entry has started. -/
def begun (s : State) (ctx q n : Nat) : State := onEntry s ctx q n fun e => { e with started := true }

end Sys2Proof.Claims

/-- The registers of a host queue and a ring: a base is written while EN is 0, QCFG writes EN, ERR and the Saturated size, and with a reserved bit nothing, a
posted count that would overfill the queue or go backwards sets ERR (R264, R265), and any other is taken, with the bytes of the new entries that no write has
reached yet (R1, R266); a ring's configuration starts the ring anew or is Refused (R272). -/
def Sys2Proof.Claims.QueueRegisters : Prop :=
  (∀ s ctx c q v, s.dev = .operational → s.ctx? ctx = some c →
    (v.toNat % 64 = 0 → exec (.qbaseWrite ctx q false v) s = .next (onQueue s ctx q fun x =>
      if x.en then x else { x with qbase := BitVec.ofNat 64 (x.qbase.toNat / 2 ^ 32 * 2 ^ 32 + v.toNat) })) ∧
    exec (.qbaseWrite ctx q true v) s = .next (onQueue s ctx q fun x =>
      if x.en ∨ fld v 31 23 ≠ 0 then x else { x with qbase := BitVec.ofNat 64 (fld v 22 0 * 2 ^ 32 + x.qbase.toNat % 2 ^ 32) }) ∧
    exec (.qcfgWrite ctx q v) s = .next (onQueue s ctx q fun x =>
      if fld v 29 5 ≠ 0 then x else
      { x with en := v.getLsbD 31, err := x.err && !v.getLsbD 30,
               log2n := if x.en then x.log2n else if fld v 4 0 = 0 then 1 else min 16 (fld v 4 0) }) ∧
    exec (.qwpWrite ctx q v) s = .next (onQueue s ctx q fun x =>
      if 2 ^ x.log2n < (v - x.rp).toNat ∨ (v - x.rp).toNat < (x.wp - x.rp).toNat then { x with err := true }
      else { x with wp := v, unseen := x.unseen ++ s.unseenIn ctx x.qbase.toNat x.log2n x.wp v })) ∧
  (∀ s ctx base log2n wp v n i, (n, i) ∈ s.unseenIn ctx base log2n wp v ↔
    ∃ j < (v - wp).toNat, n = (wp + BitVec.ofNat 32 j).toNat ∧ i < 64 ∧ OnItsWay s ctx (base + 64 * (n % 2 ^ log2n) + i)) ∧
  ∀ s ctx c key v, s.dev = .operational → s.ctx? ctx = some c →
    (∀ n, key = .slice n → n < 64) →
    (∀ cl n, key = .cluster cl n → n < 64 ∧ 4 * (ctx / 16) ≤ cl ∧ cl < 4 * (ctx / 16 + fld (s.part.getD (ctx / 16) 0) 3 0)) →
    let bad := fld v 30 29 = 3 ∨ (fld v 30 29 = 1 ∧ ∃ n, key = .slice n) ∨ fld v 28 24 < 4 ∨ 16 < fld v 28 24 ∨ fld v 15 0 ≠ 0
    (bad → exec (.rcbCfgWrite ctx key v) s = .next (s.modCtx ctx fun y => { y with status := 4 })) ∧
    (¬bad → 1 ≤ fld v 23 16 → exec (.rcbCfgWrite ctx key v) s = .next (s.putRcb ctx
      { s.rcb ctx key with
        cfg := v, head := 0, tail := 0
        slots := List.replicate (fld v 23 16 + 1) { st := .empty, credit := 0, exp := 0, fail := false } }))

/-- QUEUE_ENTRY_FETCH reads the entry at RP, bytes that had not been visible as Undefined values (R1); a slot that the queue engine may not read is skipped
with ERR, and while the agent's event is open it waits (R265, R266, R416, R417). A page of a chisel table counts as one that it may not read or write: the model's
choice (notes/assumptions/84.md). ENTRY_COMPLETE writes status and tag
of an entry whose work has ended, or that fails its checks, in one store, and the entry is gone; a completion address of 0 writes nothing, a bad one sets ERR
(R267, R268, R269). -/
def Sys2Proof.Claims.QueueEntries : Prop :=
  (∀ s ctx c q x, Runs s ctx c → c.queue? q = some x → x.en = true → x.rp ≠ x.wp →
    let n := x.rp.toNat
    let va := x.qbase.toNat + 64 * (n % 2 ^ x.log2n)
    ((∃ e ∈ s.events, e.what = .entry ctx q n) → exec (.queueEntryFetch ctx q) s = .next s) ∧
    (Unheld s (.entry ctx q n) →
      (∀ bs, QueueReads s ctx va 64 bs → ∃ bs' : List Byte, bs'.length = 64 ∧
        (∀ i < 64, (n, i) ∉ x.unseen → bs'[i]? = bs[i]?) ∧ ∃ free, exec (.queueEntryFetch ctx q) s =
          .next { onQueue s ctx q fun y =>
            { y with rp := y.rp + 1, unseen := y.unseen.filter fun p => p.1 ≠ n
                     entries := y.entries ++ [{ n := n, words := bytesWords bs', started := false, status := none, work := none,
                                                desc := none, read := 0 }] } with freeCtr := free }) ∧
      (QueueForbidden s ctx va 64 false → va + 64 ≤ 2 ^ 55 → va % 65536 + 64 ≤ 65536 →
        exec (.queueEntryFetch ctx q) s =
          .next (onQueue s ctx q fun y => { y with rp := y.rp + 1, err := true, unseen := y.unseen.filter fun p => p.1 ≠ n })))) ∧
  (∀ s ctx c q x, Runs s ctx c → c.queue? q = some x → (x.en = false ∨ x.rp = x.wp) → exec (.queueEntryFetch ctx q) s = .next s) ∧
  ∀ s ctx c q n x e v, EntryAt s ctx q n c x e → Unheld s (.entry ctx q n) → e.n = n →
    e.status = some v ∨ (e.status = none ∧ EntryBad e v ∧ Due x e) →
    let gone (err : Bool) : State :=
      onQueue s ctx q fun y => { y with err := y.err || err, entries := y.entries.filter fun z => z.n ≠ n }
    (addrAt e 1 = 0 → exec (.entryComplete ctx q n) s = .next (gone false)) ∧
    (addrAt e 1 % 8 ≠ 0 → exec (.entryComplete ctx q n) s = .next (gone true)) ∧
    (addrAt e 1 ≠ 0 → addrAt e 1 % 8 = 0 → addrAt e 1 + 8 ≤ 2 ^ 55 → QueueForbidden s ctx (addrAt e 1) 8 true →
      exec (.entryComplete ctx q n) s = .next (gone true)) ∧
    (∀ pa, addrAt e 1 ≠ 0 → QueueWrites s ctx (addrAt e 1) pa → MemOk s →
      ∃ s', exec (.entryComplete ctx q n) s = .next s' ∧ OnlyBytes s s' pa 8 ∧
        le (memRead s'.mem pa 8) = v % 2 ^ 32 + 2 ^ 32 * (word e 3).toNat ∧ s'.ctxs = (gone false).ctxs ∧ s'.teams = s.teams)

namespace Sys2Proof.Claims

/-- The fields of a launch descriptor (R252). -/
def launched (ws : List Word) : Desc :=
  let w (i : Nat) : Word := ws.getD i 0
  { fmode := fld (w 0) 4 3, strm := (w 0).getLsbD 2, wide := (w 0).getLsbD 1, coop := (w 0).getLsbD 0,
    code := (w 1).toNat + 2 ^ 32 * fld (w 2) 22 0, entry := w 3, amend := w 4, teams := fld (w 5) 23 0, p := 8 * fld (w 6) 22 16,
    g := 16 * 2 ^ fld (w 6) 13 12, lanes := fld (w 6) 10 0, scr := fld (w 7) 21 0, clm := fld (w 8) 22 0, priv := fld (w 9) 16 0,
    cset := fld (w 10) 5 0, reord := fld (w 11) 12 8, nest := fld (w 11) 3 0, bgrid := fld (w 12) 18 16, bclu := fld (w 12) 11 8,
    bteam := fld (w 12) 4 0, bind := fld (w 13) 15 0, args := [w 16, w 17, w 18, w 19] }

/-- The bits that R252 does not list are 0. -/
abbrev LaunchReserved (ws : List Word) : Prop :=
  let z (i hi lo : Nat) : Prop := fld (ws.getD i 0) hi lo = 0
  z 0 15 5 ∧ z 2 31 23 ∧ z 5 31 24 ∧ z 6 31 23 ∧ z 6 15 14 ∧ z 6 11 11 ∧ z 7 31 22 ∧ z 8 31 23 ∧ z 9 31 17 ∧ z 10 31 6 ∧ z 11 31 13 ∧
  z 11 7 4 ∧ z 12 31 19 ∧ z 12 15 12 ∧ z 12 7 5 ∧ z 13 31 16 ∧ ws.getD 14 0 = 0 ∧ ws.getD 15 0 = 0 ∧
  ∀ i, 20 ≤ i → i < ws.length → ws.getD i 0 = 0

/-- The ranges of R252 and the combinations that R253 refuses. -/
abbrev LaunchFields (d : Desc) : Prop :=
  d.fmode ≤ 2 ∧ d.entry.toNat % 4 = 0 ∧ d.amend.toNat % 4 = 0 ∧ 1 ≤ d.teams ∧ 32 ≤ d.p ∧ d.p ≤ 512 ∧ d.g ≤ 64 ∧ d.g ≤ d.lanes ∧
  d.lanes ≤ 1024 ∧ d.lanes % d.g = 0 ∧ d.scr % 256 = 0 ∧ d.scr ≤ 2 ^ 21 ∧ d.clm % 2048 = 0 ∧ d.clm ≤ 2 ^ 22 ∧ d.priv % 16 = 0 ∧
  d.priv ≤ 2 ^ 16 ∧ d.cset ≤ 32 ∧ d.reord ≤ 16 ∧ d.nest ≤ 8 ∧ d.bgrid ≤ 4 ∧ d.bclu ≤ 8 ∧ d.bteam ≤ 16 ∧
  ¬(d.coop = true ∧ (d.bgrid = 0 ∨ d.strm = true)) ∧ ¬(0 < d.bgrid ∧ d.coop = false) ∧ ¬(0 < d.cset ∧ d.clm = 0) ∧
  ¬(d.amend ≠ 0 ∧ d.strm = false) ∧ ¬(d.strm = true ∧ d.teams ≠ 1)

/-- What a team takes fits an empty core, or an empty pair when it is paired (R70, R254). -/
abbrev TeamFits (d : Desc) : Prop :=
  let fits (lanes scr : Nat) : Prop :=
    kib16 (lanes * d.p * 4) + kib16 (lanes * d.priv) + kib16 scr + kib16 (d.clm / 8) ≤ 224 ∧ kib16 (lanes * d.p * 4) ≤ 256
  (d.wide = false → fits d.lanes d.scr) ∧
  (d.wide = true → fits (homeLanes d.lanes d.g) d.scr ∧ fits (d.lanes - homeLanes d.lanes d.g) 0)

/-- The first check that a launch descriptor fails (R253). -/
abbrev LaunchBad (s : State) (ctx : Nat) (ws : List Word) (k : Kernel) (v : Nat) : Prop :=
  (fld (ws.getD 0 0) 31 24 ≠ 1 ∧ v = 3) ∨
  (fld (ws.getD 0 0) 31 24 = 1 ∧ ¬(LaunchReserved ws ∧ LaunchFields (launched ws)) ∧ v = 4) ∨
  (fld (ws.getD 0 0) 31 24 = 1 ∧ LaunchReserved ws ∧ LaunchFields (launched ws) ∧
    (¬TeamFits (launched ws) ∨ ((launched ws).coop = true ∧ s.coopFits ctx k = false)) ∧ v = 5)

abbrev LaunchOk (s : State) (ctx : Nat) (ws : List Word) (k : Kernel) : Prop :=
  fld (ws.getD 0 0) 31 24 = 1 ∧ LaunchReserved ws ∧ LaunchFields (launched ws) ∧ TeamFits (launched ws) ∧
  ((launched ws).coop = true → s.coopFits ctx k = true)

/-- The entry has started and holds the words of its launch descriptor, which are read once (R250). -/
def readOnce (s : State) (ctx q n : Nat) (e : QEntry) (ws : List Word) : State :=
  match e.desc with
  | some _ => begun s ctx q n
  | none => onEntry (begun s ctx q n) ctx q n fun y => { y with desc := some ws }

end Sys2Proof.Claims

/-- ENTRY_LAUNCH reads the descriptor once; the first failing check ends the entry with its status, a descriptor page that is forbidden with "fault", and
otherwise a kernel in Submitted exists, with a binding where STRM asks for one (R250 to R254, R267, R358, R416). That a descriptor on a chisel table
is forbidden, and that the binding is checked and bound at the launch, are the model's choices (notes/assumptions/84.md,
notes/assumptions/46.md). -/
def Sys2Proof.Claims.Launches : Prop :=
  ∀ s ctx c q n x e, Acts s ctx q n 1 c x e → e.work = none →
    (∀ ws, e.desc = some ws ∨ (e.desc = none ∧ ∃ bs, QueueReads s ctx (addrAt e 4) 128 bs ∧ ws = bytesWords bs) →
      let s1 := readOnce s ctx q n e ws
      let k : Kernel := { id := s.nextId, st := .submitted, desc := launched ws, entry := some (q, n), next := 0, last := none }
      (∀ v, LaunchBad s1 ctx ws k v → exec (.entryLaunch ctx q n) s = .next (ended s1 ctx (some (q, n)) v)) ∧
      (LaunchOk s1 ctx ws k → (launched ws).strm = false →
        exec (.entryLaunch ctx q n) s = .next (onEntry
          ({ s1 with nextId := s.nextId + 1 }.modCtx ctx fun y => { y with kernels := y.kernels ++ [k] }) ctx q n
          fun y => { y with work := some s.nextId })) ∧
      (LaunchOk s1 ctx ws k → (launched ws).strm = true → ∀ c1, s1.ctx? ctx = some c1 →
        ∀ s2, (∀ b, { s1 with nextId := s.nextId + 1 }.checkBinding c1 k.id k.desc.bind [] = (s2, .ok b) →
          exec (.entryLaunch ctx q n) s = .next (onEntry
            (s2.modCtx ctx fun y => { y with kernels := y.kernels ++ [k], bindings := y.bindings ++ [b] }) ctx q n
            fun y => { y with work := some s.nextId })) ∧
          (∀ v, { s1 with nextId := s.nextId + 1 }.checkBinding c1 k.id k.desc.bind [] = (s2, .refused v) →
            s2.giveUp = s.giveUp → exec (.entryLaunch ctx q n) s = .next (ended s2 ctx (some (q, n)) v)))) ∧
    (e.desc = none → QueueForbidden s ctx (addrAt e 4) 128 false → addrAt e 4 + 128 ≤ 2 ^ 55 → addrAt e 4 % 65536 + 128 ≤ 65536 →
      exec (.entryLaunch ctx q n) s = .next (ended (begun s ctx q n) ctx (some (q, n)) 6))

/-- ENTRY_COPY starts one command on a channel of the context, or ends the entry; ENTRY_SIGNAL stores its value; ENTRY_WAIT ends once the word it reads is at
least its value, and is read again after 10 us; ENTRY_MAQUETTE starts a capture, and ends with 1 while no port that is Up has agreed on the save format
(the model's choice, notes/assumptions/113.md); ENTRY_TLBINV drops the translations of its range, notes which writes its walks cannot have seen yet, and
ends once the accesses of before are over; ENTRY_RSEAL starts the seal of an Open surface (R144, R173, R267, R295, R296, R298, R308, R335, R416). -/
def Sys2Proof.Claims.EntryWork : Prop :=
  (∀ s ctx c q n x e, Acts s ctx q n 2 c x e → e.work = none →
    let s1 := begun s ctx q n
    let len := (word e 8).toNat
    let owns := ∃ w ∈ s.ceOwn, w.getLsbD 31 = true ∧ fld w 7 0 = ctx
    (¬owns → exec (.entryCopy ctx q n) s = .next (ended s1 ctx (some (q, n)) 1)) ∧
    (owns → addrAt e 4 + len ≤ 2 ^ 55 → addrAt e 6 + len ≤ 2 ^ 55 →
      (len = 0 → exec (.entryCopy ctx q n) s = .next (ended s1 ctx (some (q, n)) 0)) ∧
      (len ≠ 0 → exec (.entryCopy ctx q n) s = .next (onEntry
        { s1 with
          nextId := s.nextId + 1
          copies := s.copies ++ [{ id := s.nextId, ctx := ctx, team := none, entry := some (q, n), src := addrAt e 4, dst := addrAt e 6,
                                   chip := false, n := len, credit := none, failed := false, complete := false, ready := none,
                                   spoil := [], wrote := [], via := [] }] } ctx q n fun y => { y with work := some s.nextId })))) ∧
  (∀ s ctx c q n x e, Acts s ctx q n 3 c x e →
    (∀ pa, QueueWrites s ctx (addrAt e 4) pa → MemOk s →
      ∃ s', exec (.entrySignal ctx q n) s = .next s' ∧ OnlyBytes s s' pa 8 ∧
        le (memRead s'.mem pa 8) = (word e 6).toNat + 2 ^ 32 * (word e 7).toNat ∧
        s'.ctxs = (ended (begun s ctx q n) ctx (some (q, n)) 0).ctxs ∧ s'.teams = s.teams) ∧
    (QueueForbidden s ctx (addrAt e 4) 8 true → addrAt e 4 + 8 ≤ 2 ^ 55 →
      exec (.entrySignal ctx q n) s = .next (ended (begun s ctx q n) ctx (some (q, n)) 6))) ∧
  (∀ s ctx c q n x e bs, Acts s ctx q n 4 c x e → QueueReads s ctx (addrAt e 4) 8 bs →
    let r : Host.Outcome State Fault Refusal :=
      .next (if (word e 6).toNat + 2 ^ 32 * (word e 7).toNat ≤ le bs then ended (begun s ctx q n) ctx (some (q, n)) 0
             else onEntry (begun s ctx q n) ctx q n fun y => { y with read := s.clock - s.released })
    exec (.entryWait ctx q n) s = r ∧
    (e.started = true → e.read + 10000 ≤ s.clock - s.released → exec (.waitRereadTimer ctx q n) s = r) ∧
    (e.started = true → s.clock - s.released < e.read + 10000 → exec (.waitRereadTimer ctx q n) s = .next s)) ∧
  (∀ s ctx c q n x e, Acts s ctx q n 5 c x e → e.work = none → (∀ m ∈ s.maqs, m.ctx = ctx → m.streaming = false) →
    (¬SavePort s → exec (.entryMaquette ctx q n) s = .next (ended (begun s ctx q n) ctx (some (q, n)) 1)) ∧
    (SavePort s → exec (.entryMaquette ctx q n) s = .next
      (((onEntry (begun s ctx q n) ctx q n fun y => { y with work := some 0 }).modCtx ctx fun y =>
        { y with st := .switchingOut, capture := true }).stopTeams ctx))) ∧
  (∀ s ctx c q n x e, Acts s ctx q n 6 c x e →
    let pages := (word e 6).toNat
    let lo := if pages = 0 then 0 else addrAt e 4
    let hi := if pages = 0 then 2 ^ 55 else addrAt e 4 + 65536 * pages
    (e.work = none → ∃ s', exec (.entryTlbinv ctx q n) s = .next s' ∧
      (∀ y ∈ s'.tlb, y ∈ s.tlb ∧ (y.ctx = ctx →
        let sz := if y.large then 2 ^ 29 else 65536
        y.page * sz + sz ≤ lo ∨ hi ≤ y.page * sz)) ∧
      (∀ y ∈ s.tlb, y.ctx ≠ ctx → y ∈ s'.tlb) ∧
      (∀ r ∈ s.reqs, r.kind.isStore = true ∨ r.kind.isAtomic = true →
        ∀ p, (p ∈ r.wholeSpans ∨ ∃ x ∈ r.lanes, r.laneOpen x = true ∧ p ∈ r.kind.laneSpans x) →
        ∃ z ∈ s'.unseenPte, z.root = s.rootOf ctx ∧ z.lo = lo ∧ z.hi = hi ∧ z.pa = p.1 ∧ z.n = p.2) ∧
      (∀ t, t ∈ s'.teams ∨ (∃ m ∈ s'.maqs, t ∈ m.teams) → t.ctx = ctx → ∀ r ∈ t.xl, r.limit.toNat = 0 ∨ r.vbase.toNat + r.limit.toNat ≤ lo ∨ hi ≤ r.vbase.toNat) ∧
      s'.ctxs = (onEntry (begun s ctx q n) ctx q n fun y => { y with work := some s.nextId }).ctxs ∧ s'.mem = s.mem) ∧
    (∀ id, e.work = some id →
      (s.rangeBusy ctx lo hi id = false → exec (.entryTlbinv ctx q n) s = .next (ended (begun s ctx q n) ctx (some (q, n)) 0)) ∧
      (s.rangeBusy ctx lo hi id = true → exec (.entryTlbinv ctx q n) s = .next (begun s ctx q n)))) ∧
  ∀ s ctx c q n x e, Acts s ctx q n 7 c x e → e.work = none →
    (s.engineSeg ctx (addrAt e 4) = .bad ∨
      (∃ pa a, s.engineSeg ctx (addrAt e 4) = .ok pa a ∧ (a.rlf = false ∨ isRemote pa = true)) →
      exec (.entryRseal ctx q n) s = .next (ended (begun s ctx q n) ctx (some (q, n)) 6)) ∧
    (∀ pa a f, s.engineSeg ctx (addrAt e 4) = .ok pa a → a.rlf = true → isRemote pa = false → s.surface? pa = some f →
      (begun s ctx q n).holdSurf ctx pa [] = (begun s ctx q n, .held) →
      (f.st = .sealed ∨ f.st = .retired ∨ f.st = .sealing → exec (.entryRseal ctx q n) s = .next (ended (begun s ctx q n) ctx (some (q, n)) 0)) ∧
      (f.st = .open_ → MemOk s → f.ctx = ctx → (∀ m ∈ s.maqs, m.ctx = ctx → m.streaming = false) → ∃ s' f', exec (.entryRseal ctx q n) s = .next s' ∧ s'.surface? pa = some f' ∧
        f'.st = .sealing ∧ fld (memWord f'.coded 0) 15 14 = 1 ∧ OnlyBytes s s' pa 4 ∧
        s'.ctxs = (onEntry (begun s ctx q n) ctx q n fun y => { y with work := some pa }).ctxs))

/-! ## The copy engine, pools and intercepts -/

namespace Sys2Proof.Claims

/-- A byte at its home. -/
def byteAt (s : State) (pa : Nat) : Byte := (s.phys pa 1).headD 0

/-- The command is on its channel (R173, R270). -/
abbrev Copying (s : State) (id : Nat) (k : Copyc) : Prop :=
  s.dev = .operational ∧ s.copy? id = some k ∧ k.complete = false ∧ k.failed = false ∧ 1 ≤ k.n ∧ k.n ≤ 2 ^ 26 ∧
  ∃ c, s.ctx? k.ctx = some c ∧ (k.entry = none ∨ c.st = .running ∨ c.st = .switchingOut)

/-- Every byte of the source may be read plainly, and lies at src o. -/
abbrev SourceAt (s : State) (k : Copyc) (src : Nat → Nat) : Prop :=
  k.src + k.n ≤ 2 ^ 55 ∧ ∀ o < k.n, (∃ a, s.engineSeg k.ctx (k.src + o) = .ok (src o) a ∧ a.raw = false ∧ a.rlf = false) ∧
    s.unreachable (src o) = false ∧ s.tableAt (src o) 1 = false ∧ src o / 64 ∉ s.poisoned

/-- Every byte of the destination may be written, is held by no engine, and lies at dst o in DRAM. -/
abbrev DestAt (s : State) (k : Copyc) (dst : Nat → Nat) : Prop :=
  k.chip = false ∧ k.dst + k.n ≤ 2 ^ 55 ∧
  ∀ o < k.n, (∃ a, s.engineSeg k.ctx (k.dst + o) = .ok (dst o) a ∧ a.w = true ∧ a.raw = false ∧ a.rlf = false) ∧ dst o < dramEnd ∧
    s.tableAt (dst o) 1 = false ∧ s.heldAt (dst o) = false

/-- A page of byte o forbids the command (R174, R193), a skip has given it up (R417), or it would bring a coded page to a foreign agent (R294). -/
abbrev CopyForbidden (s : State) (k : Copyc) (o : Nat) : Prop :=
  let out (pa : Nat) : Prop := s.unreachable pa = true ∨ s.tableAt pa 1 = true
  (.copy k.id, (k.src + o) / 65536) ∈ s.giveUp ∨ (k.chip = false ∧ (.copy k.id, (k.dst + o) / 65536) ∈ s.giveUp) ∨
  s.engineSeg k.ctx (k.src + o) = .bad ∨ (∃ pa a, s.engineSeg k.ctx (k.src + o) = .ok pa a ∧ out pa) ∨
  (k.chip = false ∧ (s.engineSeg k.ctx (k.dst + o) = .bad ∨
    ∃ pa a, s.engineSeg k.ctx (k.dst + o) = .ok pa a ∧
      (a.w = false ∨ a.raw = true ∨ out pa ∨
       (s.foreignAt pa = true ∧ ∃ pb b, s.engineSeg k.ctx (k.src + o) = .ok pb b ∧ b.rlf = true ∧ b.raw = false))))

/-- The bytes of a command count toward its ring, in a slot that awaits them (R273, R174). -/
def creditTo (r : Rcb) (sl n : Nat) (failed : Bool) (x : Slot) : Rcb :=
  let v := x.credit + n
  match x.st with
  | .acquired =>
    let y := { x with credit := min v 0xFFFFFF, fail := x.fail || failed }
    if 0xFFFFFF < v then { slotTo r sl y with ovf := min 255 (r.ovf + 1) } else slotTo r sl y
  | .pendingBytes =>
    let m := min x.exp 0xFFFFFF
    let y : Slot := { x with credit := min v m, fail := x.fail || failed, st := if min v m = x.exp then .full else x.st }
    if m < v then { slotTo r sl y with ovf := min 255 (r.ovf + 1) } else slotTo r sl y
  | _ => { r with ovf := min 255 (r.ovf + 1) }

end Sys2Proof.Claims

/-- A copy command writes every byte of its source to its destination, and nothing else; once the last write completion delay and 10 ns have passed, it is
complete, credits its ring and ends its entry (R151, R161, R173, R273). -/
def Sys2Proof.Claims.CopyEngine : Prop :=
  (∀ s id k src dst, Copying s id k → k.ready = none → k.spoil = [] → SourceAt s k src → DestAt s k dst → MemOk s → Unheld s (.copy id) →
    (∀ m ∈ s.maqs, m.streaming = false) → (∀ i < k.n, ∀ j < k.n, dst i ≠ src j) → (∀ i < k.n, ∀ j < k.n, dst i = dst j → i = j) →
    ∃ s' k' d, exec (.copyCommandComplete id) s = .next s' ∧
      (∀ o < k.n, memGet s'.mem (dst o) = byteAt s (src o)) ∧
      (∀ a, (∀ o < k.n, dst o ≠ a) → memGet s'.mem a = memGet s.mem a) ∧ s'.fabric = s.fabric ∧ MemOk s' ∧
      s'.copy? id = some k' ∧ k' = { k with ready := some (s.clock - s.released + d), wrote := k'.wrote, via := k'.via } ∧
      (∀ o < k.n, (s.bankWord (dst o / 8)).expiry ≤ s.clock - s.released + d) ∧
      (d = 0 ∨ ∃ o < k.n, (s.bankWord (dst o / 8)).expiry = s.clock - s.released + d) ∧
      (∀ c ∈ s'.l1, c.owned = true → ∀ o < k.n, (s.bankWord c.word).owner = some c.core → c.word ≠ dst o / 8) ∧
      s'.teams = s.teams ∧ s'.ctxs = s.ctxs) ∧
  (∀ s id k t, Copying s id k → k.ready = some t → k.spoil = [] → Unheld s (.copy id) →
    (s.clock - s.released < t + 10 → exec (.copyCommandComplete id) s = .next s) ∧
    (t + 10 ≤ s.clock - s.released →
      let s1 : State := { s with copies := s.copies.map fun x => if x.id = k.id then { k with complete := true, spoil := [] } else x }
      (k.credit = none → exec (.copyCommandComplete id) s = .next (ended s1 k.ctx k.entry 0)) ∧
      (∀ key sl x, k.credit = some (key, sl) → sl < slotCount (s.rcb k.ctx key) → SlotIs (s.rcb k.ctx key) sl x →
        exec (.copyCommandComplete id) s =
          .next (ended (s1.putRcb k.ctx (creditTo (s.rcb k.ctx key) sl k.n false x)) k.ctx k.entry 0))))

/-- A forbidden page stops a copy command: what it has written of its destination stays, nothing else changes, its batch is failed, it credits its ring with FAIL and
its entry ends with "fault" (R174, R267). A page that holds a chisel table is forbidden to it, which is the model's choice (notes/assumptions/84.md). On an absent page it waits under the event that the page's fault raises (R174, R417). -/
def Sys2Proof.Claims.CopyFailure : Prop :=
  (∀ s id k, Copying s id k → k.ready = none → k.src + k.n ≤ 2 ^ 55 → k.dst + k.n ≤ 2 ^ 55 → (∃ o < k.n, CopyForbidden s k o) → MemOk s →
    (∀ e ∈ s.events, e.what ≠ .copy id) →
    (∀ o < k.n, ∀ pa a, s.engineSeg k.ctx (k.src + o) = .ok pa a → s.viewFrame k.ctx (k.src + o) pa a = none) →
    ∃ s' k', exec (.copyCommandFail id) s = .next s' ∧ s'.copy? id = some k' ∧ k'.failed = true ∧
      (∀ a, (k.chip = true ∨ ∀ o < k.n, ∀ b, s.engineSeg k.ctx (k.dst + o) ≠ .ok a b) → memGet s'.mem a = memGet s.mem a) ∧ MemOk s' ∧
      (∀ q n x e, k.entry = some (q, n) → (s.ctx? k.ctx).bind (fun c => c.queue? q) = some x → x.entry? n = some e → e.status = none →
        ∃ y f, (s'.ctx? k.ctx).bind (fun c => c.queue? q) = some y ∧ y.entry? n = some f ∧ f.status = some 6) ∧
      (∀ key sl x, k.credit = some (key, sl) → sl < slotCount (s.rcb k.ctx key) → SlotIs (s.rcb k.ctx key) sl x →
        s'.rcb k.ctx key = creditTo (s.rcb k.ctx key) sl k.n true x) ∧ s'.teams = s.teams) ∧
  (∀ s id k, Copying s id k → k.ready = none → s.engineSeg k.ctx k.src = .fault .park → s.walkPoison (s.rootOf k.ctx) k.src = none →
    (∀ p ∈ s.giveUp, p.1 ≠ .copy id) →
    ((∃ e ∈ s.events, e.what = .copy id) → exec (.enginePageFault id) s = .next s) ∧
    ((∀ e ∈ s.events, e.what ≠ .copy id) → ∃ s' e h, exec (.enginePageFault id) s = .next s' ∧ s'.events = e :: s.events ∧
      e.what = .copy id ∧ e.kind = 5 ∧ e.va = k.src ∧ e.access = 0 ∧ (∀ x ∈ s.events, x.num ≠ e.num) ∧
      s'.teams = s.teams ++ [h] ∧ h.kind = .handler e.num ∧ h.k.getD 2 0 = 0xFFFFFFFF#32 ∧ s'.copies = s.copies))

/-- The registers of a free-page pool (R290), of the partitions (R297) and of the channel owners (R298), and the completion of a write intercept (R293). -/
def Obligations.PoolsPartitions : Prop :=
  (∀ s v, s.dev = .operational →
    (∀ i < 12, let p := s.pools.getD i Pool.reset
      let put (x : Pool) : Host.Outcome State Fault Refusal := .next { s with pools := s.pools.set i x }
      (fld v 30 26 ≠ 0 → exec (.poolCfgWrite i v) s = .next s) ∧
      (fld v 30 26 = 0 → exec (.poolCfgWrite i v) s = put { p with
        cfg := (v &&& 0x83FFFFE0#32) ||| BitVec.ofNat 32 (if fld v 4 0 < 4 then 4 else if 20 < fld v 4 0 then 20 else fld v 4 0) }) ∧
      (2 ^ fld p.cfg 4 0 < (v - p.head).toNat ∨ (v - p.head).toNat < (p.tail - p.head).toNat →
        exec (.poolTailWrite i v) s = .next s) ∧
      ((v - p.head).toNat ≤ 2 ^ fld p.cfg 4 0 → (p.tail - p.head).toNat ≤ (v - p.head).toNat →
        exec (.poolTailWrite i v) s = put { p with tail := v }) ∧
      (v.getLsbD 31 = true → fld v 30 16 = 0 → exec (.poolStatWrite i v) s = put { p with lowf := false, bad := 0, fallbk := 0 }) ∧
      (v.getLsbD 31 = false ∨ fld v 30 16 ≠ 0 → exec (.poolStatWrite i v) s = .next s)) ∧
    (∀ i < 48, (fld v 30 8 = 0 → exec (.ceOwnWrite i v) s = .next { s with ceOwn := s.ceOwn.set i v }) ∧
      (fld v 30 8 ≠ 0 → exec (.ceOwnWrite i v) s = .next s)) ∧
    ∀ i < 12,
      let within (f j : Nat) (w : Word) : Prop := w.getLsbD 31 = true ∧ f ≤ j ∧ j < f + fld w 3 0
      let ok : Prop := fld v 30 4 = 0 ∧ (v.getLsbD 31 = true → (fld v 3 0 ∈ [1, 2, 3, 4, 6, 12] ∧ i % fld v 3 0 = 0 ∧ i + fld v 3 0 ≤ 12)) ∧
        (∀ f < 12, f ≠ i → ∀ j, ¬(within f j (s.part.getD f 0) ∧ within i j v)) ∧ ∀ c ∈ s.ctxs, c.num / 16 ≠ i
      (ok → exec (.partCfgWrite i v) s = .next { s with part := s.part.set i v }) ∧
      (¬ok → exec (.partCfgWrite i v) s = .next s)) ∧
  ∀ s num e t, s.dev = .operational → s.intercepts.find? (fun x => x.num == num) = some e → s.team? e.team = some t →
    t.st = .parked (.intercept num) →
    let s1 : State := { s with intercepts := s.intercepts.filter fun x => x.num ≠ num }
    exec (.writeInterceptComplete num false) s = .next ((s1.putTeam { t with st := .ready }).youngest t.id) ∧
    (t.mask &&& ~~~e.f ≠ 0 → t.stack.length < 1024 → exec (.writeInterceptComplete num true) s = .next ((s1.putTeam
      { t with stack := { kind := .skip, mask := t.mask, pc := t.pc + 4, fmt := t.fmt } :: t.stack, mask := t.mask &&& ~~~e.f,
               st := .ready }).youngest t.id))

/-! ## Contexts -/

namespace Sys2Proof.Claims

/-- A team of a context's kernels: no firmware code, as handlers and the service cores run (R26, R306). -/
abbrev Plainly (ctx : Nat) (t : Team) : Prop := t.ctx = ctx ∧ (∀ n, t.kind ≠ .handler n) ∧ t.kind ≠ .firmware

/-- The teams that a pre-emption stops at once: firmware runs on, and an instruction that holds its team completes first; a CHINST that still waits to be
issued holds none (R302 step 1, R306). -/
abbrev Stops (ctx : Nat) (t : Team) : Prop :=
  Plainly ctx t ∧ (t.hold = none ∨ ∃ n, t.hold = some (.install n)) ∧ t.st ≠ .exited ∧ t.st ≠ .preempted

/-- The kinds that the table of R302 marks as packets. -/
def packet : ReqKind → Bool
  | .ldg .. => true
  | .ldl .. => true
  | .lda .. => true
  | .relief op _ _ => op == 0 || op == 4
  | .isec .. => true
  | .trace => true
  | .strm op _ => op == 1 || op == 6
  | _ => false

/-- The request is already a replay packet: its team is parked by a page fault, which has made the requests of its empty registers packets (R78). -/
abbrev Parked (s : State) (t : Team) (r : Req) : Prop :=
  r.team = t.id ∧ packet r.kind = true ∧ r.dests ≠ [] ∧ ∃ n, t.st = .parked (.event n) ∧ ∃ e ∈ s.events, e.num = n ∧ e.kind = 2

/-- A request across a pre-emption: a packet of a parked team takes the new generation, and so does one that has lost its page
(notes/assumptions/44.md); any other stays as it is. -/
abbrev Carried (s : State) (ctx : Nat) (r r' : Req) : Prop :=
  let new (t : Team) : Prop := Stops ctx t ∧ (Parked s t r ∨ (r.team = t.id ∧ ∃ x ∈ r.lanes, x.lost = true))
  (∀ t ∈ s.teams, new t → r' = { r with gen := t.gen + 1 }) ∧ ((∀ t ∈ s.teams, ¬new t) → r' = r)

/-- Steps 1 to 3 of R302: what becomes of the teams and the requests of a context. -/
abbrev Preempts (s s' : State) (ctx : Nat) : Prop :=
  (∀ t ∈ s.teams, ¬Stops ctx t → t ∈ s'.teams) ∧
  (∀ t ∈ s.teams, Stops ctx t → { t.drain with st := .preempted, prev := t.st, gen := t.gen + 1, hold := none } ∈ s'.teams) ∧
  List.Forall₂ (Carried s ctx) s.reqs s'.reqs ∧ s'.mem = s.mem ∧ s'.copies = s.copies ∧ s'.order = s.order

/-- The context is in use (R301). -/
abbrev InUse (c : Ctx) : Prop := c.st = .loaded ∨ c.st = .running ∨ c.st = .switchingOut

/-- The agent of an event works for the context. -/
def forCtx (s : State) (ctx : Nat) : EventOf → Bool
  | .team i => decide (∃ t ∈ s.teams, t.id = i ∧ t.ctx = ctx)
  | .copy i => decide (∃ k ∈ s.copies, k.id = i ∧ k.ctx = ctx)
  | .entry c _ _ => decide (c = ctx)
  | .seal f => decide (∃ x ∈ s.surfaces, x.frame = f ∧ x.ctx = ctx)
  | .armature c _ _ => decide (c = ctx)
  | .foreign i => decide (∃ x ∈ s.inbound, x.id = i ∧ x.ctx = ctx)
  | .relief i => decide ((∃ r ∈ s.reqs, r.id = i ∧ r.ctx = ctx) ∨ ∃ t ∈ s.teams, t.id = i ∧ t.ctx = ctx)
  | .packet i => decide (∃ r ∈ s.reqs, r.id = i ∧ r.ctx = ctx)

/-- Nothing of a context is left but its record (R300, R311); a request of a link that waited for one of its pages completes with "not present",
one of the host with Completer Abort (R384, R394). -/
def emptied (s : State) (ctx : Nat) : State :=
  { s with
    outbox := (s.inbound.filter fun x => x.ctx = ctx).foldl (fun os x => .status x.id (if x.refusal = 4 then 4 else 2) x.full :: os) s.outbox
    giveUp := s.giveUp.filter fun p => forCtx s ctx p.1 = false
    teams := s.teams.filter fun t => t.ctx ≠ ctx
    order := s.order.filter fun i => s.teams.any fun t => t.id = i ∧ t.ctx ≠ ctx
    reqs := s.reqs.filter fun r => r.ctx ≠ ctx
    deadlines := s.deadlines.filter fun d => d.ctx ≠ ctx
    copies := s.copies.filter fun k => k.ctx ≠ ctx
    events := s.events.filter fun e => e.ctx ≠ ctx
    intercepts := s.intercepts.filter fun e => e.ctx ≠ ctx
    surfaces := s.surfaces.filter fun f => f.ctx ≠ ctx
    inbound := s.inbound.filter fun r => r.ctx ≠ ctx }

/-- No other context of the partition is loaded (R299). -/
abbrev PartFree (s : State) (ctx : Nat) : Prop :=
  ∀ x ∈ s.ctxs, x.num ≠ ctx → x.num / 16 = ctx / 16 → ¬InUse x

/-- The scheduler may select the context (R300). -/
abbrev Eligible (c : Ctx) : Prop := (c.st = .created ∧ c.started = true) ∨ c.st = .saved

/-- The place of a number in the turn that goes on behind the last one loaded. -/
def turnOf (last : Option Nat) (n : Nat) : Nat :=
  match last with
  | none => n
  | some l => if l < n then n else n + 192

/-- The eligible contexts of a partition take turns in ascending order, and it is this one's (R300). -/
abbrev InTurn (s : State) (ctx : Nat) (c : Ctx) : Prop :=
  let last := (s.lastCtx.find? fun x => x.1 = ctx / 16).map (·.2)
  Eligible c ∧ ∀ m y, s.ctx? m = some y → m / 16 = ctx / 16 → Eligible y → turnOf last ctx ≤ turnOf last m

/-- The context is Loaded, and was the last of its partition to be so. -/
def loadedAs (s : State) (ctx : Nat) (f : Ctx → Ctx) : State :=
  { s with lastCtx := (ctx / 16, ctx) :: s.lastCtx.filter fun x => x.1 ≠ ctx / 16 }.modCtx ctx fun y => { f y with st := .loaded }

/-- The size of a context's partition (R297, R299). -/
def partSize (s : State) (ctx : Nat) : Nat := fld (s.part.getD (ctx / 16) 0) 3 0

/-- Header word i of a chisel table in DRAM, and the reserved words of its entries (R193, R195). -/
abbrev ChiselsOk (s : State) (cht : Nat) : Prop :=
  ∀ i < 128, fld (memWord s.mem (cht + 128 * i)) 31 24 = 1 ∧ ∀ j, 17 ≤ j → j ≤ 31 → memWord s.mem (cht + 128 * i + 4 * j) = 0

/-- What the save waits for (R302 steps 4 and 5, R179, R248, R270): no MAQUETTE, TLBINV or RSEAL entry has started, but for the MAQUETTE that asked
for the capture, and no TLBINV or RSEAL entry may start; one that others before it keep from starting stays fetched, which is the model's reading
(notes/assumptions/87.md). -/
abbrev SaveReady (s : State) (c : Ctx) : Prop :=
  let mine (id : Nat) : Prop := ∃ t, s.team? id = some t ∧ Plainly c.num t
  (∀ t ∈ s.teams, Plainly c.num t → t.hold = none ∧ t.arvs = [] ∧ (t.st = .preempted ∨ t.st = .exited)) ∧
  (∀ r ∈ s.reqs, mine r.team → packet r.kind = true ∧ s.current r = true) ∧ (∀ d ∈ s.deadlines, ¬mine d.team) ∧
  (∀ l ∈ c.latches, l.computing = none) ∧
  ∀ x ∈ c.queues, ∀ e ∈ x.entries, EntryOk e → 5 ≤ entryType e →
    (e.started = false ∧ (entryType e = 5 ∨ ¬Due x e)) ∨ (entryType e = 5 ∧ c.capture = true)

/-- The directory of a save area from section kind k on, with the sections at off (R304). -/
def directory : Nat → Nat → List (List Byte) → List Word
  | _, _, [] => []
  | k, off, b :: rest => [BitVec.ofNat 32 k, BitVec.ofNat 32 off, BitVec.ofNat 32 b.length, 0] ++ directory (k + 1) (off + b.length) rest

/-- A save area with the ten sections: the header word, a directory of 16 entries of 16 bytes, and the sections (R304; where they lie and what they hold is
the model's choice, notes/assumptions/31.md). -/
def saveArea (secs : List (List Byte)) : List Byte :=
  (0x01000000#32 :: directory 1 260 secs ++ List.replicate 24 0).flatMap wordBytes ++ secs.flatten

/-- The save area of a context: ten sections, whose bytes the manual does not give (notes/assumptions/31.md). -/
def areaOf (s : State) (ctx : Nat) : List Byte := saveArea ((List.range 10).map fun i => Config.saveSection (i + 1) ctx s)

/-- What of it fits the DRAM from CTX.SAVE on. -/
def areaAt (s : State) (c : Ctx) : List Byte :=
  if c.save.toNat < dramEnd then (areaOf s c.num).take (dramEnd - c.save.toNat) else []

/-- The save area is in memory from CTX.SAVE on, and no other byte is written. -/
abbrev AreaWritten (s s' : State) (c : Ctx) (bs : List Byte) : Prop :=
  OnlyBytes s s' c.save.toNat bs.length ∧ memRead s'.mem c.save.toNat bs.length = bs

/-- The area still holds what the save wrote. -/
abbrev AreaKept (s : State) (c : Ctx) : Prop := s.phys c.save.toNat c.savedImage.length = c.savedImage

/-- A queue in a saved context: its entries stay fetched (R270), and a WAIT is read again. -/
def keptQueue (x : Queue) : Queue := { x with entries := x.entries.map fun e => { e with read := 0 } }

/-- What a capture keeps of a queue: every entry but a MAQUETTE that has started, which is never saved (R270). -/
abbrev Captured (x y : Queue) : Prop :=
  y = { x with entries := y.entries } ∧ y.entries.Sublist x.entries ∧
  ∀ e, e ∈ y.entries ↔ e ∈ x.entries ∧ ¬(EntryOk e ∧ 5 ≤ entryType e ∧ e.started = true)

/-- The MAQUETTE entry that has asked for the capture of the context. -/
abbrev Asked (c : Ctx) (q n : Nat) : Prop :=
  let asks (q n : Nat) : Prop := ∃ x ∈ c.queues, x.q = q ∧ ∃ e ∈ x.entries, e.n = n ∧ EntryOk e ∧ entryType e = 5 ∧ e.work ≠ none ∧ e.status = none
  asks q n ∧ ∀ q' n', asks q' n' → q' = q ∧ n' = n

/-- What a capture takes of a context (R308). -/
abbrev CaptureOf (s : State) (c : Ctx) (m : Maq) : Prop :=
  m.ctx = c.num ∧ m.streaming = true ∧ m.pages = [] ∧ m.staged = [] ∧
  m.image = { c with st := .saved, capture := false, haltPending := false, savedSize := partSize s c.num, queues := m.image.queues } ∧
  List.Forall₂ Captured c.queues m.image.queues ∧ (∀ p, p ∈ m.todo ↔ (c.num, p) ∈ s.dirty) ∧
  (∀ t, t ∈ m.teams ↔ t ∈ s.teams ∧ Plainly c.num t) ∧
  (∀ r, r ∈ m.reqs ↔ r ∈ s.reqs ∧ r.ctx = c.num ∧ ∃ t, s.team? r.team = some t ∧ Plainly c.num t) ∧
  m.copies = s.copies.filter (fun k => k.ctx = c.num) ∧ m.events = s.events.filter (fun e => e.ctx = c.num) ∧
  m.intercepts = s.intercepts.filter (fun e => e.ctx = c.num) ∧ ∀ q n, Asked c q n → m.entry = some (q, n)

/-- The capture is in the safe tier, at CTX.SAFE + 2^40 (notes/assumptions/50.md), and its dirty pages are still to be streamed. -/
def captured (s : State) (c : Ctx) (m : Maq) : State :=
  { s with
    fabric := memWrite s.fabric (c.safe.toNat + 2 ^ 40) (areaOf s c.num)
    maqs := m :: s.maqs
    dirty := s.dirty.filter fun d => d.1 ≠ c.num }.modCtx c.num fun y => { y with lastMaq := s.clock - s.released }

/-- A copy command in a saved context: a COPY entry that has not completed starts again (R270). -/
def keptCopy (ctx : Nat) (k : Copyc) : Copyc :=
  if k.ctx = ctx ∧ k.entry ≠ none ∧ k.complete = false ∧ k.failed = false then { k with ready := none, via := [] } else k

/-- The requests of a team as its event completes: the packets that a page fault has made of them are issued again, to the same registers (R78, R303). -/
abbrev Reissued (s : State) (t : Team) (num : Nat) (r r' : Req) : Prop :=
  r'.id = r.id ∧ r'.team = r.team ∧ r'.gen = r.gen ∧ r'.dests = r.dests ∧ r'.mask = r.mask ∧
  ((¬∃ e ∈ s.events, e.num = num ∧ e.kind = 2) ∨ r.team ≠ t.id ∨ packet r.kind = false ∨ r.dests = [] → r' = r)

end Sys2Proof.Claims

/-- A context is created on a free number of a partition with its settings at reset; start lets the scheduler load it, halt stops a Running one and turns a Saved one Halted,
resume and destroy are for a Halted one and for one that is out of use; codes that the state does not list are Ignored (R299, R300, R301). -/
def Sys2Proof.Claims.ContextLife : Prop :=
  (∀ s ctx, s.dev = .operational →
    (s.ctx? ctx = none → ctx < 192 → (s.part.getD (ctx / 16) 0).getLsbD 31 = true →
      ∃ c, exec (.contextCreate ctx) s =
          .next { s with ctxs := s.ctxs ++ [c] } ∧
        c.num = ctx ∧ c.st = .created ∧ c.status = 0 ∧ fld c.cfg 31 31 = 0 ∧ fld c.cfg 30 23 = 8 ∧ fld c.cfg 22 14 = 1 ∧
        fld c.cfg 13 0 = 0 ∧ c.fresh = true ∧ c.maqn = 0 ∧ c.kernels = [] ∧ c.circuits = [] ∧ c.rcbs = []) ∧
    (s.ctx? ctx ≠ none ∨ 192 ≤ ctx ∨ (s.part.getD (ctx / 16) 0).getLsbD 31 = false → exec (.contextCreate ctx) s = .next s)) ∧
  ∀ s ctx c, s.dev = .operational → s.ctx? ctx = some c →
    (c.st = .created → exec (.ctxCmdStart ctx) s = .next (s.modCtx ctx fun y => { y with started := true })) ∧
    (c.st = .saved → exec (.ctxCmdHalt ctx) s = .next (s.modCtx ctx fun y => { y with st := .halted })) ∧
    (c.st = .halted → exec (.ctxCmdResume ctx) s = .next (s.modCtx ctx fun y => { y with st := .saved })) ∧
    ((s.teams.map (·.id)).Nodup → c.st = .running → ∃ s', exec (.ctxCmdHalt ctx) s = .next s' ∧
      s'.ctxs = (s.modCtx ctx fun y => { y with haltPending := true, st := .switchingOut, capture := false }).ctxs ∧ Preempts s s' ctx) ∧
    (c.st ≠ .running → c.st ≠ .saved → exec (.ctxCmdHalt ctx) s = .next s) ∧
    (c.st = .created ∨ c.st = .saved ∨ c.st = .halted → exec (.ctxCmdDestroy ctx) s = .next { emptied s ctx with
      ctxs := s.ctxs.filter fun x => x.num ≠ ctx
      maqs := s.maqs.filter fun m => m.ctx ≠ ctx
      tlb := s.tlb.filter fun e => e.ctx ≠ ctx
      dirty := s.dirty.filter fun d => d.1 ≠ ctx
      holders := s.holders.map fun h => if h.2 = some ctx then (h.1, none) else h
      ceOwn := s.ceOwn.map fun w => if w.getLsbD 31 ∧ fld w 7 0 = ctx then 0 else w }) ∧
    (c.st ≠ .created → c.st ≠ .saved → c.st ≠ .halted → exec (.ctxCmdDestroy ctx) s = .next s)

/-- The scheduler loads the started or Saved context of a partition whose turn it is, where none is loaded; a Saved one with a bad header, or of a partition of
another size, is Halted. A slice begins on a Loaded context and its end
starts the pre-emption: the teams stop, drain their windows and raise their generation (R300, R302). Two points are the model's choice: the chisel headers
are written at the first load (notes/assumptions/86.md), and bits [15:0] of the header of a save area are not checked (notes/assumptions/85.md). -/
def Sys2Proof.Claims.ContextSwitch : Prop :=
  (∀ s ctx c, s.dev = .operational → s.ctx? ctx = some c →
    (¬PartFree s ctx ∨ ¬InTurn s ctx c → exec (.contextLoad ctx) s = .next s) ∧
    (PartFree s ctx → InTurn s ctx c → c.st = .created →
      (c.fresh = true → c.cht.toNat + 16384 ≤ dramEnd → MemOk s → ∃ s', exec (.contextLoad ctx) s = .next s' ∧
        (∀ i < 128, memWord s'.mem (c.cht.toNat + 128 * i) = 0x01000000#32) ∧
        (∀ a, (∀ i < 128, a < c.cht.toNat + 128 * i ∨ c.cht.toNat + 128 * i + 4 ≤ a) → memGet s'.mem a = memGet s.mem a)) ∧
      ∃ s', exec (.contextLoad ctx) s = .next s' ∧ s'.teams = s.teams ∧ (c.fresh = false → s'.mem = s.mem) ∧
        s'.lastCtx = (loadedAs s ctx id).lastCtx ∧ s'.ctxs = (s.modCtx ctx fun y =>
          { y with st := .loaded, started := false, fresh := false, queues := (List.range 64).map Queue.reset, rcbs := [],
                   circuits := [], latches := [], sysc := [], caps := [] }).ctxs) ∧
    (PartFree s ctx → InTurn s ctx c → c.st = .saved → c.cht.toNat + 16384 ≤ dramEnd → c.save.toNat + 4 ≤ dramEnd →
      let versions := fld (memWord s.mem c.save.toNat) 31 24 = 1 ∧ ∀ i < 128, fld (memWord s.mem (c.cht.toNat + 128 * i)) 31 24 = 1
      (¬versions → exec (.contextLoad ctx) s = .next (s.modCtx ctx fun y => { y with st := .halted, status := 3 })) ∧
      (versions → c.savedSize ≠ partSize s ctx ∨ ¬ChiselsOk s c.cht.toNat →
        exec (.contextLoad ctx) s = .next (s.modCtx ctx fun y => { y with st := .halted, status := 4 })) ∧
      (versions → c.savedSize = partSize s ctx → ChiselsOk s c.cht.toNat → AreaKept s c →
        exec (.contextLoad ctx) s = .next (loadedAs (s.restoreTeams ctx) ctx id)))) ∧
  ∀ s ctx c, s.dev = .operational → s.ctx? ctx = some c →
    (c.st = .loaded → c.haltPending = false → exec (.timeSliceBegin ctx) s = .next (s.modCtx ctx fun y => { y with st := .running })) ∧
    ((s.teams.map (·.id)).Nodup → c.st = .loaded → c.haltPending = true → ∃ s', exec (.timeSliceBegin ctx) s = .next s' ∧
      s'.ctxs = (s.modCtx ctx fun y => { y with st := .switchingOut, capture := false }).ctxs ∧ Preempts s s' ctx) ∧
    (c.st ≠ .loaded → exec (.timeSliceBegin ctx) s = .next s) ∧
    ((s.teams.map (·.id)).Nodup → c.st = .running → ∃ s', exec (.timeSliceEnd ctx) s = .next s' ∧
      s'.ctxs = (s.modCtx ctx fun y => { y with st := .switchingOut, capture := false }).ctxs ∧ Preempts s s' ctx) ∧
    (c.st ≠ .running → exec (.timeSliceEnd ctx) s = .next s)

/-- The save completes once nothing that R302 waits for is left: the context is Halted where a halt is pending, Running after a capture, and Saved otherwise, with its save area
written: header, directory and sections; a capture's sections go to the safe tier where a port has agreed on the save format (R270, R300, R302, R304, R308, R381). A
restored team goes on from the state it was stopped in (R66, R305). The layout of the sections (notes/assumptions/31.md), the capture's place at CTX.SAFE + 2^40
(notes/assumptions/50.md) and the status 1 of a MAQUETTE whose capture no port takes (notes/assumptions/113.md) are the model's choice. -/
def Sys2Proof.Claims.ContextSaves : Prop :=
  (∀ s ctx c, s.dev = .operational → s.ctx? ctx = some c →
    (c.st ≠ .switchingOut ∨ ¬SaveReady s c → exec (.contextSaveComplete ctx) s = .next s) ∧
    (c.st = .switchingOut → SaveReady s c → c.streams = [] → c.bindings = [] →
      (∀ f ∈ s.surfaces, f.ctx = ctx → f.dirty = [] ∧ s.phys f.frame (128 + 16 * f.blocks) = memRead f.coded 0 (128 + 16 * f.blocks) ∧
        ∀ e ∈ s.events, e.what ≠ .seal f.frame) →
      (∀ x ∈ c.queues, (x.entries.map (·.n)).Nodup) → MemOk s →
      ∃ s' c', exec (.contextSaveComplete ctx) s = .next s' ∧ s'.ctx? ctx = some c' ∧ c'.capture = false ∧ c'.haltPending = false ∧
        c'.kernels = c.kernels ∧ c'.circuits = c.circuits ∧ (c'.st ≠ .running → c'.latches = c.latches) ∧ c'.chip = c.chip ∧
        (c.haltPending = true → c'.st = .halted) ∧ (c.haltPending = false → c.capture = false → c'.st = .saved) ∧
        (c.haltPending = false → c.capture = true → c'.st = .running ∧ s'.mem = s.mem) ∧
        (c'.st ≠ .running → s'.teams = s.teams ∧ s'.reqs = s.reqs ∧ s'.copies = s.copies.map (keptCopy ctx) ∧ c'.savedSize = partSize s ctx) ∧
        (c.capture = false → c'.queues = c.queues.map keptQueue ∧ c'.savedImage = areaAt s c ∧ AreaWritten s s' c (areaAt s c) ∧ s'.fabric = s.fabric) ∧
        (c.capture = true → SavePort s → ∃ m, CaptureOf s c m ∧ s'.fabric = (captured s c m).fabric ∧
          (c.haltPending = false → s'.maqs = m :: s.maqs ∧ s'.dirty = (captured s c m).dirty ∧ c'.queues = c.queues) ∧
          (c.haltPending = true → c'.queues = c.queues.map keptQueue ∧ c'.savedImage = areaAt (captured s c m) c ∧
            AreaWritten (captured s c m) s' c (areaAt (captured s c m) c))) ∧
        (c.capture = true → ¬SavePort s → s'.fabric = s.fabric ∧ (c.haltPending = false → s'.maqs = s.maqs ∧ s'.dirty = s.dirty) ∧
          ∀ q n, Asked c q n → ∃ y f, c'.queue? q = some y ∧ y.entry? n = some f ∧ f.status = some 1))) ∧
  ∀ s ctx c t, s.dev = .operational → s.ctx? ctx = some c → c.st = .saved → s.saveCheck c = 0 → PartFree s ctx → InTurn s ctx c → t ∈ s.teams → t.ctx = ctx →
    t.st = .preempted → ∃ s', exec (.contextLoad ctx) s = .next s' ∧ ∃ u ∈ s'.teams, u.gen = t.gen ∧ u.mask = t.mask ∧
      (AreaKept s c → u.pc = t.pc ∧ u.frame = t.frame ∧ u.scratch = t.scratch ∧ u.lanePriv = t.lanePriv) ∧
      u.core = t.core ∧ u.quad = t.quad ∧ u.slot = t.slot ∧ u.stack = t.stack ∧ u.k = t.k ∧
      (t.prev = .placed → u.st = .ready) ∧ (t.mask = 0 → t.prev ≠ .placed → u.st = .issuing) ∧
      (t.mask ≠ 0 → (t.prev = .ready ∨ t.prev = .issuing → u.st = .ready) ∧
        (∀ w, t.prev = .waitingLatch w → u.st = .ready) ∧ (∀ w n, t.prev = .suspended w n → u.st = .ready) ∧
        (∀ w, t.prev = .waitingBarrier w → u.st = .waitingBarrier w ∧ u.finish = t.finish) ∧
        (∀ w, t.prev = .parked w → u.st = .parked w))

/-- The registers of a context: a write that breaks the ranges of R301, or that comes while the context is in use, is Refused with status 4. -/
def Sys2Proof.Claims.ContextRegisters : Prop :=
  ∀ s ctx c v, s.dev = .operational → s.ctx? ctx = some c →
    let refused : Host.Outcome State Fault Refusal := .next (s.modCtx ctx fun y => { y with status := 4 })
    let goes (f : Ctx → Ctx) : Host.Outcome State Fault Refusal := .next (s.modCtx ctx f)
    let cfgOk := fld v 13 0 = 0 ∧ 1 ≤ fld v 30 23 ∧ fld v 30 23 ≤ 128 ∧ 1 ≤ fld v 22 14 ∧ fld v 22 14 ≤ 256
    (cfgOk → exec (.ctxCfgWrite ctx v) s = goes fun y => { y with cfg := v }) ∧ (¬cfgOk → exec (.ctxCfgWrite ctx v) s = refused) ∧
    (let xscrOk := fld v 31 17 = 0 ∧ v.toNat ≤ 8192 * fld (s.part.getD (ctx / 16) 0) 3 0 ∧ ¬InUse c
     (xscrOk → ∃ g : Mem → Mem, exec (.ctxXscrWrite ctx v) s = goes (fun y => { y with xscr := v.toNat, chip := g y.chip }) ∧
       ∀ a < 2 ^ 40, memGet (g c.chip) a = if a < 4096 * v.toNat then memGet c.chip a else 0) ∧
     (¬xscrOk → exec (.ctxXscrWrite ctx v) s = refused)) ∧
    (∀ reg, 5 ≤ reg → reg ≤ 10 → InUse c → exec (.ctxAddressWrite ctx reg v) s = refused) ∧
    (¬InUse c →
      let low (x : Dword) : Dword := BitVec.ofNat 64 (x.toNat / 2 ^ 32 * 2 ^ 32 + v.toNat)
      let high (x : Dword) : Dword := BitVec.ofNat 64 (v.toNat * 2 ^ 32 + x.toNat % 2 ^ 32)
      exec (.ctxAddressWrite ctx 5 v) s = goes (fun y => { y with root := low y.root }) ∧
      exec (.ctxAddressWrite ctx 6 v) s = goes (fun y => { y with root := high y.root }) ∧
      (v.toNat % 16384 = 0 → exec (.ctxAddressWrite ctx 7 v) s = goes fun y => { y with cht := low y.cht, chtSet := true }) ∧
      exec (.ctxAddressWrite ctx 8 v) s = goes (fun y => { y with cht := high y.cht, chtSet := true }) ∧
      (v.toNat % 65536 = 0 → exec (.ctxAddressWrite ctx 9 v) s = goes fun y => { y with save := low y.save }) ∧
      (v.toNat % 16384 ≠ 0 → exec (.ctxAddressWrite ctx 7 v) s = .next s) ∧ (v.toNat % 65536 ≠ 0 → exec (.ctxAddressWrite ctx 9 v) s = .next s) ∧
      exec (.ctxAddressWrite ctx 10 v) s = goes (fun y => { y with save := high y.save })) ∧
    (fld v 31 16 ≠ 0 → exec (.ctxMaqiWrite ctx v) s = refused) ∧
    (fld v 31 16 = 0 → exec (.ctxMaqiWrite ctx v) s = goes fun y => { y with maqi := if 1 ≤ v.toNat ∧ v.toNat ≤ 99 then 100 else v.toNat })

/-- A completion of an event frees its number and retries, skips or fails the team that is parked on it; a number that is not open is Ignored. For an engine a retry lets it walk
again, and a skip or fatal completion makes the page that it waited for count as forbidden to it (R85, R250, R306, R417). -/
def Obligations.EventsEnd : Prop :=
  (∀ s ctx num c, s.dev = .operational → s.ctx? ctx = some c → (∀ e ∈ s.events, ¬(e.ctx = ctx ∧ e.num = num)) →
    exec (.evdoneRetry ctx num) s = .next s ∧ exec (.evdoneSkip ctx num) s = .next s ∧ exec (.evdoneFatal ctx num) s = .next s) ∧
  (∀ s ctx num c e t, s.dev = .operational → s.ctx? ctx = some c → s.events.find? (fun x => x.ctx == ctx && x.num == num) = some e →
    e.what = .team t.id → s.team? t.id = some t → t.st = .parked (.event num) →
    (∃ rs, List.Forall₂ (Reissued s t num) s.reqs rs ∧
      let s1 : State := { s with reqs := rs, events := s.events.filter fun x => x.num ≠ num }
      exec (.evdoneRetry ctx num) s = .next ((s1.putTeam { t with st := .ready }).youngest t.id) ∧
      (t.mask &&& ~~~e.f ≠ 0 → t.stack.length < 1024 → exec (.evdoneSkip ctx num) s = .next ((s1.putTeam
        { t with stack := { kind := .skip, mask := t.mask, pc := t.pc + 4, fmt := t.fmt } :: t.stack, mask := t.mask &&& ~~~e.f,
                 st := .ready }).youngest t.id)) ∧
      (t.mask &&& ~~~e.f = 0 → NoSkip t → exec (.evdoneSkip ctx num) s =
        .next ((s1.putTeam { t with pc := t.pc + 4, st := .ready }).youngest t.id))) ∧
    (∀ ct k, (s.teams.map (·.id)).Nodup → s.ctx? t.ctx = some ct → ct.kernel? t.kernel = some k → k.st ≠ .done → k.st ≠ .failed →
      ∃ s' c' k', exec (.evdoneFatal ctx num) s = .next s' ∧ s'.ctx? t.ctx = some c' ∧ c'.kernel? t.kernel = some k' ∧ k'.st = .failed ∧
        (∀ u ∈ s'.teams, u.ctx = t.ctx → u.kernel = t.kernel → u.st ≠ .exited → u.mask = 0) ∧ s'.mem = s.mem)) ∧
  ∀ s ctx num c e, s.dev = .operational → s.ctx? ctx = some c → s.events.find? (fun x => x.ctx == ctx && x.num == num) = some e →
    (∀ i, e.what ≠ .team i) →
    let s1 : State := { s with events := s.events.filter fun x => x.num ≠ num }
    exec (.evdoneRetry ctx num) s = .next s1 ∧ exec (.evdoneSkip ctx num) s = .next { s1 with giveUp := (e.what, e.va / 65536) :: s.giveUp } ∧
    exec (.evdoneFatal ctx num) s = .next { s1 with giveUp := (e.what, e.va / 65536) :: s.giveUp }

/-- A maquette starts by its command, or when its interval has passed, unless one is being streamed; a page that is streamed goes to the safe tier with
the bytes of the capture, by a port that has agreed on the save format; the commit raises
CTX.MAQN; an error discards it, and the last committed one stands (R301, R308). Without such a port no capture starts (R381). Page p of a maquette lies at
CTX.SAFE + 65,536 p, which is the model's choice (notes/assumptions/50.md). -/
def Sys2Proof.Claims.Maquettes : Prop :=
  (∀ s ctx c, Runs s ctx c → (s.teams.map (·.id)).Nodup → SavePort s → (∀ m ∈ s.maqs, ¬(m.ctx = ctx ∧ m.streaming = true)) →
    (∃ s', exec (.ctxCmdMaquette ctx) s = .next s' ∧ Preempts s s' ctx ∧
      s'.ctxs = (s.modCtx ctx fun y => { y with st := .switchingOut, capture := true }).ctxs) ∧
    (c.maqi ≠ 0 → c.lastMaq + 1000000 * c.maqi ≤ s.clock - s.released →
      ∃ s', exec (.maquetteTimer ctx) s = .next s' ∧ Preempts s s' ctx ∧ s'.ctxs = (s.modCtx ctx fun y =>
        { y with st := .switchingOut, capture := true, lastMaq := s.clock - s.released }).ctxs)) ∧
  (∀ s ctx c, Runs s ctx c →
    ((∃ m ∈ s.maqs, m.ctx = ctx ∧ m.streaming = true) ∨ ¬SavePort s → exec (.ctxCmdMaquette ctx) s = .next s) ∧
    ((∃ m ∈ s.maqs, m.ctx = ctx ∧ m.streaming = true) ∨ ¬SavePort s → c.maqi ≠ 0 → c.lastMaq + 1000000 * c.maqi ≤ s.clock - s.released →
      exec (.maquetteTimer ctx) s = .next (s.modCtx ctx fun y => { y with lastMaq := s.clock - s.released })) ∧
    (c.maqi = 0 ∨ s.clock - s.released < c.lastMaq + 1000000 * c.maqi → exec (.maquetteTimer ctx) s = .next s)) ∧
  (∀ s ctx c m page, s.dev = .operational → s.ctx? ctx = some c → s.maqs.find? (fun x => x.ctx == ctx && x.streaming) = some m →
    (¬SavePort s ∨ page ∉ m.todo → exec (.maquettePageStreamed ctx page) s = .next s) ∧
    (SavePort s → page ∈ m.todo →
      let bs : List Byte := match m.staged.find? fun x => x.1 = page with
        | some x => x.2
        | none => s.phys (page * 65536) 65536
      exec (.maquettePageStreamed ctx page) s = .next { s with
        fabric := memWrite s.fabric (c.safe.toNat + 65536 * page) bs
        maqs := s.maqs.map fun x => if x.ctx = ctx ∧ x.streaming = true then
            { x with todo := x.todo.filter fun p => p ≠ page, staged := x.staged.filter fun p => p.1 ≠ page, pages := (page, bs) :: x.pages }
          else x })) ∧
  (∀ s ctx c m, s.dev = .operational → s.ctx? ctx = some c → s.maqs.find? (fun x => x.ctx == ctx && x.streaming) = some m →
    (m.todo ≠ [] ∨ ¬SavePort s → exec (.maquetteCommit ctx) s = .next s) ∧
    (m.todo = [] → SavePort s → ∃ s' x, exec (.maquetteCommit ctx) s = .next s' ∧ s'.maqs = x :: s.maqs.filter (fun y => y.ctx ≠ ctx) ∧
      x = { m with image := { m.image with maqn := c.maqn + 1 }, pages := x.pages, streaming := false, entry := none } ∧
      (let old : List (Nat × List Byte) := match s.maqs.find? fun y => y.ctx == ctx && !y.streaming with
         | some y => y.pages
         | none => []
       x.pages = m.pages ++ old.filter fun p => ∀ q ∈ m.pages, q.1 ≠ p.1) ∧
      s' = ended ({ s with maqs := s'.maqs }.modCtx ctx fun y => { y with maqn := c.maqn + 1 }) ctx m.entry 0) ∧
    ∃ s' ds, exec (.maquetteStreamError ctx) s = .next s' ∧ (∀ d, d ∈ ds ↔ d ∈ s.dirty ∨ (d.1 = ctx ∧ (d.2 ∈ m.todo ∨ ∃ p ∈ m.pages, p.1 = d.2))) ∧
      s' = ended { s with dirty := ds, maqs := s.maqs.filter fun x => ¬(x.ctx = ctx ∧ x.streaming = true) } ctx m.entry 1) ∧
  ∀ s ctx, s.dev = .operational → (∀ m ∈ s.maqs, ¬(m.ctx = ctx ∧ m.streaming = true)) →
    exec (.maquetteCommit ctx) s = .next s ∧ exec (.maquetteStreamError ctx) s = .next s

namespace Sys2Proof.Claims

/-- The function that fails with each report, and the line that is poisoned with it (R209, R310); a line across a link has no function here. -/
abbrev Fails : Failing → Option Fn → Option Nat → Prop
  | .line l, f, p => p = some l ∧ f = if isRemote (64 * l) then none else some (.l2 (sliceOf (64 * l)) (bankOf (64 * l)))
  | .storeBank core bank, f, p => p = none ∧ f = some (.storeBank core bank)
  | .executor l, f, p => p = some l ∧ f = some (.executor (sliceOf (64 * l)) (bankOf (64 * l)))
  | .engine kind slice, f, p => p = none ∧ f = some (.engine kind slice)

/-- The failing function is fenced from now on, and is removed from service when it fails again within one hour (R300, R310); which functions there
are to fence is the model's choice (notes/assumptions/96.md). -/
abbrev FencesFn (s : State) (fs : List (Fn × Nat)) (rs : List Fn) : Option Fn → Prop
  | none => fs = s.fenced ∧ rs = s.removed
  | some k =>
    let now := s.clock - s.released
    (k, now) ∈ fs ∧ (∀ x at_, x ≠ k → ((x, at_) ∈ fs ↔ (x, at_) ∈ s.fenced)) ∧ (∀ at_, (k, at_) ∈ fs → at_ = now) ∧
    (k ∈ rs ↔ k ∈ s.removed ∨ ∃ at_, (k, at_) ∈ s.fenced ∧ now < at_ + 3600000000000) ∧ ∀ x, x ≠ k → (x ∈ rs ↔ x ∈ s.removed)

/-- A context that a failure strikes: its teams stop unsaved, its requests are gone and its entries end with "reset" (R310 step 2). -/
def struck (s : State) (ctx : Nat) (fs : List (Fn × Nat)) (rs : List Fn) (line : Option Nat) : State :=
  { s.modCtx ctx fun y =>
      { y with st := .rollingBack, queues := y.queues.map fun q =>
          { q with entries := q.entries.map fun e => { e with status := some (e.status.getD 2) } } } with
    fenced := fs, removed := rs
    poisoned := match line with
      | some l => if l ∈ s.poisoned then s.poisoned else l :: s.poisoned
      | none => s.poisoned
    reqs := s.reqs.filter fun r => r.ctx ≠ ctx
    deadlines := s.deadlines.filter fun d => d.ctx ≠ ctx
    copies := s.copies.filter fun k => k.ctx ≠ ctx
    surfaces := s.surfaces.filter fun f => f.ctx ≠ ctx
    teams := s.teams.map fun t =>
      if t.ctx = ctx ∧ t.st ≠ .exited then { t with st := .preempted, prev := t.st, gen := t.gen + 1 } else t }

/-- A captured copy command runs anew, unless it has ended. -/
def anew (k : Copyc) : Copyc := if k.complete = true ∨ k.failed = true then k else { k with ready := none, wrote := [] }

/-- The committed maquette is back, its pages over memory (R310 step 3); the producers' write pointers stand (R378). -/
abbrev RolledBack (s : State) (c : Ctx) (m : Maq) (u : State) : Prop :=
  let e := emptied s c.num
  (∃ xs, u.ctx? c.num = some { m.image with streams := xs, wpWaits := c.wpWaits } ∧ xs.map (·.idx) = m.image.streams.map (·.idx) ∧
    ∀ x ∈ xs, ∀ y : Stream, c.streams.find? (fun (z : Stream) => z.idx == x.idx) = some y →
      ∀ (i : Nat) (p q : Src), x.srcs[i]? = some p → y.srcs[i]? = some q → p.wp = q.wp) ∧
  u.teams = e.teams ++ m.teams ∧ u.reqs = e.reqs ++ m.reqs ∧ u.copies = e.copies ++ m.copies.map anew ∧ u.events = e.events ++ m.events ∧
  u.intercepts = e.intercepts ++ m.intercepts ∧
  u.order = e.order ++ ((m.teams.filter fun (t : Team) => t.st ≠ .exited).map fun (t : Team) => t.id) ∧
  (∀ n, n ≠ c.num → u.ctx? n = s.ctx? n) ∧
  (MemOk s → (m.pages.map (·.1)).Nodup → (∀ p ∈ m.pages, p.2.length = 65536 ∧ 65536 * p.1 + 65536 ≤ dramEnd) →
    MemOk u ∧ u.fabric = s.fabric ∧ (∀ p ∈ m.pages, memRead u.mem (65536 * p.1) 65536 = p.2) ∧
    (∀ a, (∀ p ∈ m.pages, a / 65536 ≠ p.1) → memGet u.mem a = memGet s.mem a) ∧ ∀ l ∈ u.poisoned, ∀ p ∈ m.pages, l / 1024 ≠ p.1)

/-- The save of a context is in memory (R304, R305), and nothing but memory and what records its writes has changed. -/
abbrev SaveWritten (u s' : State) (c : Ctx) : Prop :=
  s'.ctxs = (u.modCtx c.num fun y => { y with savedSize := partSize u c.num, savedImage := areaAt u c }).ctxs ∧ s'.teams = u.teams ∧ s'.reqs = u.reqs ∧
  s'.copies = u.copies ∧ s'.events = u.events ∧ s'.intercepts = u.intercepts ∧ s'.order = u.order ∧ (∀ l ∈ s'.poisoned, l ∈ u.poisoned) ∧
  (MemOk u → AreaWritten u s' c (areaAt u c))

end Sys2Proof.Claims

/-- A containment event fences the function that fails, which is removed from service when it fails again within one hour, and sends the context to Rolling-back: its
teams stop unsaved, its requests are gone and its entries end with "reset"; with the entries completed, the committed maquette is put back and its save area written, or
the context is Halted as lost. A VF reset empties the context and keeps its settings, sends an abort for
each contribution outstanding, and changes no other context (R209, R300, R310, R311, R312). The bytes of a save area are the model's choice
(notes/assumptions/31.md). -/
def Sys2Proof.Claims.ContainmentReset : Prop :=
  (∀ s ctx c what f line, s.dev = .operational → s.ctx? ctx = some c → Fails what f line →
    (c.st = .reset → exec (.containmentEvent ctx what) s = .next s) ∧
    (c.st ≠ .reset → ∃ fs rs, FencesFn s fs rs f ∧ exec (.containmentEvent ctx what) s = .next (struck s ctx fs rs line))) ∧
  (∀ s ctx c, s.dev = .operational → s.ctx? ctx = some c →
    (c.st ≠ .rollingBack ∨ (∃ x ∈ c.queues, x.entries ≠ []) → exec (.rollbackComplete ctx) s = .next s) ∧
    (c.st = .rollingBack → (∀ x ∈ c.queues, x.entries = []) →
      ((∀ m ∈ s.maqs, m.ctx = ctx → m.streaming = true) → exec (.rollbackComplete ctx) s = .next
        ({ emptied s ctx with maqs := s.maqs.filter fun m => m.ctx ≠ ctx }.modCtx ctx fun y =>
          { y with st := .halted, status := 8, kernels := [], csets := [], circuits := [], latches := [], sysc := [], children := [],
                   streams := [], bindings := [], insts := [], wpWaits := [] })) ∧
      (∀ m, s.maqs.find? (fun x => x.ctx == ctx && !x.streaming) = some m → m.image.num = ctx →
        ∃ u s', RolledBack s c m u ∧ exec (.rollbackComplete ctx) s = .next s' ∧ SaveWritten u s' c))) ∧
  (∀ s ctx c, s.dev = .operational → s.ctx? ctx = some c → ∃ s' c', exec (.vfReset ctx) s = .next s' ∧ s'.ctx? ctx = some c' ∧
    c'.st = .reset ∧ c'.kernels = [] ∧ c'.circuits = [] ∧ c'.latches = [] ∧ c'.sysc = [] ∧ c'.children = [] ∧ c'.streams = [] ∧
    c'.bindings = [] ∧ c'.insts = [] ∧ c'.csets = [] ∧ c'.caps = [] ∧ c'.wpWaits = [] ∧
    (∀ e ∈ c.sysc, e.st = .posted → ∀ coll p, Config.contribution e.words = some (coll, p) →
      (s.ports.getD p Port.reset).st = .up → (s.ports.getD p Port.reset).cap.getLsbD 2 = true → .abortSent ctx coll p ∈ s'.outbox) ∧
    (∀ r ∈ c'.rcbs, ∀ x ∈ r.slots, x.st = .empty) ∧ (∀ x ∈ c'.queues, ∀ e ∈ x.entries, e.status ≠ none) ∧
    c'.cfg = c.cfg ∧ c'.quota = c.quota ∧ c'.xscr = c.xscr ∧ c'.root = c.root ∧ c'.cht = c.cht ∧ c'.save = c.save ∧ c'.svec = c.svec ∧
    c'.safe = c.safe ∧ c'.maqi = c.maqi ∧ c'.maqn = c.maqn ∧ c'.strmBase = c.strmBase ∧ c'.strmCfg = c.strmCfg ∧ s'.mem = s.mem ∧
    s'.teams = s.teams.filter (fun t => t.ctx ≠ ctx) ∧ s'.reqs = s.reqs.filter (fun r => r.ctx ≠ ctx) ∧
    s'.copies = s.copies.filter (fun k => k.ctx ≠ ctx) ∧ ∀ n, n ≠ ctx → s'.ctx? n = s.ctx? n) ∧
  ∀ s ctx c, s.dev = .operational → s.ctx? ctx = some c →
    (c.st = .reset → (∀ x ∈ c.queues, x.entries = []) → exec (.vfResetComplete ctx) s = .next (s.modCtx ctx fun y => { y with st := .created })) ∧
    (c.st ≠ .reset ∨ (∃ x ∈ c.queues, x.entries ≠ []) → exec (.vfResetComplete ctx) s = .next s)

/-! ## Relief surfaces -/

namespace Sys2Proof.Claims

/-- Word i of a held descriptor, and word i of block b's (R317, R319). -/
def sw (f : Surface) (i : Nat) : Word := memWord f.coded (4 * i)
def bw (f : Surface) (b i : Nat) : Word := memWord f.coded (128 + 16 * b + 4 * i)

def pixelBytes (f : Surface) : Nat := if fld (sw f 0) 1 0 = 0 then 4 else 1
def wide (f : Surface) : Nat := fld (sw f 1) 15 0
def high (f : Surface) : Nat := fld (sw f 1) 31 16
def refCount (f : Surface) : Nat := fld (sw f 0) 7 5
def heapAt (f : Surface) : Nat := (sw f 4).toNat + 2 ^ 32 * fld (sw f 5) 22 0
def openAt (f : Surface) : Nat := (sw f 10).toNat + 2 ^ 32 * fld (sw f 11) 22 0

/-- The block of a pixel (R319). -/
def blockAt (f : Surface) (x y : Nat) : Nat := y / 4 * (wide f / 4) + x / 4
def blockCount (f : Surface) : Nat := wide f / 4 * (high f / 4)

def modeOf (f : Surface) (b : Nat) : Nat := fld (bw f b 0) 1 0
def refOf (f : Surface) (b : Nat) : Nat := fld (bw f b 0) 3 2
def qpOf (f : Surface) (b : Nat) : Nat := fld (bw f b 0) 7 4
def mvx (f : Surface) (b : Nat) : Int := (BitVec.ofNat 12 (fld (bw f b 1) 11 0)).toInt
def mvy (f : Surface) (b : Nat) : Int := (BitVec.ofNat 12 (fld (bw f b 1) 23 12)).toInt
def nzOf (f : Surface) (b c : Nat) : Nat := fld (bw f b 2) (5 * c + 4) (5 * c)
def hlenOf (f : Surface) (b : Nat) : Nat := fld (bw f b 2) 27 20
def hoffOf (f : Surface) (b : Nat) : Nat := (bw f b 3).toNat
abbrev OpenDirty (f : Surface) (b : Nat) : Prop := (bw f b 0).getLsbD 8 = true

/-- The block keeps R319. -/
abbrev BlockOk (f : Surface) (b : Nat) : Prop :=
  fld (bw f b 0) 31 9 = 0 ∧ fld (bw f b 1) 31 24 = 0 ∧ fld (bw f b 2) 31 28 = 0 ∧ (2 ≤ modeOf f b → refOf f b < refCount f) ∧
  (∀ c < 4, nzOf f b c ≤ 16) ∧ (pixelBytes f = 1 → ∀ c, 1 ≤ c → c < 4 → nzOf f b c = 0) ∧
  hlenOf f b = (if modeOf f b = 0 then 16 * pixelBytes f
                else if modeOf f b = 2 then 2 * (nzOf f b 0 + nzOf f b 1 + nzOf f b 2 + nzOf f b 3) else 0) ∧
  (0 < hlenOf f b → hoffOf f b + hlenOf f b ≤ (sw f 6).toNat)

/-- No poisoned line meets n bytes at pa (R209). -/
abbrev Whole (s : State) (pa n : Nat) : Prop := ∀ l ∈ s.poisoned, ¬(pa < 64 * l + 64 ∧ 64 * l < pa + n)

/-- n bytes that an engine may read plainly (R209, R322, R417). -/
abbrev Heap (s : State) (ctx va n : Nat) (bs : List Byte) : Prop :=
  (n = 0 ∧ bs = []) ∨ (0 < n ∧ ∃ pa pb cut,
    EngineSpans s ctx va n pa pb cut (fun p k a => a.rlf = false ∧ a.raw = false ∧ isRemote p = false ∧ s.tableAt p k = false) ∧
    bs = s.phys pa cut ++ s.phys pb (n - cut) ∧ Whole s pa cut ∧ Whole s pb (n - cut))

/-- n heap bytes of a surface at offset o as the engine reads them: those that software has written over while the surface is held are as the engine had
them (R314). -/
abbrev HeapBytes (s : State) (f : Surface) (o n : Nat) (bs : List Byte) : Prop :=
  ∃ ms, Heap s f.ctx (heapAt f + o) n ms ∧ bs = (List.range ms.length).map fun i =>
    match f.kept.find? fun k => k.1 == o + i with
    | some k => k.2
    | none => ms.getD i 0

/-- Nothing holds the engine back: its agent has no event open, and no maquette is being streamed (R308, R417). -/
abbrev Free (s : State) (w : EventOf) : Prop := Unheld s w ∧ ∀ m ∈ s.maqs, m.streaming = false

/-- The surface at fr is held, and so are the surfaces that it refers to, and theirs, less than n in a row (R314, R318, R340). -/
def Linked (s : State) : Nat → Nat → Prop
  | 0, _ => False
  | n + 1, fr => ∃ f, s.surface? fr = some f ∧ ∀ r ∈ f.refs, Linked s n r

/-- The engine's cache has room for n more blocks of a surface (R324). -/
abbrev CacheRoom (s : State) (fr : Nat) (f : Surface) (n : Nat) : Prop :=
  s.cached (sliceOf fr) + 16 * pixelBytes f * n ≤ 4 * 2 ^ 20

/-- An engine may write n bytes of one page: where they lie (R315, R321). -/
abbrev HeapWrites (s : State) (ctx va pa n : Nat) : Prop :=
  va % 65536 + n ≤ 65536 ∧ (∃ a, s.engineSeg ctx va = .ok pa a ∧ a.w = true ∧ a.rlf = false ∧ a.raw = false) ∧ InDram pa n ∧
  s.tableAt pa n = false

/-- The pixels of an Open-dirty block: in the cache, or in the open area (R321). -/
abbrev DirtyPixels (s : State) (f : Surface) (b : Nat) (ps : List Byte) : Prop :=
  f.dirty.find? (fun x => x.1 == b) = some (b, some ps) ∨
  ((∀ qs, f.dirty.find? (fun x => x.1 == b) ≠ some (b, some qs)) ∧
    Heap s f.ctx (openAt f + 16 * pixelBytes f * b) (16 * pixelBytes f) ps)

/-- The entry of 16 bits that is number i of heap bytes (R320). -/
def entry (bs : List Byte) (i : Nat) : Nat := (bs.getD (2 * i) 0).toNat + 256 * (bs.getD (2 * i + 1) 0).toNat

/-- n entries with rising positions; lv holds the level of each position (R320). -/
abbrev Levels (bs : List Byte) (n : Nat) (lv : Nat → Int) : Prop :=
  (∀ i, i + 1 < n → entry bs i / 4096 < entry bs (i + 1) / 4096) ∧
  ∀ k < 16, (∀ i < n, entry bs i / 4096 = k → lv k = (BitVec.ofNat 12 (entry bs i)).toInt) ∧
    ((∀ i < n, entry bs i / 4096 ≠ k) → lv k = 0)

/-- INV of R323, one result of the four. -/
def inv (d : Nat → Int) : Nat → Int
  | 0 => d 0 + d 2 + (d 1 + d 3 / 2)
  | 1 => d 0 - d 2 + (d 1 / 2 - d 3)
  | 2 => d 0 - d 2 - (d 1 / 2 - d 3)
  | _ => d 0 + d 2 - (d 1 + d 3 / 2)

def stepOf (q : Nat) : Int := (16 + 4 * ((q % 4 : Nat) : Int)) * 2 ^ (q / 4)

/-- The residual at column u and row w (R323). -/
def residualOf (lv : Nat → Int) (q u w : Nat) : Int :=
  (inv (fun r => inv (fun c => lv (4 * r + c) * stepOf q) u) w + 32) / 64

def clampTop (hi v : Int) : Nat := (max 0 (min hi v)).toNat

/-- The prediction from the four neighbours (R322). -/
def blend (fx fy : Int) (p : Nat → Nat → Nat) : Int :=
  ((4 - fx) * (4 - fy) * p 0 0 + fx * (4 - fy) * p 1 0 + (4 - fx) * fy * p 0 1 + fx * fy * p 1 1 + 8) / 16

/-- value(S, x, y, ch) of R322 for the surface at frame fr, through at most n references in a row; malformed blocks apart. -/
inductive Pixel (s : State) : Nat → Nat → Nat → Nat → Nat → Nat → Prop
  | dirty (n fr x y ch : Nat) (f : Surface) (ps : List Byte) : s.surface? fr = some f → OpenDirty f (blockAt f x y) →
      DirtyPixels s f (blockAt f x y) ps →
      Pixel s n fr x y ch (ps.getD ((4 * (y % 4) + x % 4) * pixelBytes f + ch) 0).toNat
  | const (n fr x y ch : Nat) (f : Surface) : s.surface? fr = some f → ¬OpenDirty f (blockAt f x y) → BlockOk f (blockAt f x y) →
      modeOf f (blockAt f x y) = 1 → Pixel s n fr x y ch (fld (bw f (blockAt f x y) 3) (8 * ch + 7) (8 * ch))
  | raw (n fr x y ch : Nat) (f : Surface) (v : Byte) : s.surface? fr = some f → ¬OpenDirty f (blockAt f x y) →
      BlockOk f (blockAt f x y) → modeOf f (blockAt f x y) = 0 →
      HeapBytes s f (hoffOf f (blockAt f x y) + ((4 * (y % 4) + x % 4) * pixelBytes f + ch)) 1 [v] →
      Pixel s n fr x y ch v.toNat
  | skip (n fr x y ch : Nat) (f : Surface) (p : Nat → Nat → Nat) (v : Nat) : s.surface? fr = some f →
      ¬OpenDirty f (blockAt f x y) → BlockOk f (blockAt f x y) → modeOf f (blockAt f x y) = 3 →
      (∀ i : Nat, i < 2 → ∀ j : Nat, j < 2 → Pixel s n (f.refs.getD (refOf f (blockAt f x y)) 0)
        (clampTop (wide f - 1 : Nat) (x + mvx f (blockAt f x y) / 4 + i)) (clampTop (high f - 1 : Nat) (y + mvy f (blockAt f x y) / 4 + j)) ch (p i j)) →
      (v : Int) = blend (mvx f (blockAt f x y) % 4) (mvy f (blockAt f x y) % 4) p → Pixel s (n + 1) fr x y ch v
  | inter (n fr x y ch : Nat) (f : Surface) (p : Nat → Nat → Nat) (bs : List Byte) (lv : Nat → Int) : s.surface? fr = some f →
      ¬OpenDirty f (blockAt f x y) → BlockOk f (blockAt f x y) → modeOf f (blockAt f x y) = 2 →
      (∀ i : Nat, i < 2 → ∀ j : Nat, j < 2 → Pixel s n (f.refs.getD (refOf f (blockAt f x y)) 0)
        (clampTop (wide f - 1 : Nat) (x + mvx f (blockAt f x y) / 4 + i)) (clampTop (high f - 1 : Nat) (y + mvy f (blockAt f x y) / 4 + j)) ch (p i j)) →
      HeapBytes s f (hoffOf f (blockAt f x y) + 2 * ((List.range ch).map (nzOf f (blockAt f x y))).sum)
        (2 * nzOf f (blockAt f x y) ch) bs →
      Levels bs (nzOf f (blockAt f x y) ch) lv → ch < 4 →
      Pixel s (n + 1) fr x y ch (clampTop 255
        (blend (mvx f (blockAt f x y) % 4) (mvy f (blockAt f x y) % 4) p + residualOf lv (qpOf f (blockAt f x y)) (x % 4) (y % 4)))

/-- The 16-bit entries of nonzero levels, in ascending positions (R320). -/
def entriesFor (lv : Nat → Int) : List (List Byte) :=
  ((List.range 16).filter fun k => lv k ≠ 0).map fun k =>
    let e := 4096 * k + (lv k % 4096).toNat
    [BitVec.ofNat 8 e, BitVec.ofNat 8 (e / 256)]

/-- The team's SURF names the descriptor at frame fr, on a page with RLF (R316). -/
abbrev NamesSurface (s : State) (t : Team) (fr : Nat) : Prop :=
  let x := t.xl.getD (fld t.surf 2 0) Xl.reset
  let o : Int := (BitVec.ofNat 16 (fld t.surf 31 16)).toInt * 65536
  let va : Int := x.vbase.toNat + o
  va % 65536 = 0 ∧ 0 ≤ va ∧ va + 128 ≤ 2 ^ 55 ∧ isRemote fr = false ∧ s.unreachable fr = false ∧ s.tableAt fr 128 = false ∧
  if 0 ≤ o ∧ o + 128 ≤ x.limit.toNat then (fr : Int) = x.frame + o ∧ x.attr.rlf = true
  else ∃ a, s.coreSeg t.core t.ctx t.faultm.toNat va.toNat = .ok fr a ∧ a.rlf = true

/-- What translated the address of the descriptor: the run of the translation register, or a page (R143, R295). -/
def surfVia (s : State) (t : Team) : List (Nat × Nat) :=
  let x := t.xl.getD (fld t.surf 2 0) Xl.reset
  let o : Int := (BitVec.ofNat 16 (fld t.surf 31 16)).toInt * 65536
  if 0 ≤ o ∧ o + 128 ≤ x.limit.toNat then [(x.vbase.toNat, x.limit.toNat)]
  else [s.pageRange t.core t.ctx ((x.vbase.toNat : Int) + o).toNat]

/-- The lanes of a relief request: the descriptor's address, the coordinates, then data. -/
def reliefLane (s : State) (t : Team) (a : Fld) (ds : List Fld) (l : Nat) : Lane :=
  { lane := l, va := (((t.xl.getD (fld t.surf 2 0) Xl.reset).vbase.toNat : Int) + (BitVec.ofNat 16 (fld t.surf 31 16)).toInt * 65536).toNat
    pa := 0, pa2 := 0, cut := 0, attr := Attr.none, dst := 0, via := surfVia s t,
    data := t.get a l :: ds.map fun f => t.get f l, got := [], spoil := [], st := .pending }

/-- An earlier load of the team names a block of the surface that a lane of a store names (R303, R339). -/
abbrev BlockLoads (s : State) (t : Team) (fr op : Nat) (a : Fld) : Prop :=
  ∃ l ∈ t.lanes, ∃ b ∈ s.coordBlocks fr op (t.get a l), ∃ r ∈ s.reqs, r.team = t.id ∧ (r.kind.isLoad = true ∨ r.kind.isLda = true) ∧
    ∃ x ∈ r.lanes, b ∈ s.laneBlocks r x

/-- RLD and RBLK; RSTP, RSTC and RSTM. -/
def reliefLoad : Instr → Option (Ctl × Nat × List Fld × Fld)
  | .rld c d a => some (c, 0, [d], a)
  | .rblk c d a => some (c, 4, [d, d + 1, d + 2, d + 3], a)
  | _ => none

def reliefStore : Instr → Option (Ctl × Nat × List Fld × Fld)
  | .rstp c d a => some (c, 1, [d], a)
  | .rstc c d a => some (c, 2, [d, d + 1, d + 2, d + 3, d + 4, d + 5, d + 6, d + 7], a)
  | .rstm c d a => some (c, 3, [d], a)
  | _ => none

/-- A request of the RELF class is at its engine: no earlier one of the team to the surface is on its way. -/
abbrev AtEngine (s : State) (req : Nat) (r : Req) (op fr : Nat) : Prop :=
  s.dev = .operational ∧ s.req? req = some r ∧ s.live r = true ∧ r.kind = .relief op fr none ∧ ∃ x ∈ r.lanes, x.st = .pending

abbrev coordAt (x : Lane) (hi lo : Nat) : Nat := fld (x.data.getD 0 0) hi lo

/-- An earlier access of the team to a block of the request is on its way to its engine, or an acquire of the team is still to be made (R185 note 4,
R339, R377). -/
abbrev OwnAhead (s : State) (r : Req) : Prop :=
  ∃ x ∈ r.lanes, x.st = .pending ∧ ∃ b ∈ s.laneBlocks r x, s.acqAhead r.team r.id = true ∨
    ∃ q ∈ s.reqs, q.team = r.team ∧ q.id < r.id ∧ q.kind.isLda = false ∧ ∃ y ∈ q.lanes, y.st = .pending ∧ b ∈ s.laneBlocks q y

/-- A lane of another request reached its engine before this one's and waits there with a block of it (R339). -/
abbrev PlaceAhead (s : State) (r : Req) : Prop :=
  ∃ x ∈ r.lanes, ∃ q ∈ s.reqs, q.id ≠ r.id ∧ s.live q = true ∧ q.kind.isLda = false ∧ ∃ y ∈ q.lanes, y.st = .pending ∧ y.dst ≠ 0 ∧
    (x.dst = 0 ∨ y.dst < x.dst) ∧ ∃ b ∈ s.laneBlocks r x, b ∈ s.laneBlocks q y

/-- It is the request's turn at its engine. -/
abbrev FirstAtEngine (s : State) (r : Req) : Prop := ¬OwnAhead s r ∧ ¬PlaceAhead s r ∧ s.inbound = []

/-- Checks 1 and 2 of R318 on a descriptor's words: the RCODE of the first that fails. -/
abbrev DescFields (w : Nat → Word) : Prop :=
  let dim (v : Nat) : Prop := v % 16 = 0 ∧ 16 ≤ v ∧ v ≤ 16384
  let top (i : Nat) : Prop := fld (w i) 31 23 = 0
  fld (w 0) 1 0 ≤ 1 ∧ dim (fld (w 1) 15 0) ∧ dim (fld (w 1) 31 16) ∧ fld (w 0) 7 5 ≤ 4 ∧ fld (w 2) 31 16 = 0 ∧ fld (w 2) 7 4 = 0 ∧
  (w 4).toNat % 16 = 0 ∧ top 5 ∧ (w 8).toNat % 65536 = 0 ∧ top 9 ∧ (w 10).toNat % 64 = 0 ∧ top 11 ∧
  (∀ i ∈ [12, 13, 14, 15, 24, 25, 26, 27, 28, 29, 30, 31], w i = 0) ∧
  (∀ r < 4, top (17 + 2 * r) ∧ (r < fld (w 0) 7 5 → (w (16 + 2 * r)).toNat % 65536 = 0)) ∧
  (fld (w 0) 15 14 = 0 ∨ fld (w 0) 15 14 = 2) ∧ (w 7).toNat ≤ (w 6).toNat ∧ (fld (w 0) 15 14 = 0 → ¬(w 10 = 0 ∧ w 11 = 0))

abbrev DescCode (w : Nat → Word) (v : Nat) : Prop :=
  (fld (w 0) 31 24 ≠ 1 ∧ v = 1) ∨ (fld (w 0) 31 24 = 1 ∧ ¬DescFields w ∧ v = 2) ∨ (fld (w 0) 31 24 = 1 ∧ DescFields w ∧ v = 0)

/-- The bits of w outside [hi:lo] are those of v. -/
abbrev SameBut (w v : Word) (hi lo : Nat) : Prop := ∀ i < 32, ¬(lo ≤ i ∧ i ≤ hi) → w.getLsbD i = v.getLsbD i

/-- Reference r of a descriptor is held at frame p, Sealed and of the same shape (R318 check 3). -/
abbrev RefHeld (s : State) (ctx : Nat) (w : Nat → Word) (r p : Nat) (g : Surface) : Prop :=
  (∃ a, s.engineSeg ctx ((w (16 + 2 * r)).toNat + 2 ^ 32 * fld (w (17 + 2 * r)) 22 0) = .ok p a ∧ a.rlf = true) ∧
  isRemote p = false ∧ s.surface? p = some g ∧ Linked s 6 p

abbrev RefMatches (w : Nat → Word) (g : Surface) : Prop :=
  g.st = .sealed ∧ fld (sw g 0) 1 0 = fld (w 0) 1 0 ∧ sw g 1 = w 1

/-- Surface f has become g by writes to its descriptor and cache; the other surfaces, the teams and requests are as they were. -/
abbrev Becomes (s s' : State) (fr : Nat) (f g : Surface) : Prop :=
  s'.surface? fr = some g ∧ g = { f with coded := g.coded, dirty := g.dirty, st := g.st, progress := g.progress } ∧
  (∀ h, h ≠ fr → s'.surface? h = s.surface? h) ∧ s'.teams = s.teams ∧ s'.reqs = s.reqs ∧ s'.fabric = s.fabric

/-- The words of a held descriptor and its blocks other than those that p names are as they were. -/
abbrev CodedBut (f g : Surface) (p : Nat → Prop) : Prop := ∀ i, ¬p i → memWord g.coded (4 * i) = memWord f.coded (4 * i)

end Sys2Proof.Claims

/-- value() of a pixel is what R322 and R323 say, through up to five references in a row, from the heap as the engines hold it; a malformed block gives 0 and is
reported (R314, R319 to R324). -/
def Sys2Proof.Claims.Reconstruction : Prop :=
  (∀ (s : State) n fr x y ch v, Pixel s n fr x y ch v → n ≤ 5 → s.value [] fr x y ch = .val v []) ∧
  ∀ (s : State) fr x y ch f, s.surface? fr = some f → ¬OpenDirty f (blockAt f x y) → ¬BlockOk f (blockAt f x y) →
    s.value [] fr x y ch = .val 0 [fr]

/-- RLD and RBLK send one request for the surface that SURF names and mark their destinations empty; RSTP, RSTC and RSTM send theirs and hold the team, once its earlier
loads of the same blocks are over. At the engine a load
binds the pixel, or the four words of the block, of every lane with its coordinates Saturated; a surface that fails its checks gives zeros and takes its RCODE; the returns
land. Requests of different teams to one block are served in the order in which they reached the engine (R316, R318, R328, R329, R330, R334, R339). A refused surface
keeps the rest of its descriptor's word 0 (notes/assumptions/71.md), which is the model's choice. -/
def Sys2Proof.Claims.ReliefLoads : Prop :=
  (∀ i c op ds a, reliefLoad i = some (c, op, ds, a) → ∀ s t fr, Issues s t → Readable t (a :: ds) → (∀ f ∈ ds, isFrame f = true) →
    NamesSurface s t fr → ∃ s1, { s1 with tlb := s.tlb } = s ∧
      exec i s = .next (goes s1 t c [a] (.relief op fr none) ds none (t.lanes.map (reliefLane s t a [])))) ∧
  (∀ i c op ds a, reliefStore i = some (c, op, ds, a) → ∀ s t fr, Issues s t → Readable t (a :: ds) → NamesSurface s t fr →
    (¬BlockLoads s t fr op a → ∃ s', exec i s = .next s' ∧ Issues s' { t with hold := some (.relief c a s.nextId), st := .ready } ∧
      (∃ r, s'.reqs = s.reqs ++ [r] ∧ r.id = s.nextId ∧ r.team = t.id ∧ r.kind = .relief op fr none ∧
        r.lanes = t.lanes.map (reliefLane s t a ds) ∧ r.dests = []) ∧ s'.mem = s.mem ∧ s'.surfaces = s.surfaces) ∧
    (BlockLoads s t fr op a → ∃ s', exec i s = .next s' ∧
      Issues s' { t with st := .waitingCounter (.loads s.nextId), finish := .none } ∧ s'.reqs = s.reqs ∧ s'.mem = s.mem)) ∧
  (∀ s req r op fr, AtEngine s req r op fr →
    (OwnAhead s r ∨ (op ≠ 0 ∧ op ≠ 4 ∧ s.relAhead r.team r.id = true) → exec (.reliefRequest req) s = .next s) ∧
    (¬OwnAhead s r → op = 0 ∨ op = 4 ∨ s.relAhead r.team r.id = false → (∀ e ∈ s.events, e.what ≠ .relief req) → PlaceAhead s r →
      ((∀ x ∈ r.lanes, x.st = .pending → x.dst ≠ 0) → exec (.reliefRequest req) s = .next s) ∧
      ((∃ x ∈ r.lanes, x.st = .pending ∧ x.dst = 0) → exec (.reliefRequest req) s = .next (State.putReq { s with nextId := s.nextId + 1 }
        { r with lanes := r.lanes.map fun (x : Lane) => if x.st = .pending ∧ x.dst = 0 then { x with dst := s.nextId } else x })))) ∧
  (∀ s req r op fr f, AtEngine s req r op fr → FirstAtEngine s r → s.surface? fr = some f → Linked s 6 fr → Free s (.relief req) →
    let bound (ws : Lane → List Word) : Host.Outcome State Fault Refusal :=
      .next (s.putReq { r with lanes := r.lanes.map fun x => { x with got := ws x, st := .bound } })
    let px (x : Lane) : Nat := min (coordAt x 13 0) (wide f - 1)
    let py (x : Lane) : Nat := min (coordAt x 29 16) (high f - 1)
    (∀ v : Lane → Nat → Nat, op = 0 → (∀ x ∈ r.lanes, ∀ ch < pixelBytes f, ∃ n ≤ 5, Pixel s n fr (px x) (py x) ch (v x ch)) →
      exec (.reliefRequest req) s = bound fun x =>
        [BitVec.ofNat 32 (if pixelBytes f = 4 then v x 0 + 256 * v x 1 + 65536 * v x 2 + 2 ^ 24 * v x 3 else v x 0)]) ∧
    (op = 4 → exec (.reliefRequest req) s = bound fun x => (List.range 4).map (bw f (blockAt f (px x) (py x))))) ∧
  (∀ s req r op fr v, AtEngine s req r op fr → FirstAtEngine s r → op = 0 ∨ op = 4 ∨ s.relAhead r.team r.id = false → s.surface? fr = none → Free s (.relief req) → InDram fr 4 →
    DescCode (fun i => s.physWord (fr + 4 * i)) v → v ≠ 0 → Whole s fr 128 → MemOk s →
    ∃ s', exec (.reliefRequest req) s = .next s' ∧ OnlyBytes s s' fr 4 ∧ fld (memWord s'.mem fr) 11 8 = v ∧
      SameBut (memWord s'.mem fr) (memWord s.mem fr) 11 8 ∧ s'.surfaces = s.surfaces ∧
      ∃ q, s'.req? req = some q ∧ (∀ x ∈ q.lanes, x.st = .bound ∧ (op = 0 → x.got = [0]) ∧ (op = 4 → x.got = [0, 0, 0, 0])) ∧
        (op ≠ 0 → op ≠ 4 → q.kind = .relief op fr (some false))) ∧
  ∀ s req r op fr ans t, s.dev = .operational → s.req? req = some r → s.live r = true → r.kind = .relief op fr ans → op = 0 ∨ op = 4 →
    s.team? r.team = some t →
    (t.gen ≠ r.gen → exec (.reliefResultReturn req) s = .next (s.dropOld r)) ∧
    (t.gen = r.gen → (∀ x ∈ r.lanes, x.st ≠ .pending) → exec (.reliefResultReturn req) s = .next (s.landReq r))

/-- A surface whose descriptor passes the checks is held on its first access, Open or Sealed as its STATE says, with its DEPTH written; references must be Sealed and of the same
shape, and a chain of more than four is too deep (R314, R315, R317, R318). That a held descriptor keeps the rest of its word 0, RCODE among it, and that a refused
one keeps all but RCODE, is the model's choice (notes/assumptions/71.md). -/
def Sys2Proof.Claims.Registration : Prop :=
  ∀ s ctx fr (g : Nat → Surface) (p : Nat → Nat), s.surface? fr = none → InDram fr (128 + 2 ^ 28) → MemOk s →
    let w (i : Nat) : Word := s.physWord (fr + 4 * i)
    let n := fld (w 0) 7 5
    DescCode w 0 → Whole s fr (128 + 16 * (fld (w 1) 15 0 / 4 * (fld (w 1) 31 16 / 4))) → (∀ r < n, RefHeld s ctx w r (p r) (g r)) →
    let depth := if n = 0 then 0 else 1 + ((List.range n).map fun r => fld (sw (g r) 0) 4 2).foldl max 0
    let refused (v : Nat) : Prop := ∃ s', s.holdSurf ctx fr [] = (s', .refused v) ∧ s'.surfaces = s.surfaces ∧
      OnlyBytes s s' fr 4 ∧ fld (memWord s'.mem fr) 11 8 = v
    ((∃ r < n, ¬RefMatches w (g r)) → refused 3) ∧
    ((∀ r < n, RefMatches w (g r)) → 4 < depth → refused 4) ∧
    ((∀ r < n, RefMatches w (g r)) → depth ≤ 4 → ∃ s' f, s.holdSurf ctx fr [] = (s', .held) ∧ s'.surface? fr = some f ∧
      f.ctx = ctx ∧ f.kept = [] ∧ f.st = (if fld (w 0) 15 14 = 0 then .open_ else .sealed) ∧ f.refs = (List.range n).map p ∧ f.dirty = [] ∧
      f.progress = none ∧ fld (sw f 0) 4 2 = depth ∧ SameBut (sw f 0) (w 0) 4 2 ∧ OnlyBytes s s' fr 4 ∧ memWord s'.mem fr = sw f 0 ∧
      (∀ i, 1 ≤ i → 4 * i + 4 ≤ 128 + 16 * blockCount f → memWord f.coded (4 * i) = w i) ∧
      ∀ h, h ≠ fr → s'.surface? h = s.surface? h)

/-- The engine accepts a store when the surface is Open and refuses it otherwise; its lanes apply in ascending order. RSTP materialises the block and writes the pixel; RSTC sets
the levels of a channel and RSTM the fields of a block as R321 says; lanes beyond the surface are Ignored, and lanes that R332 and R333 ignore raise IGN. The held team then goes
on or takes the protection trap (R321, R328, R329, R331, R332, R333). -/
def Obligations.ReliefStores : Prop :=
  (∀ s req r op fr f, AtEngine s req r op fr → FirstAtEngine s r → s.relAhead r.team r.id = false → s.surface? fr = some f → Linked s 6 fr →
    Free s (.relief req) → 1 ≤ op → op ≤ 3 →
    let done (u : State) (ok : Bool) : Host.Outcome State Fault Refusal := .next (u.putReq
      { r with kind := .relief op fr (some ok), lanes := r.lanes.map fun x => { x with st := .bound } })
    (f.st ≠ .open_ → exec (.reliefRequest req) s = done s false) ∧
    (∀ u, f.st = .open_ → CacheRoom s fr f r.lanes.length →
      r.lanes.foldl (fun (w : Rd State) x => w.bind fun v => v.reliefLane [] op fr x) (.val s []) = .val u [] → u.giveUp = s.giveUp →
      exec (.reliefRequest req) s = done u true)) ∧
  (∀ (s : State) op fr x f, s.surface? fr = some f → (wide f ≤ coordAt x 13 0 ∨ high f ≤ coordAt x 29 16) →
    s.reliefLane [] op fr x = .val s []) ∧
  (∀ (s : State) fr x f (v : Nat → Nat → Nat), s.surface? fr = some f → f.frame = fr → coordAt x 13 0 < wide f → coordAt x 29 16 < high f →
    wide f % 4 = 0 → high f % 4 = 0 → MemOk s → Memory.wf f.coded = true → InDram fr (128 + 16 * blockCount f) →
    let px := coordAt x 13 0
    let py := coordAt x 29 16
    let b := blockAt f px py
    let n := pixelBytes f
    let w : Word := x.data.getD 1 0
    -- the pixels of the block before
    let has : Prop := ∀ i < 16, ∀ ch < n, ∃ d ≤ 5, Pixel s d fr (px / 4 * 4 + i % 4) (py / 4 * 4 + i / 4) ch (v i ch)
    let inBlock (i : Nat) : Prop := 32 + 4 * b ≤ i ∧ i < 36 + 4 * b
    -- Open-dirty with these pixels, this mode, reference, QP and motion; NZ, HLEN and HOFF stay
    let dirtied (s' : State) (g : Surface) (pix : Nat → Nat → Nat) (mode ref qp : Nat) (mx my : Int) : Prop :=
      Becomes s s' fr f g ∧ CodedBut f g inBlock ∧ OpenDirty g b ∧ modeOf g b = mode ∧ refOf g b = ref ∧ qpOf g b = qp ∧ mvx g b = mx ∧
      mvy g b = my ∧ (∀ c < 4, nzOf g b c = nzOf f b c) ∧ hlenOf g b = hlenOf f b ∧ bw g b 3 = bw f b 3 ∧
      (∃ ps, g.dirty = (b, some ps) :: f.dirty.filter (fun y => y.1 ≠ b) ∧ ∀ i < 16, ∀ ch < n, (ps.getD (i * n + ch) 0).toNat = pix i ch) ∧
      OnlyBytes s s' (fr + 128 + 16 * b) 16
    -- IGN is one more, up to 255
    let ignored (s' : State) (g : Surface) : Prop :=
      Becomes s s' fr f g ∧ CodedBut f g (fun i => i = 2) ∧ fld (sw g 2) 15 8 = min 255 (fld (sw f 2) 15 8 + 1) ∧
      SameBut (sw g 2) (sw f 2) 15 8 ∧ g.dirty = f.dirty ∧ OnlyBytes s s' (fr + 8) 4
    -- RSTP
    (has → ∃ s' g, s.reliefLane [] 1 fr x = .val s' [] ∧ dirtied s' g
      (fun i ch => if i = 4 * (py % 4) + px % 4 then w.toNat / 2 ^ (8 * ch) % 256 else v i ch)
      (modeOf f b) (refOf f b) (qpOf f b) (mvx f b) (mvy f b)) ∧
    -- RSTC
    (let ch := coordAt x 15 14
     let lv (k : Nat) : Int :=
       max (-2048) (min 2047 (BitVec.ofNat 16 ((x.data.getD (1 + k / 2) 0).toNat / 2 ^ (16 * (k % 2)))).toInt)
     (n ≤ ch ∨ refCount f ≤ refOf f b → ∃ s' g, s.reliefLane [] 2 fr x = .val s' [] ∧ ignored s' g) ∧
     -- the levels of a Clean INTER or SKIP block, with the new channel; the heap bytes that hold them
     ∀ lvs : Nat → Nat → Int, (∀ c < n, c = ch → lvs c = lv) →
     (¬OpenDirty f b → modeOf f b = 3 → ∀ c < n, c ≠ ch → ∀ k, lvs c k = 0) →
     (¬OpenDirty f b → modeOf f b = 2 → ∀ c < n, ∃ bs l, Levels bs (nzOf f b c) l ∧ (c ≠ ch → lvs c = l) ∧
       HeapBytes s f (hoffOf f b + 2 * ((List.range c).map (nzOf f b)).sum) (2 * nzOf f b c) bs) →
     let bytes := ((List.range n).map fun c => entriesFor (lvs c)).flatten.flatten
     let room := (sw f 7).toNat + bytes.length ≤ (sw f 6).toNat
     (∀ p : Nat → Nat → Nat → Nat, ch < n → refOf f b < refCount f → has → OpenDirty f b ∨ modeOf f b < 2 ∨ (BlockOk f b ∧ ¬room) →
       (∀ i : Nat, i < 16 → ∀ j : Nat, j < 2 → ∀ k : Nat, k < 2 → ∃ d ≤ 5, Pixel s d (f.refs.getD (refOf f b) 0)
         (clampTop (wide f - 1 : Nat) ((px / 4 * 4 + i % 4 : Nat) + mvx f b / 4 + j))
         (clampTop (high f - 1 : Nat) ((py / 4 * 4 + i / 4 : Nat) + mvy f b / 4 + k)) ch (p i j k)) →
       ∃ s' g, s.reliefLane [] 2 fr x = .val s' [] ∧ dirtied s' g
         (fun i c => if c = ch then clampTop 255 (blend (mvx f b % 4) (mvy f b % 4) (p i) + residualOf lv (qpOf f b) (i % 4) (i / 4)) else v i c)
         2 (refOf f b) (qpOf f b) (mvx f b) (mvy f b)) ∧
     (ch < n → refOf f b < refCount f → BlockOk f b → ¬OpenDirty f b → 2 ≤ modeOf f b → room → (sw f 7).toNat + bytes.length < 2 ^ 32 →
       let va := heapAt f + (sw f 7).toNat
       ∀ pa, (bytes ≠ [] → HeapWrites s f.ctx va pa bytes.length) → (pa + bytes.length ≤ fr ∨ fr + 128 + 16 * blockCount f ≤ pa) →
       ∃ s' g, s.reliefLane [] 2 fr x = .val s' [] ∧ Becomes s s' fr f g ∧ g.dirty = f.dirty ∧ ¬OpenDirty g b ∧ modeOf g b = 2 ∧
         refOf g b = refOf f b ∧ qpOf g b = qpOf f b ∧ mvx g b = mvx f b ∧ mvy g b = mvy f b ∧
         (∀ c < n, nzOf g b c = (entriesFor (lvs c)).length) ∧ hlenOf g b = bytes.length ∧ hoffOf g b = (sw f 7).toNat ∧
         (sw g 7).toNat = (sw f 7).toNat + bytes.length ∧ CodedBut f g (fun i => i = 7 ∨ inBlock i) ∧
         memRead s'.mem pa bytes.length = bytes)) ∧
    -- RSTM
    (let mode := fld w 25 24
     let ref := fld w 27 26
     let mx := (BitVec.ofNat 12 (fld w 11 0)).toInt
     let my := (BitVec.ofNat 12 (fld w 23 12)).toInt
     (2 ≤ mode → refCount f ≤ ref → ∃ s' g, s.reliefLane [] 3 fr x = .val s' [] ∧ ignored s' g) ∧
     (¬(2 ≤ mode ∧ refCount f ≤ ref) → OpenDirty f b ∨ 2 ≤ mode →
       ∃ s' g, s.reliefLane [] 3 fr x = .val s' [] ∧ Becomes s s' fr f g ∧ CodedBut f g inBlock ∧ g.dirty = f.dirty ∧
         (OpenDirty g b ↔ OpenDirty f b) ∧ modeOf g b = mode ∧ refOf g b = ref ∧ qpOf g b = fld w 31 28 ∧ mvx g b = mx ∧ mvy g b = my ∧
         bw g b 3 = bw f b 3 ∧ OnlyBytes s s' (fr + 128 + 16 * b) 16 ∧
         (if ¬OpenDirty f b ∧ (mode = 3 ∨ modeOf f b ≠ 2) then (∀ c < 4, nzOf g b c = 0) ∧ hlenOf g b = 0
          else (∀ c < 4, nzOf g b c = nzOf f b c) ∧ hlenOf g b = hlenOf f b)) ∧
     (mode < 2 → ¬OpenDirty f b → has → ∃ s' g, s.reliefLane [] 3 fr x = .val s' [] ∧ dirtied s' g v mode ref (fld w 31 28) mx my))) ∧
  (∀ s req r t c a op fr, s.dev = .operational → s.req? req = some r → s.live r = true → s.team? r.team = some t →
    t.hold = some (.relief c a r.id) →
    (r.kind = .relief op fr (some true) → exec (.reliefAcceptReturn req) s = .next
      (((s.dropReq r.id).setDeadline r 0).complete c ({ t with hold := none }.useMarks c [a] []))) ∧
    (r.kind = .relief op fr (some false) → exec (.reliefAcceptReturn req) s =
      .next ((s.dropReq r.id).trap { t with hold := none } 9 0 t.mask (t.getLow a))) ∧
    (r.kind = .relief op fr none → exec (.reliefAcceptReturn req) s = .next s))

/-- RSEAL waits for the team's release, and then seals an Open surface, flattens or retires, with the codes of R335 and the descriptor's RCODE; a block that is evicted goes to the open area and keeps its
value (R315, R321, R324, R335). A flatten that clears OVER (notes/assumptions/70.md) and D that carries RCODE whatever CODE is (notes/assumptions/71.md) are the
model's choice. -/
def Sys2Proof.Claims.SealActions : Prop :=
  (∀ s t c d a fr f, Issues s t → Readable t [a, d] → NamesSurface s t fr → Uniform t a → s.surface? fr = some f → Linked s 6 fr →
    Free s (.relief t.id) →
    let v := t.getLow a
    (s.releaseDone t.id .device s.nextId = false → ∃ s', exec (.rseal c d a) s = .next s' ∧
      Issues s' { t with st := .waitingCounter (.release .device s.nextId), finish := .again (.rseal c d a) } ∧ s'.surfaces = s.surfaces) ∧
    (s.releaseDone t.id .device s.nextId = true → MemOk s → Memory.wf f.coded = true → InDram fr 128 →
      let ends (s2 : State) (code : Nat) : Prop :=
        exec (.rseal c d a) s = .next (s2.complete c ((t.useMarks c [a] []).write t [(d, fun _ => BitVec.ofNat 32 (code + 256 * fld (sw f 0) 11 8))]))
      let same (code : Nat) : Prop := ∃ s2, { s2 with tlb := s.tlb } = s ∧ ends s2 code
      (fld v 31 2 ≠ 0 ∨ fld v 1 0 = 3 → same 4) ∧
      (fld v 31 2 = 0 →
        (fld v 1 0 = 0 → f.st ≠ .open_ → same 1) ∧ (fld v 1 0 = 1 → f.st = .sealing → same 1) ∧
        (fld v 1 0 = 2 → (f.st = .sealing ∨ ∃ g ∈ s.surfaces, fr ∈ g.refs) → same 2) ∧
        ((fld v 1 0 = 0 ∧ f.st = .open_) ∨ (fld v 1 0 = 1 ∧ f.st ≠ .sealing) →
          ∃ s2 g p, ends s2 0 ∧ Becomes s s2 fr f g ∧ g.st = .sealing ∧ g.progress = some p ∧ g.dirty = f.dirty ∧
            CodedBut f g (fun i => i = 0) ∧ SameBut (sw g 0) (sw f 0) 15 13 ∧ fld (sw g 0) 15 13 = 2 ∧ OnlyBytes s s2 fr 4 ∧
            p.flatten = (fld v 1 0 == 1) ∧ p.j = 0 ∧ p.n = p.todo.length ∧ p.q = fld (sw f 2) 3 0 ∧ p.h0 = (sw f 7).toNat ∧
            p.rb = min (sw f 3).toNat (sw f 6).toNat - (sw f 7).toNat ∧ p.fallback = false ∧
            p.todo = (List.range (blockCount f)).filter fun b => fld v 1 0 = 1 ∨ OpenDirty f b) ∧
        (fld v 1 0 = 2 → f.st ≠ .sealing → (∀ g ∈ s.surfaces, fr ∉ g.refs) →
          ∃ s2, ends s2 0 ∧ s2.surfaces = s.surfaces.filter (fun g => g.frame ≠ fr) ∧ OnlyBytes s s2 fr 4 ∧
            fld (memWord s2.mem fr) 15 14 = 3 ∧ s2.teams = s.teams)))) ∧
  ∀ s fr b f ps pa, s.dev = .operational → s.surface? fr = some f → f.dirty.find? (fun x => x.1 == b) = some (b, some ps) →
    openAt f ≠ 0 → 0 < ps.length → HeapWrites s f.ctx (openAt f + 16 * pixelBytes f * b) pa ps.length → Linked s 6 fr →
    MemOk s → Free s (.seal fr) →
    ∃ s' g, exec (.blockEvict fr b) s = .next s' ∧ OnlyBytes s s' pa ps.length ∧ memRead s'.mem pa ps.length = ps ∧ Becomes s s' fr f g ∧
      g.coded = f.coded ∧ g.dirty = (b, none) :: f.dirty.filter (fun y => y.1 ≠ b)

namespace Sys2Proof.Claims

/-- The rows of the forward transform and their norms (R336). -/
def fwdRow : Nat → Nat → Int
  | 0, _ => 1
  | 1, i => [2, 1, -1, -2].getD i 0
  | 2, i => [1, -1, -1, 1].getD i 0
  | _, i => [1, -2, 2, -1].getD i 0

def fwdNorm (r : Nat) : Int := if r = 1 ∨ r = 3 then 5 else 4

/-- Ties away from zero. -/
def nearestAway (n d : Int) : Int := n.sign * ((2 * (n.natAbs : Int) + d) / (2 * d))

/-- level[r][s] of differences a(w, u) at QP q (R336). -/
def levelOf (a : Nat → Nat → Int) (q r c : Nat) : Int :=
  let f := ((List.range 4).map fun w => ((List.range 4).map fun u => fwdRow r w * fwdRow c u * a w u).sum).sum
  max (-2048) (min 2047 (nearestAway (64 * f) (fwdNorm r * fwdNorm c * stepOf q)))

/-- A block as it is encoded: MODE, QP, NZ, its heap bytes, and HOFF where it appends none. -/
structure Coded where
  mode : Nat
  qp : Nat
  nz : List Nat
  bytes : List Byte
  off : Nat

/-- The block's channel values, when each channel is equal over the 16 pixels. -/
abbrev Flat (n : Nat) (ps : Nat → Nat → Nat) : Prop := ∀ i < 16, ∀ ch < n, ps i ch = ps 0 ch

def firstPixel (n : Nat) (ps : Nat → Nat → Nat) : Nat := ((List.range n).map fun ch => ps 0 ch * 256 ^ ch).sum

/-- R336: what a block of surface f with pixels ps (pixel, channel) and predictions pr becomes at QP q; all: a flatten. -/
abbrev Encodes (f : Surface) (b : Nat) (all : Bool) (ps : Nat → Nat → Nat) (pr : Nat → Nat → Int) (q : Nat) (e : Coded) : Prop :=
  let n := pixelBytes f
  let raw : Coded := { mode := 0, qp := qpOf f b, nz := [0, 0, 0, 0], off := hoffOf f b
                       bytes := (List.range (16 * n)).map fun i => BitVec.ofNat 8 (ps (i / n) (i % n)) }
  let const : Coded := { mode := 1, qp := qpOf f b, nz := [0, 0, 0, 0], bytes := [], off := firstPixel n ps }
  let es := (List.range n).map fun ch => entriesFor fun k => levelOf (fun w u => ps (4 * w + u) ch - pr (4 * w + u) ch) q (k / 4) (k % 4)
  (all = true ∨ modeOf f b = 0 → e = raw) ∧
  (all = false → modeOf f b = 1 ∨ (2 ≤ modeOf f b ∧ refCount f ≤ refOf f b) → (Flat n ps → e = const) ∧ (¬Flat n ps → e = raw)) ∧
  (all = false → 2 ≤ modeOf f b → refOf f b < refCount f →
    ((∀ x ∈ es, x = []) → e = { mode := 3, qp := qpOf f b, nz := [0, 0, 0, 0], bytes := [], off := hoffOf f b }) ∧
    (¬(∀ x ∈ es, x = []) → e = { mode := 2, qp := q, nz := (List.range 4).map fun c => (es.getD c []).length, bytes := es.flatten.flatten,
                                 off := hoffOf f b }))

end Sys2Proof.Claims

/-- A seal or flatten commits its blocks in ascending order, each with its heap bytes at HFILL and its descriptor in one step: at the least QP, from the seal's present one on, that
keeps the block within its share of the budget, or by the SKIP fallback once none does; the last block leaves the surface Sealed, and an open area that the engine may not read leaves it Open, with BAD (R315, R320, R336, R337, R338). NZ 0 in RAW and CONST blocks is the model's choice (notes/assumptions/18.md). -/
def Sys2Proof.Claims.Seals : Prop :=
  (∀ s fr, s.dev = .operational → (s.surface? fr = none ∨ (Linked s 6 fr ∧ ∃ f, s.surface? fr = some f ∧ f.progress = none)) → Free s (.seal fr) →
    exec (.sealBlockCommit fr) s = .next s) ∧
  ∀ s fr f p, s.dev = .operational → s.surface? fr = some f → Linked s 6 fr → f.progress = some p → Free s (.seal fr) → MemOk s →
    Memory.wf f.coded = true → InDram fr (128 + 16 * blockCount f) →
    (p.todo = [] → p.entry = none → ∃ s' g, exec (.sealBlockCommit fr) s = .next s' ∧ Becomes s s' fr f g ∧ g.st = .sealed ∧ g.progress = none ∧
      g.dirty = f.dirty ∧ CodedBut f g (fun i => i = 0) ∧ fld (sw g 0) 15 14 = 2 ∧ SameBut (sw g 0) (sw f 0) 15 14 ∧ OnlyBytes s s' fr 4) ∧
    (∀ b rest, p.todo = b :: rest → p.entry = none → s.openForbidden f b = true →
      ∃ s' g, exec (.sealBlockCommit fr) s = .next s' ∧ Becomes s s' fr f g ∧ g.st = .open_ ∧ g.progress = none ∧ g.dirty = f.dirty ∧
        CodedBut f g (fun i => i = 0) ∧ fld (sw g 0) 15 14 = 0 ∧ fld (sw g 0) 12 12 = 1 ∧ OnlyBytes s s' fr 4) ∧
    (∀ b rest, p.todo = b :: rest → s.openForbidden f b = false → p.flatten = true → (sw f 6).toNat < (sw f 7).toNat + 16 * pixelBytes f →
      ∃ s' g, exec (.sealBlockCommit fr) s = .next s' ∧ Becomes s s' fr f g ∧ g.progress = some { p with todo := [] } ∧ g.st = f.st ∧
        CodedBut f g (fun i => i = 0) ∧ fld (sw g 0) 13 13 = 1 ∧ SameBut (sw g 0) (sw f 0) 13 13 ∧ OnlyBytes s s' fr 4) ∧
    ∀ b rest (ps : Nat → Nat → Nat) (pr : Nat → Nat → Int) (p4 : Nat → Nat → Nat → Nat → Nat) (enc : Nat → Coded) (q : Nat),
      p.todo = b :: rest → b < blockCount f → 0 < p.n →
      (p.flatten = true → (sw f 7).toNat + 16 * pixelBytes f ≤ (sw f 6).toNat) →
      let n := pixelBytes f
      let bx := b % (wide f / 4) * 4
      let by_ := b / (wide f / 4) * 4
      (∀ i < 16, ∀ ch < n, ∃ d ≤ 5, Pixel s d fr (bx + i % 4) (by_ + i / 4) ch (ps i ch)) →
      (p.flatten = false → 2 ≤ modeOf f b → refOf f b < refCount f → ∀ i : Nat, i < 16 → ∀ ch < n,
        (∀ j : Nat, j < 2 → ∀ k : Nat, k < 2 → ∃ d ≤ 5, Pixel s d (f.refs.getD (refOf f b) 0) (clampTop (wide f - 1 : Nat) ((bx + i % 4 : Nat) + mvx f b / 4 + j))
          (clampTop (high f - 1 : Nat) ((by_ + i / 4 : Nat) + mvy f b / 4 + k)) ch (p4 i ch j k)) ∧
        pr i ch = blend (mvx f b % 4) (mvy f b % 4) (p4 i ch)) →
      (∀ x, Encodes f b p.flatten ps pr x (enc x)) →
      let fits (x : Nat) : Prop := (sw f 7).toNat + (enc x).bytes.length - p.h0 ≤ p.rb * (p.j + 1) / p.n
      -- the QP of the block: the least from p.q on that fits, and 15 where none does
      (p.flatten = true ∨ p.fallback = true → q = p.q) →
      (p.flatten = false → p.fallback = false → p.q ≤ 15 → p.q ≤ q ∧ q ≤ 15 ∧ (∀ x, p.q ≤ x → x < q → ¬fits x) ∧ (q < 15 → fits q)) →
      p.q ≤ 15 →
      let fb : Prop := p.flatten = false ∧ (p.fallback = true ∨ ¬fits q)
      ∀ e, (¬fb → e = enc q) →
      (fb → e = if refOf f b < refCount f then { mode := 3, qp := qpOf f b, nz := [0, 0, 0, 0], bytes := [], off := hoffOf f b }
                else { mode := 1, qp := qpOf f b, nz := [0, 0, 0, 0], bytes := [], off := firstPixel n ps }) →
      let va := heapAt f + (sw f 7).toNat
      ∀ pa, (e.bytes ≠ [] → HeapWrites s f.ctx va pa e.bytes.length) →
      (pa + e.bytes.length ≤ fr ∨ fr + 128 + 16 * blockCount f ≤ pa) → (sw f 7).toNat + e.bytes.length < 2 ^ 32 →
      ∃ s' g p', exec (.sealBlockCommit fr) s = .next s' ∧ Becomes s s' fr f g ∧ g.st = f.st ∧ g.progress = some p' ∧
        p'.todo = rest ∧ p'.j = p.j + 1 ∧ (fb → p'.q = 15 ∧ p'.fallback = true) ∧ (¬fb → p'.q = q ∧ p'.fallback = false) ∧
        ¬OpenDirty g b ∧ modeOf g b = e.mode ∧ qpOf g b = e.qp ∧ refOf g b = refOf f b ∧ mvx g b = mvx f b ∧ mvy g b = mvy f b ∧
        (∀ c < 4, nzOf g b c = e.nz.getD c 0) ∧ hlenOf g b = e.bytes.length ∧
        hoffOf g b = (if e.bytes = [] then e.off else (sw f 7).toNat) ∧ (sw g 7).toNat = (sw f 7).toNat + e.bytes.length ∧
        (fb → fld (sw g 0) 13 13 = 1) ∧ CodedBut f g (fun i => i = 7 ∨ (i = 0 ∧ fb) ∨ (32 + 4 * b ≤ i ∧ i < 36 + 4 * b)) ∧
        g.dirty = f.dirty.filter (fun y => y.1 ≠ b) ∧ memRead s'.mem pa e.bytes.length = e.bytes

/-- An LDG of a raw view returns the bytes of value(), one of the coded view the words that the engine holds; a raw-view store materialises its block as RAW and writes its byte, and is
refused in the lanes of surfaces that are not Open: then it traps with those lanes and the offset of the lowest (R325, R326). -/
def Sys2Proof.Claims.RawViews : Prop :=
  (∀ s req r x sz sx strong stream fr f (v : Nat → Nat), s.dev = .operational → s.req? req = some r → s.live r = true → r.lanes = [x] →
    r.kind = .ldg sz sx strong stream → x.st = .pending → s.blocked r.team r.id x.pa (bytesOf sz) = false → s.surface? fr = some f →
    FirstAtEngine s r → Linked s 6 fr → Unheld s (.relief req) →
    let bound (bs : List Byte) : Host.Outcome State Fault Refusal := .next (s.putReq (r.setLane { x with got := loaded sz sx bs, st := .bound }))
    (x.attr.raw = true → s.leafFrame r.ctx x.va x.pa = fr →
      (∀ i < bytesOf sz, let o := x.va + i - ((sw f 8).toNat + 2 ^ 32 * fld (sw f 9) 22 0)
        ∃ d ≤ 5, Pixel s d fr (o / pixelBytes f % wide f) (o / pixelBytes f / wide f) (o % pixelBytes f) (v i)) →
      exec (.reliefRequest req) s = bound ((List.range (bytesOf sz)).map fun i => BitVec.ofNat 8 (v i))) ∧
    (x.attr.raw = false → x.attr.rlf = true → (∀ i < bytesOf sz, s.codedAt (x.pa + i) = some (f, x.pa + i - fr)) → fr ≤ x.pa →
      exec (.reliefRequest req) s = bound ((List.range (bytesOf sz)).map fun i => memGet f.coded (x.pa + i - fr)))) ∧
  (∀ s req r x t c a strong stream fr f, s.dev = .operational → s.req? req = some r → s.live r = true → r.lanes = [x] →
    r.kind = .stg .b strong stream → x.data.length = 1 → x.st = .pending → x.attr.raw = true → s.team? r.team = some t → t.hold = some (.relief c a r.id) →
    s.leafFrame r.ctx x.va x.pa = fr → s.surface? fr = some f → FirstAtEngine s r → s.relAhead r.team r.id = false → Linked s 6 fr →
    Free s (.relief req) →
    (f.st ≠ .open_ → exec (.reliefRequest req) s = .next (s.putReq { r with lanes := [{ x with st := .done, got := [1] }] })) ∧
    (∀ v : Nat → Nat → Nat, f.st = .open_ → CacheRoom s fr f 1 → wide f % 4 = 0 → high f % 4 = 0 → MemOk s → Memory.wf f.coded = true →
      InDram fr (128 + 16 * blockCount f) →
      let o := x.va - ((sw f 8).toNat + 2 ^ 32 * fld (sw f 9) 22 0)
      let n := pixelBytes f
      let px := o / n % wide f
      let py := o / n / wide f
      let b := blockAt f px py
      0 < wide f → py < high f →
      (∀ i < 16, ∀ ch < n, ∃ d ≤ 5, Pixel s d fr (px / 4 * 4 + i % 4) (py / 4 * 4 + i / 4) ch (v i ch)) →
      ∃ s' g, exec (.reliefRequest req) s = .next s' ∧ LaneIs s' req x.lane { x with st := .acked 0 } ∧ s'.surface? fr = some g ∧
        OpenDirty g b ∧ modeOf g b = 0 ∧ OnlyBytes s s' (fr + 128 + 16 * b) 16 ∧ s'.teams = s.teams ∧
        ∃ ps, g.dirty = (b, some ps) :: f.dirty.filter (fun y => y.1 ≠ b) ∧ ∀ i < 16, ∀ ch < n, (ps.getD (i * n + ch) 0).toNat =
          if i = 4 * (py % 4) + px % 4 ∧ ch = o % n then (x.data.getD 0 0).toNat % 256 else v i ch)) ∧
  ∀ s req r t c a sz strong stream, s.dev = .operational → s.req? req = some r → s.live r = true → s.team? r.team = some t →
    r.kind = .stg sz strong stream → t.hold = some (.relief c a r.id) →
    let u : Team := { t with hold := none }
    ((∃ x ∈ r.lanes, x.attr.raw = true ∧ x.st = .pending) → exec (.reliefAcceptReturn req) s = .next s) ∧
    ((∀ x ∈ r.lanes, ¬(x.attr.raw = true ∧ x.st = .pending)) →
      ((∀ x ∈ r.lanes, x.got ≠ [1]) → exec (.reliefAcceptReturn req) s = .next (s.complete c (u.useMarks c [a] []))) ∧
      (∀ m l ls, r.lanes.filter (fun x => x.got == [1]) = l :: ls →
        (∀ k < 1024, m.getLsbD k = decide (∃ x ∈ l :: ls, x.lane = k)) → (∀ x ∈ l :: ls, x.lane < 1024) →
        exec (.reliefAcceptReturn req) s = .next ((s.dropReq r.id).trap u 9 0 m (u.get a l.lane))))

/-! ## The visibility unit -/

namespace Sys2Proof.Claims

/-- TRACE, BOXT, TRIT, COVR and BINT: the operands and results (R352). -/
structure IsecOp where
  c : Ctl
  op : Nat
  as : List Fld
  ds : List Fld

def fields (f : Fld) (n : Nat) : List Fld := (List.range n).map fun i => f + BitVec.ofNat 7 i

def isecOp : Instr → Option IsecOp
  | .boxt c d a => some { c := c, op := 1, as := fields a 9, ds := fields d 4 }
  | .trit c d a => some { c := c, op := 2, as := fields a 9, ds := fields d 5 }
  | .covr c d a => some { c := c, op := 3, as := fields a 7, ds := fields d 4 }
  | .bint c d a => some { c := c, op := 4, as := fields a 7, ds := fields d 4 }
  | _ => none

/-- The translation register and the root that BVH names (R342). -/
def bvhReg (t : Team) : Xl := t.xl.getD (fld t.bvh 2 0) Xl.reset
def bvhRoot (t : Team) : Word := BitVec.ofNat 32 (2 * fld t.bvh 31 6)

/-- Where the node of a reference lies; its status where it is refused (R343, R344, R349). -/
abbrev NodeAt (frame limit : Nat) (at_ : Attr) (ref : Word) (pa : Nat) : Prop :=
  64 * (ref.toNat / 2) + 64 ≤ limit ∧ pa = frame + 64 * (ref.toNat / 2) ∧ at_.rlf = false ∧ at_.raw = false ∧ isRemote pa = false

abbrev NodeRefused (frame limit : Nat) (at_ : Attr) (ref : Word) (v : Nat) : Prop :=
  (limit < 64 * (ref.toNat / 2) + 64 ∧ v = 2) ∨
  (64 * (ref.toNat / 2) + 64 ≤ limit ∧ (at_.rlf = true ∨ at_.raw = true ∨ isRemote (frame + 64 * (ref.toNat / 2)) = true) ∧ v = 3)

/-- The node that BOXT (1) or TRIT (2) names: a reference of the other kind counts as not reachable (R353). -/
abbrev SingleNode (op frame limit : Nat) (at_ : Attr) (ref : Word) (pa : Nat) : Prop :=
  ((op = 1 ∧ ref.getLsbD 0 = false) ∨ (op = 2 ∧ ref.getLsbD 0 = true)) ∧ NodeAt frame limit at_ ref pa

/-- Two addresses have one bank, and so one datapath (R14, R341). -/
abbrev SameBank (pa pb : Nat) : Prop := pa / 2 ^ 36 = pb / 2 ^ 36 ∧ pa / 4096 % 16 = pb / 4096 % 16

/-- Nothing that reached the datapath of a bank before waits there (R341): COVR and BINT have that of bank (core mod 16) of their core's slice (R353). One whose
own team's earlier accesses hold its node back has no turn (R149, R185; notes/assumptions/98.md). -/
abbrev DatapathTurn (s : State) (slice bank came : Nat) : Prop :=
  ∀ q ∈ s.reqs, s.live q = true →
    let here (pb : Nat) : Prop := pb / 2 ^ 36 = slice ∧ pb / 4096 % 16 = bank ∧ s.blocked q.team q.id pb 64 = false
    (q.kind = .trace → ∀ z ∈ q.rays, z.st = .queued → z.came < came → ∀ x rest pb, z.stack = x :: rest →
      NodeAt z.frame z.limit z.attr x pb → ¬here pb) ∧
    (∀ op frame limit at_, q.kind = .isec op frame limit at_ → ∀ x ∈ q.lanes, x.st = .pending → x.dst ≠ 0 → x.dst < came →
      (op = 1 ∨ op = 2 → ∀ pb, SingleNode op frame limit at_ (x.data.getD 8 0) pb → ¬here pb) ∧
      (op ≠ 1 → op ≠ 2 → ¬(q.core / 32 = slice ∧ q.core % 16 = bank)))

/-- It is its turn at the datapath of a node's bank. -/
abbrev BankTurn (s : State) (pa came : Nat) : Prop := DatapathTurn s (pa / 2 ^ 36) (pa / 4096 % 16) came

/-- Comparisons of FP32 values; with a NaN they are false (R127, R345). -/
abbrev Less (a b : Word) : Prop := (F a).lt (F b) = true
abbrev Equal (a b : Word) : Prop := (F a).eqv (F b) = true
abbrev AtMost (a b : Word) : Prop := Less a b ∨ Equal a b

/-- The box test of R345 for the box whose minima and maxima stand at words m and m + 3 of a node: entry distance tn under limit tb. -/
def entryOf (ray node : List Word) (m : Nat) : Word :=
  let t (c i : Nat) : Word := fmul (fsub (node.getD (c + i) 0) (ray.getD i 0)) (frcp (ray.getD (3 + i) 0))
  let lo (i : Nat) : Word := fmin (t m i) (t (m + 3) i)
  fmax (fmax (fmax (lo 0) (lo 1)) (lo 2)) (ray.getD 6 0)

def exitOf (ray node : List Word) (m : Nat) (tb : Word) : Word :=
  let t (c i : Nat) : Word := fmul (fsub (node.getD (c + i) 0) (ray.getD i 0)) (frcp (ray.getD (3 + i) 0))
  let hi (i : Nat) : Word := fmax (t m i) (t (m + 3) i)
  fmin (fmin (fmin (hi 0) (hi 1)) (hi 2)) tb

/-- Child i of a box node is a node that the ray hits (R343, R345, R347). -/
abbrev Hits (ray node : List Word) (i : Nat) (tb : Word) : Prop :=
  node.getD (12 + i) 0 ≠ 0xFFFFFFFF#32 ∧ AtMost (entryOf ray node (6 * i)) (exitOf ray node (6 * i) tb)

/-- Vectors of R345 by component. -/
abbrev Vec := Nat → Word
def dotOf (a b : Vec) : Word := fadd (fadd (fmul (a 0) (b 0)) (fmul (a 1) (b 1))) (fmul (a 2) (b 2))
def crossOf (a b : Vec) : Vec := fun i =>
  fsub (fmul (a ((i + 1) % 3)) (b ((i + 2) % 3))) (fmul (a ((i + 2) % 3)) (b ((i + 1) % 3)))

/-- The triangle test of R345: t, u and v under limit tb. -/
abbrev TriangleHit (ray node : List Word) (tb t u v : Word) : Prop :=
  let o : Vec := fun i => ray.getD i 0
  let d : Vec := fun i => ray.getD (3 + i) 0
  let vx (k : Nat) : Vec := fun i => node.getD (3 * k + i) 0
  let e1 : Vec := fun i => fsub (vx 1 i) (vx 0 i)
  let e2 : Vec := fun i => fsub (vx 2 i) (vx 0 i)
  let p := crossOf d e2
  let det := dotOf e1 p
  let s : Vec := fun i => fsub (o i) (vx 0 i)
  let q := crossOf s e1
  ¬Equal det 0 ∧ (F det).isNan = false ∧
  u = fmul (dotOf s p) (frcp det) ∧ AtMost 0 u ∧ AtMost u 0x3F800000#32 ∧
  v = fmul (dotOf d q) (frcp det) ∧ AtMost 0 v ∧ AtMost (fadd u v) 0x3F800000#32 ∧
  t = fmul (dotOf e2 q) (frcp det) ∧ AtMost (ray.getD 6 0) t ∧ AtMost t tb

abbrev TriangleMiss (ray node : List Word) (tb : Word) : Prop := ∀ t u v, ¬TriangleHit ray node tb t u v

/-- The record of lane number lane is with the datapath. -/
abbrev AtRay (s : State) (req lane : Nat) (r : Req) (y : Ray) : Prop :=
  s.dev = .operational ∧ s.req? req = some r ∧ s.live r = true ∧ r.rays.find? (fun z => z.lane == lane) = some y

/-- The request with the record of a lane replaced. -/
def withRay (r : Req) (y : Ray) : Req := { r with rays := r.rays.map fun z => if z.lane = y.lane then y else z }

/-- Where a record goes once its node is tested: back when its stack is empty; it stays where the next node has the same bank (R341). -/
abbrev GoesOn (y : Ray) (pa : Nat) (st : RaySt) : Prop :=
  (y.stack = [] → st = .returning (if y.best.isSome then 1 else 0)) ∧
  ∀ x rest, y.stack = x :: rest →
    (∀ pb, NodeAt y.frame y.limit y.attr x pb →
      st = if SameBank pb pa then .queued else .travelling) ∧
    (∀ v, NodeRefused y.frame y.limit y.attr x v → st = .travelling)

/-- The limit of a record's tests (R347). -/
def limitOf (y : Ray) : Word :=
  match y.best with
  | some b => b.getD 0 0
  | none => y.words.getD 7 0

/-- The team of a request once one lane's record has returned: the lane's slots of D to D+7 hold its results, and the registers stay empty (R74, R341). -/
abbrev LaneLanded (t u : Team) (ds : List Nat) (l : Nat) (ws : List Word) : Prop :=
  (∃ fr, u = { t with frame := fr }) ∧ u.frame.length = t.frame.length ∧
  ∀ d < t.frame.length, (u.reg d).full = (t.reg d).full ∧ (∀ k < t.nlanes, k ≠ l → (u.reg d).bank.lane k = (t.reg d).bank.lane k) ∧
    (d ∉ ds → u.reg d = t.reg d) ∧ ∀ i : Nat, ds[i]? = some d → (u.reg d).bank.lane l = ws.getD i 0

/-- No hit (R349). -/
def noHit : List Word := [0x7F800000, 0xFFFFFFFF, 0xFFFFFFFF, 0, 0]

end Sys2Proof.Claims

/-- TRACE sends a ray record for each active lane, with the root on its stack and its own copy of the translation; BOXT, TRIT, COVR and BINT send one request. Every operand is read at
issue and the destinations are empty; a base that is not a multiple of 64 takes the misalignment trap (R341, R342, R344, R352, R353). -/
def Sys2Proof.Claims.IsecIssue : Prop :=
  (∀ s t c d a, Issues s t → Readable t (fields a 8 ++ fields d 8) → (∀ f ∈ fields d 8, isFrame f = true) →
    let x := bvhReg t
    (x.vbase.toNat % 64 ≠ 0 → exec (.trace c d a) s = .next (s.trap t 7 0 t.mask (BitVec.ofNat 32 x.vbase.toNat))) ∧
    (x.vbase.toNat % 64 = 0 → ∃ r, r.id = s.nextId ∧ r.ctx = t.ctx ∧ r.team = t.id ∧ r.gen = t.gen ∧ r.kind = .trace ∧ r.mask = t.mask ∧
      r.dests = (fields d 8).map t.fieldReg ∧ r.lanes.map (·.lane) = t.lanes ∧
      r.rays = t.lanes.map (fun l =>
        { lane := l, words := (fields a 8).map fun f => t.get f l, best := none, stack := [bvhRoot t], visits := 0, bad := 0,
          frame := x.frame, limit := x.limit.toNat, attr := x.attr, came := 0, st := .travelling }) ∧
      exec (.trace c d a) s = .next (State.complete { s with nextId := s.nextId + 1, reqs := s.reqs ++ [r] } c
        (((fields d 8).map t.fieldReg).foldl Team.markEmpty (t.useMarks c (fields a 8) []))))) ∧
  ∀ i o, isecOp i = some o → ∀ s t, Issues s t → Readable t (o.as ++ o.ds) → (∀ f ∈ o.ds, isFrame f = true) →
    let x := bvhReg t
    let nodes : Prop := o.op = 1 ∨ o.op = 2
    (nodes → x.vbase.toNat % 64 ≠ 0 → exec i s = .next (s.trap t 7 0 t.mask (BitVec.ofNat 32 x.vbase.toNat))) ∧
    (¬nodes ∨ x.vbase.toNat % 64 = 0 → ∃ ls, exec i s = .next (goes s t o.c o.as (.isec o.op x.frame x.limit.toNat x.attr) o.ds none ls) ∧
      ls.map (·.lane) = t.lanes ∧ ∀ y ∈ ls, y.data = (o.as.map fun f => t.get f y.lane) ∧ y.dst = 0 ∧ y.st = .pending)

/-- A record reaches the bank of its next node and is tested there, in the order of arrival: the hit children of a box node go on the stack, the nearer first, a leaf may better the best hit; a node that is
refused, a 33rd stack entry and a 65,536th node end it with their status. The record that returns writes its lane of the registers of R349, which are full once every lane's
has (R341, R343 to R349). That a node on a chisel table gives status 3 (notes/assumptions/84.md), that a record which its team's earlier accesses hold back lets those behind it
go first (notes/assumptions/98.md), and the lanes that a leaving team still gets (notes/assumptions/62.md) are the model's choice. -/
def Sys2Proof.Claims.Traversal : Prop :=
  (∀ s req lane r y, AtRay s req lane r y →
    (y.st = .travelling → exec (.rayRecordArrive req lane) s = .next 
      ({ s with nextId := s.nextId + 1 }.putReq (withRay r { y with st := .queued, came := s.nextId }))) ∧
    (y.st ≠ .travelling → exec (.rayRecordArrive req lane) s = .next s) ∧
    (y.st ≠ .queued → exec (.rayNodeTest req lane) s = .next s)) ∧
  (∀ s req lane r y x rest, AtRay s req lane r y → y.st = .queued → y.stack = x :: rest →
    let goes (z : Ray) : Prop := exec (.rayNodeTest req lane) s = .next (s.putReq (withRay r z))
    (∀ v, NodeRefused y.frame y.limit y.attr x v → y.visits < 65535 → goes { y with bad := x, st := .returning v }) ∧
    (∀ v, NodeRefused y.frame y.limit y.attr x v → 65535 ≤ y.visits → goes { y with st := .returning 5 }) ∧
    (∀ pa, NodeAt y.frame y.limit y.attr x pa → s.blocked r.team r.id pa 64 = true ∨ ¬BankTurn s pa y.came →
      exec (.rayNodeTest req lane) s = .next s) ∧
    ∀ pa, NodeAt y.frame y.limit y.attr x pa → s.blocked r.team r.id pa 64 = false → BankTurn s pa y.came →
      (∀ l, s.tableAt pa 64 = false → s.poisonIn pa 64 = some l → exec (.rayNodeTest req lane) s = .next (s.contain r.ctx (some l))) ∧
      (s.tableAt pa 64 = true → (65535 ≤ y.visits → goes { y with st := .returning 5 }) ∧
        (y.visits < 65535 → goes { y with bad := x, st := .returning 3 })) ∧
      (s.tableAt pa 64 = false → s.poisonIn pa 64 = none →
        (65535 ≤ y.visits → goes { y with st := .returning 5 }) ∧
        (y.visits < 65535 →
          let node := bytesWords (s.phys pa 64)
          let tb := limitOf y
          (x.getLsbD 0 = false → ∀ p,
            let r0 := node.getD 12 0
            let r1 := node.getD 13 0
            let near : Prop := Less (entryOf y.words node 6) (entryOf y.words node 0)
            (Hits y.words node 0 tb → Hits y.words node 1 tb → (near → p = [r1, r0]) ∧ (¬near → p = [r0, r1])) →
            (Hits y.words node 0 tb → ¬Hits y.words node 1 tb → p = [r0]) → (¬Hits y.words node 0 tb → Hits y.words node 1 tb → p = [r1]) →
            (¬Hits y.words node 0 tb → ¬Hits y.words node 1 tb → p = []) →
            (p ≠ [] → 32 < rest.length + p.length → goes { y with stack := rest, visits := y.visits + 1, st := .returning 4 }) ∧
            (∀ st, p = [] ∨ rest.length + p.length ≤ 32 →
              let z : Ray := { y with stack := p ++ rest, visits := y.visits + 1 }
              GoesOn z pa st → goes { z with st := st })) ∧
          (x.getLsbD 0 = true → ∀ st best,
            let z : Ray := { y with stack := rest, visits := y.visits + 1, best := best }
            GoesOn z pa st →
            (TriangleMiss y.words node tb → best = y.best) →
            (∀ t u v, TriangleHit y.words node tb t u v →
              let hit : List Word := [t, node.getD 12 0, node.getD 13 0, u, v]
              best = match y.best with
                | none => some hit
                | some b =>
                  if (F t).lt (F (b.getD 0 0)) ∨ ((F t).eqv (F (b.getD 0 0)) ∧ (node.getD 12 0).toNat < (b.getD 1 0).toNat) then some hit
                  else some b) →
            goes { z with st := st })))) ∧
  (∀ s req lane r y x v t, AtRay s req lane r y → y.st = .returning v → r.lane? lane = some x → s.team? r.team = some t →
    let ws : List Word :=
      (if v = 1 then y.best.getD noHit else noHit) ++
      [BitVec.ofNat 32 v, if v = 2 ∨ v = 3 then y.bad else BitVec.ofNat 32 y.visits, 0]
    let r1 := (withRay r { y with st := .gone }).setLane { x with got := ws, st := .bound }
    ((∃ z ∈ r1.rays, z.st ≠ .gone) →
      (t.gen ≠ r.gen ∨ t.landing.getLsbD x.lane = false → exec (.rayRecordReturn req lane) s = .next (s.putReq r1)) ∧
      (t.gen = r.gen → t.landing.getLsbD x.lane = true → x.lane < t.nlanes → r.dests.Nodup → r.dests.length ≤ 8 →
        ∃ u, LaneLanded t u r.dests x.lane ws ∧
        exec (.rayRecordReturn req lane) s = .next ((s.putTeam u).putReq r1))) ∧
    ((∀ z ∈ r1.rays, z.st = .gone) →
      (t.gen = r.gen → exec (.rayRecordReturn req lane) s = .next (s.landReq r1)) ∧
      (t.gen ≠ r.gen → exec (.rayRecordReturn req lane) s = .next (s.dropOld r1)))) ∧
  ∀ s req lane r y, AtRay s req lane r y → (∀ v, y.st ≠ .returning v) → exec (.rayRecordReturn req lane) s = .next s

namespace Sys2Proof.Claims

/-- BOXT and TRIT of one lane (R353). -/
abbrev SingleTest (s : State) (op frame limit : Nat) (at_ : Attr) (ws got : List Word) : Prop :=
  let ref := ws.getD 8 0
  let leaf : Prop := ref.getLsbD 0 = true
  let tb := ws.getD 7 0
  let table : Prop := ∃ pa, NodeAt frame limit at_ ref pa ∧ s.tableAt pa 64 = true
  (op = 1 → (leaf ∨ (∃ v, NodeRefused frame limit at_ ref v) ∨ table) → got = [0x7F800000, 0x7F800000, 0xFFFFFFFF, 0xFFFFFFFF]) ∧
  (op = 2 → (¬leaf ∨ (∃ v, NodeRefused frame limit at_ ref v) ∨ table) → got = noHit) ∧
  ∀ pa, NodeAt frame limit at_ ref pa → s.tableAt pa 64 = false →
    let node := bytesWords (s.phys pa 64)
    (op = 1 → ¬leaf → got.length = 4 ∧ ∀ i < 2, got.getD (2 + i) 0 = node.getD (12 + i) 0 ∧
      (Hits ws node i tb → got.getD i 0 = entryOf ws node (6 * i)) ∧ (¬Hits ws node i tb → got.getD i 0 = 0x7F800000#32)) ∧
    (op = 2 → leaf → (TriangleMiss ws node tb → got = noHit) ∧
      ∀ t u v, TriangleHit ws node tb t u v → got = [t, node.getD 12 0, node.getD 13 0, u, v])

/-- A vertex of a triangle: coordinates Saturated to 24 bits (R350). -/
def vertex (ws : List Word) (i : Nat) : Int × Int :=
  let sat (w : Word) : Int := max (-8388608) (min 8388607 w.toInt)
  (sat (ws.getD (2 * i) 0), sat (ws.getD (2 * i + 1) 0))

/-- E of the edge from a to b at p (R350). -/
def edgeAt (a b p : Int × Int) : Int := (b.1 - a.1) * (p.2 - a.2) - (b.2 - a.2) * (p.1 - a.1)

/-- The orientation of the triangle, and corner i of the prepared one. -/
def turn (ws : List Word) : Int := edgeAt (vertex ws 0) (vertex ws 1) (vertex ws 2)
def prepared (ws : List Word) (i : Nat) : Int × Int := if turn ws < 0 then vertex ws ((3 - i) % 3) else vertex ws (i % 3)

/-- p passes the inside test of edge k of the prepared triangle (R350). -/
abbrev Passes (ws : List Word) (k : Nat) (p : Int × Int) : Prop :=
  let a := prepared ws k
  let b := prepared ws (k + 1)
  let dx := b.1 - a.1
  let dy := b.2 - a.2
  0 < edgeAt a b p ∨ (edgeAt a b p = 0 ∧ (dy < 0 ∨ (dy = 0 ∧ 0 < dx)))

abbrev Covers (ws : List Word) (p : Int × Int) : Prop := ∀ k < 3, Passes ws k p

def pixelCentre (x y : Nat) : Int × Int := (256 * x + 128, 256 * y + 128)

/-- Node size, child size and children in a row of a level (R351). -/
def nodeSize : Nat → Nat
  | 0 => 256
  | 1 => 32
  | _ => 8
def childSize : Nat → Nat
  | 0 => 32
  | 1 => 8
  | _ => 1

/-- Bit i of a pair of mask words. -/
def maskBit (lo hi : Word) (i : Nat) : Bool := if i < 32 then lo.getLsbD i else hi.getLsbD (i - 32)

/-- COVR (3) and BINT (4) of one lane (R350, R351). -/
abbrev CoverageOf (op : Nat) (ws got : List Word) : Prop :=
  let w := ws.getD 6 0
  let lvl := fld w 31 30
  let n := childSize lvl
  let k := nodeSize lvl / n
  (lvl = 3 ∨ turn ws = 0 → got = [0, 0, 0, 0]) ∧
  (lvl ≠ 3 → turn ws ≠ 0 → got.length = 4 ∧ ∀ i < 64,
    let x := fld w 13 0 / nodeSize lvl * nodeSize lvl + i % k * n
    let y := fld w 29 16 / nodeSize lvl * nodeSize lvl + i / k * n
    let overlap := maskBit (got.getD 0 0) (got.getD 1 0) i = true
    let full := maskBit (got.getD 2 0) (got.getD 3 0) i = true
    let corner (j : Nat) : Int × Int := pixelCentre (x + (n - 1) * (j % 2)) (y + (n - 1) * (j / 2))
    (k * k ≤ i → ¬overlap ∧ ¬full) ∧
    (i < k * k → op = 3 → (overlap ↔ ∀ e < 3, ∃ j < 4, Passes ws e (corner j)) ∧ (full ↔ ∀ j < 4, Covers ws (corner j))) ∧
    (i < k * k → op = 4 → (overlap ↔ ∃ dx < n, ∃ dy < n, Covers ws (pixelCentre (x + dx) (y + dy))) ∧
      (full ↔ ∀ dx < n, ∀ dy < n, Covers ws (pixelCentre (x + dx) (y + dy)))))

end Sys2Proof.Claims

/-- BOXT and TRIT test one node at its bank, in the order of arrival there; COVR and BINT, in their turn at their core's datapath, give the masks of the children that the triangle meets and covers; the returns land, and those of an old generation are
dropped (R302, R345, R350, R351, R353). The places at a datapath (notes/assumptions/98.md), the lanes that a leaving team still gets (notes/assumptions/62.md) and a
node on a chisel table counting as not reachable (notes/assumptions/84.md) are the model's choice. -/
def Sys2Proof.Claims.SingleTests : Prop :=
  (∀ s req lane r x op frame limit at_ got, AtLane s req lane r x → r.kind = .isec op frame limit at_ → op = 1 ∨ op = 2 → x.st = .pending →
    let s1 : State := if x.dst = 0 then { s with nextId := s.nextId + 1 } else s
    let y : Lane := if x.dst = 0 then { x with dst := s.nextId } else x
    let node (pa : Nat) : Prop := SingleNode op frame limit at_ (x.data.getD 8 0) pa
    ((∃ pa, node pa ∧ (s.blocked r.team r.id pa 64 = true ∨ ¬BankTurn s pa y.dst)) →
      exec (.isecNodeRequest req lane) s = .next (if x.dst = 0 then s1.putReq (r.setLane y) else s)) ∧
    ((∀ pa, node pa → s.blocked r.team r.id pa 64 = false ∧ BankTurn s pa y.dst ∧ s.poisonIn pa 64 = none) →
      SingleTest s op frame limit at_ x.data got →
      exec (.isecNodeRequest req lane) s = .next (s1.putReq (r.setLane { y with got := got, st := .bound })))) ∧
  (∀ s req lane r x op frame limit at_, AtLane s req lane r x → r.kind = .isec op frame limit at_ → x.st ≠ .pending ∨ op = 3 ∨ op = 4 →
    exec (.isecNodeRequest req lane) s = .next s) ∧
  ∀ s req r t op frame limit at_, s.dev = .operational → s.req? req = some r → s.live r = true → s.team? r.team = some t →
    r.kind = .isec op frame limit at_ →
    (t.gen ≠ r.gen → exec (.isecResultReturn req) s = .next (s.dropOld r)) ∧
    (t.gen = r.gen →
      (op = 1 ∨ op = 2 → (∀ x ∈ r.lanes, x.st ≠ .pending) → exec (.isecResultReturn req) s = .next (s.landReq r)) ∧
      (op = 1 ∨ op = 2 → (∃ x ∈ r.lanes, x.st = .pending) → exec (.isecResultReturn req) s = .next s) ∧
      (op = 3 ∨ op = 4 →
        let r1 : Req := { r with lanes := r.lanes.map fun (x : Lane) => if x.dst = 0 then { x with dst := s.nextId } else x }
        let s1 : State := if ∃ x ∈ r.lanes, x.dst = 0 then State.putReq { s with nextId := s.nextId + 1 } r1 else s
        let turn : Prop := ∀ x ∈ r1.lanes, DatapathTurn s1 (r.core / 32) (r.core % 16) x.dst
        (¬turn → exec (.isecResultReturn req) s = .next s1) ∧
        (∀ g : List Word → List Word, turn → (∀ x ∈ r.lanes, CoverageOf op x.data (g x.data)) →
          exec (.isecResultReturn req) s = .next (s1.landReq { r1 with lanes := r1.lanes.map fun x => { x with got := g x.data, st := .bound } }))))

/-! ## Streams -/

namespace Sys2Proof.Claims

/-- Team t runs instance x of binding b (R366). -/
abbrev Instance (s : State) (t : Team) (x : Inst) (b : Binding) : Prop :=
  (t.kind = .fire x.id ∨ t.kind = .amend x.id) ∧
  ∃ c, s.ctx? t.ctx = some c ∧ c.inst? x.id = some x ∧ c.binding? x.bind = some b

/-- The range of window k and its result line (R364, R367). -/
def winStart (b : Binding) (k : Int) : Int := b.offset + k * b.slide
def winEnd (b : Binding) (k : Int) : Int := winStart b k + b.length
def lineOf (b : Binding) (k : Int) : Int := b.resbase + 64 * (k % 2 ^ b.resn)

def low32 (v : Int) : Word := BitVec.ofInt 32 v
def top32 (v : Int) : Word := BitVec.ofInt 32 (v / 2 ^ 32)

/-- A lane that carries an item to source src of stream stream; both 0 for a lane that awaits a record. -/
def itemLane (l stream src : Nat) (ws : List Word) : Lane :=
  { lane := l, va := stream, pa := 0, pa2 := 0, cut := 0, attr := Attr.none, dst := src, data := ws, got := [], spoil := [], via := [], st := .pending }

/-- A source reference in w is good, or bad, on a stream that its unit holds (R371). -/
abbrev RefOk (s : State) (ctx : Nat) (w : Word) : Prop :=
  ∃ c x y, s.ctx? ctx = some c ∧ fld w 31 13 = 0 ∧ fld w 7 0 < fld c.strmCfg 24 16 ∧ c.stream? (fld w 7 0) = some x ∧
    x.srcs[fld w 12 8]? = some y ∧ y.en = true ∧ y.kind = 2 ∧ ∀ e ∈ s.events, e.what ≠ .armature ctx (fld w 7 0) 300

abbrev RefBad (s : State) (ctx : Nat) (w : Word) : Prop :=
  ∃ c, s.ctx? ctx = some c ∧ (fld w 31 13 ≠ 0 ∨ fld c.strmCfg 24 16 ≤ fld w 7 0 ∨
    ∃ x, c.stream? (fld w 7 0) = some x ∧ (∀ e ∈ s.events, e.what ≠ .armature ctx (fld w 7 0) 300) ∧ ∀ y, x.srcs[fld w 12 8]? = some y → y.en = false ∨ y.kind ≠ 2)

/-- A record that a team has emitted waits for room (R364). -/
abbrev EmittedBy (s : State) (ctx team : Nat) : Prop :=
  ∃ c x y, s.ctx? ctx = some c ∧ x ∈ c.streams ∧ y ∈ x.srcs ∧ ∃ h ∈ y.held, h.1 = some team

abbrev Emitted (s : State) (t : Team) : Prop := EmittedBy s t.ctx t.id

/-- The lane's reference of a REMIT (R374). -/
def remitRef (t : Team) (a : Fld) (l : Nat) : Word := t.get (a + 3) l &&& 0x1FFF#32

end Sys2Proof.Claims

/-- WINFO gives the window, its result line and its revision; RNEXT and LATEQ ask for a record for each lane; outside their instances they and PUBL take the protection trap
(R371, R372, R373). -/
def Sys2Proof.Claims.InstanceReads : Prop :=
  (∀ s t c d x b, Issues s t → Readable t (fields d 8) → Instance s t x b →
    let a := winStart b x.k
    let e := winEnd b x.k
    let rev : Word := match b.wins.find? fun w => w.k = x.k with
      | some w => w.revision
      | none => 0
    exec (.winfo c d) s = .next (s.complete c ((t.useMarks c [] []).write t
      (((fields d 8).zip [low32 a, top32 a, low32 e, top32 e, low32 (lineOf b x.k), top32 (lineOf b x.k), rev, if x.amend then 1 else 0]).map
        fun p => (p.1, fun _ => p.2))))) ∧
  (∀ s t c d x b, Issues s t → Readable t (fields d 16) → (∀ f ∈ fields d 16, isFrame f = true) → Instance s t x b →
    exec (.rnext c d) s = .next (goes s t c [] (.strm 1 x.id) (fields d 16) none (t.lanes.map fun l => itemLane l 0 0 [])) ∧
    (x.amend = true →
      exec (.lateq c d) s = .next (goes s t c [] (.strm 6 x.id) (fields d 16) none (t.lanes.map fun l => itemLane l 0 0 []))) ∧
    (x.amend = false → exec (.lateq c d) s = .next (s.trap t 9 0 t.mask 0))) ∧
  ∀ s t c d, Issues s t → (∀ x b, ¬Instance s t x b) →
    (Readable t (fields d 8) → exec (.winfo c d) s = .next (s.trap t 9 0 t.mask 0)) ∧
    (Readable t (fields d 16) → exec (.rnext c d) s = .next (s.trap t 9 0 t.mask 0) ∧ exec (.lateq c d) s = .next (s.trap t 9 0 t.mask 0) ∧
      exec (.publ c d) s = .next (s.trap t 9 0 t.mask 0))

/-- REMIT, WMARK and SIDLE send their items to the source that the binding or the reference names, wait while an earlier record of the team has no room, and take the protection trap
on a bad reference (R364, R371, R374, R375). -/
def Sys2Proof.Claims.Emissions : Prop :=
  (∀ s t c a, Issues s t → Readable t (fields a 16) →
    let data (l : Nat) : List Word := (fields a 16).map fun f => t.get f l
    let waits : Host.Outcome State Fault Refusal := .next (s.putTeam { t with st := .waitingCounter .emitted, finish := .none })
    (∀ x b, Instance s t x b → b.out = true →
      (Emitted s t → exec (.remit c a) s = waits) ∧
      (¬Emitted s t → exec (.remit c a) s =
        .next (goes s t c (fields a 16) (.strm 2 x.id) [] none (t.lanes.map fun l => itemLane l b.outstr b.outsrc (data l))))) ∧
    ((∀ x b, Instance s t x b → b.out = false) →
      ((∀ l ∈ t.lanes, RefOk s t.ctx (remitRef t a l)) →
        (Emitted s t → exec (.remit c a) s = waits) ∧
        (¬Emitted s t → exec (.remit c a) s = .next (goes s t c (fields a 16) (.strm 2 0) [] none
          (t.lanes.map fun l => itemLane l (fld (remitRef t a l) 7 0) (fld (remitRef t a l) 12 8) (data l))))) ∧
      (∀ m l0, (∀ l ∈ t.lanes, RefOk s t.ctx (remitRef t a l) ∨ RefBad s t.ctx (remitRef t a l)) →
        (∀ l, m.getLsbD l = true ↔ l ∈ t.lanes ∧ RefBad s t.ctx (remitRef t a l)) → m.getLsbD l0 = true → (∀ l < l0, m.getLsbD l = false) →
        exec (.remit c a) s = .next (s.trap t 9 0 m (remitRef t a l0))))) ∧
  (∀ s t c a, Issues s t → Readable t (fields a 3) → (∀ f ∈ fields a 3, Uniform t f) →
    let w := t.getLow a
    (RefBad s t.ctx w → exec (.wmark c a) s = .next (s.trap t 9 0 t.mask w)) ∧
    (RefOk s t.ctx w → Emitted s t → exec (.wmark c a) s = .next (s.putTeam { t with st := .waitingCounter .emitted, finish := .none })) ∧
    (RefOk s t.ctx w → ¬Emitted s t → exec (.wmark c a) s = .next (goes s t c (fields a 3) (.strm 3 0) [] none
      [itemLane t.low (fld w 7 0) (fld w 12 8) [t.getLow (a + 1), t.getLow (a + 2)]]))) ∧
  (∀ s t c a, Issues s t → Readable t [a] → Uniform t a →
    let w := t.getLow a
    (RefBad s t.ctx w → exec (.sidle c a) s = .next (s.trap t 9 0 t.mask w)) ∧
    (RefOk s t.ctx w → Emitted s t → exec (.sidle c a) s = .next (s.putTeam { t with st := .waitingCounter .emitted, finish := .none })) ∧
    (RefOk s t.ctx w → ¬Emitted s t → exec (.sidle c a) s =
      .next (goes s t c [a] (.strm 4 0) [] none [itemLane t.low (fld w 7 0) (fld w 12 8) []]))) ∧
  ∀ s t c a, Issues s t → Readable t [a] → ¬Uniform t a → exec (.sidle c a) s = .next (s.trap t 5 0 t.mask (BitVec.ofNat 32 a.toNat))

/-- PUBL waits for the team's release and, as a store does, for its earlier loads of the line, then writes the 64 bytes of the window's result line from the lowest active lane in one step, leaves no owner, and sets a deadline; a second
one takes the protection trap (R162, R303, R376). -/
def Sys2Proof.Claims.Publishes : Prop :=
  ∀ s t c a x b w, Issues s t → Readable t (fields a 16) → Instance s t x b → b.wins.find? (fun v => v.k == x.k) = some w →
    (x.amend = true → exec (.publ c a) s = .next (s.trap t 9 0 t.mask 0)) ∧
    (w.published = true → exec (.publ c a) s = .next (s.trap t 9 0 t.mask 0)) ∧
    (x.amend = false → w.published = false → s.releaseDone t.id .device s.nextId = false → exec (.publ c a) s =
      .next (s.putTeam { t with st := .waitingCounter (.release .device s.nextId), finish := .again (.publ c a) })) ∧
    ∀ pa at_, x.amend = false → w.published = false → s.releaseDone t.id .device s.nextId = true → MemOk s → NoSkip t →
      lineOf b x.k % 64 = 0 → lineOf b x.k + 64 ≤ 2 ^ 55 → s.coreSeg t.core t.ctx t.faultm.toNat (lineOf b x.k).toNat = .ok pa at_ →
      at_.w = true → at_.rlf = false → at_.raw = false → InDram pa 64 → s.tableAt pa 64 = false →
      (s.loadAhead t.id pa 64 = true → ∃ s1 : State, { s1 with tlb := s.tlb } = s ∧ exec (.publ c a) s =
        .next (s1.putTeam { t with st := .waitingCounter (.loads s.nextId), finish := .none })) ∧
      (s.loadAhead t.id pa 64 = false → (∀ m ∈ s.maqs, m.streaming = false) → (∀ k ∈ s.copies, k.team ≠ some t.id) →
      (∀ i < 64, s.heldAt (pa + i) = false) →
      ∃ s' d n via, exec (.publ c a) s = .next s' ∧ OnlyBytes s s' pa 64 ∧
        (∀ i < 16, memWord s'.mem (pa + 4 * i) = t.getLow (a + BitVec.ofNat 7 i)) ∧
        s'.ctxs = (s.modCtx t.ctx fun y => { y with bindings := y.bindings.map fun z =>
          if z.idx = b.idx then { b with wins := b.wins.filter (fun v => v.k ≠ x.k) ++ [{ w with published := true }] } else z }).ctxs ∧
        s'.deadlines = { id := n, via := via, req := n, ctx := t.ctx, team := t.id, core := t.core, at_ := s.coreTime t.core + d + 10 } :: s.deadlines ∧
        (∀ v ∈ wordsOf pa 64, (s.bankWord v).expiry ≤ s.clock - s.released + d ∧ (s'.bankWord v).owner = none ∧
          ∀ k ∈ s'.l1, k.core = t.core → k.word ≠ v) ∧
        Issues s' { t.useMarks c (fields a 16) [] with pc := t.pc + 4, st := .ready })

namespace Sys2Proof.Claims

/-- The unit has stream i with source n (R355, R356). -/
abbrev Source (s : State) (ctx i n : Nat) (x : Stream) (y : Src) : Prop :=
  ∃ c, s.ctx? ctx = some c ∧ c.stream? i = some x ∧ x.srcs[n]? = some y

/-- The stream with source n replaced. -/
def withSource (x : Stream) (n : Nat) (y : Src) : Stream := { x with srcs := x.srcs.set n y }

/-- WM := max(WM, the least SWM of the Live sources) (R363). -/
def recomputed (x : Stream) : Stream :=
  { x with wm := match ((x.srcs.filter fun y => y.en && y.st == .live).map (·.swm)).min? with
      | some v => max x.wm v
      | none => x.wm }

/-- After an event of a source: WM is recomputed, Rejoining sources that have caught up are Live again, and WM is recomputed (R362, R363). -/
def caughtUp (x : Stream) : Stream :=
  let x1 := recomputed x
  recomputed { x1 with srcs := x1.srcs.map fun y => if y.st = .rejoining ∧ x1.wm ≤ y.swm then { y with st := .live } else y }

/-- The source y of stream x after the proposal c, and the stream's DECR: counted says that a c below SWM counts (R361). -/
def proposed (x : Stream) (y : Src) (c : Int) (counted : Bool) : Stream × Src :=
  if y.swm < c then (x, { y with swm := c })
  else (if counted ∧ c < y.swm then { x with decr := min 65535 (x.decr + 1) } else x, y)

/-- A record, marker or WMARK of source n has come at time now: the source leaves Idle (R362). -/
def heard (now : Nat) (n : Nat) (p : Stream × Src) : Stream :=
  caughtUp (withSource p.1 n { p.2 with
    seen := now, st := if p.2.st = .idle then (if p.1.wm ≤ p.2.swm then .live else .rejoining) else p.2.st })

def timeOf (r : List Word) : Int := (BitVec.ofNat 64 ((r.getD 0 0).toNat + 2 ^ 32 * (r.getD 1 0).toNat)).toInt
def flagsOf (r : List Word) : Nat := fld (r.getD 3 0) 31 16

/-- Nothing of the source waits, so an item is taken at once. -/
abbrev Takes (s : State) (ctx i n : Nat) (x : Stream) (y : Src) : Prop :=
  Source s ctx i n x y ∧ y.held = [] ∧ x.idx = i

/-- The pane of event time t, and the windows that hold it, ascending (R364). -/
def paneOf (b : Binding) (t : Int) : Int := (t - b.offset) / b.slide
def windowsOf (b : Binding) (p : Int) : List Int := (List.range (b.length / b.slide)).map fun (i : Nat) => p - (b.length / b.slide : Nat) + 1 + i

/-- Window k takes no record any more (R368). -/
abbrev Past (b : Binding) (wm k : Int) : Prop := b.wins.find? (fun w => w.k == k) = none ∧ winEnd b k + b.late ≤ wm

/-- Window k is Collecting, or not yet started (R364, R368). -/
abbrev Collects (b : Binding) (wm k : Int) : Prop :=
  match b.wins.find? fun w => w.k == k with
  | some w => w.st = .collecting ∧ w.lateFire = false
  | none => wm < winEnd b k

/-- A record at event time t needs room in the panes that is not there (R364). -/
abbrev NoPaneRoom (b : Binding) (wm t : Int) : Prop :=
  (∃ k ∈ windowsOf b (paneOf b t), Collects b wm k) ∧ b.panesz / 64 + b.ovfsz / 64 ≤ b.panes.length

/-- The bound bindings of input stream i. -/
def boundTo (c : Ctx) (i : Nat) : List Binding := c.bindings.filter fun b => b.instr = i ∧ b.unbound = false

/-- The record with SRC set to its source (R360). -/
def fromSource (r : List Word) (n : Nat) : List Word := r.set 3 (((r.getD 3 0) &&& 0xFFFF0000#32) ||| BitVec.ofNat 32 (n % 65536))

end Sys2Proof.Claims

/-- An item: a marker or WMARK proposes its time, SIDLE makes the source Idle, a data record proposes the largest TIME less DISORDER; WM is the largest minimum over the Live
sources, and the windows follow it; reserved FLAGS discard a record; a record goes to every bound binding, or waits for room or for its overflow region's page; a proposal of the
unit's own that is not above SWM changes nothing (R359 to R364, R367, R417). -/
def Sys2Proof.Claims.Watermarks : Prop :=
  ∀ s ctx i n x y, Takes s ctx i n x y →
    let now := s.clock - s.released
    let becomes (u : Stream) (item : List Word) (team : Option Nat) : Prop :=
      s.arriveItem ctx i n team item = (s.putStream ctx u).fireStream ctx i
    (∀ team, becomes (caughtUp (withSource x n { y with st := .idle })) [] team) ∧
    (∀ team lo hi, becomes (heard now n (proposed x y (timeOf [lo, hi]) true)) [lo, hi] team) ∧
    (∀ team lo hi w, (y.swm < timeOf [lo, hi] → becomes (heard now n (proposed x y (timeOf [lo, hi]) false)) [lo, hi, w] team) ∧
      (timeOf [lo, hi] ≤ y.swm → s.arriveItem ctx i n team [lo, hi, w] = s)) ∧
    (∀ team r, r.length = 16 → 4 ≤ flagsOf r → s.arriveItem ctx i n team r = s.putStream ctx { x with badrec := min 65535 (x.badrec + 1) }) ∧
    (∀ team r, r.length = 16 → flagsOf r < 4 → 2 ≤ flagsOf r → becomes (heard now n (proposed x y (timeOf r) true)) r team) ∧
    (∀ team r, r.length = 16 → flagsOf r < 2 → ∀ c, s.ctx? ctx = some c →
      let top := match y.top with
        | some v => max v (timeOf r)
        | none => timeOf r
      let y1 : Src := { y with top := some top }
      let u := heard now n (if top - y.disorder < -(2 ^ 63) then (withSource x n y1, y1)
                            else proposed (withSource x n y1) y1 (top - y.disorder) false)
      let paused (b : Binding) : Prop := ∃ e ∈ s.events, e.what = .armature ctx b.idx 257
      let held (v : State) : State := v.putStream ctx (withSource x n { y with held := [(team, r)] })
      -- the bindings js take the record in turn
      let places (js : List Nat) : Rd State :=
        js.foldl (fun (w : Rd State) j => w.bind fun v => v.placeRecord ctx j u.wm (fromSource r n)) (.val ((s.putStream ctx u).fireStream ctx i) [])
      ((∃ b ∈ boundTo c i, NoPaneRoom b x.wm (timeOf r) ∨ paused b) → s.arriveItem ctx i n team r = held s) ∧
      ((∀ b ∈ boundTo c i, ¬NoPaneRoom b x.wm (timeOf r) ∧ ¬paused b) →
        (∀ v bad, places ((boundTo c i).map (·.idx)) = .val v bad → s.arriveItem ctx i n team r = v) ∧
        (∀ pre j post v bad va, (boundTo c i).map (·.idx) = pre ++ j :: post → places pre = .val v bad →
          v.placeRecord ctx j u.wm (fromSource r n) = .absent va →
          s.arriveItem ctx i n team r = held (s.engineFault ctx (.armature ctx j 257) va 1)))) ∧
    (x.wm ≤ (recomputed x).wm ∧ x.wm ≤ (caughtUp x).wm)

namespace Sys2Proof.Claims

/-- A window that has not fired yet. -/
def freshWin (k : Int) : Win :=
  { k := k, st := .collecting, due := false, lateFire := false, revision := 0, deliver := [], late := [], published := false }

/-- What window k becomes when record r is judged against it (R368). -/
abbrev Judged (b : Binding) (wm : Int) (r : List Word) (k : Int) (now : Option Win) : Prop :=
  (∀ w, b.wins.find? (fun w => w.k == k) = some w →
    now = some (if w.st = .collecting ∧ w.lateFire = false then w else { w with late := w.late ++ [r] })) ∧
  (b.wins.find? (fun w => w.k == k) = none →
    (wm < winEnd b k → now = some (freshWin k)) ∧
    (winEnd b k ≤ wm → wm < winEnd b k + b.late → now = some { freshWin k with due := true, lateFire := true, deliver := [r] }) ∧
    (winEnd b k + b.late ≤ wm → winEnd b k ≤ wm → now = none))

/-- The lowest slot that no record of the panes takes. -/
abbrev FreeSlot (b : Binding) (n : Nat) : Prop := (∀ p ∈ b.panes, p.slot ≠ n) ∧ ∀ m < n, ∃ p ∈ b.panes, p.slot = m

/-- The armature unit writes 64 bytes at va: where they lie (R364, R369, R417). -/
abbrev UnitWrites (s : State) (ctx va pa : Nat) : Prop :=
  va % 64 = 0 ∧ ∃ a, s.engineSeg ctx va = .ok pa a ∧ a.w = true ∧ a.rlf = false ∧ a.raw = false ∧ InDram pa 64 ∧ s.tableAt pa 64 = false

/-- A page forbids the unit the 64 bytes at va. -/
abbrev UnitForbidden (s : State) (ctx va : Nat) : Prop :=
  va % 64 = 0 ∧ (s.engineSeg ctx va = .bad ∨ ∃ pa a, s.engineSeg ctx va = .ok pa a ∧
    (a.w = false ∨ a.rlf = true ∨ a.raw = true ∨ isRemote pa = true ∨ s.tableAt pa 64 = true))

/-- s' has the 16 words of r at pa, and no other byte of memory is changed. -/
abbrev WordsAt (s s' : State) (pa : Nat) (r : List Word) : Prop :=
  (∀ k < 16, memWord s'.mem (pa + 4 * k) = r.getD k 0) ∧ OnlyBytes s s' pa 64

/-- What the fire instance of window k will see: its panes ascending, each in acceptance order (R373). -/
def recordsOf (b : Binding) (k : Int) : List (List Word) :=
  (List.range (b.length / b.slide)).flatMap fun (i : Nat) => (b.panes.filter fun p => p.pane = k + (i : Int)).map (·.words)

/-- The windows whose end WM has reached are due, and what they deliver is settled (R365, R377). -/
def markedDue (b : Binding) (wm : Int) : Binding :=
  { b with wins := b.wins.map fun w =>
      if w.st = .collecting ∧ w.due = false ∧ winEnd b w.k ≤ wm then { w with due := true, deliver := recordsOf b w.k } else w }

/-- Window k may still fire, or fires. -/
def mayFire (b : Binding) (wm k : Int) : Bool :=
  match b.wins.find? fun w => w.k == k with
  | some w => w.st == .collecting || w.st == .firing
  | none => decide (wm < winEnd b k + b.late)

/-- Fired windows that lateness has passed are Closed, and panes that no window may fire again are free (R364, R365). -/
def closedOver (b : Binding) (wm : Int) : Binding :=
  let b1 : Binding := { b with wins := b.wins.filter fun w => ¬(w.st = .fired ∧ w.late = [] ∧ winEnd b w.k + b.late ≤ wm) }
  { b1 with panes := b1.panes.filter fun p => (windowsOf b1 p.pane).any (mayFire b1 wm) }

/-- An instance waits for placement, or its team is placed and has not exited (R366). -/
def instOpen (s : State) (x : Inst) : Bool :=
  match x.team with
  | none => true
  | some id => match s.team? id with
    | some t => decide (t.st ≠ .exited)
    | none => false

/-- One instance of binding j starts: the due window of least k fires; with none due, the Fired window of least k that has late records is amended with the first of
them. A binding has at most 64 instances placed or waiting (R365, R366, R368). -/
def Starts (ctx j : Nat) (s s' : State) : Prop :=
  ∃ c b w, s.ctx? ctx = some c ∧ c.binding? j = some b ∧ b.unbound = false ∧
    (c.insts.filter fun y => y.bind = b.idx ∧ y.kernel = b.kernel ∧ instOpen s y = true).length < 64 ∧ w ∈ b.wins ∧
    let due (v : Win) : Prop := v.st = .collecting ∧ v.due = true
    let lates (v : Win) : Prop := v.st = .fired ∧ v.late ≠ []
    let added (amend : Bool) (recd : List Word) (w1 : Win) : State :=
      { s with nextId := s.nextId + 1 }.modCtx ctx fun (y : Ctx) =>
        { y with bindings := y.bindings.map fun (z : Binding) =>
                   if z.idx = b.idx then { b with wins := b.wins.filter (fun (v : Win) => v.k ≠ w1.k) ++ [w1] } else z
                 insts := y.insts ++ [({ id := s.nextId, bind := b.idx, kernel := b.kernel, k := w1.k, amend := amend, recd := recd, team := none } : Inst)] }
    (due w ∧ (∀ v ∈ b.wins, due v → w.k ≤ v.k) ∧ s' = added false [] { w with st := .firing, revision := 0 }) ∨
    ((∀ v ∈ b.wins, ¬due v) ∧ lates w ∧ (∀ v ∈ b.wins, lates v → w.k ≤ v.k) ∧
      s' = added true (w.late.headD []) { w with st := .amending, late := w.late.drop 1 })

end Sys2Proof.Claims

/-- A data record goes into its pane once when a window of it still collects, at the lowest free slot of chip scratch or, past PANESZ, of the overflow region, and, window by window,
into a Collecting window, one that fires with it, or the queue of a Firing, Fired or Amending one. Late for all of them it is logged and LCOUNT rises. An absent page of the overflow
region is waited for (R364, R365, R368, R369, R417). The lowest free slot (notes/assumptions/25.md), LCOUNT in the unit
(notes/assumptions/26.md), the watermark that a record is judged by (notes/assumptions/27.md) and what a forbidden page of the overflow region does
(notes/assumptions/112.md) are the model's choice. -/
def Sys2Proof.Claims.Placement : Prop :=
  ∀ s ctx j wm r b, s.binding? ctx j = some b → 0 < b.slide →
    let p := paneOf b (timeOf r)
    let ks := windowsOf b p
    ((∃ k ∈ ks, ¬Past b wm k) → ∃ b1, b1 = { b with wins := b1.wins } ∧
      (∀ k,
        let now := b1.wins.find? fun w => w.k == k
        (k ∉ ks → now = b.wins.find? fun w => w.k == k) ∧ (k ∈ ks → Judged b wm r k now)) ∧
      ((∀ k ∈ ks, ¬Collects b wm k) → s.placeRecord ctx j wm r = .val ((s.putBinding ctx b1).fireBinding ctx j) []) ∧
      ((∃ k ∈ ks, Collects b wm k) → ∀ n, FreeSlot b n →
        let u := s.putBinding ctx { b1 with panes := b.panes ++ [{ pane := p, slot := n, words := r }] }
        (n < b.panesz / 64 → s.placeRecord ctx j wm r =
          .val ((u.modCtx ctx fun y => { y with chip := memWrite y.chip (b.paneoff + 64 * n) (wordsBytes r) }).fireBinding ctx j) []) ∧
        (b.panesz / 64 ≤ n → (∀ p ∈ s.giveUp, p.1 ≠ .armature ctx j 257) →
          let va := b.ovfbase + 64 * (n - b.panesz / 64)
          (∀ pa, UnitWrites s ctx va pa → r.length = 16 → MemOk s → ∃ s', s.placeRecord ctx j wm r = .val (s'.fireBinding ctx j) [] ∧ WordsAt s s' pa r ∧
            s'.ctxs = u.ctxs ∧ s'.teams = s.teams) ∧
          (∀ m, va % 64 = 0 → s.engineSeg ctx va = .fault m → s.placeRecord ctx j wm r = .absent va) ∧
          (UnitForbidden s ctx va → s.placeRecord ctx j wm r = .val (u.fireBinding ctx j) [])))) ∧
    ((∀ k ∈ ks, Past b wm k) →
      let va := b.logbase + 64 * (b.lcount.toNat % 2 ^ b.logn)
      (∀ pa, UnitWrites s ctx va pa → r.length = 16 → MemOk s → ∃ s', s.placeRecord ctx j wm r = .val s' [] ∧ WordsAt s s' pa r ∧
        s'.ctxs = (s.putBinding ctx { b with lcount := b.lcount + 1 }).ctxs) ∧
      ∀ x, s.stream? ctx b.instr = some x →
        (UnitForbidden s ctx va ∨ (va % 64 = 0 ∧ (s.engineSeg ctx va = .fault .park ∨ s.engineSeg ctx va = .fault .user))) →
        s.placeRecord ctx j wm r = .val ((s.putStream ctx { x with badrec := min 65535 (x.badrec + 1) }).putBinding ctx { b with lcount := b.lcount + 1 }) [])

/-- The windows that WM has reached are due, with the records of their panes; their instances, and then those of the late records, start in turn, as many as the 64 instances allow;
Fired windows that lateness has passed are Closed (R364 to R366, R368, R377). -/
def Sys2Proof.Claims.WindowsFire : Prop :=
  (∀ (s : State) ctx j b x, s.binding? ctx j = some b → s.stream? ctx b.instr = some x →
    ∃ u b1, Relation.ReflTransGen (Starts ctx j) (s.putBinding ctx (markedDue b x.wm)) u ∧ (∀ v, ¬Starts ctx j u v) ∧
      u.binding? ctx j = some b1 ∧ s.fireBinding ctx j = u.putBinding ctx (closedOver b1 x.wm)) ∧
  ∀ (s : State) ctx i c, s.ctx? ctx = some c →
    s.fireStream ctx i = ((boundTo c i).map (·.idx)).foldl (fun (u : State) j => u.fireBinding ctx j) s

namespace Sys2Proof.Claims

/-- What a lane gets that no record is left for (R373). -/
def nothing : List Word := [0, 0, 0, 0x80000000#32, 0, 0, 0, 0, 0, 0, 0, 0, 0, 0, 0, 0]

/-- The request of a STRM instruction is the next of its team (R302, R374). -/
abbrev StreamReq (s : State) (req : Nat) (r : Req) (op inst : Nat) : Prop :=
  s.dev = .operational ∧ s.req? req = some r ∧ s.live r = true ∧ r.kind = .strm op inst

/-- The request lands with these words in its lanes, and its core acquires at device scope (R167, R373). -/
def received (s : State) (r : Req) (ls : List Lane) : State :=
  let s1 := s.landReq { r with lanes := ls }
  { s1 with l1 := s1.l1.filter fun c => c.core ≠ r.core ∨ c.owned }

end Sys2Proof.Claims

/-- RECORD_DELIVERY gives RNEXT the next records of the window in ascending lanes and LATEQ the late record of its instance, and the core acquires; what REMIT, WMARK and SIDLE sent is
accepted in program order, lane after lane, once the team's earlier accesses are released and no record of it waits for room (R302, R364, R373, R374, R375); the
records that RNEXT and LATEQ give wait for the team's earlier loads, since the core acquires with them (R167, R377). -/
def Sys2Proof.Claims.Deliveries : Prop :=
  (∀ s req r op inst t, StreamReq s req r op inst → op = 1 ∨ op = 6 → s.team? r.team = some t →
    (t.gen ≠ r.gen → exec (.recordDelivery req) s = .next (s.dropOld r)) ∧
    (t.gen = r.gen → (∃ q ∈ s.reqs, q.team = r.team ∧ q.id < r.id ∧ ∃ o i, q.kind = .strm o i ∧ (o = 1 ∨ o = 6)) ∨ s.boundDone r.team r.id = false →
      exec (.recordDelivery req) s = .next s) ∧
    (t.gen = r.gen → (∀ q ∈ s.reqs, q.team = r.team → q.id < r.id → ∀ o i, q.kind = .strm o i → o ≠ 1 ∧ o ≠ 6) → s.boundDone r.team r.id = true →
      ∀ c x, s.ctx? r.ctx = some c → c.inst? inst = some x →
        let gives (u : State) (f : Nat → List Word) : Prop := ∀ ls : List Lane, ls.length = r.lanes.length →
          (∀ k (y : Lane), r.lanes[k]? = some y → ls[k]? = some { y with got := f k, st := .bound }) →
          exec (.recordDelivery req) s = .next (received u r ls)
        (op = 6 → gives s fun _ => x.recd) ∧
        (op = 1 → x.amend = true → gives s fun _ => nothing) ∧
        (∀ b w, op = 1 → x.amend = false → c.binding? x.bind = some b → b.wins.find? (fun v => v.k == x.k) = some w →
          gives (s.putBinding r.ctx { b with wins := b.wins.filter (fun v => v.k ≠ w.k) ++ [{ w with deliver := w.deliver.drop r.lanes.length }] })
            fun k => w.deliver.getD k nothing))) ∧
  ∀ s req r op inst, StreamReq s req r op inst → 2 ≤ op → op ≤ 4 →
    ((∃ q ∈ s.reqs, q.team = r.team ∧ q.id < r.id ∧ ∃ o i, q.kind = .strm o i ∧ 2 ≤ o ∧ o ≤ 4) ∨ EmittedBy s r.ctx r.team ∨
      s.releaseDone r.team .device r.id = false →
      exec (.recordDelivery req) s = .next s) ∧
    ((∀ q ∈ s.reqs, q.team = r.team → q.id < r.id → ∀ o i, q.kind = .strm o i → ¬(2 ≤ o ∧ o ≤ 4)) → ¬EmittedBy s r.ctx r.team → s.releaseDone r.team .device r.id = true →
      exec (.recordDelivery req) s = .next
        (r.lanes.foldl (fun (u : State) x => u.arriveItem r.ctx x.va x.dst (some r.team) x.data) (s.dropReq r.id)))

/-- The registers of the stream table; SRC.WP moves forward within the ring, and waits for the descriptor's page; records of the ring are read in order; a silent source is Idle after its timeout; an
instance that has ended leaves its window Fired, and an amend instance raises its revision and emits the revision record (R354, R356, R360, R362, R365, R367, R378,
R417). -/
def Sys2Proof.Claims.StreamEvents : Prop :=
  (∀ s ctx c v, s.dev = .operational → s.ctx? ctx = some c →
    let keeps (f : Ctx → Ctx) : Host.Outcome State Fault Refusal := .next (s.modCtx ctx f)
    let en (y : Ctx) : Bool := y.strmCfg.getLsbD 31
    (v.toNat % 65536 = 0 → exec (.strmBaseWrite ctx false v) s = keeps fun y =>
      if en y then y else { y with strmBase := BitVec.ofNat 64 (y.strmBase.toNat / 2 ^ 32 * 2 ^ 32 + v.toNat) }) ∧
    exec (.strmBaseWrite ctx true v) s = keeps (fun y =>
      if en y ∨ fld v 31 23 ≠ 0 then y else { y with strmBase := BitVec.ofNat 64 (fld v 22 0 * 2 ^ 32 + y.strmBase.toNat % 2 ^ 32) }) ∧
    (256 < fld v 24 16 ∨ 4096 < fld v 12 0 ∨ fld v 30 25 ≠ 0 ∨ fld v 15 13 ≠ 0 → exec (.strmCfgWrite ctx v) s = keeps id) ∧
    (fld v 24 16 ≤ 256 → fld v 12 0 ≤ 4096 → fld v 30 25 = 0 → fld v 15 13 = 0 → exec (.strmCfgWrite ctx v) s = keeps fun y =>
      { y with strmCfg := if en y then (y.strmCfg &&& 0x7FFFFFFF#32) ||| (v &&& 0x80000000#32) else v }) ∧
    (∀ b, fld v 31 16 = 0 → c.binding? (fld v 15 0) = some b → (s.ctxs.map (·.num)).Nodup → exec (.strmUnbWrite ctx v) s = keeps fun y =>
      { y with bindings := y.bindings.map fun z => if z.idx = b.idx then
                 { b with unbound := true, panes := []
                          wins := (b.wins.filter fun w => w.st = .firing ∨ w.st = .amending).map fun w => { w with deliver := [], late := [] } }
                 else z
               insts := y.insts.filter fun z => ¬(z.bind = fld v 15 0 ∧ z.kernel = b.kernel ∧ z.team = none) }) ∧
    (fld v 31 16 ≠ 0 ∨ c.binding? (fld v 15 0) = none → (s.ctxs.map (·.num)).Nodup → exec (.strmUnbWrite ctx v) s = .next s)) ∧
  (∀ s ctx c i n x y, s.dev = .operational → s.ctx? ctx = some c → c.st ≠ .created → c.st ≠ .reset → Source s ctx i n x y → x.idx = i →
    let now := s.clock - s.released
    (∀ v, y.en = true → y.kind = 0 → (v - y.rp).toNat ≤ 2 ^ y.log2n → (y.wp - y.rp).toNat ≤ (v - y.rp).toNat →
      exec (.srcWpWrite ctx i n v) s =
        .next (s.putStream ctx (withSource x n { y with wp := v, unseen := y.unseen ++ s.unseenIn ctx y.ringva y.log2n y.wp v }))) ∧
    (∀ v, y.en = false ∨ y.kind ≠ 0 ∨ 2 ^ y.log2n < (v - y.rp).toNat ∨ (v - y.rp).toNat < (y.wp - y.rp).toNat →
      exec (.srcWpWrite ctx i n v) s = .next s) ∧
    (y.en = false ∨ y.kind ≠ 0 ∨ y.rp = y.wp ∨ y.held ≠ [] ∨ c.st = .rollingBack ∨ (∃ e ∈ s.events, e.what = .armature ctx i n) →
      exec (.ringRecordRead ctx i n) s = .next s) ∧
    (y.en = true → y.kind = 0 → y.rp ≠ y.wp → y.held = [] → c.st ≠ .rollingBack → Unheld s (.armature ctx i n) →
      let va := y.ringva + 64 * (y.rp.toNat % 2 ^ y.log2n)
      let z : Src := { y with rp := y.rp + 1, unseen := y.unseen.filter fun p => p.1 ≠ y.rp.toNat }
      va % 65536 + 64 ≤ 65536 →
      (∀ pa a, s.engineSeg ctx va = .ok pa a → a.rlf = false → a.raw = false → isRemote pa = false → s.tableAt pa 64 = false →
        (s.poisonIn pa 64 = none → ∃ bs : List Byte, bs.length = 64 ∧ (∀ k < 64, (y.rp.toNat, k) ∉ y.unseen → bs[k]? = (s.phys pa 64)[k]?) ∧
          ∃ free, exec (.ringRecordRead ctx i n) s =
            .next (({ s with freeCtr := free }.putStream ctx (withSource x n z)).arriveItem ctx i n none (bytesWords bs))) ∧
        (∀ l, s.poisonIn pa 64 = some l → exec (.ringRecordRead ctx i n) s = .next (s.contain ctx (some l)))) ∧
      (s.engineSeg ctx va = .bad ∨ (∃ pa a, s.engineSeg ctx va = .ok pa a ∧ (a.rlf = true ∨ a.raw = true ∨ isRemote pa = true ∨ s.tableAt pa 64 = true)) →
        exec (.ringRecordRead ctx i n) s = .next (s.putStream ctx (withSource { x with badrec := min 65535 (x.badrec + 1) } n z)))) ∧
    (x.idle ≠ 0 → y.en = true → y.st ≠ .idle → y.seen + 1000 * x.idle ≤ now → c.st ≠ .rollingBack →
      exec (.sourceIdleTimeout ctx i n) s = .next ((s.putStream ctx (caughtUp (withSource x n { y with st := .idle }))).fireStream ctx i)) ∧
    (c.st = .rollingBack ∨ x.idle = 0 ∨ y.en = false ∨ y.st = .idle ∨ now < y.seen + 1000 * x.idle → exec (.sourceIdleTimeout ctx i n) s = .next s)) ∧
  (∀ s ctx c i n v m, s.dev = .operational → s.ctx? ctx = some c → c.st ≠ .created → c.st ≠ .reset → c.st ≠ .rollingBack → c.stream? i = none →
    c.strmCfg.getLsbD 31 = true → i < fld c.strmCfg 24 16 → Unheld s (.armature ctx i 256) → (c.strmBase.toNat + 2048 * i) % 65536 + 64 ≤ 65536 →
    s.engineSeg ctx (c.strmBase.toNat + 2048 * i) = .fault m →
    exec (.srcWpWrite ctx i n v) s = .next ((s.engineFault ctx (.armature ctx i 256) (c.strmBase.toNat + 2048 * i) 0).modCtx ctx fun y =>
      { y with wpWaits := y.wpWaits ++ [(i, n, v)] })) ∧
  ∀ s ctx team c x t b w, s.dev = .operational → s.ctx? ctx = some c → c.insts.find? (fun y => y.team == some team) = some x →
    s.team? team = some t → c.binding? x.bind = some b → b.kernel = x.kernel → b.wins.find? (fun v => v.k == x.k) = some w →
    (t.st ≠ .exited ∨ (∃ r ∈ s.reqs, r.team = team) ∨ (∃ d ∈ s.deadlines, d.team = team) → exec (.instanceEnd ctx team) s = .next s) ∧
    (t.st = .exited → (∀ r ∈ s.reqs, r.team ≠ team) → (∀ d ∈ s.deadlines, d.team ≠ team) →
      let s1 : State := s.modCtx ctx fun y => { y with insts := y.insts.filter fun z => z.id ≠ x.id }
      let put (v : Win) : State := s1.putBinding ctx { b with wins := b.wins.filter (fun z => z.k ≠ v.k) ++ [v] }
      (x.amend = false → exec (.instanceEnd ctx team) s = .next (put { w with st := .fired, deliver := [], published := true })) ∧
      (x.amend = true →
        let u := put { w with st := .fired, revision := w.revision + 1 }
        let a := winStart b w.k
        let e := winEnd b w.k - 1
        (b.out = false → exec (.instanceEnd ctx team) s = .next u) ∧
        (b.out = true → exec (.instanceEnd ctx team) s = .next (u.arriveItem ctx b.outstr b.outsrc none
          [low32 e, top32 e, low32 w.k, 0x00010000, w.revision + 1, low32 a, top32 a, low32 (lineOf b w.k), top32 (lineOf b w.k),
           0, 0, 0, 0, 0, 0, 0]))))

/-- STREAM_DATAGRAM goes to the source that the lowest matching filter of its Ethernet port names, record after record; a payload of a broken length, or that finds
the port buffer full, is dropped and counted; without a filter nothing happens (R360, R393). -/
def Sys2Proof.Claims.Datagrams : Prop :=
  (∀ s eth port payload, s.dev = .operational → (∀ i < 64, ∀ f, s.filters[64 * eth + i]? = some f → f.w0.getLsbD 31 = false ∨ fld f.w0 15 0 ≠ port) →
    exec (.streamDatagram eth port payload) s = .next s) ∧
  ∀ s eth port payload i f, s.dev = .operational → eth < 4 → i < 64 → s.filters[64 * eth + i]? = some f → f.w0.getLsbD 31 = true → fld f.w0 15 0 = port →
    (∀ j < i, ∀ g, s.filters[64 * eth + j]? = some g → g.w0.getLsbD 31 = false ∨ fld g.w0 15 0 ≠ port) →
    (payload.length % 64 ≠ 0 ∨ 2097152 < s.ethFull eth + payload.length → exec (.streamDatagram eth port payload) s =
      .next { s with filters := s.filters.set (64 * eth + i) { f with drop := min 65535 (f.drop + 1) } }) ∧
    (payload.length % 64 = 0 → s.ethFull eth + payload.length ≤ 2097152 → (∃ b ∈ s.ethBuf, b.1 = eth ∧ b.2.1 = i) →
      exec (.streamDatagram eth port payload) s = .next { s with
        ethBuf := s.ethBuf ++ [(eth, i, (List.range (payload.length / 64)).map fun k => bytesWords ((payload.drop (64 * k)).take 64))] }) ∧
    ∀ c x y, payload.length % 64 = 0 → s.ethFull eth + payload.length ≤ 2097152 → (∀ b ∈ s.ethBuf, ¬(b.1 = eth ∧ b.2.1 = i)) →
      s.ctx? (fld f.w1 23 16) = some c → c.st ≠ .created → c.st ≠ .reset → c.st ≠ .rollingBack → c.stream? (fld f.w1 15 8) = some x →
      x.srcs[fld f.w1 4 0]? = some y → y.en = true → y.kind = 1 →
      exec (.streamDatagram eth port payload) s = .next ((List.range (payload.length / 64)).foldl
        (fun (u : State) k => u.arriveItem (fld f.w1 23 16) (fld f.w1 15 8) (fld f.w1 4 0) none (bytesWords ((payload.drop (64 * k)).take 64))) s)

/-! ## Links, Ethernet and the host -/

namespace Sys2Proof.Claims

/-- Port p of the device (R380). -/
abbrev AtPort (s : State) (p : Nat) (y : Port) : Prop := s.dev = .operational ∧ p < 16 ∧ s.ports[p]? = some y

def onPort (s : State) (p : Nat) (y : Port) : State := { s with ports := s.ports.set p y }

/-- A line of n bytes at pa goes by port p (R380, R383). -/
abbrev Goes (s : State) (p pa n : Nat) : Prop :=
  isRemote pa = true ∧ 0 < n ∧ ∃ l, pa / 64 ≤ l ∧ l ≤ (pa + n - 1) / 64 ∧ l < pa / 64 + 1024 ∧ s.portOf (64 * l) = some p

/-- A lane of the request, or its tile, is on its way through port p (R380). -/
abbrev OnWay (s : State) (p : Nat) (r : Req) : Prop :=
  (∃ x ∈ r.lanes, x.st ≠ .bound ∧ x.st ≠ .done ∧ ∃ v ∈ r.kind.laneSpans x, Goes s p v.1 v.2) ∨
  ∃ d k, r.kind = .tile (some d) k ∧ Goes s p d.pa 4

/-- The bytes of the copy command are on their way through port p. -/
abbrev CopyOnWay (s : State) (p : Nat) (k : Copyc) : Prop :=
  k.ready ≠ none ∧ k.complete = false ∧ k.failed = false ∧ ∃ v ∈ k.wrote, Goes s p v.1 v.2

/-- The port goes on as y; the context whose requests it carried has a containment event, which fences the port, and a copy command whose bytes it carried
stops (R174, R310, R380). -/
def Loses (s : State) (p : Nat) (y : Port) (i : Instr) : Prop :=
  ((∀ k ∈ s.copies, ¬CopyOnWay s p k) →
    ((∀ r ∈ s.reqs, ¬OnWay s p r) → exec i s = .next (onPort s p y)) ∧
    ∀ c cx, (∃ r ∈ s.reqs, OnWay s p r) → (∀ r ∈ s.reqs, OnWay s p r → r.ctx = c) → s.ctx? c = some cx → cx.st ≠ .reset →
      exec i s = .next (struck (onPort s p y) c ((.port p, s.clock - s.released) :: s.fenced.filter fun x => x.1 ≠ .port p) s.removed none)) ∧
  ∀ k pre post, (∀ r ∈ s.reqs, ¬OnWay s p r) → s.copies = pre ++ k :: post → CopyOnWay s p k → (∀ z ∈ pre ++ post, ¬CopyOnWay s p z) →
    exec i s = .next ((onPort s p y).stopCopy { k with ready := none })

/-- The version of an interface for which the 960 offers (1, 0) (R381). -/
def common (offer : List (Nat × Nat)) : Nat := if ∃ x ∈ offer, x.1 = 1 then 0x10 else 0

/-- The inbound window of the address names context ctx and virtual address va (R384). -/
abbrev Mapped (s : State) (port addr ctx va : Nat) : Prop :=
  let n := addr / 2 ^ 40 % 256
  n < 64 ∧ ∃ w, s.inwin[n]? = some w ∧ w.1.getLsbD 31 = true ∧ fld w.1 7 0 = ctx ∧ (s.ctx? ctx).isSome = true ∧
    va = fld w.2 14 0 * 2 ^ 40 + addr % 2 ^ 40 ∧ s.dev = .operational ∧ ∃ y, s.ports[port]? = some y ∧ y.st = .up

/-- n bytes within one page of the context that an engine reaches (R193, R286, R383). -/
abbrev OnePage (s : State) (ctx va n pa : Nat) (a : Attr) : Prop :=
  0 < n ∧ va % 65536 + n ≤ 65536 ∧ va + n ≤ 2 ^ 55 ∧ s.engineSeg ctx va = .ok pa a ∧ s.unreachable pa = false ∧ a.raw = false ∧
  s.tableAt pa n = false

abbrev NotPresent (s : State) (ctx va n : Nat) : Prop :=
  0 < n ∧ va % 65536 + n ≤ 65536 ∧ va + n ≤ 2 ^ 55 ∧ (s.engineSeg ctx va = .fault .park ∨ s.engineSeg ctx va = .fault .user) ∧
  s.walkPoison (s.rootOf ctx) va = none

/-- A foreign agent may write there: writable, no relief page, nothing that an engine holds (R294, R314, R386). -/
abbrev ForeignWritable (s : State) (ctx va n pa : Nat) (a : Attr) : Prop :=
  OnePage s ctx va n pa a ∧ a.w = true ∧ a.rlf = false ∧ InDram pa n ∧ NotHeld s pa n ∧ MemOk s ∧
  ∀ m ∈ s.maqs, m.ctx = ctx → m.streaming = false

/-- A foreign access to these n bytes of one page is forbidden (R193, R294, R326, R384). -/
abbrev ForeignForbidden (s : State) (ctx va n : Nat) (write relq : Bool) : Prop :=
  0 < n ∧ va % 65536 + n ≤ 65536 ∧ va + n ≤ 2 ^ 55 ∧
  (s.engineSeg ctx va = .bad ∨ ∃ pa a, s.engineSeg ctx va = .ok pa a ∧
    (s.unreachable pa = true ∨ s.tableAt pa n = true ∨
      if write then a.w = false ∨ a.rlf = true ∨ (a.raw = true ∧ relq = false) else a.rlf = true ∧ relq = false))

/-- The machine's number for the request is taken. -/
def numbered (s : State) : State := { s with nextId := s.nextId + 1 }

/-- The device has said o. -/
def told (s : State) (o : Out) : Host.Outcome State Fault Refusal := .next ((numbered s).say o)

/-- A foreign write of bs has been registered at pa as a strong store (R161, R386). -/
abbrev Registered (s s' : State) (pa : Nat) (bs : List Byte) : Prop :=
  OnlyBytes s s' pa bs.length ∧ memRead s'.mem pa bs.length = bs ∧ (∀ w ∈ wordsOf pa bs.length, (s'.bankWord w).owner = none) ∧
  s'.teams = s.teams ∧ s'.ctxs = s.ctxs ∧ s'.inbound = s.inbound

/-- The acknowledgement o leaves 10 ns after every lease on the words is over (R161, R386). -/
abbrev Acks (s s' : State) (pa n : Nat) (o : Out) : Prop :=
  s'.outbox = s.outbox ∧ ∃ d, s'.acks = s.acks ++ [(s.clock - s.released + d + 10, o)] ∧
    (∀ w ∈ wordsOf pa n, (s.bankWord w).expiry ≤ s.clock - s.released + d) ∧
    (d = 0 ∨ ∃ w ∈ wordsOf pa n, (s.bankWord w).expiry = s.clock - s.released + d)

/-- The request waits on its page, with a page-fault event for the context's handler (R384, R392, R417). -/
abbrev WaitsOnPage (s s' : State) (x : Inbound) (access : Nat) : Prop :=
  s'.inbound = s.inbound ++ [x] ∧ s'.mem = s.mem ∧ s'.outbox = s.outbox ∧
  ∃ e, s'.events = e :: s.events ∧ e.ctx = x.ctx ∧ e.what = .foreign x.key ∧ e.kind = 5 ∧ e.va = x.va ∧ e.access = access

/-- Nothing names the next number: no request, event or completion. -/
abbrev NewReq (s : State) : Prop :=
  (∀ x ∈ s.inbound, x.key ≠ s.nextId) ∧ Unheld s (.foreign s.nextId)

/-- No link request waits. -/
abbrev NoneWaits (s : State) : Prop := ∀ x ∈ s.inbound, x.peer = none

/-- An earlier link request to a line of x waits: of the same partner, or a write before an atomic (R386); two reads do not wait for each other. That a request waits
behind one to the same line is the model's reading of arrival order (notes/assumptions/104.md). -/
abbrev Behind (s : State) (x : Inbound) : Prop :=
  ∃ z ∈ s.inbound, z.key < x.key ∧ z.peer ≠ none ∧ ¬(z.work = .read ∧ x.work = .read) ∧
    (z.peer = x.peer ∨ ((∃ bs, z.work = .write bs) ∧ ∃ op v w, x.work = .atom op v w)) ∧
    z.ctx = x.ctx ∧ 0 < z.n ∧ 0 < x.n ∧ z.va / 64 ≤ (x.va + x.n - 1) / 64 ∧ x.va / 64 ≤ (z.va + z.n - 1) / 64

/-- The request waits, not for a page (R386). -/
def queued (s : State) (x : Inbound) : Host.Outcome State Fault Refusal :=
  .next { numbered s with inbound := s.inbound ++ [{ x with held := true }] }

/-- The next request of n bytes. -/
def request (s : State) (id ctx va n : Nat) (work : InWork) (relq : Bool) : Inbound :=
  { id := id, ctx := ctx, va := va, n := n, work := work, relq := relq, eth := none, full := n, since := s.clock - s.released,
    key := s.nextId, tag := none, held := false, refusal := 1 }

/-- The partner on the port may use relief requests (R381, R382). -/
abbrev relqOf (s : State) (port : Nat) (y : Bool) : Prop :=
  ∃ p, s.ports[port]? = some p ∧ y = (p.cap.getLsbD 1 && fld p.ver 23 16 != 0)

/-- The tag p of the sender is not above what has been applied (R389). -/
abbrev Stale (s : State) (dev ctx : Nat) (p : Nat × Nat) : Prop :=
  ∃ x, s.applied.find? (fun x => x.1 == (dev, ctx)) = some x ∧ ¬(x.2.1 < p.1 ∨ (x.2.1 = p.1 ∧ x.2.2 < p.2))

/-- The sender with the tag (R389). -/
def tagged (dev ctx : Nat) (p : Option (Nat × Nat)) : Option ((Nat × Nat) × (Nat × Nat)) := p.map fun v => ((dev, ctx), v)

/-- What has been applied, after a write or message with this tag (R389). -/
def appliedWith (s : State) (dev ctx : Nat) (tag : Option (Nat × Nat)) : List ((Nat × Nat) × (Nat × Nat)) :=
  match tag with
  | none => s.applied
  | some p => ((dev, ctx), p) :: s.applied.filter fun x => x.1 ≠ (dev, ctx)

/-- What the context has posted to a collective, over a port that is Up and carries collectives (R382, R388). -/
def contributed (s : State) (c : Ctx) (coll : Word) : List SyscEntry :=
  c.sysc.filter fun e => e.st == .posted &&
    match Config.contribution e.words with
    | none => false
    | some (x, p) => x == coll && match s.ports[p]? with
      | some y => y.st == .up && y.cap.getLsbD 2
      | none => false

end Sys2Proof.Claims

/-- A scale-up port moves between its states on the events of R380 and agrees versions and capabilities as R381 and R382 say; a port that leaves Up contains the context whose requests it
carried; LINK.ID is written only while every port is Down (R379 to R382). ERR's counting and the fields cleared on leaving Up are the model's choice
(notes/assumptions/51.md). -/
def Sys2Proof.Claims.LinkPorts : Prop :=
  (∀ (s : State) v, s.dev = .operational →
    ((∀ y ∈ s.ports, y.st = .down) → fld v 31 10 = 0 → exec (.linkIdWrite v) s = .next { s with linkId := fld v 9 0 }) ∧
    ((∃ y ∈ s.ports, y.st ≠ .down) ∨ fld v 31 10 ≠ 0 → exec (.linkIdWrite v) s = .next s)) ∧
  ∀ s p y, AtPort s p y →
    let failed := min 255 (y.err + 1)
    (y.st = .down → exec (.linkEnSet p) s = .next (onPort s p { y with en := true, st := .training })) ∧
    (y.st ≠ .down → exec (.linkEnSet p) s = .next s) ∧
    (y.st = .training → exec (.linkTrained p) s = .next (onPort s p { y with st := .negotiating }) ∧
      exec (.linkTrainTimeout p) s = .next (onPort s p { y with st := .down, err := failed })) ∧
    (y.st ≠ .training → exec (.linkTrained p) s = .next s ∧ exec (.linkTrainTimeout p) s = .next s) ∧
    (∀ o, y.st = .negotiating →
      (common o.lcap = 0 → exec (.linkNegotiated p o) s = .next (onPort s p { y with st := .refused })) ∧
      (common o.lcap ≠ 0 → exec (.linkNegotiated p o) s = .next (onPort s p { y with
        st := .up, cap := o.caps, peer := o.peer % 1024
        ver := BitVec.ofNat 32 (common o.lcap * 2 ^ 24 + common o.relf * 2 ^ 16 + common o.srec * 2 ^ 8 + common o.save) }))) ∧
    (∀ o, y.st ≠ .negotiating → exec (.linkNegotiated p o) s = .next s) ∧
    Loses s p { y with en := false, st := .down, err := 0, cap := 0, ver := 0 } (.linkEnClear p) ∧
    (y.st = .up → Loses s p { y with st := .training, err := failed, cap := 0, ver := 0 } (.linkFailure p) ∧
      Loses s p { y with st := .fenced, err := failed, cap := 0, ver := 0 } (.linkPortError p)) ∧
    (y.st ≠ .up → exec (.linkFailure p) s = .next s ∧ exec (.linkPortError p) s = .next s)

/-- A link request goes through its inbound window to its context: a read answers the bytes, under RELQ those of a coded page, a write is registered and acknowledged once the leases are
over unless its tag has been applied, an atomic executes at the home; an unmapped window or a forbidden page refuses it, an absent page makes it wait, at most 10 ms; a request
to a line for which an earlier one of its partner waits, waits behind it. A switch's
invalidation drops the line and is acknowledged; a reset member of a collective ends the context's contributions to it (R294, R384, R386 to R389). The refusal on a chisel table (notes/assumptions/84.md) and of a misaligned atomic
(notes/assumptions/55.md), the reply of a reset member (notes/assumptions/88.md), that atomics bear no tag (notes/assumptions/52.md) and the place of a request
behind another (notes/assumptions/104.md) are the model's choice. -/
def Sys2Proof.Claims.InboundRequests : Prop :=
  (∀ (s : State) q, s.dev = .operational →
    (∀ y, s.ports[q.port]? = some y → y.st ≠ .up → exec (.inboundRead q) s = .next s ∧
      (∀ bs, exec (.inboundWrite q bs) s = .next s) ∧ ∀ op v w, exec (.inboundAtomic q op v w) s = .next s) ∧
    (∀ y, s.ports[q.port]? = some y → y.st = .up → (∀ ctx va, ¬Mapped s q.port q.addr ctx va) → s.inwin.length = 64 →
      exec (.inboundRead q) s = .next (s.say (.status q.id 1 q.n)) ∧
      (∀ bs, exec (.inboundWrite q bs) s = .next (s.say (.status q.id 1 bs.length))) ∧
      ∀ op v w, ∃ n, exec (.inboundAtomic q op v w) s = .next (s.say (.status q.id 1 n)))) ∧
  (∀ s q ctx va relq y, Mapped s q.port q.addr ctx va → relqOf s q.port relq → NewReq s → s.ports[q.port]? = some y →
    let x : Inbound := { request s q.id ctx va q.n .read relq with peer := some y.peer }
    (Behind s x → exec (.inboundRead q) s = queued s x) ∧
    (NoneWaits s →
    (∀ pa a, OnePage s ctx va q.n pa a → a.rlf = false ∨ relq = true →
      (a.rlf = true → (∀ f, s.codedFrame pa = some f → (numbered s).holdSurf ctx f [] = (numbered s, .held)) ∧ s.inbound = [] ∧
        ∀ r ∈ s.reqs, ∀ z ∈ r.lanes, r.kind.isLda = true ∨ z.st ≠ .pending ∨ z.dst = 0) →
      (s.poisonIn pa q.n = none → exec (.inboundRead q) s = told s (.data q.id (if a.rlf then s.codedBytes pa q.n else s.phys pa q.n))) ∧
      (∀ l, s.poisonIn pa q.n = some l → exec (.inboundRead q) s = .next (((numbered s).contain ctx (some l)).say (.status q.id 1 q.n)))) ∧
    (ForeignForbidden s ctx va q.n false relq → exec (.inboundRead q) s = told s (.status q.id 1 q.n)) ∧
    (NotPresent s ctx va q.n → ∃ s', exec (.inboundRead q) s = .next s' ∧ WaitsOnPage s s' x 0))) ∧
  (∀ s q ctx va relq bs y, Mapped s q.port q.addr ctx va → relqOf s q.port relq → NewReq s → s.ports[q.port]? = some y →
    let tag := if y.cap.getLsbD 3 then q.seq else none
    let x : Inbound := { request s q.id ctx va bs.length (.write bs) relq with tag := tagged q.dev q.sctx tag, peer := some y.peer }
    (∀ p, tag = some p → Stale s q.dev q.sctx p → exec (.inboundWrite q bs) s = told s (.status q.id 0 bs.length)) ∧
    ((∀ p, tag = some p → ¬Stale s q.dev q.sctx p) → Behind s x → exec (.inboundWrite q bs) s = queued s x) ∧
    ((∀ p, tag = some p → ¬Stale s q.dev q.sctx p) → NoneWaits s →
      (∀ pa a, ForeignWritable s ctx va bs.length pa a → ∃ s', exec (.inboundWrite q bs) s = .next s' ∧
        Registered s s' pa bs ∧ Acks s s' pa bs.length (.status q.id 0 bs.length) ∧ s'.applied = appliedWith s q.dev q.sctx tag) ∧
      (ForeignForbidden s ctx va bs.length true relq → exec (.inboundWrite q bs) s = told s (.status q.id 1 bs.length)) ∧
      (NotPresent s ctx va bs.length → ∃ s', exec (.inboundWrite q bs) s = .next s' ∧ s'.applied = s.applied ∧
        WaitsOnPage s s' x 1))) ∧
  (∀ s q ctx va relq op o v w y, Mapped s q.port q.addr ctx va → relqOf s q.port relq → NewReq s → s.ports[q.port]? = some y →
    atomOpOf op = some o →
    let n : Nat := if wide64 o then 8 else 4
    let special : Prop := o = .incw ∨ o = .decw ∨ o = .addb ∨ o = .fadd ∨ o = .fmin ∨ o = .fmax
    (va % n ≠ 0 ∨ (special ∧ y.cap.getLsbD 4 = false) → exec (.inboundAtomic q op v w) s = .next (s.say (.status q.id 1 n))) ∧
    let x : Inbound := { request s q.id ctx va n (.atom op v w) relq with peer := some y.peer }
    (va % n = 0 → (special → y.cap.getLsbD 4 = true) → Behind s x → exec (.inboundAtomic q op v w) s = queued s x) ∧
    (va % n = 0 → (special → y.cap.getLsbD 4 = true) → NoneWaits s →
      (∀ pa a, ForeignWritable s ctx va n pa a → s.poisonIn pa n = none →
        ∃ s', exec (.inboundAtomic q op v w) s = .next s' ∧ OnlyBytes s s' pa n ∧
          s'.outbox = .data q.id (memRead s.mem pa n) :: s.outbox ∧ s'.teams = s.teams ∧ s'.ctxs = s.ctxs ∧
          (stored o (le (memRead s.mem pa n)) v.toNat w.toNat = none → s'.mem = s.mem) ∧
          ∀ u, stored o (le (memRead s.mem pa n)) v.toNat w.toNat = some u →
            ∀ i < n, memGet s'.mem (pa + i) = BitVec.ofNat 8 (u / 2 ^ (8 * i))) ∧
      (ForeignForbidden s ctx va n true false → exec (.inboundAtomic q op v w) s = told s (.status q.id 1 n)) ∧
      (NotPresent s ctx va n → ∃ s', exec (.inboundAtomic q op v w) s = .next s' ∧
        WaitsOnPage s s' x 1))) ∧
  (∀ (s : State) id, s.dev = .operational →
    let late (x : Inbound) : Prop :=
      x.id = id ∧ x.eth = none ∧ x.refusal = 1 ∧ x.held = false ∧ x.since + 10000000 ≤ s.clock - s.released
    (∀ pre x post, s.inbound = pre ++ x :: post → late x → (∀ y ∈ pre, ¬late y) → exec (.inboundFaultTimeout id) s =
      .next ({ s with inbound := s.inbound.filter fun y => y.key ≠ x.key }.say (.status id 2 x.n))) ∧
    ((∀ x ∈ s.inbound, ¬late x) → exec (.inboundFaultTimeout id) s = .next s)) ∧
  (∀ (s : State) line, s.dev = .operational →
    exec (.switchInvalidation line) s = .next { s with
      ssLines := s.ssLines.filter fun l => l.1 ≠ line, acks := s.acks ++ [(s.clock - s.released + 10, .invAck line)] }) ∧
  ∀ (s : State) ctx c coll, s.dev = .operational → s.ctx? ctx = some c →
    ∃ (s' : State) (rep : Nat → List Word), exec (.collectiveAbort ctx coll) s = .next s' ∧ (∀ n, (rep n).length = 4) ∧
      let answered (z : SyscEntry) : SyscEntry :=
        if ∃ e ∈ contributed s c coll, e.n = z.n then { z with st := .serviced, reply := rep z.n } else z
      s'.outbox = List.replicate (contributed s c coll).length (.memberReset ctx coll) ++ s.outbox ∧
      s'.ctxs = (s.modCtx ctx fun y => { y with sysc := y.sysc.map answered }).ctxs ∧
      s'.teams = s.teams ∧ s'.mem = s.mem

/-- A message fills the posted buffer and reports its full length; a placement writes all its bytes; one whose tag has been applied is acknowledged only; on an absent page both wait in the
2 MiB port buffer; when it is full their transfer ends with "not present", and what still comes of it is dropped. The host reads and writes the 16 GiB from VFWIN, waits on an absent
page, and gets Completer Abort where a page forbids it (R389, R391, R392, R394, R417). The refusal on a chisel table (notes/assumptions/84.md) and which transfer a full
buffer ends (notes/assumptions/94.md) are the model's choice. -/
def Sys2Proof.Claims.MessagesAndHost : Prop :=
  (∀ (s : State) (q : EthReq) sent (i : Instr) bs, s.dev = .operational → (s.ctx? q.ctx).isSome = true → NewReq s →
    (i = .ethMessageReceive q sent ∧ bs = sent.take q.len) ∨ (i = .rdmaPlacement q sent ∧ bs = sent) →
    (q.id ∈ s.ended → exec i s = .next s) ∧
    (∀ p, q.id ∉ s.ended → q.seq = some p → Stale s q.dev q.sctx p → exec i s = told s (.status q.id 0 sent.length)) ∧
    (q.id ∉ s.ended → (∀ p, q.seq = some p → ¬Stale s q.dev q.sctx p) →
      (∀ pa a, ForeignWritable s q.ctx q.va bs.length pa a → ∃ s', exec i s = .next s' ∧ Registered s s' pa bs ∧ s'.acks = s.acks ∧
        s'.outbox = .status q.id (if bs.length < sent.length then 6 else 0) sent.length :: s.outbox ∧
        s'.applied = appliedWith s q.dev q.sctx q.seq) ∧
      (ForeignForbidden s q.ctx q.va bs.length true false → exec i s = told s (.status q.id 1 sent.length)) ∧
      (NotPresent s q.ctx q.va bs.length →
        let held := ((s.inbound.filter fun x => x.eth == some q.eth).map (·.n)).sum + bs.length + s.ethHeld q.eth
        ∃ s', exec i s = .next s' ∧ s'.applied = s.applied ∧
          (held ≤ 2097152 → WaitsOnPage s s' { request s q.id q.ctx q.va bs.length (.write bs) false with
            eth := some q.eth, full := sent.length, tag := tagged q.dev q.sctx q.seq } 1) ∧
          (2097152 < held → s'.inbound = s.inbound.filter (fun y => ¬(y.id = q.id ∧ y.eth ≠ none)) ∧ s'.ended = q.id :: s.ended ∧
            s'.outbox = .status q.id 2 sent.length :: s.outbox ∧ s'.mem = s.mem)))) ∧
  ∀ (s : State) ctx c off, s.dev = .operational → s.ctx? ctx = some c → NewReq s →
    let va := c.vfwin.toNat + off
    (∀ n, (2 ^ 34 < off + n → exec (.hostBar2Access ctx off n none) s = .next (s.say (.status 0 4 n))) ∧
      (off + n ≤ 2 ^ 34 →
        (∀ pa a, OnePage s ctx va n pa a → a.rlf = false →
          (s.poisonIn pa n = none → exec (.hostBar2Access ctx off n none) s = told s (.data 0 (s.phys pa n))) ∧
          (∀ l, s.poisonIn pa n = some l →
            exec (.hostBar2Access ctx off n none) s = .next (((numbered s).contain ctx (some l)).say (.status 0 4 n)))) ∧
        (ForeignForbidden s ctx va n false false → exec (.hostBar2Access ctx off n none) s = told s (.status 0 4 n)) ∧
        (NotPresent s ctx va n → ∃ s', exec (.hostBar2Access ctx off n none) s = .next s' ∧
          WaitsOnPage s s' { request s 0 ctx va n .read false with refusal := 4 } 0))) ∧
    ∀ bs k, (2 ^ 34 < off + bs.length → exec (.hostBar2Access ctx off k (some bs)) s = .next (s.say (.status 0 4 bs.length))) ∧
      (off + bs.length ≤ 2 ^ 34 →
        (∀ pa a, ForeignWritable s ctx va bs.length pa a → ∃ s', exec (.hostBar2Access ctx off k (some bs)) s = .next s' ∧
          Registered s s' pa bs ∧ Acks s s' pa bs.length (.status 0 0 bs.length)) ∧
        (ForeignForbidden s ctx va bs.length true false → exec (.hostBar2Access ctx off k (some bs)) s = told s (.status 0 4 bs.length)) ∧
        (NotPresent s ctx va bs.length → ∃ s', exec (.hostBar2Access ctx off k (some bs)) s = .next s' ∧
          WaitsOnPage s s' { request s 0 ctx va bs.length (.write bs) false with refusal := 4 } 1))

/-- A register write of the host acts as the event of the register at its offset; a base that breaks its alignment and an offset that no rule lists are Ignored (R1, R8, R25, R264, R290,
R297, R298, R300, R354, R379, R380, R383, R384, R393, R394). What offsets without a row do, and that DROP is read-only, is the model's choice
(notes/assumptions/54.md). -/
def Sys2Proof.Claims.RegisterWrites : Prop :=
  (∀ (s : State) off v,
    let acts (i : Instr) : Prop := exec (.registerWrite .pf off v) s = exec i s
    (∀ sl < 12, (off = 0x8000 + 32 * sl + 0x08 → acts (.poolCfgWrite sl v)) ∧ (off = 0x8000 + 32 * sl + 0x10 → acts (.poolTailWrite sl v)) ∧
      (off = 0x8000 + 32 * sl + 0x14 → acts (.poolStatWrite sl v)) ∧ (off = 0x9000 + 4 * sl → acts (.partCfgWrite sl v))) ∧
    (∀ n < 48, off = 0xA000 + 4 * n → acts (.ceOwnWrite n v)) ∧
    (∀ p < 16, off = 0xC000 + 16 * p → if fld v 30 0 ≠ 0 then exec (.registerWrite .pf off v) s = .next s else if v.getLsbD 31 then acts (.linkEnSet p) else acts (.linkEnClear p)) ∧
    (off = 0xC100 → acts (.linkIdWrite v)) ∧ (off = 0xF000 → acts (.fwCmdVerify v))) ∧
  (∀ (s : State) off v, s.dev = .operational →
    let becomes (u : State) : Prop := exec (.registerWrite .pf off v) s = .next u
    (∀ sl p, sl < 12 → s.pools[sl]? = some p →
      (off = 0x8000 + 32 * sl → becomes (if v.toNat % 8 = 0 then
          { s with pools := s.pools.set sl { p with base := BitVec.ofNat 64 (p.base.toNat / 2 ^ 32 * 2 ^ 32 + v.toNat) } } else s)) ∧
      (off = 0x8000 + 32 * sl + 4 → becomes
          { s with pools := s.pools.set sl { p with base := BitVec.ofNat 64 (v.toNat * 2 ^ 32 + p.base.toNat % 2 ^ 32) } })) ∧
    (∀ n w, n < 64 → s.lmap[n]? = some w →
      (off = 0xB000 + 16 * n → becomes (if fld v 30 26 = 0 then { s with lmap := s.lmap.set n (v, w.2) } else s)) ∧
      (off = 0xB000 + 16 * n + 4 → becomes (if fld v 31 8 = 0 then { s with lmap := s.lmap.set n (w.1, v) } else s))) ∧
    (∀ n w, n < 64 → s.inwin[n]? = some w →
      (off = 0xB800 + 16 * n → becomes (if fld v 30 8 = 0 then { s with inwin := s.inwin.set n (v, w.2) } else s)) ∧
      (off = 0xB800 + 16 * n + 4 → becomes (if fld v 31 15 = 0 then { s with inwin := s.inwin.set n (w.1, v) } else s))) ∧
    (∀ n f, n < 256 → s.filters[n]? = some f →
      (off = 0xD000 + 16 * n → becomes (if fld v 30 16 = 0 then { s with filters := s.filters.set n { f with w0 := v } } else s)) ∧
      (off = 0xD000 + 16 * n + 4 → becomes (if fld v 31 24 = 0 ∧ fld v 7 5 = 0 then { s with filters := s.filters.set n { f with w1 := v } } else s))) ∧
    (off % 4 ≠ 0 ∨ off < 0x8000 ∨ 0xF000 < off → becomes s)) ∧
  (∀ (s : State) ctx off v,
    let acts (i : Instr) : Prop := exec (.registerWrite (.vf ctx) off v) s = exec i s
    (∀ q < 64, (off = 0x1000 + 64 * q → acts (.qbaseWrite ctx q false v)) ∧ (off = 0x1000 + 64 * q + 4 → acts (.qbaseWrite ctx q true v)) ∧
      (off = 0x1000 + 64 * q + 8 → acts (.qcfgWrite ctx q v)) ∧ (off = 0x1000 + 64 * q + 16 → acts (.qwpWrite ctx q v))) ∧
    (off = 0x40000 → acts (.strmBaseWrite ctx false v)) ∧ (off = 0x40004 → acts (.strmBaseWrite ctx true v)) ∧
    (off = 0x40008 → acts (.strmCfgWrite ctx v)) ∧ (off = 0x4000C → acts (.strmUnbWrite ctx v)) ∧
    (∀ i < 256, ∀ n < 32, off = 0x41000 + 128 * i + 4 * n → acts (.srcWpWrite ctx i n v))) ∧
  ∀ (s : State) ctx c off v, s.dev = .operational → s.ctx? ctx = some c →
    let becomes (u : State) : Prop := exec (.registerWrite (.vf ctx) off v) s = .next u
    (off = 0 → becomes (s.modCtx ctx fun y =>
      if v = 0 then { y with vfwin := BitVec.ofNat 64 (y.vfwin.toNat / 2 ^ 32 * 2 ^ 32) } else y)) ∧
    (off = 4 → becomes (s.modCtx ctx fun y =>
      if v.toNat % 4 = 0 ∧ fld v 31 23 = 0 then { y with vfwin := BitVec.ofNat 64 (fld v 22 0 * 2 ^ 32 + y.vfwin.toNat % 2 ^ 32) } else y)) ∧
    (∀ n < 63488, off = 0x2000 + 4 * n →
      (∀ u b, s.writeCtxReg c n v = some (u, b) → becomes u) ∧ (s.writeCtxReg c n v = none → becomes s)) ∧
    (off % 4 ≠ 0 ∨ 0x49000 ≤ off → becomes s)

/-- What the host reads of the registers: each as it was written or as the device has set it, 0 of a write-only one and where no rule lists one; the staging window reads as 0 (R8, R26, R264,
R290, R297, R298, R354, R379, R380, R383, R384, R393). That offsets without a row read as 0 is the model's choice (notes/assumptions/54.md). -/
def Sys2Proof.Claims.RegisterReads : Prop :=
  (∀ (s : State) sl p, sl < 12 → s.pools[sl]? = some p →
    let at_ (k : Nat) : Word := s.pfRead (0x8000 + 32 * sl + k)
    (at_ 4).toNat * 2 ^ 32 + (at_ 0).toNat = p.base.toNat ∧ at_ 8 = p.cfg ∧ at_ 12 = p.head ∧ at_ 16 = p.tail ∧
    (p.bad < 256 → p.fallbk < 256 →
      (at_ 20).getLsbD 31 = p.lowf ∧ fld (at_ 20) 15 8 = p.bad ∧ fld (at_ 20) 7 0 = p.fallbk)) ∧
  (∀ (s : State) p y, p < 16 → s.ports[p]? = some y → y.peer < 1024 → y.err < 256 →
    let at_ (k : Nat) : Word := s.pfRead (0xC000 + 16 * p + k)
    (at_ 0).getLsbD 31 = y.en ∧ fld (at_ 4) 24 20 = y.cap.toNat ∧ fld (at_ 4) 19 10 = y.peer ∧ fld (at_ 4) 7 0 = y.err ∧ at_ 8 = y.ver ∧
    fld (at_ 4) 31 29 = match y.st with
      | .down => 0
      | .training => 1
      | .negotiating => 2
      | .up => 3
      | .refused => 4
      | .fenced => 5) ∧
  (∀ (s : State), s.pfRead 0xF000 = 0 ∧ (s.pfRead 0xF004).toNat = s.fw.stat % 2 ^ 32 ∧ (s.pfRead 0xF008).toNat = s.fw.leaf % 2 ^ 32 ∧
    (s.pfRead 0xC100).toNat = s.linkId % 2 ^ 32 ∧ (∀ off, off < 0x8000 ∨ off % 4 ≠ 0 ∨ 0xF008 < off → s.pfRead off = 0) ∧
    (∀ off n, ∀ b ∈ s.stagingRead off n, b = 0) ∧
    (∀ sl v, s.part[sl]? = some v → sl < 12 → s.pfRead (0x9000 + 4 * sl) = v) ∧
    (∀ n v, s.ceOwn[n]? = some v → n < 48 → s.pfRead (0xA000 + 4 * n) = v) ∧
    (∀ n v, s.lmap[n]? = some v → n < 64 → s.pfRead (0xB000 + 16 * n) = v.1 ∧ s.pfRead (0xB004 + 16 * n) = v.2) ∧
    (∀ n v, s.inwin[n]? = some v → n < 64 → s.pfRead (0xB800 + 16 * n) = v.1 ∧ s.pfRead (0xB804 + 16 * n) = v.2) ∧
    ∀ n f, s.filters[n]? = some f → n < 256 → s.pfRead (0xD000 + 16 * n) = f.w0 ∧ s.pfRead (0xD004 + 16 * n) = f.w1 ∧
      (s.pfRead (0xD008 + 16 * n)).toNat = f.drop % 2 ^ 32) ∧
  ∀ (s : State) ctx c, s.ctx? ctx = some c →
    (s.vfRead ctx 4).toNat * 2 ^ 32 + (s.vfRead ctx 0).toNat = c.vfwin.toNat ∧
    (∀ q x, q < 64 → c.queue? q = some x → x.log2n < 32 →
      let at_ (k : Nat) : Word := s.vfRead ctx (0x1000 + 64 * q + k)
      (at_ 4).toNat * 2 ^ 32 + (at_ 0).toNat = x.qbase.toNat ∧ at_ 12 = x.rp ∧ at_ 16 = x.wp ∧
      (at_ 8).getLsbD 31 = x.en ∧ (at_ 8).getLsbD 30 = x.err ∧ fld (at_ 8) 4 0 = x.log2n) ∧
    (s.vfRead ctx 0x40004).toNat * 2 ^ 32 + (s.vfRead ctx 0x40000).toNat = c.strmBase.toNat ∧ s.vfRead ctx 0x40008 = c.strmCfg ∧
    s.vfRead ctx 0x4000C = 0 ∧
    (∀ i n, i < 256 → n < 32 → s.vfRead ctx (0x41000 + 128 * i + 4 * n) =
      match c.stream? i with
      | some x => match x.srcs[n]? with
        | some y => y.wp
        | none => 0
      | none => 0) ∧
    (∀ n < 63488, s.vfRead ctx (0x2000 + 4 * n) = (s.readCtxReg c n).getD 0) ∧
    ∀ off, off % 4 ≠ 0 ∨ 0x49000 ≤ off → s.vfRead ctx off = 0

/-! ## Completion -/

/-- A load that has missed, one whose lanes are bound and a copy whose lease has run out each go their way: L2_MISS_SERVE of a clean line in DRAM, with nothing of the team ahead, binds the
lane to the bytes at the home; LOAD_RETURN lands what is bound, and what a shared local level holds; LEASE_EXPIRY takes the copy away (R74, R149, R159, R160). -/
def Sys2Proof.Claims.LoadEventsComplete : Prop :=
  (∀ s req lane r x sz sx strong stream, AtLane s req lane r x → r.kind = .ldg sz sx strong stream → x.st = .pending →
    x.attr.rlf = false → x.attr.raw = false →
    (∀ y ∈ r.lanes, together x (bytesOf sz) y = true →
      InDram y.pa (bytesOf sz) ∧ s.poisonIn y.pa (bytesOf sz) = none ∧ s.blocked r.team r.id y.pa (bytesOf sz) = false) →
    ∃ s', exec (.l2MissServe req lane) s = .next s' ∧
      LaneIs s' req lane { x with got := loaded sz sx (memRead s.mem x.pa (bytesOf sz)), st := .bound } ∧
      s'.mem = s.mem ∧ s'.teams = s.teams ∧ s'.ctxs = s.ctxs) ∧
  (∀ s req r t sz sx strong stream, s.dev = .operational → s.req? req = some r → s.live r = true → s.team? r.team = some t → t.gen = r.gen →
    r.kind = .ldg sz sx strong stream → (∀ x ∈ r.lanes, x.st = .bound) →
    ∃ s' t', exec (.loadReturn req) s = .next s' ∧ s'.team? r.team = some t' ∧ s'.reqs = s.reqs.filter (fun q => q.id != r.id) ∧
      (∀ q ∈ r.dests, q < t.frame.length → (t'.reg q).full = true) ∧ (∀ q, q ∉ r.dests → t'.reg q = t.reg q) ∧
      s'.mem = s.mem ∧ s'.ctxs = s.ctxs) ∧
  (∀ s req r t lvl sz sx, s.dev = .operational → s.req? req = some r → s.live r = true → s.team? r.team = some t → t.gen = r.gen →
    r.kind = .ldl lvl sz sx → (lvl = .clm ∨ lvl = .chip) → (∀ x ∈ r.lanes, x.st = .pending) →
    (∀ x ∈ r.lanes, s.localBlocked r.team r.id lvl x.va (bytesOf sz) = false) →
    ∃ s' t', exec (.loadReturn req) s = .next s' ∧ s'.team? r.team = some t' ∧ s'.reqs = s.reqs.filter (fun q => q.id != r.id) ∧
      (∀ q ∈ r.dests, q < t.frame.length → (t'.reg q).full = true) ∧ (∀ q, q ∉ r.dests → t'.reg q = t.reg q) ∧
      s'.mem = s.mem ∧ s'.ctxs = s.ctxs) ∧
  ∀ s core word c, s.dev = .operational → s.l1.find? (fun c => c.core == core && c.word == word) = some c →
    c.owned = false → c.expiry ≤ s.coreTime core →
    ∃ s', exec (.leaseExpiry core word) s = .next s' ∧ (∀ k ∈ s'.l1, ¬(k.core = core ∧ k.word = word)) ∧
      (∀ k ∈ s.l1, ¬(k.core = core ∧ k.word = word) → k ∈ s'.l1) ∧ { s' with l1 := s.l1 } = s

namespace Sys2Proof.Claims

/-- The solo MMA or MMS i issues: its C registers are empty and its tile, with this drain, is on its way. -/
abbrev TileGoes (s : State) (t : Team) (c : Combo) (i : Instr) (o : TileOp) (drain : Option Drain) : Prop :=
  ∃ s' t' r, exec i s = .next s' ∧ s'.reqs = s.reqs ++ [r] ∧ Issues s' t' ∧
    r.kind = .tile drain none ∧ r.dests = (many o.d 32).map t.fieldReg ∧ r.lanes.map (fun x => (x.lane, x.got)) = tile t o c ∧
    (∀ q ∈ r.dests, (t'.reg q).full = false) ∧ (∀ q, q ∉ r.dests → t'.reg q = t.reg q) ∧ t'.pc = t.pc + 4

/-- A solo MMA or MMS without a drain may issue: FMT and the runs are legal, and what it reads is full (R235, R238). -/
abbrev TileReady (s : State) (t : Team) (c : Combo) (o : TileOp) : Prop :=
  Issues s t ∧ o.d.toNat ≤ 88 ∧ t.gangLo.toNat % 8 = 1 ∧ NoSkip t ∧ t.frame.length = t.p ∧ combo t.fmt = some c ∧ TileFits t o c

/-- The word of the drain is one that the team may write, and none of its loads is ahead (R243). -/
abbrev DrainTo (s : State) (t : Team) (w : Drain) : Prop :=
  let doff := BitVec.ofNat 7 (t.fmt.toNat / 2 ^ 20)
  let dx := BitVec.ofNat 3 (t.fmt.toNat / 2 ^ 17)
  Uniform t doff ∧ addr t dx doff t.low = w.va ∧ w.va % 4 = 0 ∧ w.via = spanVia s t dx doff 4 t.low ∧ w.came = s.nextId ∧ NoLoadAhead s t 4 w.pa ∧
  s.tableAt w.pa 4 = false ∧
  ∃ at_, Reaches s t dx doff 4 t.low w.pa at_ ∧ at_.w = true ∧ at_.rlf = false ∧ at_.raw = false ∧ isRemote w.pa = false

end Sys2Proof.Claims

/-- A solo MMA or MMS whose FMT and runs are legal and whose operands are full issues, without a drain and with one; TILE_WRITE lands the tile once no earlier tile waits for the same
array, and a tile with a drain goes on to its word (R230, R238 to R243). -/
def Sys2Proof.Claims.TilesComplete : Prop :=
  (∀ s t c d a b z, TileReady s t c ⟨d, a, b, z, false, none⟩ →
    Readable t (tileSources t ⟨d, a, b, z, false, none⟩ c ++ many d 32) →
    TileGoes s t c (.mma d a b z false) ⟨d, a, b, z, false, none⟩ none) ∧
  (∀ s t c d a b z w, TileReady s t c ⟨d, a, b, z, true, none⟩ → DrainTo s t w →
    Readable t (tileSources t ⟨d, a, b, z, true, none⟩ c ++ many d 32 ++ [BitVec.ofNat 7 (t.fmt.toNat / 2 ^ 20)]) →
    TileGoes s t c (.mma d a b z true) ⟨d, a, b, z, true, none⟩ (some w)) ∧
  (∀ s t c d a b sl, TileReady s t c ⟨d, a, b, false, false, some sl.toNat⟩ →
    Readable t (tileSources t ⟨d, a, b, false, false, some sl.toNat⟩ c ++ many d 32) →
    TileGoes s t c (.mms d a b sl false) ⟨d, a, b, false, false, some sl.toNat⟩ none) ∧
  (∀ s t c d a b sl w, TileReady s t c ⟨d, a, b, false, true, some sl.toNat⟩ → DrainTo s t w →
    Readable t (tileSources t ⟨d, a, b, false, true, some sl.toNat⟩ c ++ many d 32 ++ [BitVec.ofNat 7 (t.fmt.toNat / 2 ^ 20)]) →
    TileGoes s t c (.mms d a b sl true) ⟨d, a, b, false, true, some sl.toNat⟩ (some w)) ∧
  ∀ s req r t, s.dev = .operational → s.req? req = some r → s.live r = true → s.team? r.team = some t → ¬ArrayBusy s r t →
    (r.kind = .tile none none → exec (.tileWrite req) s = .next ((s.modTeam r.team fun u => u.landAll r).dropReq r.id)) ∧
    ∀ w, r.kind = .tile (some w) none →
      ∃ s' q, exec (.tileWrite req) s = .next s' ∧ s'.req? req = some q ∧ q.kind = .drain ∧ q.dests = [] ∧
        ∃ x, q.lanes = [x] ∧ x.pa = w.pa ∧ x.st = .pending ∧
          x.data = [BitVec.ofNat 32 ((r.lanes.flatMap fun y => y.got.map (magnitude (r.lanes.any fun z => z.dst == 1))).foldl max 0)]

/-! ## The whole machine -/

/-- Every step of every state answers a next state: no instruction, event or word at the program counter stops the machine (R1, R2: every case has a fate,
and no fate is a stop). -/
def Obligations.Progress : Prop := ∀ s : Sys2Proof.Machine.State, ∃ s', step s = .next s'

/-- Every step from a state whose memories are in canonical form leaves them in canonical form, the model's own
(notes/assumptions/5.md): addresses strictly rising, no byte listed that an unlisted address reads as (R4, R14). -/
def Obligations.MemoryCanonical : Prop := ∀ s s' : Sys2Proof.Machine.State, MemOk s → step s = .next s' → MemOk s'

/-! ## Statements in several parts -/

/-- The integer instructions write D as their rules say. -/
def Obligations.IntegerOps : Prop := Sys2Proof.Claims.IntegerF3 ∧ Sys2Proof.Claims.IntegerF2

/-- Floating-point and conversion instructions write D as their rules say. -/
def Obligations.FloatConvert : Prop := Sys2Proof.Claims.FloatOps ∧ Sys2Proof.Claims.FloatValues ∧ Sys2Proof.Claims.ConvertOps ∧ Sys2Proof.Claims.ConvertValues

/-- Exact sums and products, and rounding to the nearest. -/
def Obligations.ExactRounding : Prop := Sys2Proof.Claims.ExactSum ∧ Sys2Proof.Claims.RoundNearest

/-- Votes, reductions, scans, shuffles and ballots of a group. -/
def Obligations.GroupOperations : Prop := Sys2Proof.Claims.GroupOps ∧ Sys2Proof.Claims.Ballots

/-- RDC reads and WRC writes each control register. -/
def Obligations.ControlRegisters : Prop := Sys2Proof.Claims.ReadControl ∧ Sys2Proof.Claims.WriteControl

/-- What is fetched, and what takes a trap in place of it. -/
def Obligations.Fetching : Prop := Sys2Proof.Claims.Fetching ∧ Sys2Proof.Claims.IllegalWord

/-- TRET, TSKIP and skip entries. -/
def Obligations.TrapReturn : Prop := Sys2Proof.Claims.TrapReturn ∧ Sys2Proof.Claims.SkipEntries

/-- Divergence, joins, exits, jumps and the window. -/
def Obligations.PathControl : Prop := Sys2Proof.Claims.Divergence ∧ Sys2Proof.Claims.Joins ∧ Sys2Proof.Claims.ExitYieldNop ∧ Sys2Proof.Claims.Jumps

/-- A global access that passes its checks goes out. -/
def Obligations.GlobalIssue : Prop := Sys2Proof.Claims.GlobalIssue ∧ Sys2Proof.Claims.RawStore

/-- Misaligned and forbidden global accesses trap. -/
def Obligations.GlobalChecks : Prop := Sys2Proof.Claims.GlobalMisaligned ∧ Sys2Proof.Claims.GlobalForbidden

/-- Loads and stores of the local levels. -/
def Obligations.LocalAccess : Prop := Sys2Proof.Claims.LocalLoads ∧ Sys2Proof.Claims.OwnStores ∧ Sys2Proof.Claims.SharedStores ∧ Sys2Proof.Claims.LocalChecks

/-- LDA: issue and landing. -/
def Obligations.BulkLoads : Prop := Sys2Proof.Claims.LdaIssue ∧ Sys2Proof.Claims.LdaLand

/-- CHX, the run of a routine and the words of a routine. -/
def Obligations.Chisels : Prop := Sys2Proof.Claims.ChxIssue ∧ Sys2Proof.Claims.ChiselRun ∧ Sys2Proof.Claims.ChiselWords

/-- Installing a routine in the chisel table. -/
def Obligations.ChiselTables : Prop := Sys2Proof.Claims.ChiselInstall ∧ Sys2Proof.Claims.ChiselEntry

/-- Serving and landing a load. -/
def Obligations.Loads : Prop := Sys2Proof.Claims.LoadMiss ∧ Sys2Proof.Claims.LoadReturn

/-- Registering and acknowledging a store. -/
def Obligations.Stores : Prop := Sys2Proof.Claims.StoreRegistration ∧ Sys2Proof.Claims.StoreAcks

/-- Executing an atomic and returning its results. -/
def Obligations.Atomics : Prop := Sys2Proof.Claims.AtomExecute ∧ Sys2Proof.Claims.AtomReturn

/-- Matrix tiles: arithmetic, solo and gang issue, landing and drain. -/
def Obligations.MatrixTiles : Prop := Sys2Proof.Claims.MatrixArithmetic ∧ Sys2Proof.Claims.SoloTiles ∧ Sys2Proof.Claims.GangTiles

/-- SYNC: misuse, arrivals, waits and tries. -/
def Obligations.Barriers : Prop := Sys2Proof.Claims.BarrierMisuse ∧ Sys2Proof.Claims.Arrivals ∧ Sys2Proof.Claims.WaitsAndTries

/-- Fences, path counters and batches. -/
def Obligations.FencesCounters : Prop := Sys2Proof.Claims.Fences ∧ Sys2Proof.Claims.CountersAndBatches

/-- Children and rings. -/
def Obligations.ChildrenRings : Prop := Sys2Proof.Claims.SpawnJoin ∧ Sys2Proof.Claims.Rings

/-- System calls and lane reordering. -/
def Obligations.ServicesReorder : Prop := Sys2Proof.Claims.Services ∧ Sys2Proof.Claims.Reorder

/-- TRAP, BKPT, RDTIME, RDID, ERET, HALT, CSRR and CSRW. -/
def Obligations.SystemClass : Prop := Sys2Proof.Claims.SystemReads ∧ Sys2Proof.Claims.SystemControl

/-- Power, reset, freeze, firmware load, heat and the TAP. -/
def Obligations.Device : Prop := Sys2Proof.Claims.ResetFreeze ∧ Sys2Proof.Claims.FirmwareLoad ∧ Sys2Proof.Claims.HeatAndTap

/-- Placing and ending teams, kernels, children and instances. -/
def Obligations.Placing : Prop := Sys2Proof.Claims.TeamPlacement ∧ Sys2Proof.Claims.CoreFit ∧ Sys2Proof.Claims.OtherPlacement ∧ Sys2Proof.Claims.TeamsAndKernelsEnd

/-- Queue registers, entry fetch and completion. -/
def Obligations.HostQueues : Prop := Sys2Proof.Claims.QueueRegisters ∧ Sys2Proof.Claims.QueueEntries

/-- What each kind of queue entry does. -/
def Obligations.EntryKinds : Prop := Sys2Proof.Claims.Launches ∧ Sys2Proof.Claims.EntryWork

/-- A copy command's bytes, completion and failure. -/
def Obligations.CopyEngines : Prop := Sys2Proof.Claims.CopyEngine ∧ Sys2Proof.Claims.CopyFailure

/-- Creating, starting, halting, loading and slicing contexts. -/
def Obligations.ContextLife : Prop := Sys2Proof.Claims.ContextLife ∧ Sys2Proof.Claims.ContextSwitch

/-- Saving and restoring a context, and its registers. -/
def Obligations.ContextState : Prop := Sys2Proof.Claims.ContextSaves ∧ Sys2Proof.Claims.ContextRegisters

/-- Maquettes, containment, rollback and VF reset. -/
def Obligations.MaquetteContainment : Prop := Sys2Proof.Claims.Maquettes ∧ Sys2Proof.Claims.ContainmentReset

/-- value() of a pixel, and raw views. -/
def Obligations.Reconstruction : Prop := Sys2Proof.Claims.Reconstruction ∧ Sys2Proof.Claims.RawViews

/-- Relief loads and the registration of surfaces. -/
def Obligations.ReliefLoads : Prop := Sys2Proof.Claims.ReliefLoads ∧ Sys2Proof.Claims.Registration

/-- Sealing, flattening, retiring and eviction. -/
def Obligations.Sealing : Prop := Sys2Proof.Claims.SealActions ∧ Sys2Proof.Claims.Seals

/-- The intersection class. -/
def Obligations.Intersection : Prop := Sys2Proof.Claims.IsecIssue ∧ Sys2Proof.Claims.Traversal ∧ Sys2Proof.Claims.SingleTests

/-- The STRM class. -/
def Obligations.StreamClass : Prop := Sys2Proof.Claims.InstanceReads ∧ Sys2Proof.Claims.Emissions ∧ Sys2Proof.Claims.Publishes ∧ Sys2Proof.Claims.Deliveries

/-- Watermarks, panes, windows and datagrams. -/
def Obligations.StreamUnits : Prop := Sys2Proof.Claims.Watermarks ∧ Sys2Proof.Claims.Placement ∧ Sys2Proof.Claims.WindowsFire ∧ Sys2Proof.Claims.StreamEvents ∧ Sys2Proof.Claims.Datagrams

/-- Scale-up ports, and register writes and reads. -/
def Obligations.Registers : Prop := Sys2Proof.Claims.LinkPorts ∧ Sys2Proof.Claims.RegisterWrites ∧ Sys2Proof.Claims.RegisterReads

/-- Link requests, messages, placements and the host. -/
def Obligations.ForeignAccess : Prop := Sys2Proof.Claims.InboundRequests ∧ Sys2Proof.Claims.MessagesAndHost

/-- L2_MISS_SERVE, LOAD_RETURN, LEASE_EXPIRY, MMA, MMS and TILE_WRITE complete. -/
def Obligations.EventsTilesComplete : Prop := Sys2Proof.Claims.LoadEventsComplete ∧ Sys2Proof.Claims.TilesComplete

/-- FEX2, FLG2, FSIN and FCOS: exactly what R132 gives of special operands, and of every other operand a pattern to which no other is nearer by more than 2^-60 of the value. That no value lies so near a rounding boundary that this leaves two patterns is a computation outside the package (notes/assumptions/59.md: the model's choice of an approximation). -/
def Obligations.TranscendentalValues : Prop := Sys2Proof.Claims.Transcendentals
end

