-- ==== Sys2Proof/Laws/Memory.lean ====
section
/-!
SUPPORT. The laws of the memory operations: each keeps the canonical form, and a read after a write gives what was written there
and leaves every other address alone.
-/

namespace Sys2Proof.Machine

theorem memSorted_mono {lo hi : Nat} {m : Mem} (h : lo ≤ hi) (hm : memSorted hi m = true) : memSorted lo m = true := by
  cases m with
  | nil => rfl
  | cons c m =>
    simp only [memSorted, Bool.and_eq_true, decide_eq_true_eq] at *
    exact ⟨⟨Nat.le_trans h hm.1.1, hm.1.2⟩, hm.2⟩

/-- An address below every entry is not listed. -/
theorem memGet_below {lo a : Nat} {m : Mem} (hm : memSorted lo m = true) (h : a < lo) : memGet m a = 0 := by
  induction m generalizing lo with
  | nil => rfl
  | cons c m ih =>
    simp only [memSorted, Bool.and_eq_true, decide_eq_true_eq] at hm
    have hne : ¬ c.1 = a := by omega
    simp only [memGet, hne, if_false]
    exact ih hm.2 (by omega)

theorem memSorted_memSet {lo a : Nat} {m : Mem} (b : Byte) (h : lo ≤ a) (hm : memSorted lo m = true) :
    memSorted lo (memSet m a b) = true := by
  induction m generalizing lo with
  | nil =>
    simp only [memSet]
    split
    · rfl
    · rename_i hb
      simp only [memSorted, Bool.and_eq_true, decide_eq_true_eq, bne_iff_ne, ne_eq]
      exact ⟨⟨h, hb⟩, trivial⟩
  | cons c m ih =>
    obtain ⟨k, v⟩ := c
    simp only [memSorted, Bool.and_eq_true, decide_eq_true_eq, bne_iff_ne, ne_eq] at hm
    obtain ⟨⟨h1, h2⟩, h3⟩ := hm
    simp only [memSet]
    split
    · split
      · simp only [memSorted, Bool.and_eq_true, decide_eq_true_eq, bne_iff_ne, ne_eq]
        exact ⟨⟨h1, h2⟩, h3⟩
      · rename_i hb
        simp only [memSorted, Bool.and_eq_true, decide_eq_true_eq, bne_iff_ne, ne_eq]
        exact ⟨⟨h, hb⟩, ⟨by omega, h2⟩, h3⟩
    · split
      · split
        · exact memSorted_mono (by omega) h3
        · rename_i hk hb
          simp only [memSorted, Bool.and_eq_true, decide_eq_true_eq, bne_iff_ne, ne_eq]
          exact ⟨⟨by omega, hb⟩, by rw [hk]; exact h3⟩
      · simp only [memSorted, Bool.and_eq_true, decide_eq_true_eq, bne_iff_ne, ne_eq]
        exact ⟨⟨h1, h2⟩, ih (by omega) h3⟩

/-- A read after a write of one byte. -/
theorem memGet_memSet {lo a : Nat} {m : Mem} (b : Byte) (x : Nat) (hm : memSorted lo m = true) :
    memGet (memSet m a b) x = if x = a then b else memGet m x := by
  induction m generalizing lo with
  | nil =>
    simp only [memSet]
    split
    · rename_i hb; simp [memGet, hb]
    · simp only [memGet, @eq_comm _ a x]
  | cons c m ih =>
    obtain ⟨k, v⟩ := c
    simp only [memSorted, Bool.and_eq_true, decide_eq_true_eq, bne_iff_ne, ne_eq] at hm
    obtain ⟨⟨h1, h2⟩, h3⟩ := hm
    have hnot : ∀ y, y ≤ k → memGet m y = 0 := fun y hy => memGet_below h3 (by omega)
    simp only [memSet]
    split
    · rename_i hak
      split
      · rename_i hb
        by_cases hx : x = a
        · subst hx
          simp only [memGet, if_true]
          rw [if_neg (by omega), hnot x (by omega), hb]
        · simp [hx]
      · by_cases hx : x = a
        · simp [memGet, hx]
        · simp [memGet, hx, Ne.symm hx]
    · split
      · rename_i hak
        subst hak
        split
        · rename_i hb
          by_cases hx : x = a
          · subst hx; simp [hnot x (by omega), hb]
          · simp [memGet, hx, Ne.symm hx]
        · by_cases hx : x = a
          · simp [memGet, hx]
          · simp [memGet, hx, Ne.symm hx]
      · rename_i hlt hne
        simp only [memGet, ih h3]
        by_cases hk : k = x
        · subst hk; simp [Ne.symm hne]
        · simp [hk]

theorem memory_wf_memSet {m : Mem} (a : Nat) (b : Byte) (h : Memory.wf m = true) : Memory.wf (memSet m a b) = true :=
  memSorted_memSet b (Nat.zero_le a) h

theorem memory_wf_memWrite {m : Mem} (a : Nat) (bs : List Byte) (h : Memory.wf m = true) :
    Memory.wf (memWrite m a bs) = true := by
  induction bs generalizing m a with
  | nil => exact h
  | cons b bs ih => exact ih (a + 1) (memory_wf_memSet a b h)

/-- What a write of bytes leaves at every address. -/
theorem memGet_memWrite {m : Mem} (a : Nat) (bs : List Byte) (x : Nat) (h : Memory.wf m = true) :
    memGet (memWrite m a bs) x = if a ≤ x ∧ x < a + bs.length then bs.getD (x - a) 0 else memGet m x := by
  induction bs generalizing m a with
  | nil => simp [memWrite, show ¬ (a ≤ x ∧ x < a) by omega]
  | cons b bs ih =>
    rw [memWrite, ih (a + 1) (memory_wf_memSet a b h), memGet_memSet b x h]
    simp only [List.length_cons]
    by_cases hx : x = a
    · subst hx; simp
    · by_cases hr : a + 1 ≤ x ∧ x < a + 1 + bs.length
      · rw [if_pos hr, if_pos (by omega)]
        obtain ⟨k, hk⟩ : ∃ k, x - a = k + 1 := ⟨x - a - 1, by omega⟩
        rw [show x - (a + 1) = k by omega, hk]
        simp
      · rw [if_neg hr, if_neg hx, if_neg (by omega)]

theorem memory_wf_memCopy {dst : Mem} (src : Mem) (a b n : Nat) (h : Memory.wf dst = true) :
    Memory.wf (memCopy src a dst b n) = true := memory_wf_memWrite b _ h

theorem memSorted_filter {lo : Nat} {m : Mem} (p : Host.Cell → Bool) (h : memSorted lo m = true) :
    memSorted lo (m.filter p) = true := by
  induction m generalizing lo with
  | nil => rfl
  | cons c m ih =>
    simp only [memSorted, Bool.and_eq_true, decide_eq_true_eq] at h
    by_cases hp : p c = true
    · simp only [List.filter_cons, hp, if_true, memSorted, Bool.and_eq_true, decide_eq_true_eq]
      exact ⟨h.1, ih h.2⟩
    · simp only [List.filter_cons, hp]
      exact memSorted_mono (by omega) (ih h.2)

theorem memory_wf_memClear {m : Mem} (a n : Nat) (h : Memory.wf m = true) : Memory.wf (memClear m a n) = true :=
  memSorted_filter _ h

theorem memSorted_shift {lo a : Nat} {m : Mem} (h : memSorted lo m = true) (ha : ∀ c ∈ m, a ≤ c.1) :
    memSorted (lo - a) (m.map fun c => (c.1 - a, c.2)) = true := by
  induction m generalizing lo with
  | nil => rfl
  | cons c m ih =>
    simp only [memSorted, Bool.and_eq_true, decide_eq_true_eq] at h
    have hc := ha c (by simp)
    simp only [List.map_cons, memSorted, Bool.and_eq_true, decide_eq_true_eq]
    refine ⟨⟨by omega, h.1.2⟩, ?_⟩
    have := ih h.2 (fun d hd => ha d (by simp [hd]))
    rwa [show c.1 + 1 - a = c.1 - a + 1 by omega] at this

theorem memory_wf_memSlice {m : Mem} (a n : Nat) (h : Memory.wf m = true) : Memory.wf (memSlice m a n) = true := by
  have h1 := memSorted_filter (fun c => a ≤ c.1 && c.1 < a + n) h
  have h2 := memSorted_shift (a := a) h1 (by simp +contextual)
  exact memSorted_mono (Nat.zero_le _) h2

@[simp] theorem memRead_length (m : Mem) (a n : Nat) : (memRead m a n).length = n := by
  induction n generalizing a with
  | zero => rfl
  | succ n ih => simp [memRead, ih]

theorem memRead_getD (m : Mem) (a n i : Nat) (h : i < n) : (memRead m a n).getD i 0 = memGet m (a + i) := by
  induction n generalizing a i with
  | zero => omega
  | succ n ih =>
    cases i with
    | zero => simp [memRead]
    | succ i => simp only [memRead, List.getD_cons_succ]; rw [ih (a + 1) i (by omega)]; congr 1; omega

/-- Reading back what was written. -/
theorem memRead_memWrite {m : Mem} (a : Nat) (bs : List Byte) (h : Memory.wf m = true) :
    memRead (memWrite m a bs) a bs.length = bs := by
  refine List.ext_getElem (by simp) fun i h1 h2 => ?_
  have := memRead_getD (memWrite m a bs) a bs.length i (by simpa using h2)
  rw [memGet_memWrite a bs (a + i) h] at this
  simp only [List.getD_eq_getElem?_getD, List.getElem?_eq_getElem h1, List.getElem?_eq_getElem h2,
    Option.getD_some] at this
  rw [if_pos (by omega)] at this
  simpa [List.getElem?_eq_getElem h2] using this

theorem memory_wf_reset : Memory.wf State.reset.mem = true := rfl

end Sys2Proof.Machine
end

