-- ==== Sys2Proof/Laws/State.lean ====
section
/-!
SUPPORT. What each update of the state leaves alone: one lemma for each field and each update.
-/

namespace Sys2Proof.Machine

@[simp] theorem State.putTeam_agenda (s : State) (t : Team) : (s.putTeam t).agenda = s.agenda := rfl
@[simp] theorem State.putTeam_turn (s : State) (t : Team) : (s.putTeam t).turn = s.turn := rfl
@[simp] theorem State.putTeam_clock (s : State) (t : Team) : (s.putTeam t).clock = s.clock := rfl
@[simp] theorem State.putTeam_stepNs (s : State) (t : Team) : (s.putTeam t).stepNs = s.stepNs := rfl
@[simp] theorem State.putTeam_coreSkew (s : State) (t : Team) : (s.putTeam t).coreSkew = s.coreSkew := rfl
@[simp] theorem State.putTeam_released (s : State) (t : Team) : (s.putTeam t).released = s.released := rfl
@[simp] theorem State.putTeam_focus (s : State) (t : Team) : (s.putTeam t).focus = s.focus := rfl
@[simp] theorem State.putTeam_freeCtr (s : State) (t : Team) : (s.putTeam t).freeCtr = s.freeCtr := rfl
@[simp] theorem State.putTeam_nextId (s : State) (t : Team) : (s.putTeam t).nextId = s.nextId := rfl
@[simp] theorem State.putTeam_outbox (s : State) (t : Team) : (s.putTeam t).outbox = s.outbox := rfl
@[simp] theorem State.putTeam_dev (s : State) (t : Team) : (s.putTeam t).dev = s.dev := rfl
@[simp] theorem State.putTeam_freezePin (s : State) (t : Team) : (s.putTeam t).freezePin = s.freezePin := rfl
@[simp] theorem State.putTeam_thermal (s : State) (t : Team) : (s.putTeam t).thermal = s.thermal := rfl
@[simp] theorem State.putTeam_throttled (s : State) (t : Team) : (s.putTeam t).throttled = s.throttled := rfl
@[simp] theorem State.putTeam_tdp (s : State) (t : Team) : (s.putTeam t).tdp = s.tdp := rfl
@[simp] theorem State.putTeam_fw (s : State) (t : Team) : (s.putTeam t).fw = s.fw := rfl
@[simp] theorem State.putTeam_tap (s : State) (t : Team) : (s.putTeam t).tap = s.tap := rfl
@[simp] theorem State.putTeam_mem (s : State) (t : Team) : (s.putTeam t).mem = s.mem := rfl
@[simp] theorem State.putTeam_fabric (s : State) (t : Team) : (s.putTeam t).fabric = s.fabric := rfl
@[simp] theorem State.putTeam_l1 (s : State) (t : Team) : (s.putTeam t).l1 = s.l1 := rfl
@[simp] theorem State.putTeam_banks (s : State) (t : Team) : (s.putTeam t).banks = s.banks := rfl
@[simp] theorem State.putTeam_poisoned (s : State) (t : Team) : (s.putTeam t).poisoned = s.poisoned := rfl
@[simp] theorem State.putTeam_ssLines (s : State) (t : Team) : (s.putTeam t).ssLines = s.ssLines := rfl
@[simp] theorem State.putTeam_tlb (s : State) (t : Team) : (s.putTeam t).tlb = s.tlb := rfl
@[simp] theorem State.putTeam_dirty (s : State) (t : Team) : (s.putTeam t).dirty = s.dirty := rfl
@[simp] theorem State.putTeam_part (s : State) (t : Team) : (s.putTeam t).part = s.part := rfl
@[simp] theorem State.putTeam_ceOwn (s : State) (t : Team) : (s.putTeam t).ceOwn = s.ceOwn := rfl
@[simp] theorem State.putTeam_pools (s : State) (t : Team) : (s.putTeam t).pools = s.pools := rfl
@[simp] theorem State.putTeam_linkId (s : State) (t : Team) : (s.putTeam t).linkId = s.linkId := rfl
@[simp] theorem State.putTeam_ports (s : State) (t : Team) : (s.putTeam t).ports = s.ports := rfl
@[simp] theorem State.putTeam_lmap (s : State) (t : Team) : (s.putTeam t).lmap = s.lmap := rfl
@[simp] theorem State.putTeam_inwin (s : State) (t : Team) : (s.putTeam t).inwin = s.inwin := rfl
@[simp] theorem State.putTeam_filters (s : State) (t : Team) : (s.putTeam t).filters = s.filters := rfl
@[simp] theorem State.putTeam_ethBuf (s : State) (t : Team) : (s.putTeam t).ethBuf = s.ethBuf := rfl
@[simp] theorem State.putTeam_inbound (s : State) (t : Team) : (s.putTeam t).inbound = s.inbound := rfl
@[simp] theorem State.putTeam_applied (s : State) (t : Team) : (s.putTeam t).applied = s.applied := rfl
@[simp] theorem State.putTeam_detectors (s : State) (t : Team) : (s.putTeam t).detectors = s.detectors := rfl
@[simp] theorem State.putTeam_holders (s : State) (t : Team) : (s.putTeam t).holders = s.holders := rfl
@[simp] theorem State.putTeam_acks (s : State) (t : Team) : (s.putTeam t).acks = s.acks := rfl
@[simp] theorem State.putTeam_ended (s : State) (t : Team) : (s.putTeam t).ended = s.ended := rfl
@[simp] theorem State.putTeam_lastCtx (s : State) (t : Team) : (s.putTeam t).lastCtx = s.lastCtx := rfl
@[simp] theorem State.putTeam_fenced (s : State) (t : Team) : (s.putTeam t).fenced = s.fenced := rfl
@[simp] theorem State.putTeam_removed (s : State) (t : Team) : (s.putTeam t).removed = s.removed := rfl
@[simp] theorem State.putTeam_ctxs (s : State) (t : Team) : (s.putTeam t).ctxs = s.ctxs := rfl
@[simp] theorem State.putTeam_order (s : State) (t : Team) : (s.putTeam t).order = s.order := rfl
@[simp] theorem State.putTeam_reqs (s : State) (t : Team) : (s.putTeam t).reqs = s.reqs := rfl
@[simp] theorem State.putTeam_deadlines (s : State) (t : Team) : (s.putTeam t).deadlines = s.deadlines := rfl
@[simp] theorem State.putTeam_copies (s : State) (t : Team) : (s.putTeam t).copies = s.copies := rfl
@[simp] theorem State.putTeam_events (s : State) (t : Team) : (s.putTeam t).events = s.events := rfl
@[simp] theorem State.putTeam_giveUp (s : State) (t : Team) : (s.putTeam t).giveUp = s.giveUp := rfl
@[simp] theorem State.putTeam_fwCircuits (s : State) (t : Team) : (s.putTeam t).fwCircuits = s.fwCircuits := rfl
@[simp] theorem State.putTeam_unseenPte (s : State) (t : Team) : (s.putTeam t).unseenPte = s.unseenPte := rfl
@[simp] theorem State.putTeam_intercepts (s : State) (t : Team) : (s.putTeam t).intercepts = s.intercepts := rfl
@[simp] theorem State.putTeam_surfaces (s : State) (t : Team) : (s.putTeam t).surfaces = s.surfaces := rfl
@[simp] theorem State.putTeam_maqs (s : State) (t : Team) : (s.putTeam t).maqs = s.maqs := rfl

@[simp] theorem State.modTeam_agenda (s : State) (i : Nat) (f : Team → Team) : (s.modTeam i f).agenda = s.agenda := rfl
@[simp] theorem State.modTeam_turn (s : State) (i : Nat) (f : Team → Team) : (s.modTeam i f).turn = s.turn := rfl
@[simp] theorem State.modTeam_clock (s : State) (i : Nat) (f : Team → Team) : (s.modTeam i f).clock = s.clock := rfl
@[simp] theorem State.modTeam_stepNs (s : State) (i : Nat) (f : Team → Team) : (s.modTeam i f).stepNs = s.stepNs := rfl
@[simp] theorem State.modTeam_coreSkew (s : State) (i : Nat) (f : Team → Team) : (s.modTeam i f).coreSkew = s.coreSkew := rfl
@[simp] theorem State.modTeam_released (s : State) (i : Nat) (f : Team → Team) : (s.modTeam i f).released = s.released := rfl
@[simp] theorem State.modTeam_focus (s : State) (i : Nat) (f : Team → Team) : (s.modTeam i f).focus = s.focus := rfl
@[simp] theorem State.modTeam_freeCtr (s : State) (i : Nat) (f : Team → Team) : (s.modTeam i f).freeCtr = s.freeCtr := rfl
@[simp] theorem State.modTeam_nextId (s : State) (i : Nat) (f : Team → Team) : (s.modTeam i f).nextId = s.nextId := rfl
@[simp] theorem State.modTeam_outbox (s : State) (i : Nat) (f : Team → Team) : (s.modTeam i f).outbox = s.outbox := rfl
@[simp] theorem State.modTeam_dev (s : State) (i : Nat) (f : Team → Team) : (s.modTeam i f).dev = s.dev := rfl
@[simp] theorem State.modTeam_freezePin (s : State) (i : Nat) (f : Team → Team) : (s.modTeam i f).freezePin = s.freezePin := rfl
@[simp] theorem State.modTeam_thermal (s : State) (i : Nat) (f : Team → Team) : (s.modTeam i f).thermal = s.thermal := rfl
@[simp] theorem State.modTeam_throttled (s : State) (i : Nat) (f : Team → Team) : (s.modTeam i f).throttled = s.throttled := rfl
@[simp] theorem State.modTeam_tdp (s : State) (i : Nat) (f : Team → Team) : (s.modTeam i f).tdp = s.tdp := rfl
@[simp] theorem State.modTeam_fw (s : State) (i : Nat) (f : Team → Team) : (s.modTeam i f).fw = s.fw := rfl
@[simp] theorem State.modTeam_tap (s : State) (i : Nat) (f : Team → Team) : (s.modTeam i f).tap = s.tap := rfl
@[simp] theorem State.modTeam_mem (s : State) (i : Nat) (f : Team → Team) : (s.modTeam i f).mem = s.mem := rfl
@[simp] theorem State.modTeam_fabric (s : State) (i : Nat) (f : Team → Team) : (s.modTeam i f).fabric = s.fabric := rfl
@[simp] theorem State.modTeam_l1 (s : State) (i : Nat) (f : Team → Team) : (s.modTeam i f).l1 = s.l1 := rfl
@[simp] theorem State.modTeam_banks (s : State) (i : Nat) (f : Team → Team) : (s.modTeam i f).banks = s.banks := rfl
@[simp] theorem State.modTeam_poisoned (s : State) (i : Nat) (f : Team → Team) : (s.modTeam i f).poisoned = s.poisoned := rfl
@[simp] theorem State.modTeam_ssLines (s : State) (i : Nat) (f : Team → Team) : (s.modTeam i f).ssLines = s.ssLines := rfl
@[simp] theorem State.modTeam_tlb (s : State) (i : Nat) (f : Team → Team) : (s.modTeam i f).tlb = s.tlb := rfl
@[simp] theorem State.modTeam_dirty (s : State) (i : Nat) (f : Team → Team) : (s.modTeam i f).dirty = s.dirty := rfl
@[simp] theorem State.modTeam_part (s : State) (i : Nat) (f : Team → Team) : (s.modTeam i f).part = s.part := rfl
@[simp] theorem State.modTeam_ceOwn (s : State) (i : Nat) (f : Team → Team) : (s.modTeam i f).ceOwn = s.ceOwn := rfl
@[simp] theorem State.modTeam_pools (s : State) (i : Nat) (f : Team → Team) : (s.modTeam i f).pools = s.pools := rfl
@[simp] theorem State.modTeam_linkId (s : State) (i : Nat) (f : Team → Team) : (s.modTeam i f).linkId = s.linkId := rfl
@[simp] theorem State.modTeam_ports (s : State) (i : Nat) (f : Team → Team) : (s.modTeam i f).ports = s.ports := rfl
@[simp] theorem State.modTeam_lmap (s : State) (i : Nat) (f : Team → Team) : (s.modTeam i f).lmap = s.lmap := rfl
@[simp] theorem State.modTeam_inwin (s : State) (i : Nat) (f : Team → Team) : (s.modTeam i f).inwin = s.inwin := rfl
@[simp] theorem State.modTeam_filters (s : State) (i : Nat) (f : Team → Team) : (s.modTeam i f).filters = s.filters := rfl
@[simp] theorem State.modTeam_ethBuf (s : State) (i : Nat) (f : Team → Team) : (s.modTeam i f).ethBuf = s.ethBuf := rfl
@[simp] theorem State.modTeam_inbound (s : State) (i : Nat) (f : Team → Team) : (s.modTeam i f).inbound = s.inbound := rfl
@[simp] theorem State.modTeam_applied (s : State) (i : Nat) (f : Team → Team) : (s.modTeam i f).applied = s.applied := rfl
@[simp] theorem State.modTeam_detectors (s : State) (i : Nat) (f : Team → Team) : (s.modTeam i f).detectors = s.detectors := rfl
@[simp] theorem State.modTeam_holders (s : State) (i : Nat) (f : Team → Team) : (s.modTeam i f).holders = s.holders := rfl
@[simp] theorem State.modTeam_acks (s : State) (i : Nat) (f : Team → Team) : (s.modTeam i f).acks = s.acks := rfl
@[simp] theorem State.modTeam_ended (s : State) (i : Nat) (f : Team → Team) : (s.modTeam i f).ended = s.ended := rfl
@[simp] theorem State.modTeam_lastCtx (s : State) (i : Nat) (f : Team → Team) : (s.modTeam i f).lastCtx = s.lastCtx := rfl
@[simp] theorem State.modTeam_fenced (s : State) (i : Nat) (f : Team → Team) : (s.modTeam i f).fenced = s.fenced := rfl
@[simp] theorem State.modTeam_removed (s : State) (i : Nat) (f : Team → Team) : (s.modTeam i f).removed = s.removed := rfl
@[simp] theorem State.modTeam_ctxs (s : State) (i : Nat) (f : Team → Team) : (s.modTeam i f).ctxs = s.ctxs := rfl
@[simp] theorem State.modTeam_order (s : State) (i : Nat) (f : Team → Team) : (s.modTeam i f).order = s.order := rfl
@[simp] theorem State.modTeam_reqs (s : State) (i : Nat) (f : Team → Team) : (s.modTeam i f).reqs = s.reqs := rfl
@[simp] theorem State.modTeam_deadlines (s : State) (i : Nat) (f : Team → Team) : (s.modTeam i f).deadlines = s.deadlines := rfl
@[simp] theorem State.modTeam_copies (s : State) (i : Nat) (f : Team → Team) : (s.modTeam i f).copies = s.copies := rfl
@[simp] theorem State.modTeam_events (s : State) (i : Nat) (f : Team → Team) : (s.modTeam i f).events = s.events := rfl
@[simp] theorem State.modTeam_giveUp (s : State) (i : Nat) (f : Team → Team) : (s.modTeam i f).giveUp = s.giveUp := rfl
@[simp] theorem State.modTeam_fwCircuits (s : State) (i : Nat) (f : Team → Team) : (s.modTeam i f).fwCircuits = s.fwCircuits := rfl
@[simp] theorem State.modTeam_unseenPte (s : State) (i : Nat) (f : Team → Team) : (s.modTeam i f).unseenPte = s.unseenPte := rfl
@[simp] theorem State.modTeam_intercepts (s : State) (i : Nat) (f : Team → Team) : (s.modTeam i f).intercepts = s.intercepts := rfl
@[simp] theorem State.modTeam_surfaces (s : State) (i : Nat) (f : Team → Team) : (s.modTeam i f).surfaces = s.surfaces := rfl
@[simp] theorem State.modTeam_maqs (s : State) (i : Nat) (f : Team → Team) : (s.modTeam i f).maqs = s.maqs := rfl

@[simp] theorem State.modCtx_agenda (s : State) (n : Nat) (f : Ctx → Ctx) : (s.modCtx n f).agenda = s.agenda := rfl
@[simp] theorem State.modCtx_turn (s : State) (n : Nat) (f : Ctx → Ctx) : (s.modCtx n f).turn = s.turn := rfl
@[simp] theorem State.modCtx_clock (s : State) (n : Nat) (f : Ctx → Ctx) : (s.modCtx n f).clock = s.clock := rfl
@[simp] theorem State.modCtx_stepNs (s : State) (n : Nat) (f : Ctx → Ctx) : (s.modCtx n f).stepNs = s.stepNs := rfl
@[simp] theorem State.modCtx_coreSkew (s : State) (n : Nat) (f : Ctx → Ctx) : (s.modCtx n f).coreSkew = s.coreSkew := rfl
@[simp] theorem State.modCtx_released (s : State) (n : Nat) (f : Ctx → Ctx) : (s.modCtx n f).released = s.released := rfl
@[simp] theorem State.modCtx_focus (s : State) (n : Nat) (f : Ctx → Ctx) : (s.modCtx n f).focus = s.focus := rfl
@[simp] theorem State.modCtx_freeCtr (s : State) (n : Nat) (f : Ctx → Ctx) : (s.modCtx n f).freeCtr = s.freeCtr := rfl
@[simp] theorem State.modCtx_nextId (s : State) (n : Nat) (f : Ctx → Ctx) : (s.modCtx n f).nextId = s.nextId := rfl
@[simp] theorem State.modCtx_outbox (s : State) (n : Nat) (f : Ctx → Ctx) : (s.modCtx n f).outbox = s.outbox := rfl
@[simp] theorem State.modCtx_dev (s : State) (n : Nat) (f : Ctx → Ctx) : (s.modCtx n f).dev = s.dev := rfl
@[simp] theorem State.modCtx_freezePin (s : State) (n : Nat) (f : Ctx → Ctx) : (s.modCtx n f).freezePin = s.freezePin := rfl
@[simp] theorem State.modCtx_thermal (s : State) (n : Nat) (f : Ctx → Ctx) : (s.modCtx n f).thermal = s.thermal := rfl
@[simp] theorem State.modCtx_throttled (s : State) (n : Nat) (f : Ctx → Ctx) : (s.modCtx n f).throttled = s.throttled := rfl
@[simp] theorem State.modCtx_tdp (s : State) (n : Nat) (f : Ctx → Ctx) : (s.modCtx n f).tdp = s.tdp := rfl
@[simp] theorem State.modCtx_fw (s : State) (n : Nat) (f : Ctx → Ctx) : (s.modCtx n f).fw = s.fw := rfl
@[simp] theorem State.modCtx_tap (s : State) (n : Nat) (f : Ctx → Ctx) : (s.modCtx n f).tap = s.tap := rfl
@[simp] theorem State.modCtx_mem (s : State) (n : Nat) (f : Ctx → Ctx) : (s.modCtx n f).mem = s.mem := rfl
@[simp] theorem State.modCtx_fabric (s : State) (n : Nat) (f : Ctx → Ctx) : (s.modCtx n f).fabric = s.fabric := rfl
@[simp] theorem State.modCtx_l1 (s : State) (n : Nat) (f : Ctx → Ctx) : (s.modCtx n f).l1 = s.l1 := rfl
@[simp] theorem State.modCtx_banks (s : State) (n : Nat) (f : Ctx → Ctx) : (s.modCtx n f).banks = s.banks := rfl
@[simp] theorem State.modCtx_poisoned (s : State) (n : Nat) (f : Ctx → Ctx) : (s.modCtx n f).poisoned = s.poisoned := rfl
@[simp] theorem State.modCtx_ssLines (s : State) (n : Nat) (f : Ctx → Ctx) : (s.modCtx n f).ssLines = s.ssLines := rfl
@[simp] theorem State.modCtx_tlb (s : State) (n : Nat) (f : Ctx → Ctx) : (s.modCtx n f).tlb = s.tlb := rfl
@[simp] theorem State.modCtx_dirty (s : State) (n : Nat) (f : Ctx → Ctx) : (s.modCtx n f).dirty = s.dirty := rfl
@[simp] theorem State.modCtx_part (s : State) (n : Nat) (f : Ctx → Ctx) : (s.modCtx n f).part = s.part := rfl
@[simp] theorem State.modCtx_ceOwn (s : State) (n : Nat) (f : Ctx → Ctx) : (s.modCtx n f).ceOwn = s.ceOwn := rfl
@[simp] theorem State.modCtx_pools (s : State) (n : Nat) (f : Ctx → Ctx) : (s.modCtx n f).pools = s.pools := rfl
@[simp] theorem State.modCtx_linkId (s : State) (n : Nat) (f : Ctx → Ctx) : (s.modCtx n f).linkId = s.linkId := rfl
@[simp] theorem State.modCtx_ports (s : State) (n : Nat) (f : Ctx → Ctx) : (s.modCtx n f).ports = s.ports := rfl
@[simp] theorem State.modCtx_lmap (s : State) (n : Nat) (f : Ctx → Ctx) : (s.modCtx n f).lmap = s.lmap := rfl
@[simp] theorem State.modCtx_inwin (s : State) (n : Nat) (f : Ctx → Ctx) : (s.modCtx n f).inwin = s.inwin := rfl
@[simp] theorem State.modCtx_filters (s : State) (n : Nat) (f : Ctx → Ctx) : (s.modCtx n f).filters = s.filters := rfl
@[simp] theorem State.modCtx_ethBuf (s : State) (n : Nat) (f : Ctx → Ctx) : (s.modCtx n f).ethBuf = s.ethBuf := rfl
@[simp] theorem State.modCtx_inbound (s : State) (n : Nat) (f : Ctx → Ctx) : (s.modCtx n f).inbound = s.inbound := rfl
@[simp] theorem State.modCtx_applied (s : State) (n : Nat) (f : Ctx → Ctx) : (s.modCtx n f).applied = s.applied := rfl
@[simp] theorem State.modCtx_detectors (s : State) (n : Nat) (f : Ctx → Ctx) : (s.modCtx n f).detectors = s.detectors := rfl
@[simp] theorem State.modCtx_holders (s : State) (n : Nat) (f : Ctx → Ctx) : (s.modCtx n f).holders = s.holders := rfl
@[simp] theorem State.modCtx_acks (s : State) (n : Nat) (f : Ctx → Ctx) : (s.modCtx n f).acks = s.acks := rfl
@[simp] theorem State.modCtx_ended (s : State) (n : Nat) (f : Ctx → Ctx) : (s.modCtx n f).ended = s.ended := rfl
@[simp] theorem State.modCtx_lastCtx (s : State) (n : Nat) (f : Ctx → Ctx) : (s.modCtx n f).lastCtx = s.lastCtx := rfl
@[simp] theorem State.modCtx_fenced (s : State) (n : Nat) (f : Ctx → Ctx) : (s.modCtx n f).fenced = s.fenced := rfl
@[simp] theorem State.modCtx_removed (s : State) (n : Nat) (f : Ctx → Ctx) : (s.modCtx n f).removed = s.removed := rfl
@[simp] theorem State.modCtx_teams (s : State) (n : Nat) (f : Ctx → Ctx) : (s.modCtx n f).teams = s.teams := rfl
@[simp] theorem State.modCtx_order (s : State) (n : Nat) (f : Ctx → Ctx) : (s.modCtx n f).order = s.order := rfl
@[simp] theorem State.modCtx_reqs (s : State) (n : Nat) (f : Ctx → Ctx) : (s.modCtx n f).reqs = s.reqs := rfl
@[simp] theorem State.modCtx_deadlines (s : State) (n : Nat) (f : Ctx → Ctx) : (s.modCtx n f).deadlines = s.deadlines := rfl
@[simp] theorem State.modCtx_copies (s : State) (n : Nat) (f : Ctx → Ctx) : (s.modCtx n f).copies = s.copies := rfl
@[simp] theorem State.modCtx_events (s : State) (n : Nat) (f : Ctx → Ctx) : (s.modCtx n f).events = s.events := rfl
@[simp] theorem State.modCtx_giveUp (s : State) (n : Nat) (f : Ctx → Ctx) : (s.modCtx n f).giveUp = s.giveUp := rfl
@[simp] theorem State.modCtx_fwCircuits (s : State) (n : Nat) (f : Ctx → Ctx) : (s.modCtx n f).fwCircuits = s.fwCircuits := rfl
@[simp] theorem State.modCtx_unseenPte (s : State) (n : Nat) (f : Ctx → Ctx) : (s.modCtx n f).unseenPte = s.unseenPte := rfl
@[simp] theorem State.modCtx_intercepts (s : State) (n : Nat) (f : Ctx → Ctx) : (s.modCtx n f).intercepts = s.intercepts := rfl
@[simp] theorem State.modCtx_surfaces (s : State) (n : Nat) (f : Ctx → Ctx) : (s.modCtx n f).surfaces = s.surfaces := rfl
@[simp] theorem State.modCtx_maqs (s : State) (n : Nat) (f : Ctx → Ctx) : (s.modCtx n f).maqs = s.maqs := rfl

@[simp] theorem State.youngest_agenda (s : State) (i : Nat) : (s.youngest i).agenda = s.agenda := rfl
@[simp] theorem State.youngest_turn (s : State) (i : Nat) : (s.youngest i).turn = s.turn := rfl
@[simp] theorem State.youngest_clock (s : State) (i : Nat) : (s.youngest i).clock = s.clock := rfl
@[simp] theorem State.youngest_stepNs (s : State) (i : Nat) : (s.youngest i).stepNs = s.stepNs := rfl
@[simp] theorem State.youngest_coreSkew (s : State) (i : Nat) : (s.youngest i).coreSkew = s.coreSkew := rfl
@[simp] theorem State.youngest_released (s : State) (i : Nat) : (s.youngest i).released = s.released := rfl
@[simp] theorem State.youngest_focus (s : State) (i : Nat) : (s.youngest i).focus = s.focus := rfl
@[simp] theorem State.youngest_freeCtr (s : State) (i : Nat) : (s.youngest i).freeCtr = s.freeCtr := rfl
@[simp] theorem State.youngest_nextId (s : State) (i : Nat) : (s.youngest i).nextId = s.nextId := rfl
@[simp] theorem State.youngest_outbox (s : State) (i : Nat) : (s.youngest i).outbox = s.outbox := rfl
@[simp] theorem State.youngest_dev (s : State) (i : Nat) : (s.youngest i).dev = s.dev := rfl
@[simp] theorem State.youngest_freezePin (s : State) (i : Nat) : (s.youngest i).freezePin = s.freezePin := rfl
@[simp] theorem State.youngest_thermal (s : State) (i : Nat) : (s.youngest i).thermal = s.thermal := rfl
@[simp] theorem State.youngest_throttled (s : State) (i : Nat) : (s.youngest i).throttled = s.throttled := rfl
@[simp] theorem State.youngest_tdp (s : State) (i : Nat) : (s.youngest i).tdp = s.tdp := rfl
@[simp] theorem State.youngest_fw (s : State) (i : Nat) : (s.youngest i).fw = s.fw := rfl
@[simp] theorem State.youngest_tap (s : State) (i : Nat) : (s.youngest i).tap = s.tap := rfl
@[simp] theorem State.youngest_mem (s : State) (i : Nat) : (s.youngest i).mem = s.mem := rfl
@[simp] theorem State.youngest_fabric (s : State) (i : Nat) : (s.youngest i).fabric = s.fabric := rfl
@[simp] theorem State.youngest_l1 (s : State) (i : Nat) : (s.youngest i).l1 = s.l1 := rfl
@[simp] theorem State.youngest_banks (s : State) (i : Nat) : (s.youngest i).banks = s.banks := rfl
@[simp] theorem State.youngest_poisoned (s : State) (i : Nat) : (s.youngest i).poisoned = s.poisoned := rfl
@[simp] theorem State.youngest_ssLines (s : State) (i : Nat) : (s.youngest i).ssLines = s.ssLines := rfl
@[simp] theorem State.youngest_tlb (s : State) (i : Nat) : (s.youngest i).tlb = s.tlb := rfl
@[simp] theorem State.youngest_dirty (s : State) (i : Nat) : (s.youngest i).dirty = s.dirty := rfl
@[simp] theorem State.youngest_part (s : State) (i : Nat) : (s.youngest i).part = s.part := rfl
@[simp] theorem State.youngest_ceOwn (s : State) (i : Nat) : (s.youngest i).ceOwn = s.ceOwn := rfl
@[simp] theorem State.youngest_pools (s : State) (i : Nat) : (s.youngest i).pools = s.pools := rfl
@[simp] theorem State.youngest_linkId (s : State) (i : Nat) : (s.youngest i).linkId = s.linkId := rfl
@[simp] theorem State.youngest_ports (s : State) (i : Nat) : (s.youngest i).ports = s.ports := rfl
@[simp] theorem State.youngest_lmap (s : State) (i : Nat) : (s.youngest i).lmap = s.lmap := rfl
@[simp] theorem State.youngest_inwin (s : State) (i : Nat) : (s.youngest i).inwin = s.inwin := rfl
@[simp] theorem State.youngest_filters (s : State) (i : Nat) : (s.youngest i).filters = s.filters := rfl
@[simp] theorem State.youngest_ethBuf (s : State) (i : Nat) : (s.youngest i).ethBuf = s.ethBuf := rfl
@[simp] theorem State.youngest_inbound (s : State) (i : Nat) : (s.youngest i).inbound = s.inbound := rfl
@[simp] theorem State.youngest_applied (s : State) (i : Nat) : (s.youngest i).applied = s.applied := rfl
@[simp] theorem State.youngest_detectors (s : State) (i : Nat) : (s.youngest i).detectors = s.detectors := rfl
@[simp] theorem State.youngest_holders (s : State) (i : Nat) : (s.youngest i).holders = s.holders := rfl
@[simp] theorem State.youngest_acks (s : State) (i : Nat) : (s.youngest i).acks = s.acks := rfl
@[simp] theorem State.youngest_ended (s : State) (i : Nat) : (s.youngest i).ended = s.ended := rfl
@[simp] theorem State.youngest_lastCtx (s : State) (i : Nat) : (s.youngest i).lastCtx = s.lastCtx := rfl
@[simp] theorem State.youngest_fenced (s : State) (i : Nat) : (s.youngest i).fenced = s.fenced := rfl
@[simp] theorem State.youngest_removed (s : State) (i : Nat) : (s.youngest i).removed = s.removed := rfl
@[simp] theorem State.youngest_ctxs (s : State) (i : Nat) : (s.youngest i).ctxs = s.ctxs := rfl
@[simp] theorem State.youngest_teams (s : State) (i : Nat) : (s.youngest i).teams = s.teams := rfl
@[simp] theorem State.youngest_reqs (s : State) (i : Nat) : (s.youngest i).reqs = s.reqs := rfl
@[simp] theorem State.youngest_deadlines (s : State) (i : Nat) : (s.youngest i).deadlines = s.deadlines := rfl
@[simp] theorem State.youngest_copies (s : State) (i : Nat) : (s.youngest i).copies = s.copies := rfl
@[simp] theorem State.youngest_events (s : State) (i : Nat) : (s.youngest i).events = s.events := rfl
@[simp] theorem State.youngest_giveUp (s : State) (i : Nat) : (s.youngest i).giveUp = s.giveUp := rfl
@[simp] theorem State.youngest_fwCircuits (s : State) (i : Nat) : (s.youngest i).fwCircuits = s.fwCircuits := rfl
@[simp] theorem State.youngest_unseenPte (s : State) (i : Nat) : (s.youngest i).unseenPte = s.unseenPte := rfl
@[simp] theorem State.youngest_intercepts (s : State) (i : Nat) : (s.youngest i).intercepts = s.intercepts := rfl
@[simp] theorem State.youngest_surfaces (s : State) (i : Nat) : (s.youngest i).surfaces = s.surfaces := rfl
@[simp] theorem State.youngest_maqs (s : State) (i : Nat) : (s.youngest i).maqs = s.maqs := rfl

@[simp] theorem State.say_agenda (s : State) (o : Out) : (s.say o).agenda = s.agenda := rfl
@[simp] theorem State.say_turn (s : State) (o : Out) : (s.say o).turn = s.turn := rfl
@[simp] theorem State.say_clock (s : State) (o : Out) : (s.say o).clock = s.clock := rfl
@[simp] theorem State.say_stepNs (s : State) (o : Out) : (s.say o).stepNs = s.stepNs := rfl
@[simp] theorem State.say_coreSkew (s : State) (o : Out) : (s.say o).coreSkew = s.coreSkew := rfl
@[simp] theorem State.say_released (s : State) (o : Out) : (s.say o).released = s.released := rfl
@[simp] theorem State.say_focus (s : State) (o : Out) : (s.say o).focus = s.focus := rfl
@[simp] theorem State.say_freeCtr (s : State) (o : Out) : (s.say o).freeCtr = s.freeCtr := rfl
@[simp] theorem State.say_nextId (s : State) (o : Out) : (s.say o).nextId = s.nextId := rfl
@[simp] theorem State.say_dev (s : State) (o : Out) : (s.say o).dev = s.dev := rfl
@[simp] theorem State.say_freezePin (s : State) (o : Out) : (s.say o).freezePin = s.freezePin := rfl
@[simp] theorem State.say_thermal (s : State) (o : Out) : (s.say o).thermal = s.thermal := rfl
@[simp] theorem State.say_throttled (s : State) (o : Out) : (s.say o).throttled = s.throttled := rfl
@[simp] theorem State.say_tdp (s : State) (o : Out) : (s.say o).tdp = s.tdp := rfl
@[simp] theorem State.say_fw (s : State) (o : Out) : (s.say o).fw = s.fw := rfl
@[simp] theorem State.say_tap (s : State) (o : Out) : (s.say o).tap = s.tap := rfl
@[simp] theorem State.say_mem (s : State) (o : Out) : (s.say o).mem = s.mem := rfl
@[simp] theorem State.say_fabric (s : State) (o : Out) : (s.say o).fabric = s.fabric := rfl
@[simp] theorem State.say_l1 (s : State) (o : Out) : (s.say o).l1 = s.l1 := rfl
@[simp] theorem State.say_banks (s : State) (o : Out) : (s.say o).banks = s.banks := rfl
@[simp] theorem State.say_poisoned (s : State) (o : Out) : (s.say o).poisoned = s.poisoned := rfl
@[simp] theorem State.say_ssLines (s : State) (o : Out) : (s.say o).ssLines = s.ssLines := rfl
@[simp] theorem State.say_tlb (s : State) (o : Out) : (s.say o).tlb = s.tlb := rfl
@[simp] theorem State.say_dirty (s : State) (o : Out) : (s.say o).dirty = s.dirty := rfl
@[simp] theorem State.say_part (s : State) (o : Out) : (s.say o).part = s.part := rfl
@[simp] theorem State.say_ceOwn (s : State) (o : Out) : (s.say o).ceOwn = s.ceOwn := rfl
@[simp] theorem State.say_pools (s : State) (o : Out) : (s.say o).pools = s.pools := rfl
@[simp] theorem State.say_linkId (s : State) (o : Out) : (s.say o).linkId = s.linkId := rfl
@[simp] theorem State.say_ports (s : State) (o : Out) : (s.say o).ports = s.ports := rfl
@[simp] theorem State.say_lmap (s : State) (o : Out) : (s.say o).lmap = s.lmap := rfl
@[simp] theorem State.say_inwin (s : State) (o : Out) : (s.say o).inwin = s.inwin := rfl
@[simp] theorem State.say_filters (s : State) (o : Out) : (s.say o).filters = s.filters := rfl
@[simp] theorem State.say_ethBuf (s : State) (o : Out) : (s.say o).ethBuf = s.ethBuf := rfl
@[simp] theorem State.say_inbound (s : State) (o : Out) : (s.say o).inbound = s.inbound := rfl
@[simp] theorem State.say_applied (s : State) (o : Out) : (s.say o).applied = s.applied := rfl
@[simp] theorem State.say_detectors (s : State) (o : Out) : (s.say o).detectors = s.detectors := rfl
@[simp] theorem State.say_holders (s : State) (o : Out) : (s.say o).holders = s.holders := rfl
@[simp] theorem State.say_acks (s : State) (o : Out) : (s.say o).acks = s.acks := rfl
@[simp] theorem State.say_ended (s : State) (o : Out) : (s.say o).ended = s.ended := rfl
@[simp] theorem State.say_lastCtx (s : State) (o : Out) : (s.say o).lastCtx = s.lastCtx := rfl
@[simp] theorem State.say_fenced (s : State) (o : Out) : (s.say o).fenced = s.fenced := rfl
@[simp] theorem State.say_removed (s : State) (o : Out) : (s.say o).removed = s.removed := rfl
@[simp] theorem State.say_ctxs (s : State) (o : Out) : (s.say o).ctxs = s.ctxs := rfl
@[simp] theorem State.say_teams (s : State) (o : Out) : (s.say o).teams = s.teams := rfl
@[simp] theorem State.say_order (s : State) (o : Out) : (s.say o).order = s.order := rfl
@[simp] theorem State.say_reqs (s : State) (o : Out) : (s.say o).reqs = s.reqs := rfl
@[simp] theorem State.say_deadlines (s : State) (o : Out) : (s.say o).deadlines = s.deadlines := rfl
@[simp] theorem State.say_copies (s : State) (o : Out) : (s.say o).copies = s.copies := rfl
@[simp] theorem State.say_events (s : State) (o : Out) : (s.say o).events = s.events := rfl
@[simp] theorem State.say_giveUp (s : State) (o : Out) : (s.say o).giveUp = s.giveUp := rfl
@[simp] theorem State.say_fwCircuits (s : State) (o : Out) : (s.say o).fwCircuits = s.fwCircuits := rfl
@[simp] theorem State.say_unseenPte (s : State) (o : Out) : (s.say o).unseenPte = s.unseenPte := rfl
@[simp] theorem State.say_intercepts (s : State) (o : Out) : (s.say o).intercepts = s.intercepts := rfl
@[simp] theorem State.say_surfaces (s : State) (o : Out) : (s.say o).surfaces = s.surfaces := rfl
@[simp] theorem State.say_maqs (s : State) (o : Out) : (s.say o).maqs = s.maqs := rfl

@[simp] theorem State.putReq_agenda (s : State) (r : Req) : (s.putReq r).agenda = s.agenda := rfl
@[simp] theorem State.putReq_turn (s : State) (r : Req) : (s.putReq r).turn = s.turn := rfl
@[simp] theorem State.putReq_clock (s : State) (r : Req) : (s.putReq r).clock = s.clock := rfl
@[simp] theorem State.putReq_stepNs (s : State) (r : Req) : (s.putReq r).stepNs = s.stepNs := rfl
@[simp] theorem State.putReq_coreSkew (s : State) (r : Req) : (s.putReq r).coreSkew = s.coreSkew := rfl
@[simp] theorem State.putReq_released (s : State) (r : Req) : (s.putReq r).released = s.released := rfl
@[simp] theorem State.putReq_focus (s : State) (r : Req) : (s.putReq r).focus = s.focus := rfl
@[simp] theorem State.putReq_freeCtr (s : State) (r : Req) : (s.putReq r).freeCtr = s.freeCtr := rfl
@[simp] theorem State.putReq_nextId (s : State) (r : Req) : (s.putReq r).nextId = s.nextId := rfl
@[simp] theorem State.putReq_outbox (s : State) (r : Req) : (s.putReq r).outbox = s.outbox := rfl
@[simp] theorem State.putReq_dev (s : State) (r : Req) : (s.putReq r).dev = s.dev := rfl
@[simp] theorem State.putReq_freezePin (s : State) (r : Req) : (s.putReq r).freezePin = s.freezePin := rfl
@[simp] theorem State.putReq_thermal (s : State) (r : Req) : (s.putReq r).thermal = s.thermal := rfl
@[simp] theorem State.putReq_throttled (s : State) (r : Req) : (s.putReq r).throttled = s.throttled := rfl
@[simp] theorem State.putReq_tdp (s : State) (r : Req) : (s.putReq r).tdp = s.tdp := rfl
@[simp] theorem State.putReq_fw (s : State) (r : Req) : (s.putReq r).fw = s.fw := rfl
@[simp] theorem State.putReq_tap (s : State) (r : Req) : (s.putReq r).tap = s.tap := rfl
@[simp] theorem State.putReq_mem (s : State) (r : Req) : (s.putReq r).mem = s.mem := rfl
@[simp] theorem State.putReq_fabric (s : State) (r : Req) : (s.putReq r).fabric = s.fabric := rfl
@[simp] theorem State.putReq_l1 (s : State) (r : Req) : (s.putReq r).l1 = s.l1 := rfl
@[simp] theorem State.putReq_banks (s : State) (r : Req) : (s.putReq r).banks = s.banks := rfl
@[simp] theorem State.putReq_poisoned (s : State) (r : Req) : (s.putReq r).poisoned = s.poisoned := rfl
@[simp] theorem State.putReq_ssLines (s : State) (r : Req) : (s.putReq r).ssLines = s.ssLines := rfl
@[simp] theorem State.putReq_tlb (s : State) (r : Req) : (s.putReq r).tlb = s.tlb := rfl
@[simp] theorem State.putReq_dirty (s : State) (r : Req) : (s.putReq r).dirty = s.dirty := rfl
@[simp] theorem State.putReq_part (s : State) (r : Req) : (s.putReq r).part = s.part := rfl
@[simp] theorem State.putReq_ceOwn (s : State) (r : Req) : (s.putReq r).ceOwn = s.ceOwn := rfl
@[simp] theorem State.putReq_pools (s : State) (r : Req) : (s.putReq r).pools = s.pools := rfl
@[simp] theorem State.putReq_linkId (s : State) (r : Req) : (s.putReq r).linkId = s.linkId := rfl
@[simp] theorem State.putReq_ports (s : State) (r : Req) : (s.putReq r).ports = s.ports := rfl
@[simp] theorem State.putReq_lmap (s : State) (r : Req) : (s.putReq r).lmap = s.lmap := rfl
@[simp] theorem State.putReq_inwin (s : State) (r : Req) : (s.putReq r).inwin = s.inwin := rfl
@[simp] theorem State.putReq_filters (s : State) (r : Req) : (s.putReq r).filters = s.filters := rfl
@[simp] theorem State.putReq_ethBuf (s : State) (r : Req) : (s.putReq r).ethBuf = s.ethBuf := rfl
@[simp] theorem State.putReq_inbound (s : State) (r : Req) : (s.putReq r).inbound = s.inbound := rfl
@[simp] theorem State.putReq_applied (s : State) (r : Req) : (s.putReq r).applied = s.applied := rfl
@[simp] theorem State.putReq_detectors (s : State) (r : Req) : (s.putReq r).detectors = s.detectors := rfl
@[simp] theorem State.putReq_holders (s : State) (r : Req) : (s.putReq r).holders = s.holders := rfl
@[simp] theorem State.putReq_acks (s : State) (r : Req) : (s.putReq r).acks = s.acks := rfl
@[simp] theorem State.putReq_ended (s : State) (r : Req) : (s.putReq r).ended = s.ended := rfl
@[simp] theorem State.putReq_lastCtx (s : State) (r : Req) : (s.putReq r).lastCtx = s.lastCtx := rfl
@[simp] theorem State.putReq_fenced (s : State) (r : Req) : (s.putReq r).fenced = s.fenced := rfl
@[simp] theorem State.putReq_removed (s : State) (r : Req) : (s.putReq r).removed = s.removed := rfl
@[simp] theorem State.putReq_ctxs (s : State) (r : Req) : (s.putReq r).ctxs = s.ctxs := rfl
@[simp] theorem State.putReq_teams (s : State) (r : Req) : (s.putReq r).teams = s.teams := rfl
@[simp] theorem State.putReq_order (s : State) (r : Req) : (s.putReq r).order = s.order := rfl
@[simp] theorem State.putReq_deadlines (s : State) (r : Req) : (s.putReq r).deadlines = s.deadlines := rfl
@[simp] theorem State.putReq_copies (s : State) (r : Req) : (s.putReq r).copies = s.copies := rfl
@[simp] theorem State.putReq_events (s : State) (r : Req) : (s.putReq r).events = s.events := rfl
@[simp] theorem State.putReq_giveUp (s : State) (r : Req) : (s.putReq r).giveUp = s.giveUp := rfl
@[simp] theorem State.putReq_fwCircuits (s : State) (r : Req) : (s.putReq r).fwCircuits = s.fwCircuits := rfl
@[simp] theorem State.putReq_unseenPte (s : State) (r : Req) : (s.putReq r).unseenPte = s.unseenPte := rfl
@[simp] theorem State.putReq_intercepts (s : State) (r : Req) : (s.putReq r).intercepts = s.intercepts := rfl
@[simp] theorem State.putReq_surfaces (s : State) (r : Req) : (s.putReq r).surfaces = s.surfaces := rfl
@[simp] theorem State.putReq_maqs (s : State) (r : Req) : (s.putReq r).maqs = s.maqs := rfl

@[simp] theorem State.dropReq_agenda (s : State) (i : Nat) : (s.dropReq i).agenda = s.agenda := rfl
@[simp] theorem State.dropReq_turn (s : State) (i : Nat) : (s.dropReq i).turn = s.turn := rfl
@[simp] theorem State.dropReq_clock (s : State) (i : Nat) : (s.dropReq i).clock = s.clock := rfl
@[simp] theorem State.dropReq_stepNs (s : State) (i : Nat) : (s.dropReq i).stepNs = s.stepNs := rfl
@[simp] theorem State.dropReq_coreSkew (s : State) (i : Nat) : (s.dropReq i).coreSkew = s.coreSkew := rfl
@[simp] theorem State.dropReq_released (s : State) (i : Nat) : (s.dropReq i).released = s.released := rfl
@[simp] theorem State.dropReq_focus (s : State) (i : Nat) : (s.dropReq i).focus = s.focus := rfl
@[simp] theorem State.dropReq_freeCtr (s : State) (i : Nat) : (s.dropReq i).freeCtr = s.freeCtr := rfl
@[simp] theorem State.dropReq_nextId (s : State) (i : Nat) : (s.dropReq i).nextId = s.nextId := rfl
@[simp] theorem State.dropReq_outbox (s : State) (i : Nat) : (s.dropReq i).outbox = s.outbox := rfl
@[simp] theorem State.dropReq_dev (s : State) (i : Nat) : (s.dropReq i).dev = s.dev := rfl
@[simp] theorem State.dropReq_freezePin (s : State) (i : Nat) : (s.dropReq i).freezePin = s.freezePin := rfl
@[simp] theorem State.dropReq_thermal (s : State) (i : Nat) : (s.dropReq i).thermal = s.thermal := rfl
@[simp] theorem State.dropReq_throttled (s : State) (i : Nat) : (s.dropReq i).throttled = s.throttled := rfl
@[simp] theorem State.dropReq_tdp (s : State) (i : Nat) : (s.dropReq i).tdp = s.tdp := rfl
@[simp] theorem State.dropReq_fw (s : State) (i : Nat) : (s.dropReq i).fw = s.fw := rfl
@[simp] theorem State.dropReq_tap (s : State) (i : Nat) : (s.dropReq i).tap = s.tap := rfl
@[simp] theorem State.dropReq_mem (s : State) (i : Nat) : (s.dropReq i).mem = s.mem := rfl
@[simp] theorem State.dropReq_fabric (s : State) (i : Nat) : (s.dropReq i).fabric = s.fabric := rfl
@[simp] theorem State.dropReq_l1 (s : State) (i : Nat) : (s.dropReq i).l1 = s.l1 := rfl
@[simp] theorem State.dropReq_banks (s : State) (i : Nat) : (s.dropReq i).banks = s.banks := rfl
@[simp] theorem State.dropReq_poisoned (s : State) (i : Nat) : (s.dropReq i).poisoned = s.poisoned := rfl
@[simp] theorem State.dropReq_ssLines (s : State) (i : Nat) : (s.dropReq i).ssLines = s.ssLines := rfl
@[simp] theorem State.dropReq_tlb (s : State) (i : Nat) : (s.dropReq i).tlb = s.tlb := rfl
@[simp] theorem State.dropReq_dirty (s : State) (i : Nat) : (s.dropReq i).dirty = s.dirty := rfl
@[simp] theorem State.dropReq_part (s : State) (i : Nat) : (s.dropReq i).part = s.part := rfl
@[simp] theorem State.dropReq_ceOwn (s : State) (i : Nat) : (s.dropReq i).ceOwn = s.ceOwn := rfl
@[simp] theorem State.dropReq_pools (s : State) (i : Nat) : (s.dropReq i).pools = s.pools := rfl
@[simp] theorem State.dropReq_linkId (s : State) (i : Nat) : (s.dropReq i).linkId = s.linkId := rfl
@[simp] theorem State.dropReq_ports (s : State) (i : Nat) : (s.dropReq i).ports = s.ports := rfl
@[simp] theorem State.dropReq_lmap (s : State) (i : Nat) : (s.dropReq i).lmap = s.lmap := rfl
@[simp] theorem State.dropReq_inwin (s : State) (i : Nat) : (s.dropReq i).inwin = s.inwin := rfl
@[simp] theorem State.dropReq_filters (s : State) (i : Nat) : (s.dropReq i).filters = s.filters := rfl
@[simp] theorem State.dropReq_ethBuf (s : State) (i : Nat) : (s.dropReq i).ethBuf = s.ethBuf := rfl
@[simp] theorem State.dropReq_inbound (s : State) (i : Nat) : (s.dropReq i).inbound = s.inbound := rfl
@[simp] theorem State.dropReq_applied (s : State) (i : Nat) : (s.dropReq i).applied = s.applied := rfl
@[simp] theorem State.dropReq_detectors (s : State) (i : Nat) : (s.dropReq i).detectors = s.detectors := rfl
@[simp] theorem State.dropReq_holders (s : State) (i : Nat) : (s.dropReq i).holders = s.holders := rfl
@[simp] theorem State.dropReq_acks (s : State) (i : Nat) : (s.dropReq i).acks = s.acks := rfl
@[simp] theorem State.dropReq_ended (s : State) (i : Nat) : (s.dropReq i).ended = s.ended := rfl
@[simp] theorem State.dropReq_lastCtx (s : State) (i : Nat) : (s.dropReq i).lastCtx = s.lastCtx := rfl
@[simp] theorem State.dropReq_fenced (s : State) (i : Nat) : (s.dropReq i).fenced = s.fenced := rfl
@[simp] theorem State.dropReq_removed (s : State) (i : Nat) : (s.dropReq i).removed = s.removed := rfl
@[simp] theorem State.dropReq_ctxs (s : State) (i : Nat) : (s.dropReq i).ctxs = s.ctxs := rfl
@[simp] theorem State.dropReq_teams (s : State) (i : Nat) : (s.dropReq i).teams = s.teams := rfl
@[simp] theorem State.dropReq_order (s : State) (i : Nat) : (s.dropReq i).order = s.order := rfl
@[simp] theorem State.dropReq_deadlines (s : State) (i : Nat) : (s.dropReq i).deadlines = s.deadlines := rfl
@[simp] theorem State.dropReq_copies (s : State) (i : Nat) : (s.dropReq i).copies = s.copies := rfl
@[simp] theorem State.dropReq_events (s : State) (i : Nat) : (s.dropReq i).events = s.events := rfl
@[simp] theorem State.dropReq_giveUp (s : State) (i : Nat) : (s.dropReq i).giveUp = s.giveUp := rfl
@[simp] theorem State.dropReq_fwCircuits (s : State) (i : Nat) : (s.dropReq i).fwCircuits = s.fwCircuits := rfl
@[simp] theorem State.dropReq_unseenPte (s : State) (i : Nat) : (s.dropReq i).unseenPte = s.unseenPte := rfl
@[simp] theorem State.dropReq_intercepts (s : State) (i : Nat) : (s.dropReq i).intercepts = s.intercepts := rfl
@[simp] theorem State.dropReq_surfaces (s : State) (i : Nat) : (s.dropReq i).surfaces = s.surfaces := rfl
@[simp] theorem State.dropReq_maqs (s : State) (i : Nat) : (s.dropReq i).maqs = s.maqs := rfl

@[simp] theorem State.settleCnt_agenda (s : State) (i : Nat) : (s.settleCnt i).agenda = s.agenda := rfl
@[simp] theorem State.settleCnt_turn (s : State) (i : Nat) : (s.settleCnt i).turn = s.turn := rfl
@[simp] theorem State.settleCnt_clock (s : State) (i : Nat) : (s.settleCnt i).clock = s.clock := rfl
@[simp] theorem State.settleCnt_stepNs (s : State) (i : Nat) : (s.settleCnt i).stepNs = s.stepNs := rfl
@[simp] theorem State.settleCnt_coreSkew (s : State) (i : Nat) : (s.settleCnt i).coreSkew = s.coreSkew := rfl
@[simp] theorem State.settleCnt_released (s : State) (i : Nat) : (s.settleCnt i).released = s.released := rfl
@[simp] theorem State.settleCnt_focus (s : State) (i : Nat) : (s.settleCnt i).focus = s.focus := rfl
@[simp] theorem State.settleCnt_freeCtr (s : State) (i : Nat) : (s.settleCnt i).freeCtr = s.freeCtr := rfl
@[simp] theorem State.settleCnt_nextId (s : State) (i : Nat) : (s.settleCnt i).nextId = s.nextId := rfl
@[simp] theorem State.settleCnt_outbox (s : State) (i : Nat) : (s.settleCnt i).outbox = s.outbox := rfl
@[simp] theorem State.settleCnt_dev (s : State) (i : Nat) : (s.settleCnt i).dev = s.dev := rfl
@[simp] theorem State.settleCnt_freezePin (s : State) (i : Nat) : (s.settleCnt i).freezePin = s.freezePin := rfl
@[simp] theorem State.settleCnt_thermal (s : State) (i : Nat) : (s.settleCnt i).thermal = s.thermal := rfl
@[simp] theorem State.settleCnt_throttled (s : State) (i : Nat) : (s.settleCnt i).throttled = s.throttled := rfl
@[simp] theorem State.settleCnt_tdp (s : State) (i : Nat) : (s.settleCnt i).tdp = s.tdp := rfl
@[simp] theorem State.settleCnt_fw (s : State) (i : Nat) : (s.settleCnt i).fw = s.fw := rfl
@[simp] theorem State.settleCnt_tap (s : State) (i : Nat) : (s.settleCnt i).tap = s.tap := rfl
@[simp] theorem State.settleCnt_mem (s : State) (i : Nat) : (s.settleCnt i).mem = s.mem := rfl
@[simp] theorem State.settleCnt_fabric (s : State) (i : Nat) : (s.settleCnt i).fabric = s.fabric := rfl
@[simp] theorem State.settleCnt_l1 (s : State) (i : Nat) : (s.settleCnt i).l1 = s.l1 := rfl
@[simp] theorem State.settleCnt_banks (s : State) (i : Nat) : (s.settleCnt i).banks = s.banks := rfl
@[simp] theorem State.settleCnt_poisoned (s : State) (i : Nat) : (s.settleCnt i).poisoned = s.poisoned := rfl
@[simp] theorem State.settleCnt_ssLines (s : State) (i : Nat) : (s.settleCnt i).ssLines = s.ssLines := rfl
@[simp] theorem State.settleCnt_tlb (s : State) (i : Nat) : (s.settleCnt i).tlb = s.tlb := rfl
@[simp] theorem State.settleCnt_dirty (s : State) (i : Nat) : (s.settleCnt i).dirty = s.dirty := rfl
@[simp] theorem State.settleCnt_part (s : State) (i : Nat) : (s.settleCnt i).part = s.part := rfl
@[simp] theorem State.settleCnt_ceOwn (s : State) (i : Nat) : (s.settleCnt i).ceOwn = s.ceOwn := rfl
@[simp] theorem State.settleCnt_pools (s : State) (i : Nat) : (s.settleCnt i).pools = s.pools := rfl
@[simp] theorem State.settleCnt_linkId (s : State) (i : Nat) : (s.settleCnt i).linkId = s.linkId := rfl
@[simp] theorem State.settleCnt_ports (s : State) (i : Nat) : (s.settleCnt i).ports = s.ports := rfl
@[simp] theorem State.settleCnt_lmap (s : State) (i : Nat) : (s.settleCnt i).lmap = s.lmap := rfl
@[simp] theorem State.settleCnt_inwin (s : State) (i : Nat) : (s.settleCnt i).inwin = s.inwin := rfl
@[simp] theorem State.settleCnt_filters (s : State) (i : Nat) : (s.settleCnt i).filters = s.filters := rfl
@[simp] theorem State.settleCnt_ethBuf (s : State) (i : Nat) : (s.settleCnt i).ethBuf = s.ethBuf := rfl
@[simp] theorem State.settleCnt_inbound (s : State) (i : Nat) : (s.settleCnt i).inbound = s.inbound := rfl
@[simp] theorem State.settleCnt_applied (s : State) (i : Nat) : (s.settleCnt i).applied = s.applied := rfl
@[simp] theorem State.settleCnt_detectors (s : State) (i : Nat) : (s.settleCnt i).detectors = s.detectors := rfl
@[simp] theorem State.settleCnt_holders (s : State) (i : Nat) : (s.settleCnt i).holders = s.holders := rfl
@[simp] theorem State.settleCnt_acks (s : State) (i : Nat) : (s.settleCnt i).acks = s.acks := rfl
@[simp] theorem State.settleCnt_ended (s : State) (i : Nat) : (s.settleCnt i).ended = s.ended := rfl
@[simp] theorem State.settleCnt_lastCtx (s : State) (i : Nat) : (s.settleCnt i).lastCtx = s.lastCtx := rfl
@[simp] theorem State.settleCnt_fenced (s : State) (i : Nat) : (s.settleCnt i).fenced = s.fenced := rfl
@[simp] theorem State.settleCnt_removed (s : State) (i : Nat) : (s.settleCnt i).removed = s.removed := rfl
@[simp] theorem State.settleCnt_ctxs (s : State) (i : Nat) : (s.settleCnt i).ctxs = s.ctxs := rfl
@[simp] theorem State.settleCnt_order (s : State) (i : Nat) : (s.settleCnt i).order = s.order := rfl
@[simp] theorem State.settleCnt_reqs (s : State) (i : Nat) : (s.settleCnt i).reqs = s.reqs := rfl
@[simp] theorem State.settleCnt_deadlines (s : State) (i : Nat) : (s.settleCnt i).deadlines = s.deadlines := rfl
@[simp] theorem State.settleCnt_copies (s : State) (i : Nat) : (s.settleCnt i).copies = s.copies := rfl
@[simp] theorem State.settleCnt_events (s : State) (i : Nat) : (s.settleCnt i).events = s.events := rfl
@[simp] theorem State.settleCnt_giveUp (s : State) (i : Nat) : (s.settleCnt i).giveUp = s.giveUp := rfl
@[simp] theorem State.settleCnt_fwCircuits (s : State) (i : Nat) : (s.settleCnt i).fwCircuits = s.fwCircuits := rfl
@[simp] theorem State.settleCnt_unseenPte (s : State) (i : Nat) : (s.settleCnt i).unseenPte = s.unseenPte := rfl
@[simp] theorem State.settleCnt_intercepts (s : State) (i : Nat) : (s.settleCnt i).intercepts = s.intercepts := rfl
@[simp] theorem State.settleCnt_surfaces (s : State) (i : Nat) : (s.settleCnt i).surfaces = s.surfaces := rfl
@[simp] theorem State.settleCnt_maqs (s : State) (i : Nat) : (s.settleCnt i).maqs = s.maqs := rfl

@[simp] theorem State.dropCopies_agenda (s : State) (k : Nat) (ws : List Nat) : (s.dropCopies k ws).agenda = s.agenda := rfl
@[simp] theorem State.dropCopies_turn (s : State) (k : Nat) (ws : List Nat) : (s.dropCopies k ws).turn = s.turn := rfl
@[simp] theorem State.dropCopies_clock (s : State) (k : Nat) (ws : List Nat) : (s.dropCopies k ws).clock = s.clock := rfl
@[simp] theorem State.dropCopies_stepNs (s : State) (k : Nat) (ws : List Nat) : (s.dropCopies k ws).stepNs = s.stepNs := rfl
@[simp] theorem State.dropCopies_coreSkew (s : State) (k : Nat) (ws : List Nat) : (s.dropCopies k ws).coreSkew = s.coreSkew := rfl
@[simp] theorem State.dropCopies_released (s : State) (k : Nat) (ws : List Nat) : (s.dropCopies k ws).released = s.released := rfl
@[simp] theorem State.dropCopies_focus (s : State) (k : Nat) (ws : List Nat) : (s.dropCopies k ws).focus = s.focus := rfl
@[simp] theorem State.dropCopies_freeCtr (s : State) (k : Nat) (ws : List Nat) : (s.dropCopies k ws).freeCtr = s.freeCtr := rfl
@[simp] theorem State.dropCopies_nextId (s : State) (k : Nat) (ws : List Nat) : (s.dropCopies k ws).nextId = s.nextId := rfl
@[simp] theorem State.dropCopies_outbox (s : State) (k : Nat) (ws : List Nat) : (s.dropCopies k ws).outbox = s.outbox := rfl
@[simp] theorem State.dropCopies_dev (s : State) (k : Nat) (ws : List Nat) : (s.dropCopies k ws).dev = s.dev := rfl
@[simp] theorem State.dropCopies_freezePin (s : State) (k : Nat) (ws : List Nat) : (s.dropCopies k ws).freezePin = s.freezePin := rfl
@[simp] theorem State.dropCopies_thermal (s : State) (k : Nat) (ws : List Nat) : (s.dropCopies k ws).thermal = s.thermal := rfl
@[simp] theorem State.dropCopies_throttled (s : State) (k : Nat) (ws : List Nat) : (s.dropCopies k ws).throttled = s.throttled := rfl
@[simp] theorem State.dropCopies_tdp (s : State) (k : Nat) (ws : List Nat) : (s.dropCopies k ws).tdp = s.tdp := rfl
@[simp] theorem State.dropCopies_fw (s : State) (k : Nat) (ws : List Nat) : (s.dropCopies k ws).fw = s.fw := rfl
@[simp] theorem State.dropCopies_tap (s : State) (k : Nat) (ws : List Nat) : (s.dropCopies k ws).tap = s.tap := rfl
@[simp] theorem State.dropCopies_mem (s : State) (k : Nat) (ws : List Nat) : (s.dropCopies k ws).mem = s.mem := rfl
@[simp] theorem State.dropCopies_fabric (s : State) (k : Nat) (ws : List Nat) : (s.dropCopies k ws).fabric = s.fabric := rfl
@[simp] theorem State.dropCopies_banks (s : State) (k : Nat) (ws : List Nat) : (s.dropCopies k ws).banks = s.banks := rfl
@[simp] theorem State.dropCopies_poisoned (s : State) (k : Nat) (ws : List Nat) : (s.dropCopies k ws).poisoned = s.poisoned := rfl
@[simp] theorem State.dropCopies_ssLines (s : State) (k : Nat) (ws : List Nat) : (s.dropCopies k ws).ssLines = s.ssLines := rfl
@[simp] theorem State.dropCopies_tlb (s : State) (k : Nat) (ws : List Nat) : (s.dropCopies k ws).tlb = s.tlb := rfl
@[simp] theorem State.dropCopies_dirty (s : State) (k : Nat) (ws : List Nat) : (s.dropCopies k ws).dirty = s.dirty := rfl
@[simp] theorem State.dropCopies_part (s : State) (k : Nat) (ws : List Nat) : (s.dropCopies k ws).part = s.part := rfl
@[simp] theorem State.dropCopies_ceOwn (s : State) (k : Nat) (ws : List Nat) : (s.dropCopies k ws).ceOwn = s.ceOwn := rfl
@[simp] theorem State.dropCopies_pools (s : State) (k : Nat) (ws : List Nat) : (s.dropCopies k ws).pools = s.pools := rfl
@[simp] theorem State.dropCopies_linkId (s : State) (k : Nat) (ws : List Nat) : (s.dropCopies k ws).linkId = s.linkId := rfl
@[simp] theorem State.dropCopies_ports (s : State) (k : Nat) (ws : List Nat) : (s.dropCopies k ws).ports = s.ports := rfl
@[simp] theorem State.dropCopies_lmap (s : State) (k : Nat) (ws : List Nat) : (s.dropCopies k ws).lmap = s.lmap := rfl
@[simp] theorem State.dropCopies_inwin (s : State) (k : Nat) (ws : List Nat) : (s.dropCopies k ws).inwin = s.inwin := rfl
@[simp] theorem State.dropCopies_filters (s : State) (k : Nat) (ws : List Nat) : (s.dropCopies k ws).filters = s.filters := rfl
@[simp] theorem State.dropCopies_ethBuf (s : State) (k : Nat) (ws : List Nat) : (s.dropCopies k ws).ethBuf = s.ethBuf := rfl
@[simp] theorem State.dropCopies_inbound (s : State) (k : Nat) (ws : List Nat) : (s.dropCopies k ws).inbound = s.inbound := rfl
@[simp] theorem State.dropCopies_applied (s : State) (k : Nat) (ws : List Nat) : (s.dropCopies k ws).applied = s.applied := rfl
@[simp] theorem State.dropCopies_detectors (s : State) (k : Nat) (ws : List Nat) : (s.dropCopies k ws).detectors = s.detectors := rfl
@[simp] theorem State.dropCopies_holders (s : State) (k : Nat) (ws : List Nat) : (s.dropCopies k ws).holders = s.holders := rfl
@[simp] theorem State.dropCopies_acks (s : State) (k : Nat) (ws : List Nat) : (s.dropCopies k ws).acks = s.acks := rfl
@[simp] theorem State.dropCopies_ended (s : State) (k : Nat) (ws : List Nat) : (s.dropCopies k ws).ended = s.ended := rfl
@[simp] theorem State.dropCopies_lastCtx (s : State) (k : Nat) (ws : List Nat) : (s.dropCopies k ws).lastCtx = s.lastCtx := rfl
@[simp] theorem State.dropCopies_fenced (s : State) (k : Nat) (ws : List Nat) : (s.dropCopies k ws).fenced = s.fenced := rfl
@[simp] theorem State.dropCopies_removed (s : State) (k : Nat) (ws : List Nat) : (s.dropCopies k ws).removed = s.removed := rfl
@[simp] theorem State.dropCopies_ctxs (s : State) (k : Nat) (ws : List Nat) : (s.dropCopies k ws).ctxs = s.ctxs := rfl
@[simp] theorem State.dropCopies_teams (s : State) (k : Nat) (ws : List Nat) : (s.dropCopies k ws).teams = s.teams := rfl
@[simp] theorem State.dropCopies_order (s : State) (k : Nat) (ws : List Nat) : (s.dropCopies k ws).order = s.order := rfl
@[simp] theorem State.dropCopies_reqs (s : State) (k : Nat) (ws : List Nat) : (s.dropCopies k ws).reqs = s.reqs := rfl
@[simp] theorem State.dropCopies_deadlines (s : State) (k : Nat) (ws : List Nat) : (s.dropCopies k ws).deadlines = s.deadlines := rfl
@[simp] theorem State.dropCopies_copies (s : State) (k : Nat) (ws : List Nat) : (s.dropCopies k ws).copies = s.copies := rfl
@[simp] theorem State.dropCopies_events (s : State) (k : Nat) (ws : List Nat) : (s.dropCopies k ws).events = s.events := rfl
@[simp] theorem State.dropCopies_giveUp (s : State) (k : Nat) (ws : List Nat) : (s.dropCopies k ws).giveUp = s.giveUp := rfl
@[simp] theorem State.dropCopies_fwCircuits (s : State) (k : Nat) (ws : List Nat) : (s.dropCopies k ws).fwCircuits = s.fwCircuits := rfl
@[simp] theorem State.dropCopies_unseenPte (s : State) (k : Nat) (ws : List Nat) : (s.dropCopies k ws).unseenPte = s.unseenPte := rfl
@[simp] theorem State.dropCopies_intercepts (s : State) (k : Nat) (ws : List Nat) : (s.dropCopies k ws).intercepts = s.intercepts := rfl
@[simp] theorem State.dropCopies_surfaces (s : State) (k : Nat) (ws : List Nat) : (s.dropCopies k ws).surfaces = s.surfaces := rfl
@[simp] theorem State.dropCopies_maqs (s : State) (k : Nat) (ws : List Nat) : (s.dropCopies k ws).maqs = s.maqs := rfl

@[simp] theorem State.putCopy_agenda (s : State) (c : Copy) : (s.putCopy c).agenda = s.agenda := rfl
@[simp] theorem State.putCopy_turn (s : State) (c : Copy) : (s.putCopy c).turn = s.turn := rfl
@[simp] theorem State.putCopy_clock (s : State) (c : Copy) : (s.putCopy c).clock = s.clock := rfl
@[simp] theorem State.putCopy_stepNs (s : State) (c : Copy) : (s.putCopy c).stepNs = s.stepNs := rfl
@[simp] theorem State.putCopy_coreSkew (s : State) (c : Copy) : (s.putCopy c).coreSkew = s.coreSkew := rfl
@[simp] theorem State.putCopy_released (s : State) (c : Copy) : (s.putCopy c).released = s.released := rfl
@[simp] theorem State.putCopy_focus (s : State) (c : Copy) : (s.putCopy c).focus = s.focus := rfl
@[simp] theorem State.putCopy_freeCtr (s : State) (c : Copy) : (s.putCopy c).freeCtr = s.freeCtr := rfl
@[simp] theorem State.putCopy_nextId (s : State) (c : Copy) : (s.putCopy c).nextId = s.nextId := rfl
@[simp] theorem State.putCopy_outbox (s : State) (c : Copy) : (s.putCopy c).outbox = s.outbox := rfl
@[simp] theorem State.putCopy_dev (s : State) (c : Copy) : (s.putCopy c).dev = s.dev := rfl
@[simp] theorem State.putCopy_freezePin (s : State) (c : Copy) : (s.putCopy c).freezePin = s.freezePin := rfl
@[simp] theorem State.putCopy_thermal (s : State) (c : Copy) : (s.putCopy c).thermal = s.thermal := rfl
@[simp] theorem State.putCopy_throttled (s : State) (c : Copy) : (s.putCopy c).throttled = s.throttled := rfl
@[simp] theorem State.putCopy_tdp (s : State) (c : Copy) : (s.putCopy c).tdp = s.tdp := rfl
@[simp] theorem State.putCopy_fw (s : State) (c : Copy) : (s.putCopy c).fw = s.fw := rfl
@[simp] theorem State.putCopy_tap (s : State) (c : Copy) : (s.putCopy c).tap = s.tap := rfl
@[simp] theorem State.putCopy_mem (s : State) (c : Copy) : (s.putCopy c).mem = s.mem := rfl
@[simp] theorem State.putCopy_fabric (s : State) (c : Copy) : (s.putCopy c).fabric = s.fabric := rfl
@[simp] theorem State.putCopy_banks (s : State) (c : Copy) : (s.putCopy c).banks = s.banks := rfl
@[simp] theorem State.putCopy_poisoned (s : State) (c : Copy) : (s.putCopy c).poisoned = s.poisoned := rfl
@[simp] theorem State.putCopy_ssLines (s : State) (c : Copy) : (s.putCopy c).ssLines = s.ssLines := rfl
@[simp] theorem State.putCopy_tlb (s : State) (c : Copy) : (s.putCopy c).tlb = s.tlb := rfl
@[simp] theorem State.putCopy_dirty (s : State) (c : Copy) : (s.putCopy c).dirty = s.dirty := rfl
@[simp] theorem State.putCopy_part (s : State) (c : Copy) : (s.putCopy c).part = s.part := rfl
@[simp] theorem State.putCopy_ceOwn (s : State) (c : Copy) : (s.putCopy c).ceOwn = s.ceOwn := rfl
@[simp] theorem State.putCopy_pools (s : State) (c : Copy) : (s.putCopy c).pools = s.pools := rfl
@[simp] theorem State.putCopy_linkId (s : State) (c : Copy) : (s.putCopy c).linkId = s.linkId := rfl
@[simp] theorem State.putCopy_ports (s : State) (c : Copy) : (s.putCopy c).ports = s.ports := rfl
@[simp] theorem State.putCopy_lmap (s : State) (c : Copy) : (s.putCopy c).lmap = s.lmap := rfl
@[simp] theorem State.putCopy_inwin (s : State) (c : Copy) : (s.putCopy c).inwin = s.inwin := rfl
@[simp] theorem State.putCopy_filters (s : State) (c : Copy) : (s.putCopy c).filters = s.filters := rfl
@[simp] theorem State.putCopy_ethBuf (s : State) (c : Copy) : (s.putCopy c).ethBuf = s.ethBuf := rfl
@[simp] theorem State.putCopy_inbound (s : State) (c : Copy) : (s.putCopy c).inbound = s.inbound := rfl
@[simp] theorem State.putCopy_applied (s : State) (c : Copy) : (s.putCopy c).applied = s.applied := rfl
@[simp] theorem State.putCopy_detectors (s : State) (c : Copy) : (s.putCopy c).detectors = s.detectors := rfl
@[simp] theorem State.putCopy_holders (s : State) (c : Copy) : (s.putCopy c).holders = s.holders := rfl
@[simp] theorem State.putCopy_acks (s : State) (c : Copy) : (s.putCopy c).acks = s.acks := rfl
@[simp] theorem State.putCopy_ended (s : State) (c : Copy) : (s.putCopy c).ended = s.ended := rfl
@[simp] theorem State.putCopy_lastCtx (s : State) (c : Copy) : (s.putCopy c).lastCtx = s.lastCtx := rfl
@[simp] theorem State.putCopy_fenced (s : State) (c : Copy) : (s.putCopy c).fenced = s.fenced := rfl
@[simp] theorem State.putCopy_removed (s : State) (c : Copy) : (s.putCopy c).removed = s.removed := rfl
@[simp] theorem State.putCopy_ctxs (s : State) (c : Copy) : (s.putCopy c).ctxs = s.ctxs := rfl
@[simp] theorem State.putCopy_teams (s : State) (c : Copy) : (s.putCopy c).teams = s.teams := rfl
@[simp] theorem State.putCopy_order (s : State) (c : Copy) : (s.putCopy c).order = s.order := rfl
@[simp] theorem State.putCopy_reqs (s : State) (c : Copy) : (s.putCopy c).reqs = s.reqs := rfl
@[simp] theorem State.putCopy_deadlines (s : State) (c : Copy) : (s.putCopy c).deadlines = s.deadlines := rfl
@[simp] theorem State.putCopy_copies (s : State) (c : Copy) : (s.putCopy c).copies = s.copies := rfl
@[simp] theorem State.putCopy_events (s : State) (c : Copy) : (s.putCopy c).events = s.events := rfl
@[simp] theorem State.putCopy_giveUp (s : State) (c : Copy) : (s.putCopy c).giveUp = s.giveUp := rfl
@[simp] theorem State.putCopy_fwCircuits (s : State) (c : Copy) : (s.putCopy c).fwCircuits = s.fwCircuits := rfl
@[simp] theorem State.putCopy_unseenPte (s : State) (c : Copy) : (s.putCopy c).unseenPte = s.unseenPte := rfl
@[simp] theorem State.putCopy_intercepts (s : State) (c : Copy) : (s.putCopy c).intercepts = s.intercepts := rfl
@[simp] theorem State.putCopy_surfaces (s : State) (c : Copy) : (s.putCopy c).surfaces = s.surfaces := rfl
@[simp] theorem State.putCopy_maqs (s : State) (c : Copy) : (s.putCopy c).maqs = s.maqs := rfl

@[simp] theorem State.dropUnowned_agenda (s : State) (k : Nat) : (s.dropUnowned k).agenda = s.agenda := rfl
@[simp] theorem State.dropUnowned_turn (s : State) (k : Nat) : (s.dropUnowned k).turn = s.turn := rfl
@[simp] theorem State.dropUnowned_clock (s : State) (k : Nat) : (s.dropUnowned k).clock = s.clock := rfl
@[simp] theorem State.dropUnowned_stepNs (s : State) (k : Nat) : (s.dropUnowned k).stepNs = s.stepNs := rfl
@[simp] theorem State.dropUnowned_coreSkew (s : State) (k : Nat) : (s.dropUnowned k).coreSkew = s.coreSkew := rfl
@[simp] theorem State.dropUnowned_released (s : State) (k : Nat) : (s.dropUnowned k).released = s.released := rfl
@[simp] theorem State.dropUnowned_focus (s : State) (k : Nat) : (s.dropUnowned k).focus = s.focus := rfl
@[simp] theorem State.dropUnowned_freeCtr (s : State) (k : Nat) : (s.dropUnowned k).freeCtr = s.freeCtr := rfl
@[simp] theorem State.dropUnowned_nextId (s : State) (k : Nat) : (s.dropUnowned k).nextId = s.nextId := rfl
@[simp] theorem State.dropUnowned_outbox (s : State) (k : Nat) : (s.dropUnowned k).outbox = s.outbox := rfl
@[simp] theorem State.dropUnowned_dev (s : State) (k : Nat) : (s.dropUnowned k).dev = s.dev := rfl
@[simp] theorem State.dropUnowned_freezePin (s : State) (k : Nat) : (s.dropUnowned k).freezePin = s.freezePin := rfl
@[simp] theorem State.dropUnowned_thermal (s : State) (k : Nat) : (s.dropUnowned k).thermal = s.thermal := rfl
@[simp] theorem State.dropUnowned_throttled (s : State) (k : Nat) : (s.dropUnowned k).throttled = s.throttled := rfl
@[simp] theorem State.dropUnowned_tdp (s : State) (k : Nat) : (s.dropUnowned k).tdp = s.tdp := rfl
@[simp] theorem State.dropUnowned_fw (s : State) (k : Nat) : (s.dropUnowned k).fw = s.fw := rfl
@[simp] theorem State.dropUnowned_tap (s : State) (k : Nat) : (s.dropUnowned k).tap = s.tap := rfl
@[simp] theorem State.dropUnowned_mem (s : State) (k : Nat) : (s.dropUnowned k).mem = s.mem := rfl
@[simp] theorem State.dropUnowned_fabric (s : State) (k : Nat) : (s.dropUnowned k).fabric = s.fabric := rfl
@[simp] theorem State.dropUnowned_banks (s : State) (k : Nat) : (s.dropUnowned k).banks = s.banks := rfl
@[simp] theorem State.dropUnowned_poisoned (s : State) (k : Nat) : (s.dropUnowned k).poisoned = s.poisoned := rfl
@[simp] theorem State.dropUnowned_ssLines (s : State) (k : Nat) : (s.dropUnowned k).ssLines = s.ssLines := rfl
@[simp] theorem State.dropUnowned_tlb (s : State) (k : Nat) : (s.dropUnowned k).tlb = s.tlb := rfl
@[simp] theorem State.dropUnowned_dirty (s : State) (k : Nat) : (s.dropUnowned k).dirty = s.dirty := rfl
@[simp] theorem State.dropUnowned_part (s : State) (k : Nat) : (s.dropUnowned k).part = s.part := rfl
@[simp] theorem State.dropUnowned_ceOwn (s : State) (k : Nat) : (s.dropUnowned k).ceOwn = s.ceOwn := rfl
@[simp] theorem State.dropUnowned_pools (s : State) (k : Nat) : (s.dropUnowned k).pools = s.pools := rfl
@[simp] theorem State.dropUnowned_linkId (s : State) (k : Nat) : (s.dropUnowned k).linkId = s.linkId := rfl
@[simp] theorem State.dropUnowned_ports (s : State) (k : Nat) : (s.dropUnowned k).ports = s.ports := rfl
@[simp] theorem State.dropUnowned_lmap (s : State) (k : Nat) : (s.dropUnowned k).lmap = s.lmap := rfl
@[simp] theorem State.dropUnowned_inwin (s : State) (k : Nat) : (s.dropUnowned k).inwin = s.inwin := rfl
@[simp] theorem State.dropUnowned_filters (s : State) (k : Nat) : (s.dropUnowned k).filters = s.filters := rfl
@[simp] theorem State.dropUnowned_ethBuf (s : State) (k : Nat) : (s.dropUnowned k).ethBuf = s.ethBuf := rfl
@[simp] theorem State.dropUnowned_inbound (s : State) (k : Nat) : (s.dropUnowned k).inbound = s.inbound := rfl
@[simp] theorem State.dropUnowned_applied (s : State) (k : Nat) : (s.dropUnowned k).applied = s.applied := rfl
@[simp] theorem State.dropUnowned_detectors (s : State) (k : Nat) : (s.dropUnowned k).detectors = s.detectors := rfl
@[simp] theorem State.dropUnowned_holders (s : State) (k : Nat) : (s.dropUnowned k).holders = s.holders := rfl
@[simp] theorem State.dropUnowned_acks (s : State) (k : Nat) : (s.dropUnowned k).acks = s.acks := rfl
@[simp] theorem State.dropUnowned_ended (s : State) (k : Nat) : (s.dropUnowned k).ended = s.ended := rfl
@[simp] theorem State.dropUnowned_lastCtx (s : State) (k : Nat) : (s.dropUnowned k).lastCtx = s.lastCtx := rfl
@[simp] theorem State.dropUnowned_fenced (s : State) (k : Nat) : (s.dropUnowned k).fenced = s.fenced := rfl
@[simp] theorem State.dropUnowned_removed (s : State) (k : Nat) : (s.dropUnowned k).removed = s.removed := rfl
@[simp] theorem State.dropUnowned_ctxs (s : State) (k : Nat) : (s.dropUnowned k).ctxs = s.ctxs := rfl
@[simp] theorem State.dropUnowned_teams (s : State) (k : Nat) : (s.dropUnowned k).teams = s.teams := rfl
@[simp] theorem State.dropUnowned_order (s : State) (k : Nat) : (s.dropUnowned k).order = s.order := rfl
@[simp] theorem State.dropUnowned_reqs (s : State) (k : Nat) : (s.dropUnowned k).reqs = s.reqs := rfl
@[simp] theorem State.dropUnowned_deadlines (s : State) (k : Nat) : (s.dropUnowned k).deadlines = s.deadlines := rfl
@[simp] theorem State.dropUnowned_copies (s : State) (k : Nat) : (s.dropUnowned k).copies = s.copies := rfl
@[simp] theorem State.dropUnowned_events (s : State) (k : Nat) : (s.dropUnowned k).events = s.events := rfl
@[simp] theorem State.dropUnowned_giveUp (s : State) (k : Nat) : (s.dropUnowned k).giveUp = s.giveUp := rfl
@[simp] theorem State.dropUnowned_fwCircuits (s : State) (k : Nat) : (s.dropUnowned k).fwCircuits = s.fwCircuits := rfl
@[simp] theorem State.dropUnowned_unseenPte (s : State) (k : Nat) : (s.dropUnowned k).unseenPte = s.unseenPte := rfl
@[simp] theorem State.dropUnowned_intercepts (s : State) (k : Nat) : (s.dropUnowned k).intercepts = s.intercepts := rfl
@[simp] theorem State.dropUnowned_surfaces (s : State) (k : Nat) : (s.dropUnowned k).surfaces = s.surfaces := rfl
@[simp] theorem State.dropUnowned_maqs (s : State) (k : Nat) : (s.dropUnowned k).maqs = s.maqs := rfl

@[simp] theorem State.setBankWord_agenda (s : State) (b : BankWord) : (s.setBankWord b).agenda = s.agenda := rfl
@[simp] theorem State.setBankWord_turn (s : State) (b : BankWord) : (s.setBankWord b).turn = s.turn := rfl
@[simp] theorem State.setBankWord_clock (s : State) (b : BankWord) : (s.setBankWord b).clock = s.clock := rfl
@[simp] theorem State.setBankWord_stepNs (s : State) (b : BankWord) : (s.setBankWord b).stepNs = s.stepNs := rfl
@[simp] theorem State.setBankWord_coreSkew (s : State) (b : BankWord) : (s.setBankWord b).coreSkew = s.coreSkew := rfl
@[simp] theorem State.setBankWord_released (s : State) (b : BankWord) : (s.setBankWord b).released = s.released := rfl
@[simp] theorem State.setBankWord_focus (s : State) (b : BankWord) : (s.setBankWord b).focus = s.focus := rfl
@[simp] theorem State.setBankWord_freeCtr (s : State) (b : BankWord) : (s.setBankWord b).freeCtr = s.freeCtr := rfl
@[simp] theorem State.setBankWord_nextId (s : State) (b : BankWord) : (s.setBankWord b).nextId = s.nextId := rfl
@[simp] theorem State.setBankWord_outbox (s : State) (b : BankWord) : (s.setBankWord b).outbox = s.outbox := rfl
@[simp] theorem State.setBankWord_dev (s : State) (b : BankWord) : (s.setBankWord b).dev = s.dev := rfl
@[simp] theorem State.setBankWord_freezePin (s : State) (b : BankWord) : (s.setBankWord b).freezePin = s.freezePin := rfl
@[simp] theorem State.setBankWord_thermal (s : State) (b : BankWord) : (s.setBankWord b).thermal = s.thermal := rfl
@[simp] theorem State.setBankWord_throttled (s : State) (b : BankWord) : (s.setBankWord b).throttled = s.throttled := rfl
@[simp] theorem State.setBankWord_tdp (s : State) (b : BankWord) : (s.setBankWord b).tdp = s.tdp := rfl
@[simp] theorem State.setBankWord_fw (s : State) (b : BankWord) : (s.setBankWord b).fw = s.fw := rfl
@[simp] theorem State.setBankWord_tap (s : State) (b : BankWord) : (s.setBankWord b).tap = s.tap := rfl
@[simp] theorem State.setBankWord_mem (s : State) (b : BankWord) : (s.setBankWord b).mem = s.mem := rfl
@[simp] theorem State.setBankWord_fabric (s : State) (b : BankWord) : (s.setBankWord b).fabric = s.fabric := rfl
@[simp] theorem State.setBankWord_l1 (s : State) (b : BankWord) : (s.setBankWord b).l1 = s.l1 := rfl
@[simp] theorem State.setBankWord_poisoned (s : State) (b : BankWord) : (s.setBankWord b).poisoned = s.poisoned := rfl
@[simp] theorem State.setBankWord_ssLines (s : State) (b : BankWord) : (s.setBankWord b).ssLines = s.ssLines := rfl
@[simp] theorem State.setBankWord_tlb (s : State) (b : BankWord) : (s.setBankWord b).tlb = s.tlb := rfl
@[simp] theorem State.setBankWord_dirty (s : State) (b : BankWord) : (s.setBankWord b).dirty = s.dirty := rfl
@[simp] theorem State.setBankWord_part (s : State) (b : BankWord) : (s.setBankWord b).part = s.part := rfl
@[simp] theorem State.setBankWord_ceOwn (s : State) (b : BankWord) : (s.setBankWord b).ceOwn = s.ceOwn := rfl
@[simp] theorem State.setBankWord_pools (s : State) (b : BankWord) : (s.setBankWord b).pools = s.pools := rfl
@[simp] theorem State.setBankWord_linkId (s : State) (b : BankWord) : (s.setBankWord b).linkId = s.linkId := rfl
@[simp] theorem State.setBankWord_ports (s : State) (b : BankWord) : (s.setBankWord b).ports = s.ports := rfl
@[simp] theorem State.setBankWord_lmap (s : State) (b : BankWord) : (s.setBankWord b).lmap = s.lmap := rfl
@[simp] theorem State.setBankWord_inwin (s : State) (b : BankWord) : (s.setBankWord b).inwin = s.inwin := rfl
@[simp] theorem State.setBankWord_filters (s : State) (b : BankWord) : (s.setBankWord b).filters = s.filters := rfl
@[simp] theorem State.setBankWord_ethBuf (s : State) (b : BankWord) : (s.setBankWord b).ethBuf = s.ethBuf := rfl
@[simp] theorem State.setBankWord_inbound (s : State) (b : BankWord) : (s.setBankWord b).inbound = s.inbound := rfl
@[simp] theorem State.setBankWord_applied (s : State) (b : BankWord) : (s.setBankWord b).applied = s.applied := rfl
@[simp] theorem State.setBankWord_detectors (s : State) (b : BankWord) : (s.setBankWord b).detectors = s.detectors := rfl
@[simp] theorem State.setBankWord_holders (s : State) (b : BankWord) : (s.setBankWord b).holders = s.holders := rfl
@[simp] theorem State.setBankWord_acks (s : State) (b : BankWord) : (s.setBankWord b).acks = s.acks := rfl
@[simp] theorem State.setBankWord_ended (s : State) (b : BankWord) : (s.setBankWord b).ended = s.ended := rfl
@[simp] theorem State.setBankWord_lastCtx (s : State) (b : BankWord) : (s.setBankWord b).lastCtx = s.lastCtx := rfl
@[simp] theorem State.setBankWord_fenced (s : State) (b : BankWord) : (s.setBankWord b).fenced = s.fenced := rfl
@[simp] theorem State.setBankWord_removed (s : State) (b : BankWord) : (s.setBankWord b).removed = s.removed := rfl
@[simp] theorem State.setBankWord_ctxs (s : State) (b : BankWord) : (s.setBankWord b).ctxs = s.ctxs := rfl
@[simp] theorem State.setBankWord_teams (s : State) (b : BankWord) : (s.setBankWord b).teams = s.teams := rfl
@[simp] theorem State.setBankWord_order (s : State) (b : BankWord) : (s.setBankWord b).order = s.order := rfl
@[simp] theorem State.setBankWord_reqs (s : State) (b : BankWord) : (s.setBankWord b).reqs = s.reqs := rfl
@[simp] theorem State.setBankWord_deadlines (s : State) (b : BankWord) : (s.setBankWord b).deadlines = s.deadlines := rfl
@[simp] theorem State.setBankWord_copies (s : State) (b : BankWord) : (s.setBankWord b).copies = s.copies := rfl
@[simp] theorem State.setBankWord_events (s : State) (b : BankWord) : (s.setBankWord b).events = s.events := rfl
@[simp] theorem State.setBankWord_giveUp (s : State) (b : BankWord) : (s.setBankWord b).giveUp = s.giveUp := rfl
@[simp] theorem State.setBankWord_fwCircuits (s : State) (b : BankWord) : (s.setBankWord b).fwCircuits = s.fwCircuits := rfl
@[simp] theorem State.setBankWord_unseenPte (s : State) (b : BankWord) : (s.setBankWord b).unseenPte = s.unseenPte := rfl
@[simp] theorem State.setBankWord_intercepts (s : State) (b : BankWord) : (s.setBankWord b).intercepts = s.intercepts := rfl
@[simp] theorem State.setBankWord_surfaces (s : State) (b : BankWord) : (s.setBankWord b).surfaces = s.surfaces := rfl
@[simp] theorem State.setBankWord_maqs (s : State) (b : BankWord) : (s.setBankWord b).maqs = s.maqs := rfl

@[simp] theorem State.keepPage_agenda (s : State) (c p : Nat) : (s.keepPage c p).agenda = s.agenda := rfl
@[simp] theorem State.keepPage_turn (s : State) (c p : Nat) : (s.keepPage c p).turn = s.turn := rfl
@[simp] theorem State.keepPage_clock (s : State) (c p : Nat) : (s.keepPage c p).clock = s.clock := rfl
@[simp] theorem State.keepPage_stepNs (s : State) (c p : Nat) : (s.keepPage c p).stepNs = s.stepNs := rfl
@[simp] theorem State.keepPage_coreSkew (s : State) (c p : Nat) : (s.keepPage c p).coreSkew = s.coreSkew := rfl
@[simp] theorem State.keepPage_released (s : State) (c p : Nat) : (s.keepPage c p).released = s.released := rfl
@[simp] theorem State.keepPage_focus (s : State) (c p : Nat) : (s.keepPage c p).focus = s.focus := rfl
@[simp] theorem State.keepPage_freeCtr (s : State) (c p : Nat) : (s.keepPage c p).freeCtr = s.freeCtr := rfl
@[simp] theorem State.keepPage_nextId (s : State) (c p : Nat) : (s.keepPage c p).nextId = s.nextId := rfl
@[simp] theorem State.keepPage_outbox (s : State) (c p : Nat) : (s.keepPage c p).outbox = s.outbox := rfl
@[simp] theorem State.keepPage_dev (s : State) (c p : Nat) : (s.keepPage c p).dev = s.dev := rfl
@[simp] theorem State.keepPage_freezePin (s : State) (c p : Nat) : (s.keepPage c p).freezePin = s.freezePin := rfl
@[simp] theorem State.keepPage_thermal (s : State) (c p : Nat) : (s.keepPage c p).thermal = s.thermal := rfl
@[simp] theorem State.keepPage_throttled (s : State) (c p : Nat) : (s.keepPage c p).throttled = s.throttled := rfl
@[simp] theorem State.keepPage_tdp (s : State) (c p : Nat) : (s.keepPage c p).tdp = s.tdp := rfl
@[simp] theorem State.keepPage_fw (s : State) (c p : Nat) : (s.keepPage c p).fw = s.fw := rfl
@[simp] theorem State.keepPage_tap (s : State) (c p : Nat) : (s.keepPage c p).tap = s.tap := rfl
@[simp] theorem State.keepPage_mem (s : State) (c p : Nat) : (s.keepPage c p).mem = s.mem := rfl
@[simp] theorem State.keepPage_fabric (s : State) (c p : Nat) : (s.keepPage c p).fabric = s.fabric := rfl
@[simp] theorem State.keepPage_l1 (s : State) (c p : Nat) : (s.keepPage c p).l1 = s.l1 := rfl
@[simp] theorem State.keepPage_banks (s : State) (c p : Nat) : (s.keepPage c p).banks = s.banks := rfl
@[simp] theorem State.keepPage_poisoned (s : State) (c p : Nat) : (s.keepPage c p).poisoned = s.poisoned := rfl
@[simp] theorem State.keepPage_ssLines (s : State) (c p : Nat) : (s.keepPage c p).ssLines = s.ssLines := rfl
@[simp] theorem State.keepPage_tlb (s : State) (c p : Nat) : (s.keepPage c p).tlb = s.tlb := rfl
@[simp] theorem State.keepPage_dirty (s : State) (c p : Nat) : (s.keepPage c p).dirty = s.dirty := rfl
@[simp] theorem State.keepPage_part (s : State) (c p : Nat) : (s.keepPage c p).part = s.part := rfl
@[simp] theorem State.keepPage_ceOwn (s : State) (c p : Nat) : (s.keepPage c p).ceOwn = s.ceOwn := rfl
@[simp] theorem State.keepPage_pools (s : State) (c p : Nat) : (s.keepPage c p).pools = s.pools := rfl
@[simp] theorem State.keepPage_linkId (s : State) (c p : Nat) : (s.keepPage c p).linkId = s.linkId := rfl
@[simp] theorem State.keepPage_ports (s : State) (c p : Nat) : (s.keepPage c p).ports = s.ports := rfl
@[simp] theorem State.keepPage_lmap (s : State) (c p : Nat) : (s.keepPage c p).lmap = s.lmap := rfl
@[simp] theorem State.keepPage_inwin (s : State) (c p : Nat) : (s.keepPage c p).inwin = s.inwin := rfl
@[simp] theorem State.keepPage_filters (s : State) (c p : Nat) : (s.keepPage c p).filters = s.filters := rfl
@[simp] theorem State.keepPage_ethBuf (s : State) (c p : Nat) : (s.keepPage c p).ethBuf = s.ethBuf := rfl
@[simp] theorem State.keepPage_inbound (s : State) (c p : Nat) : (s.keepPage c p).inbound = s.inbound := rfl
@[simp] theorem State.keepPage_applied (s : State) (c p : Nat) : (s.keepPage c p).applied = s.applied := rfl
@[simp] theorem State.keepPage_detectors (s : State) (c p : Nat) : (s.keepPage c p).detectors = s.detectors := rfl
@[simp] theorem State.keepPage_holders (s : State) (c p : Nat) : (s.keepPage c p).holders = s.holders := rfl
@[simp] theorem State.keepPage_acks (s : State) (c p : Nat) : (s.keepPage c p).acks = s.acks := rfl
@[simp] theorem State.keepPage_ended (s : State) (c p : Nat) : (s.keepPage c p).ended = s.ended := rfl
@[simp] theorem State.keepPage_lastCtx (s : State) (c p : Nat) : (s.keepPage c p).lastCtx = s.lastCtx := rfl
@[simp] theorem State.keepPage_fenced (s : State) (c p : Nat) : (s.keepPage c p).fenced = s.fenced := rfl
@[simp] theorem State.keepPage_removed (s : State) (c p : Nat) : (s.keepPage c p).removed = s.removed := rfl
@[simp] theorem State.keepPage_ctxs (s : State) (c p : Nat) : (s.keepPage c p).ctxs = s.ctxs := rfl
@[simp] theorem State.keepPage_teams (s : State) (c p : Nat) : (s.keepPage c p).teams = s.teams := rfl
@[simp] theorem State.keepPage_order (s : State) (c p : Nat) : (s.keepPage c p).order = s.order := rfl
@[simp] theorem State.keepPage_reqs (s : State) (c p : Nat) : (s.keepPage c p).reqs = s.reqs := rfl
@[simp] theorem State.keepPage_deadlines (s : State) (c p : Nat) : (s.keepPage c p).deadlines = s.deadlines := rfl
@[simp] theorem State.keepPage_copies (s : State) (c p : Nat) : (s.keepPage c p).copies = s.copies := rfl
@[simp] theorem State.keepPage_events (s : State) (c p : Nat) : (s.keepPage c p).events = s.events := rfl
@[simp] theorem State.keepPage_giveUp (s : State) (c p : Nat) : (s.keepPage c p).giveUp = s.giveUp := rfl
@[simp] theorem State.keepPage_fwCircuits (s : State) (c p : Nat) : (s.keepPage c p).fwCircuits = s.fwCircuits := rfl
@[simp] theorem State.keepPage_unseenPte (s : State) (c p : Nat) : (s.keepPage c p).unseenPte = s.unseenPte := rfl
@[simp] theorem State.keepPage_intercepts (s : State) (c p : Nat) : (s.keepPage c p).intercepts = s.intercepts := rfl
@[simp] theorem State.keepPage_surfaces (s : State) (c p : Nat) : (s.keepPage c p).surfaces = s.surfaces := rfl

@[simp] theorem State.setPool_agenda (s : State) (n : Nat) (p : Pool) : (s.setPool n p).agenda = s.agenda := rfl
@[simp] theorem State.setPool_turn (s : State) (n : Nat) (p : Pool) : (s.setPool n p).turn = s.turn := rfl
@[simp] theorem State.setPool_clock (s : State) (n : Nat) (p : Pool) : (s.setPool n p).clock = s.clock := rfl
@[simp] theorem State.setPool_stepNs (s : State) (n : Nat) (p : Pool) : (s.setPool n p).stepNs = s.stepNs := rfl
@[simp] theorem State.setPool_coreSkew (s : State) (n : Nat) (p : Pool) : (s.setPool n p).coreSkew = s.coreSkew := rfl
@[simp] theorem State.setPool_released (s : State) (n : Nat) (p : Pool) : (s.setPool n p).released = s.released := rfl
@[simp] theorem State.setPool_focus (s : State) (n : Nat) (p : Pool) : (s.setPool n p).focus = s.focus := rfl
@[simp] theorem State.setPool_freeCtr (s : State) (n : Nat) (p : Pool) : (s.setPool n p).freeCtr = s.freeCtr := rfl
@[simp] theorem State.setPool_nextId (s : State) (n : Nat) (p : Pool) : (s.setPool n p).nextId = s.nextId := rfl
@[simp] theorem State.setPool_outbox (s : State) (n : Nat) (p : Pool) : (s.setPool n p).outbox = s.outbox := rfl
@[simp] theorem State.setPool_dev (s : State) (n : Nat) (p : Pool) : (s.setPool n p).dev = s.dev := rfl
@[simp] theorem State.setPool_freezePin (s : State) (n : Nat) (p : Pool) : (s.setPool n p).freezePin = s.freezePin := rfl
@[simp] theorem State.setPool_thermal (s : State) (n : Nat) (p : Pool) : (s.setPool n p).thermal = s.thermal := rfl
@[simp] theorem State.setPool_throttled (s : State) (n : Nat) (p : Pool) : (s.setPool n p).throttled = s.throttled := rfl
@[simp] theorem State.setPool_tdp (s : State) (n : Nat) (p : Pool) : (s.setPool n p).tdp = s.tdp := rfl
@[simp] theorem State.setPool_fw (s : State) (n : Nat) (p : Pool) : (s.setPool n p).fw = s.fw := rfl
@[simp] theorem State.setPool_tap (s : State) (n : Nat) (p : Pool) : (s.setPool n p).tap = s.tap := rfl
@[simp] theorem State.setPool_mem (s : State) (n : Nat) (p : Pool) : (s.setPool n p).mem = s.mem := rfl
@[simp] theorem State.setPool_fabric (s : State) (n : Nat) (p : Pool) : (s.setPool n p).fabric = s.fabric := rfl
@[simp] theorem State.setPool_l1 (s : State) (n : Nat) (p : Pool) : (s.setPool n p).l1 = s.l1 := rfl
@[simp] theorem State.setPool_banks (s : State) (n : Nat) (p : Pool) : (s.setPool n p).banks = s.banks := rfl
@[simp] theorem State.setPool_poisoned (s : State) (n : Nat) (p : Pool) : (s.setPool n p).poisoned = s.poisoned := rfl
@[simp] theorem State.setPool_ssLines (s : State) (n : Nat) (p : Pool) : (s.setPool n p).ssLines = s.ssLines := rfl
@[simp] theorem State.setPool_tlb (s : State) (n : Nat) (p : Pool) : (s.setPool n p).tlb = s.tlb := rfl
@[simp] theorem State.setPool_dirty (s : State) (n : Nat) (p : Pool) : (s.setPool n p).dirty = s.dirty := rfl
@[simp] theorem State.setPool_part (s : State) (n : Nat) (p : Pool) : (s.setPool n p).part = s.part := rfl
@[simp] theorem State.setPool_ceOwn (s : State) (n : Nat) (p : Pool) : (s.setPool n p).ceOwn = s.ceOwn := rfl
@[simp] theorem State.setPool_linkId (s : State) (n : Nat) (p : Pool) : (s.setPool n p).linkId = s.linkId := rfl
@[simp] theorem State.setPool_ports (s : State) (n : Nat) (p : Pool) : (s.setPool n p).ports = s.ports := rfl
@[simp] theorem State.setPool_lmap (s : State) (n : Nat) (p : Pool) : (s.setPool n p).lmap = s.lmap := rfl
@[simp] theorem State.setPool_inwin (s : State) (n : Nat) (p : Pool) : (s.setPool n p).inwin = s.inwin := rfl
@[simp] theorem State.setPool_filters (s : State) (n : Nat) (p : Pool) : (s.setPool n p).filters = s.filters := rfl
@[simp] theorem State.setPool_ethBuf (s : State) (n : Nat) (p : Pool) : (s.setPool n p).ethBuf = s.ethBuf := rfl
@[simp] theorem State.setPool_inbound (s : State) (n : Nat) (p : Pool) : (s.setPool n p).inbound = s.inbound := rfl
@[simp] theorem State.setPool_applied (s : State) (n : Nat) (p : Pool) : (s.setPool n p).applied = s.applied := rfl
@[simp] theorem State.setPool_detectors (s : State) (n : Nat) (p : Pool) : (s.setPool n p).detectors = s.detectors := rfl
@[simp] theorem State.setPool_holders (s : State) (n : Nat) (p : Pool) : (s.setPool n p).holders = s.holders := rfl
@[simp] theorem State.setPool_acks (s : State) (n : Nat) (p : Pool) : (s.setPool n p).acks = s.acks := rfl
@[simp] theorem State.setPool_ended (s : State) (n : Nat) (p : Pool) : (s.setPool n p).ended = s.ended := rfl
@[simp] theorem State.setPool_lastCtx (s : State) (n : Nat) (p : Pool) : (s.setPool n p).lastCtx = s.lastCtx := rfl
@[simp] theorem State.setPool_fenced (s : State) (n : Nat) (p : Pool) : (s.setPool n p).fenced = s.fenced := rfl
@[simp] theorem State.setPool_removed (s : State) (n : Nat) (p : Pool) : (s.setPool n p).removed = s.removed := rfl
@[simp] theorem State.setPool_ctxs (s : State) (n : Nat) (p : Pool) : (s.setPool n p).ctxs = s.ctxs := rfl
@[simp] theorem State.setPool_teams (s : State) (n : Nat) (p : Pool) : (s.setPool n p).teams = s.teams := rfl
@[simp] theorem State.setPool_order (s : State) (n : Nat) (p : Pool) : (s.setPool n p).order = s.order := rfl
@[simp] theorem State.setPool_reqs (s : State) (n : Nat) (p : Pool) : (s.setPool n p).reqs = s.reqs := rfl
@[simp] theorem State.setPool_deadlines (s : State) (n : Nat) (p : Pool) : (s.setPool n p).deadlines = s.deadlines := rfl
@[simp] theorem State.setPool_copies (s : State) (n : Nat) (p : Pool) : (s.setPool n p).copies = s.copies := rfl
@[simp] theorem State.setPool_events (s : State) (n : Nat) (p : Pool) : (s.setPool n p).events = s.events := rfl
@[simp] theorem State.setPool_giveUp (s : State) (n : Nat) (p : Pool) : (s.setPool n p).giveUp = s.giveUp := rfl
@[simp] theorem State.setPool_fwCircuits (s : State) (n : Nat) (p : Pool) : (s.setPool n p).fwCircuits = s.fwCircuits := rfl
@[simp] theorem State.setPool_unseenPte (s : State) (n : Nat) (p : Pool) : (s.setPool n p).unseenPte = s.unseenPte := rfl
@[simp] theorem State.setPool_intercepts (s : State) (n : Nat) (p : Pool) : (s.setPool n p).intercepts = s.intercepts := rfl
@[simp] theorem State.setPool_surfaces (s : State) (n : Nat) (p : Pool) : (s.setPool n p).surfaces = s.surfaces := rfl
@[simp] theorem State.setPool_maqs (s : State) (n : Nat) (p : Pool) : (s.setPool n p).maqs = s.maqs := rfl

@[simp] theorem State.setDeadline_agenda (s : State) (r : Req) (d : Nat) : (s.setDeadline r d).agenda = s.agenda := rfl
@[simp] theorem State.setDeadline_turn (s : State) (r : Req) (d : Nat) : (s.setDeadline r d).turn = s.turn := rfl
@[simp] theorem State.setDeadline_clock (s : State) (r : Req) (d : Nat) : (s.setDeadline r d).clock = s.clock := rfl
@[simp] theorem State.setDeadline_stepNs (s : State) (r : Req) (d : Nat) : (s.setDeadline r d).stepNs = s.stepNs := rfl
@[simp] theorem State.setDeadline_coreSkew (s : State) (r : Req) (d : Nat) : (s.setDeadline r d).coreSkew = s.coreSkew := rfl
@[simp] theorem State.setDeadline_released (s : State) (r : Req) (d : Nat) : (s.setDeadline r d).released = s.released := rfl
@[simp] theorem State.setDeadline_focus (s : State) (r : Req) (d : Nat) : (s.setDeadline r d).focus = s.focus := rfl
@[simp] theorem State.setDeadline_freeCtr (s : State) (r : Req) (d : Nat) : (s.setDeadline r d).freeCtr = s.freeCtr := rfl
@[simp] theorem State.setDeadline_outbox (s : State) (r : Req) (d : Nat) : (s.setDeadline r d).outbox = s.outbox := rfl
@[simp] theorem State.setDeadline_dev (s : State) (r : Req) (d : Nat) : (s.setDeadline r d).dev = s.dev := rfl
@[simp] theorem State.setDeadline_freezePin (s : State) (r : Req) (d : Nat) : (s.setDeadline r d).freezePin = s.freezePin := rfl
@[simp] theorem State.setDeadline_thermal (s : State) (r : Req) (d : Nat) : (s.setDeadline r d).thermal = s.thermal := rfl
@[simp] theorem State.setDeadline_throttled (s : State) (r : Req) (d : Nat) : (s.setDeadline r d).throttled = s.throttled := rfl
@[simp] theorem State.setDeadline_tdp (s : State) (r : Req) (d : Nat) : (s.setDeadline r d).tdp = s.tdp := rfl
@[simp] theorem State.setDeadline_fw (s : State) (r : Req) (d : Nat) : (s.setDeadline r d).fw = s.fw := rfl
@[simp] theorem State.setDeadline_tap (s : State) (r : Req) (d : Nat) : (s.setDeadline r d).tap = s.tap := rfl
@[simp] theorem State.setDeadline_mem (s : State) (r : Req) (d : Nat) : (s.setDeadline r d).mem = s.mem := rfl
@[simp] theorem State.setDeadline_fabric (s : State) (r : Req) (d : Nat) : (s.setDeadline r d).fabric = s.fabric := rfl
@[simp] theorem State.setDeadline_l1 (s : State) (r : Req) (d : Nat) : (s.setDeadline r d).l1 = s.l1 := rfl
@[simp] theorem State.setDeadline_banks (s : State) (r : Req) (d : Nat) : (s.setDeadline r d).banks = s.banks := rfl
@[simp] theorem State.setDeadline_poisoned (s : State) (r : Req) (d : Nat) : (s.setDeadline r d).poisoned = s.poisoned := rfl
@[simp] theorem State.setDeadline_ssLines (s : State) (r : Req) (d : Nat) : (s.setDeadline r d).ssLines = s.ssLines := rfl
@[simp] theorem State.setDeadline_tlb (s : State) (r : Req) (d : Nat) : (s.setDeadline r d).tlb = s.tlb := rfl
@[simp] theorem State.setDeadline_dirty (s : State) (r : Req) (d : Nat) : (s.setDeadline r d).dirty = s.dirty := rfl
@[simp] theorem State.setDeadline_part (s : State) (r : Req) (d : Nat) : (s.setDeadline r d).part = s.part := rfl
@[simp] theorem State.setDeadline_ceOwn (s : State) (r : Req) (d : Nat) : (s.setDeadline r d).ceOwn = s.ceOwn := rfl
@[simp] theorem State.setDeadline_pools (s : State) (r : Req) (d : Nat) : (s.setDeadline r d).pools = s.pools := rfl
@[simp] theorem State.setDeadline_linkId (s : State) (r : Req) (d : Nat) : (s.setDeadline r d).linkId = s.linkId := rfl
@[simp] theorem State.setDeadline_ports (s : State) (r : Req) (d : Nat) : (s.setDeadline r d).ports = s.ports := rfl
@[simp] theorem State.setDeadline_lmap (s : State) (r : Req) (d : Nat) : (s.setDeadline r d).lmap = s.lmap := rfl
@[simp] theorem State.setDeadline_inwin (s : State) (r : Req) (d : Nat) : (s.setDeadline r d).inwin = s.inwin := rfl
@[simp] theorem State.setDeadline_filters (s : State) (r : Req) (d : Nat) : (s.setDeadline r d).filters = s.filters := rfl
@[simp] theorem State.setDeadline_ethBuf (s : State) (r : Req) (d : Nat) : (s.setDeadline r d).ethBuf = s.ethBuf := rfl
@[simp] theorem State.setDeadline_inbound (s : State) (r : Req) (d : Nat) : (s.setDeadline r d).inbound = s.inbound := rfl
@[simp] theorem State.setDeadline_applied (s : State) (r : Req) (d : Nat) : (s.setDeadline r d).applied = s.applied := rfl
@[simp] theorem State.setDeadline_detectors (s : State) (r : Req) (d : Nat) : (s.setDeadline r d).detectors = s.detectors := rfl
@[simp] theorem State.setDeadline_holders (s : State) (r : Req) (d : Nat) : (s.setDeadline r d).holders = s.holders := rfl
@[simp] theorem State.setDeadline_acks (s : State) (r : Req) (d : Nat) : (s.setDeadline r d).acks = s.acks := rfl
@[simp] theorem State.setDeadline_ended (s : State) (r : Req) (d : Nat) : (s.setDeadline r d).ended = s.ended := rfl
@[simp] theorem State.setDeadline_lastCtx (s : State) (r : Req) (d : Nat) : (s.setDeadline r d).lastCtx = s.lastCtx := rfl
@[simp] theorem State.setDeadline_fenced (s : State) (r : Req) (d : Nat) : (s.setDeadline r d).fenced = s.fenced := rfl
@[simp] theorem State.setDeadline_removed (s : State) (r : Req) (d : Nat) : (s.setDeadline r d).removed = s.removed := rfl
@[simp] theorem State.setDeadline_ctxs (s : State) (r : Req) (d : Nat) : (s.setDeadline r d).ctxs = s.ctxs := rfl
@[simp] theorem State.setDeadline_teams (s : State) (r : Req) (d : Nat) : (s.setDeadline r d).teams = s.teams := rfl
@[simp] theorem State.setDeadline_order (s : State) (r : Req) (d : Nat) : (s.setDeadline r d).order = s.order := rfl
@[simp] theorem State.setDeadline_reqs (s : State) (r : Req) (d : Nat) : (s.setDeadline r d).reqs = s.reqs := rfl
@[simp] theorem State.setDeadline_copies (s : State) (r : Req) (d : Nat) : (s.setDeadline r d).copies = s.copies := rfl
@[simp] theorem State.setDeadline_events (s : State) (r : Req) (d : Nat) : (s.setDeadline r d).events = s.events := rfl
@[simp] theorem State.setDeadline_giveUp (s : State) (r : Req) (d : Nat) : (s.setDeadline r d).giveUp = s.giveUp := rfl
@[simp] theorem State.setDeadline_fwCircuits (s : State) (r : Req) (d : Nat) : (s.setDeadline r d).fwCircuits = s.fwCircuits := rfl
@[simp] theorem State.setDeadline_unseenPte (s : State) (r : Req) (d : Nat) : (s.setDeadline r d).unseenPte = s.unseenPte := rfl
@[simp] theorem State.setDeadline_intercepts (s : State) (r : Req) (d : Nat) : (s.setDeadline r d).intercepts = s.intercepts := rfl
@[simp] theorem State.setDeadline_surfaces (s : State) (r : Req) (d : Nat) : (s.setDeadline r d).surfaces = s.surfaces := rfl
@[simp] theorem State.setDeadline_maqs (s : State) (r : Req) (d : Nat) : (s.setDeadline r d).maqs = s.maqs := rfl

@[simp] theorem State.addReq_agenda (s : State) (t : Team) (k : ReqKind) (ds : List Nat) (ls : List Lane) (rs : List Ray) : (s.addReq t k ds ls rs).agenda = s.agenda := rfl
@[simp] theorem State.addReq_turn (s : State) (t : Team) (k : ReqKind) (ds : List Nat) (ls : List Lane) (rs : List Ray) : (s.addReq t k ds ls rs).turn = s.turn := rfl
@[simp] theorem State.addReq_clock (s : State) (t : Team) (k : ReqKind) (ds : List Nat) (ls : List Lane) (rs : List Ray) : (s.addReq t k ds ls rs).clock = s.clock := rfl
@[simp] theorem State.addReq_stepNs (s : State) (t : Team) (k : ReqKind) (ds : List Nat) (ls : List Lane) (rs : List Ray) : (s.addReq t k ds ls rs).stepNs = s.stepNs := rfl
@[simp] theorem State.addReq_coreSkew (s : State) (t : Team) (k : ReqKind) (ds : List Nat) (ls : List Lane) (rs : List Ray) : (s.addReq t k ds ls rs).coreSkew = s.coreSkew := rfl
@[simp] theorem State.addReq_released (s : State) (t : Team) (k : ReqKind) (ds : List Nat) (ls : List Lane) (rs : List Ray) : (s.addReq t k ds ls rs).released = s.released := rfl
@[simp] theorem State.addReq_focus (s : State) (t : Team) (k : ReqKind) (ds : List Nat) (ls : List Lane) (rs : List Ray) : (s.addReq t k ds ls rs).focus = s.focus := rfl
@[simp] theorem State.addReq_freeCtr (s : State) (t : Team) (k : ReqKind) (ds : List Nat) (ls : List Lane) (rs : List Ray) : (s.addReq t k ds ls rs).freeCtr = s.freeCtr := rfl
@[simp] theorem State.addReq_outbox (s : State) (t : Team) (k : ReqKind) (ds : List Nat) (ls : List Lane) (rs : List Ray) : (s.addReq t k ds ls rs).outbox = s.outbox := rfl
@[simp] theorem State.addReq_dev (s : State) (t : Team) (k : ReqKind) (ds : List Nat) (ls : List Lane) (rs : List Ray) : (s.addReq t k ds ls rs).dev = s.dev := rfl
@[simp] theorem State.addReq_freezePin (s : State) (t : Team) (k : ReqKind) (ds : List Nat) (ls : List Lane) (rs : List Ray) : (s.addReq t k ds ls rs).freezePin = s.freezePin := rfl
@[simp] theorem State.addReq_thermal (s : State) (t : Team) (k : ReqKind) (ds : List Nat) (ls : List Lane) (rs : List Ray) : (s.addReq t k ds ls rs).thermal = s.thermal := rfl
@[simp] theorem State.addReq_throttled (s : State) (t : Team) (k : ReqKind) (ds : List Nat) (ls : List Lane) (rs : List Ray) : (s.addReq t k ds ls rs).throttled = s.throttled := rfl
@[simp] theorem State.addReq_tdp (s : State) (t : Team) (k : ReqKind) (ds : List Nat) (ls : List Lane) (rs : List Ray) : (s.addReq t k ds ls rs).tdp = s.tdp := rfl
@[simp] theorem State.addReq_fw (s : State) (t : Team) (k : ReqKind) (ds : List Nat) (ls : List Lane) (rs : List Ray) : (s.addReq t k ds ls rs).fw = s.fw := rfl
@[simp] theorem State.addReq_tap (s : State) (t : Team) (k : ReqKind) (ds : List Nat) (ls : List Lane) (rs : List Ray) : (s.addReq t k ds ls rs).tap = s.tap := rfl
@[simp] theorem State.addReq_mem (s : State) (t : Team) (k : ReqKind) (ds : List Nat) (ls : List Lane) (rs : List Ray) : (s.addReq t k ds ls rs).mem = s.mem := rfl
@[simp] theorem State.addReq_fabric (s : State) (t : Team) (k : ReqKind) (ds : List Nat) (ls : List Lane) (rs : List Ray) : (s.addReq t k ds ls rs).fabric = s.fabric := rfl
@[simp] theorem State.addReq_l1 (s : State) (t : Team) (k : ReqKind) (ds : List Nat) (ls : List Lane) (rs : List Ray) : (s.addReq t k ds ls rs).l1 = s.l1 := rfl
@[simp] theorem State.addReq_banks (s : State) (t : Team) (k : ReqKind) (ds : List Nat) (ls : List Lane) (rs : List Ray) : (s.addReq t k ds ls rs).banks = s.banks := rfl
@[simp] theorem State.addReq_poisoned (s : State) (t : Team) (k : ReqKind) (ds : List Nat) (ls : List Lane) (rs : List Ray) : (s.addReq t k ds ls rs).poisoned = s.poisoned := rfl
@[simp] theorem State.addReq_ssLines (s : State) (t : Team) (k : ReqKind) (ds : List Nat) (ls : List Lane) (rs : List Ray) : (s.addReq t k ds ls rs).ssLines = s.ssLines := rfl
@[simp] theorem State.addReq_tlb (s : State) (t : Team) (k : ReqKind) (ds : List Nat) (ls : List Lane) (rs : List Ray) : (s.addReq t k ds ls rs).tlb = s.tlb := rfl
@[simp] theorem State.addReq_dirty (s : State) (t : Team) (k : ReqKind) (ds : List Nat) (ls : List Lane) (rs : List Ray) : (s.addReq t k ds ls rs).dirty = s.dirty := rfl
@[simp] theorem State.addReq_part (s : State) (t : Team) (k : ReqKind) (ds : List Nat) (ls : List Lane) (rs : List Ray) : (s.addReq t k ds ls rs).part = s.part := rfl
@[simp] theorem State.addReq_ceOwn (s : State) (t : Team) (k : ReqKind) (ds : List Nat) (ls : List Lane) (rs : List Ray) : (s.addReq t k ds ls rs).ceOwn = s.ceOwn := rfl
@[simp] theorem State.addReq_pools (s : State) (t : Team) (k : ReqKind) (ds : List Nat) (ls : List Lane) (rs : List Ray) : (s.addReq t k ds ls rs).pools = s.pools := rfl
@[simp] theorem State.addReq_linkId (s : State) (t : Team) (k : ReqKind) (ds : List Nat) (ls : List Lane) (rs : List Ray) : (s.addReq t k ds ls rs).linkId = s.linkId := rfl
@[simp] theorem State.addReq_ports (s : State) (t : Team) (k : ReqKind) (ds : List Nat) (ls : List Lane) (rs : List Ray) : (s.addReq t k ds ls rs).ports = s.ports := rfl
@[simp] theorem State.addReq_lmap (s : State) (t : Team) (k : ReqKind) (ds : List Nat) (ls : List Lane) (rs : List Ray) : (s.addReq t k ds ls rs).lmap = s.lmap := rfl
@[simp] theorem State.addReq_inwin (s : State) (t : Team) (k : ReqKind) (ds : List Nat) (ls : List Lane) (rs : List Ray) : (s.addReq t k ds ls rs).inwin = s.inwin := rfl
@[simp] theorem State.addReq_filters (s : State) (t : Team) (k : ReqKind) (ds : List Nat) (ls : List Lane) (rs : List Ray) : (s.addReq t k ds ls rs).filters = s.filters := rfl
@[simp] theorem State.addReq_ethBuf (s : State) (t : Team) (k : ReqKind) (ds : List Nat) (ls : List Lane) (rs : List Ray) : (s.addReq t k ds ls rs).ethBuf = s.ethBuf := rfl
@[simp] theorem State.addReq_inbound (s : State) (t : Team) (k : ReqKind) (ds : List Nat) (ls : List Lane) (rs : List Ray) : (s.addReq t k ds ls rs).inbound = s.inbound := rfl
@[simp] theorem State.addReq_applied (s : State) (t : Team) (k : ReqKind) (ds : List Nat) (ls : List Lane) (rs : List Ray) : (s.addReq t k ds ls rs).applied = s.applied := rfl
@[simp] theorem State.addReq_detectors (s : State) (t : Team) (k : ReqKind) (ds : List Nat) (ls : List Lane) (rs : List Ray) : (s.addReq t k ds ls rs).detectors = s.detectors := rfl
@[simp] theorem State.addReq_holders (s : State) (t : Team) (k : ReqKind) (ds : List Nat) (ls : List Lane) (rs : List Ray) : (s.addReq t k ds ls rs).holders = s.holders := rfl
@[simp] theorem State.addReq_acks (s : State) (t : Team) (k : ReqKind) (ds : List Nat) (ls : List Lane) (rs : List Ray) : (s.addReq t k ds ls rs).acks = s.acks := rfl
@[simp] theorem State.addReq_ended (s : State) (t : Team) (k : ReqKind) (ds : List Nat) (ls : List Lane) (rs : List Ray) : (s.addReq t k ds ls rs).ended = s.ended := rfl
@[simp] theorem State.addReq_lastCtx (s : State) (t : Team) (k : ReqKind) (ds : List Nat) (ls : List Lane) (rs : List Ray) : (s.addReq t k ds ls rs).lastCtx = s.lastCtx := rfl
@[simp] theorem State.addReq_fenced (s : State) (t : Team) (k : ReqKind) (ds : List Nat) (ls : List Lane) (rs : List Ray) : (s.addReq t k ds ls rs).fenced = s.fenced := rfl
@[simp] theorem State.addReq_removed (s : State) (t : Team) (k : ReqKind) (ds : List Nat) (ls : List Lane) (rs : List Ray) : (s.addReq t k ds ls rs).removed = s.removed := rfl
@[simp] theorem State.addReq_ctxs (s : State) (t : Team) (k : ReqKind) (ds : List Nat) (ls : List Lane) (rs : List Ray) : (s.addReq t k ds ls rs).ctxs = s.ctxs := rfl
@[simp] theorem State.addReq_teams (s : State) (t : Team) (k : ReqKind) (ds : List Nat) (ls : List Lane) (rs : List Ray) : (s.addReq t k ds ls rs).teams = s.teams := rfl
@[simp] theorem State.addReq_order (s : State) (t : Team) (k : ReqKind) (ds : List Nat) (ls : List Lane) (rs : List Ray) : (s.addReq t k ds ls rs).order = s.order := rfl
@[simp] theorem State.addReq_deadlines (s : State) (t : Team) (k : ReqKind) (ds : List Nat) (ls : List Lane) (rs : List Ray) : (s.addReq t k ds ls rs).deadlines = s.deadlines := rfl
@[simp] theorem State.addReq_copies (s : State) (t : Team) (k : ReqKind) (ds : List Nat) (ls : List Lane) (rs : List Ray) : (s.addReq t k ds ls rs).copies = s.copies := rfl
@[simp] theorem State.addReq_events (s : State) (t : Team) (k : ReqKind) (ds : List Nat) (ls : List Lane) (rs : List Ray) : (s.addReq t k ds ls rs).events = s.events := rfl
@[simp] theorem State.addReq_giveUp (s : State) (t : Team) (k : ReqKind) (ds : List Nat) (ls : List Lane) (rs : List Ray) : (s.addReq t k ds ls rs).giveUp = s.giveUp := rfl
@[simp] theorem State.addReq_fwCircuits (s : State) (t : Team) (k : ReqKind) (ds : List Nat) (ls : List Lane) (rs : List Ray) : (s.addReq t k ds ls rs).fwCircuits = s.fwCircuits := rfl
@[simp] theorem State.addReq_unseenPte (s : State) (t : Team) (k : ReqKind) (ds : List Nat) (ls : List Lane) (rs : List Ray) : (s.addReq t k ds ls rs).unseenPte = s.unseenPte := rfl
@[simp] theorem State.addReq_intercepts (s : State) (t : Team) (k : ReqKind) (ds : List Nat) (ls : List Lane) (rs : List Ray) : (s.addReq t k ds ls rs).intercepts = s.intercepts := rfl
@[simp] theorem State.addReq_surfaces (s : State) (t : Team) (k : ReqKind) (ds : List Nat) (ls : List Lane) (rs : List Ray) : (s.addReq t k ds ls rs).surfaces = s.surfaces := rfl
@[simp] theorem State.addReq_maqs (s : State) (t : Team) (k : ReqKind) (ds : List Nat) (ls : List Lane) (rs : List Ray) : (s.addReq t k ds ls rs).maqs = s.maqs := rfl

@[simp] theorem State.putTeam_teams (s : State) (t : Team) :
    (s.putTeam t).teams = s.teams.map fun u => if u.id = t.id then t else u := rfl
@[simp] theorem State.modTeam_teams (s : State) (i : Nat) (f : Team → Team) :
    (s.modTeam i f).teams = s.teams.map fun u => if u.id = i then f u else u := rfl
@[simp] theorem State.modCtx_ctxs (s : State) (n : Nat) (f : Ctx → Ctx) :
    (s.modCtx n f).ctxs = s.ctxs.map fun c => if c.num = n then f c else c := rfl
@[simp] theorem State.youngest_order (s : State) (i : Nat) : (s.youngest i).order = (s.order.filter fun x => x != i) ++ [i] := rfl
@[simp] theorem State.say_outbox (s : State) (o : Out) : (s.say o).outbox = o :: s.outbox := rfl

end Sys2Proof.Machine
end

