-- ==== Sys2Proof/Laws/Ops.lean ====
section
/-!
SUPPORT. What the shared operations of issue, operands and completion do: one lemma for each.
-/

namespace Sys2Proof.Machine

open Sys2Proof.Safety

theorem mem_regsOf {t : Team} {fs : List Fld} {r : Nat} (h : r ∈ t.regsOf fs) :
    ∃ f ∈ fs, isFrame f = true ∧ t.fieldReg f = r := by
  simp only [Team.regsOf, List.mem_map, List.mem_filter] at h
  obtain ⟨f, ⟨h1, h2⟩, h3⟩ := h
  exact ⟨f, h1, h2, h3⟩

/-- Operands that may be read pass every check. -/
theorem ready_ok {t : Team} {c : Ctl} {as bs ds dd : List Fld} (h : Readable t (as ++ bs ++ ds ++ dd)) :
    t.ready c as bs ds dd = .ok := by
  have hp : (t.regsOf (dd ++ ds ++ as ++ bs)).find? (fun r => decide (t.p ≤ r)) = none := by
    rw [List.find?_eq_none]
    intro r hr
    obtain ⟨f, hf, hk, rfl⟩ := mem_regsOf hr
    have := (h f (by simp only [List.mem_append] at *; tauto) hk).1
    simp [this]
  have hf : ∀ fs : List Fld, (∀ f ∈ fs, f ∈ as ++ bs ++ ds ++ dd) →
      ∀ r ∈ t.regsOf fs, ¬ (!(t.reg r).full) = true := by
    intro fs hs r hr
    obtain ⟨f, hm, hk, rfl⟩ := mem_regsOf hr
    simp [(h f (hs f hm) hk).2]
  have he : (t.regsOf ((if ctlTa c then as else []) ++ (if ctlTb c then bs else []))).find? (fun r => !(t.reg r).full) = none := by
    rw [List.find?_eq_none]
    refine hf _ fun f hm => ?_
    rw [List.mem_append] at hm
    rcases hm with hm | hm
    · split at hm
      · simp [hm]
      · simp at hm
    · split at hm
      · simp [hm]
      · simp at hm
  have hw : (t.regsOf (as ++ bs ++ ds ++ dd)).filter (fun r => !(t.reg r).full) = [] := by
    rw [List.filter_eq_nil_iff]
    exact hf _ fun f hm => hm
  simp only [Team.ready, hp, he, hw]

/-- An instruction whose operands may be read runs its effect. -/
theorem checked_ok {s : State} {t : Team} {c : Ctl} {as bs ds dd : List Fld} {k : State}
    (h : Readable t (as ++ bs ++ ds ++ dd)) : s.checked t c as bs ds dd k = k := by
  simp only [State.checked, ready_ok h]

theorem withTeam_next {s : State} {t : Team} (k : Team → State) (h : Issues s t) : s.withTeam k = .next (k t) := by
  simp only [State.withTeam, h]

theorem issue_next {s : State} {t : Team} {c : Ctl} {as bs ds dd : List Fld} (k : Team → State) (hi : Issues s t)
    (h : Readable t (as ++ bs ++ ds ++ dd)) : s.issue c as bs ds dd k = .next (k t) := by
  simp only [State.issue, withTeam_next _ hi, checked_ok h]

/-- No k destination is written with values that differ. -/
theorem badK_none {t : Team} {ds : List Dest} (h : ∀ d ∈ ds, KOk t d.1 d.2) : t.badK ds = none := by
  simp only [Team.badK, Option.map_eq_none_iff, List.find?_eq_none]
  intro d hd
  by_cases hk : isK d.1 = true
  · simp [hk, h d hd hk]
  · simp [hk]

theorem finishWrite_next {s : State} {t : Team} {c : Ctl} {as bs : List Fld} {ds : List Dest} (h : ∀ d ∈ ds, KOk t d.1 d.2) :
    s.finishWrite c as bs t ds = s.complete c ((t.useMarks c as bs).write t ds) := by
  simp only [State.finishWrite, badK_none h]

/-- The shape of the instructions that work on registers alone. -/
theorem compute_next {s : State} {t : Team} {c : Ctl} {as bs ds : List Fld} {d : Fld} (f : Team → Nat → Word)
    (hi : Issues s t) (h : Readable t (as ++ bs ++ ds ++ [d])) (hk : KOk t d (f t)) :
    s.compute c as bs ds d f = .next (s.complete c ((t.useMarks c as bs).write t [(d, f t)])) := by
  rw [State.compute, issue_next _ hi h, finishWrite_next]
  simpa using hk

theorem popSkips_none {n : Word} {es : List Entry} {m : Mask} {f : Word}
    (h : ∀ e rest, es = e :: rest → ¬(e.kind = .skip ∧ e.pc = n)) : popSkips n es m f = (es, m, f) := by
  cases es with
  | nil => rfl
  | cons e rest => simp only [popSkips, if_neg (h e rest rfl)]

/-- A completion without a skip entry: the team is Ready at the next address, and nothing else of it changes. -/
theorem advance_plain {t : Team} {n : Word} (h : NoSkip t) : t.advance n = { t with pc := n, st := .ready } := by
  simp only [Team.advance, popSkips_none h, if_true]

theorem complete_plain {s : State} {c : Ctl} {t : Team} (h : NoSkip t) :
    s.complete c t = (s.putTeam { t with pc := t.pc + 4, st := .ready }).yieldIf c t.id := by
  rw [State.complete, advance_plain h]

theorem operational_next {s k : State} (h : s.dev = .operational) : s.operational k = .next k := by
  simp only [State.operational, h, if_true]

theorem operational_ignored {s k : State} (h : s.dev ≠ .operational) : s.operational k = .next s := by
  simp only [State.operational, if_neg h]

/-- Uniform operands pass. -/
theorem uniforms_ok {s k : State} {t : Team} {fs : List Fld} (h : ∀ f ∈ fs, Uniform t f) : s.uniforms t fs k = k := by
  have : fs.find? (fun f => !t.uniform (t.get f)) = none := by
    rw [List.find?_eq_none]; intro f hf; simp [h f hf]
  simp only [State.uniforms, this]

/-- Every answer of a meaning that only runs the issuing team is a next state, when a team issues. -/
theorem withTeam_isNext {s : State} {k : Team → State} (h : s.focusTeam ≠ none) : ∃ u, s.withTeam k = .next u := by
  cases ht : s.focusTeam with
  | none => exact absurd ht h
  | some t => exact ⟨k t, by simp only [State.withTeam, ht]⟩

end Sys2Proof.Machine
end

