-- ==== Sys2Proof/Laws/Writes.lean ====
section
/-!
SUPPORT. What a write at the home does: it stores its bytes, keeps the memories canonical, and leaves teams, contexts, requests and the
other parts of the machine as they were. One lemma for each of physWrite, engineWrite and writeSpan.
-/

namespace Sys2Proof.Machine

open Sys2Proof.Safety

/-- What every step of a fold keeps, the fold keeps. -/
theorem foldl_keeps {α β γ : Type} {f : β → α → β} (g : β → γ) (h : ∀ b a, g (f b a) = g b) :
    ∀ (l : List α) (b : β), g (l.foldl f b) = g b
  | [], _ => rfl
  | a :: l, b => by rw [List.foldl_cons, foldl_keeps g h l, h]

/-- The parts of a machine that a write at the home leaves as they were. -/
def State.unwritten (s : State) : List Team × List Ctx × List Req × List Deadline × List Copyc × List SvcEvent × List Surface × List Tlb × Option Nat × DevSt :=
  (s.teams, s.ctxs, s.reqs, s.deadlines, s.copies, s.events, s.surfaces, s.tlb, s.focus, s.dev)

@[simp] theorem keepPage_mem (s : State) (c p : Nat) : (s.keepPage c p).mem = s.mem := rfl
@[simp] theorem keepPage_fabric (s : State) (c p : Nat) : (s.keepPage c p).fabric = s.fabric := rfl
@[simp] theorem keepPage_unwritten (s : State) (c p : Nat) : (s.keepPage c p).unwritten = s.unwritten := rfl

@[simp] theorem markDirty_mem (s : State) (c p : Nat) : (s.markDirty c p).mem = s.mem := by
  unfold State.markDirty; split <;> rfl
@[simp] theorem markDirty_fabric (s : State) (c p : Nat) : (s.markDirty c p).fabric = s.fabric := by
  unfold State.markDirty; split <;> rfl
@[simp] theorem markDirty_unwritten (s : State) (c p : Nat) : (s.markDirty c p).unwritten = s.unwritten := by
  unfold State.markDirty; split <;> rfl

/-- A write at the home stores the bytes in the address space of the address, and nothing in the other. -/
theorem physWrite_mem (s : State) (c pa : Nat) (bs : List Byte) :
    (s.physWrite c pa bs).mem = (if isRemote pa then s.mem else memWrite s.mem pa bs) ∧
    (s.physWrite c pa bs).fabric = (if isRemote pa then memWrite s.fabric (s.linkAddr pa) bs else s.fabric) := by
  unfold State.physWrite
  split
  · exact ⟨rfl, rfl⟩
  · have hm : ∀ (l : List Nat) (u : State), (l.foldl (fun u p => u.keepPage c p) u).mem = u.mem :=
      fun l u => foldl_keeps State.mem (fun b a => keepPage_mem b c a) l u
    have hf : ∀ (l : List Nat) (u : State), (l.foldl (fun u p => u.keepPage c p) u).fabric = u.fabric :=
      fun l u => foldl_keeps State.fabric (fun b a => keepPage_fabric b c a) l u
    constructor
    · rw [foldl_keeps State.mem (fun b a => markDirty_mem b c a)]
      dsimp only; simp only [hm]
    · rw [foldl_keeps State.fabric (fun b a => markDirty_fabric b c a)]
      dsimp only; simp only [hf]

theorem physWrite_unwritten (s : State) (c pa : Nat) (bs : List Byte) : (s.physWrite c pa bs).unwritten = s.unwritten := by
  unfold State.physWrite
  split
  · rfl
  · have hk : ∀ (l : List Nat) (u : State), (l.foldl (fun u p => u.keepPage c p) u).unwritten = u.unwritten :=
      fun l u => foldl_keeps State.unwritten (fun b a => keepPage_unwritten b c a) l u
    rw [foldl_keeps State.unwritten (fun b a => markDirty_unwritten b c a)]
    dsimp only
    rw [← hk (pagesOf pa bs.length) s]
    rfl

theorem memOk_physWrite {s : State} (c pa : Nat) (bs : List Byte) (h : MemOk s) : MemOk (s.physWrite c pa bs) := by
  obtain ⟨hm, hf⟩ := physWrite_mem s c pa bs
  constructor
  · rw [hm]; split
    · exact h.1
    · exact memory_wf_memWrite pa bs h.1
  · rw [hf]; split
    · exact memory_wf_memWrite _ bs h.2
    · exact h.2

/-- Before a write of an engine, owners' copies are dropped and no owner is left; memory is as it was. -/
theorem setOwner_keeps {γ : Type} (g : State → γ) (h : ∀ (u : State) b, g (u.setBankWord b) = g u) (s : State) (ws : List Nat) (o : Option Nat) :
    g (s.setOwner ws o) = g s :=
  foldl_keeps g (fun _ _ => h _ _) ws s

theorem dropAll_keeps {γ : Type} (g : State → γ) (h : ∀ (u : State) k ws, g (u.dropCopies k ws) = g u) (s : State) (cs ws : List Nat) :
    g (cs.foldl (fun u k => u.dropCopies k ws) s) = g s :=
  foldl_keeps g (fun _ _ => h _ _ _) cs s

/-- An engine's write stores its bytes where physWrite does. -/
theorem engineWrite_mem (s : State) (c pa : Nat) (bs : List Byte) :
    (s.engineWrite c pa bs).mem = (if isRemote pa then s.mem else memWrite s.mem pa bs) ∧
    (s.engineWrite c pa bs).fabric = (if isRemote pa then memWrite s.fabric (s.linkAddr pa) bs else s.fabric) := by
  unfold State.engineWrite
  refine ⟨?_, ?_⟩
  · rw [(physWrite_mem _ c pa bs).1, setOwner_keeps State.mem (fun _ _ => rfl), dropAll_keeps State.mem (fun _ _ _ => rfl)]
  · rw [(physWrite_mem _ c pa bs).2, setOwner_keeps State.fabric (fun _ _ => rfl), dropAll_keeps State.fabric (fun _ _ _ => rfl),
      setOwner_keeps (fun u : State => u.linkAddr pa) (fun _ _ => rfl), dropAll_keeps (fun u : State => u.linkAddr pa) (fun _ _ _ => rfl)]

theorem engineWrite_unwritten (s : State) (c pa : Nat) (bs : List Byte) : (s.engineWrite c pa bs).unwritten = s.unwritten := by
  unfold State.engineWrite
  rw [physWrite_unwritten, setOwner_keeps State.unwritten (fun _ _ => rfl), dropAll_keeps State.unwritten (fun _ _ _ => rfl)]

theorem memOk_engineWrite {s : State} (c pa : Nat) (bs : List Byte) (h : MemOk s) : MemOk (s.engineWrite c pa bs) := by
  obtain ⟨hm, hf⟩ := engineWrite_mem s c pa bs
  constructor
  · rw [hm]; split
    · exact h.1
    · exact memory_wf_memWrite pa bs h.1
  · rw [hf]; split
    · exact memory_wf_memWrite _ bs h.2
    · exact h.2

theorem memOk_writeSpan {c : Nat} : ∀ {s : State} (sp : List (Nat × Nat)) (bs : List Byte), MemOk s → MemOk (s.writeSpan c sp bs)
  | _, [], _, h => h
  | _, (pa, n) :: rest, bs, h => memOk_writeSpan rest (bs.drop n) (memOk_engineWrite c pa (bs.take n) h)

theorem writeSpan_unwritten {c : Nat} : ∀ (s : State) (sp : List (Nat × Nat)) (bs : List Byte), (s.writeSpan c sp bs).unwritten = s.unwritten
  | _, [], _ => rfl
  | s, (pa, n) :: rest, bs => by
    rw [show s.writeSpan c ((pa, n) :: rest) bs = (s.engineWrite c pa (bs.take n)).writeSpan c rest (bs.drop n) from rfl,
      writeSpan_unwritten, engineWrite_unwritten]

/-- In DRAM, an engine's write is read back, and every other byte reads as before. -/
theorem engineWrite_read {s : State} (c pa : Nat) (bs : List Byte) (h : MemOk s) (hp : isRemote pa = false) :
    memRead (s.engineWrite c pa bs).mem pa bs.length = bs ∧
    ∀ a, (a < pa ∨ pa + bs.length ≤ a) → memGet (s.engineWrite c pa bs).mem a = memGet s.mem a := by
  obtain ⟨hm, -⟩ := engineWrite_mem s c pa bs
  rw [hm, if_neg (by simp [hp])]
  refine ⟨memRead_memWrite pa bs h.1, fun a ha => ?_⟩
  rw [memGet_memWrite pa bs a h.1, if_neg (by omega)]

end Sys2Proof.Machine
end

