-- ==== Sys2Proof/Tests/Slice0.lean ====
section
/-!
SUPPORT. Tests: words and the instructions they are, ill-formed terms, and for the hypotheses of each statement of the certificates a
concrete state and operands that meet them. Expected values come from the manual or from its rules by hand.
-/

namespace Sys2Proof.Tests

set_option Elab.async false

open Sys2Proof.Machine Sys2Proof.Safety Sys2Proof.Claims

def isNext (o : Host.Outcome State Fault Refusal) (s : State) : Bool := match o with | .next t => decide (t = s) | _ => false
def c0 := ctlNone
def v (f : Nat → Nat) : Nat → Word := fun l => BitVec.ofNat 32 (f l)
def tmB : Team := { fetchTeam 1 with p := 8, frame := List.replicate 8 Reg.zero, k := [5, 0, 0, 0] }
def regA : Reg := { full := true, uniform := false, bank := .per [0x3f800000#32, 0x3f812345#32, 0x3f82468a#32, 0x3f8369cf#32, 0x3f848d14#32, 0x3f85b059#32, 0x3f86d39e#32, 0x3f87f6e3#32, 0x3f891a28#32, 0x3f8a3d6d#32, 0x3f8b60b2#32, 0x3f8c83f7#32, 0x3f8da73c#32, 0x3f8eca81#32, 0x3f8fedc6#32, 0x3f91110b#32] }
def regB : Reg := { full := true, uniform := false, bank := .per [0xbf000003#32, 0xbefffffc#32, 0xbeffffe7#32, 0xbeffffc4#32, 0xbeffff93#32, 0xbeffff54#32, 0xbeffff07#32, 0xbefffeac#32, 0xbefffe43#32, 0xbefffdcc#32, 0xbefffd47#32, 0xbefffcb4#32, 0xbefffc13#32, 0xbefffb64#32, 0xbefffaa7#32, 0xbefff9dc#32] }
def regC : Reg := { full := true, uniform := false, bank := .per [0x3#32, 0x14#32, 0x25#32, 0x36#32, 0x47#32, 0x58#32, 0x69#32, 0x7a#32, 0x8b#32, 0x9c#32, 0xad#32, 0xbe#32, 0xcf#32, 0xe0#32, 0xf1#32, 0x102#32] }
def tmA : Team := { tmB with frame := [regA, regB, regC, Reg.zero, Reg.zero, Reg.zero, Reg.zero, Reg.zero] }
def cx : Ctx := { Ctx.create 0 with st := .running, kernels := [fetchKernel], queues := [] }
def stB : State := { State.reset with
  dev := .operational, focus := some 1, nextId := 2, tlb := [fetchTlb], order := [1], ctxs := [cx], part := State.reset.part.set 0 0x80000001
  filters := [], lmap := [], inwin := [] }
def stOf (t : Team) : State := { stB with teams := [t] }
def sA : State := stOf tmA

/-! ### Words of every instruction: the fixed bits of its row of the opcode table, with V = 1, C = 2 and the fields filled in -/

/-- C[1] under V = 1: trap if A is empty. -/
def ct : Ctl := .v1 true false
/-- Every word decodes to its instruction. -/
def decodes (l : List (Word × Instr)) : Bool := l.all fun p => match decodeWord p.1 with | .ok i => i == p.2 | .error _ => false
theorem test_words_iadd_fmul : decodes [(0x41512202, .iadd ct 40 72 64), (0x41512206, .isub ct 40 72 64), (0x42512202, .imul ct 40 72 64), (0x42512206, .imad ct 40 72 64), (0x43512202, .imulhS ct 40 72 64), (0x43512206, .imulhN ct 40 72 64), (0x44512202, .and ct 40 72 64), (0x44512206, .andn ct 40 72 64), (0x45512202, .or ct 40 72 64), (0x45512206, .xor ct 40 72 64)] = true ∧
    decodes [(0x46512202, .shl ct 40 72 64), (0x46512206, .rol ct 40 72 64), (0x47512202, .shr ct 40 72 64), (0x47512206, .sar ct 40 72 64), (0x48512202, .iminS ct 40 72 64), (0x48512206, .iminN ct 40 72 64), (0x49512202, .imaxS ct 40 72 64), (0x49512206, .imaxN ct 40 72 64), (0x4A512202, .cmpeq ct 40 72 64), (0x4A512206, .cmpne ct 40 72 64)] = true ∧
    decodes [(0x4B512202, .cmpltS ct 40 72 64), (0x4B512206, .cmpltN ct 40 72 64), (0x4C512202, .cmpleS ct 40 72 64), (0x4C512206, .cmpleN ct 40 72 64), (0x4D512202, .sel ct 40 72 64), (0x4D512206, .iabsd ct 40 72 64), (0x4E512202, .fadd ct 40 72 64), (0x4E512206, .fsub ct 40 72 64), (0x4F512202, .fmul ct 40 72 64)] = true := by decide +kernel
theorem test_words_ffma_fabs : decodes [(0x4F512206, .ffma ct 40 72 64), (0x50512202, .fmin ct 40 72 64), (0x50512206, .fmax ct 40 72 64), (0x51512202, .fcmpeq ct 40 72 64), (0x51512206, .fcmplt ct 40 72 64), (0x52512202, .fcmple ct 40 72 64), (0x52512206, .fcmpun ct 40 72 64), (0x53512202, .shfl ct 40 72 64), (0x53512206, .shflx ct 40 72 64), (0x54512202, .idivS ct 40 72 64)] = true ∧
    decodes [(0x54512206, .idivN ct 40 72 64), (0x55512202, .iremS ct 40 72 64), (0x55512206, .iremN ct 40 72 64), (0x56512202, .fdiv ct 40 72 64), (0x57512002, .mov ct 40 72), (0x57512006, .not ct 40 72), (0x5751200A, .neg ct 40 72), (0x5751200E, .iabs ct 40 72), (0x57512012, .popc ct 40 72), (0x57512016, .clz ct 40 72)] = true ∧
    decodes [(0x5751201A, .ctz ct 40 72), (0x5751201E, .brev ct 40 72), (0x57512022, .sext8 ct 40 72), (0x57512026, .sext16 ct 40 72), (0x5751202A, .zext8 ct 40 72), (0x5751202E, .zext16 ct 40 72), (0x57512032, .isuni ct 40 72), (0x58512002, .fneg ct 40 72), (0x58512006, .fabs ct 40 72)] = true := by decide +kernel
theorem test_words_fsqrt_qenc : decodes [(0x5851200A, .fsqrt ct 40 72), (0x5851200E, .frcp ct 40 72), (0x58512012, .frsq ct 40 72), (0x58512016, .fex2 ct 40 72), (0x5851201A, .flg2 ct 40 72), (0x5851201E, .fsin ct 40 72), (0x58512022, .fcos ct 40 72), (0x58512026, .ffloor ct 40 72), (0x5851202A, .fceil ct 40 72), (0x5851202E, .ftrunc ct 40 72)] = true ∧
    decodes [(0x58512032, .frint ct 40 72), (0x58512036, .fsat ct 40 72), (0x5851203A, .fclass ct 40 72), (0x59512002, .cvtF32I32 ct 40 72), (0x59512006, .cvtF32N32 ct 40 72), (0x5951200A, .cvtI32F32 ct 40 72), (0x5951200E, .cvtN32F32 ct 40 72), (0x59512012, .cvtB16F32 ct 40 72), (0x59512016, .cvtB16hF32 ct 40 72), (0x5951201A, .cvtF32B16 ct 40 72)] = true ∧
    decodes [(0x5951201E, .cvtF32B16h ct 40 72), (0x5951202A, .cvtE4F32 ct 2 40 72), (0x5951203A, .cvtE5F32 ct 2 40 72), (0x5951204A, .cvtF32E4 ct 2 40 72), (0x5951205A, .cvtF32E5 ct 2 40 72), (0x59512076, .cvtF32Q4 ct 5 40 72), (0x59512082, .qscale ct 40 72), (0x59512086, .qenc ct 40 72)] = true := by decide +kernel
theorem test_words_voteAny_stcl : decodes [(0x5A512002, .voteAny ct 40 72), (0x5A512006, .voteAll ct 40 72), (0x5A51200A, .ballot ct 40 72), (0x5A51200E, .gredIadd ct 40 72), (0x5A512012, .gredIminS ct 40 72), (0x5A512016, .gredImaxS ct 40 72), (0x5A51201A, .gredFadd ct 40 72), (0x5A51201E, .gredFmax ct 40 72), (0x5A512022, .gscanIadd ct 40 72), (0x5A512026, .matchG ct 40 72)] = true ∧
    decodes [(0x5A51E02A, .firstl ct 40), (0x5A51202E, .bcast ct 40 72), (0x5B51E0BE, .rdc ct 40 47), (0x5CF1204A, .wrc ct 72 18), (0x5D512136, .iaddi ct 40 72 77), (0x5E512016, .shli ct 40 72 5), (0x5E512116, .shri ct 40 72 5), (0x5E512216, .sari ct 40 72 5), (0x5E512316, .roli ct 40 72 5), (0x1FF12134, .chk 72 77)] = true ∧
    decodes [(0x2050004D, .ldi 40 77), (0x2150004D, .ldhi 40 77), (0x625122D6, .ldg ct 40 72 5 .w false true true), (0x635122D6, .stg ct 40 72 5 .w true true), (0x645120C2, .lds ct 40 72 true .w false), (0x655120C2, .sts ct 40 72 true .w), (0x66512042, .ldcl ct 40 72 .w false), (0x67512042, .stcl ct 40 72 .w)] = true := by decide +kernel
theorem test_words_ldxs_mms : decodes [(0x68512042, .ldxs ct 40 72 .w false), (0x69512042, .stxs ct 40 72 .w), (0x6A512042, .ldl ct 40 72 .w false), (0x6B512042, .stl ct 40 72 .w), (0x6C5122B6, .lda ct 40 72 5 .core 2 true), (0x2D5122C0, .atomLd 40 72 5 .device), (0x2D5122C1, .atomSt 40 72 5 .device), (0x2D5122C2, .atomXchg 40 72 5 .device), (0x2D5122C3, .atomCas 40 72 5 .device), (0x2D5122C4, .atomAdd 40 72 5 .device)] = true ∧
    decodes [(0x2D5122C5, .atomAnd 40 72 5 .device), (0x2D5122C6, .atomOr 40 72 5 .device), (0x2D5122C7, .atomXor 40 72 5 .device), (0x2D5122C8, .atomMinS 40 72 5 .device), (0x2D5122C9, .atomMaxS 40 72 5 .device), (0x2D5122CA, .atomMinN 40 72 5 .device), (0x2D5122CB, .atomMaxN 40 72 5 .device), (0x2D5122CC, .atomIncw 40 72 5 .device), (0x2D5122CD, .atomDecw 40 72 5 .device), (0x2D5122CE, .atomAddb 40 72 5 .device)] = true ∧
    decodes [(0x2D5122CF, .atomFadd 40 72 5 .device), (0x2D5122D0, .atomFmin 40 72 5 .device), (0x2D5122D1, .atomFmax 40 72 5 .device), (0x2D5122D2, .atomAdd64 40 72 5 .device), (0x2D5122D3, .atomXchg64 40 72 5 .device), (0x2E5122CD, .chx 40 72 5 77), (0x2F512203, .mma 40 72 64 true true), (0x30512205, .mms 40 72 64 2 true)] = true := by decide +kernel
theorem test_words_mclr_fenceAr : decodes [(0x7151E002, .mclr ct 40), (0x71512006, .mscl ct 40 72), (0x7151200A, .mabs ct 40 72), (0x7151200E, .mqpk ct 40 72), (0x71512012, .mcvt ct 40 72), (0x3291FFFD, .bra 72 0x1FFFD), (0x3391FFFD, .brz 72 0x1FFFD), (0x3491FFFD, .bdiv 72 0x1FFFD), (0x35F1FFFD, .jpt 0x1FFFD), (0x36FDFFFD, .call 126 0x1FFFD)] = true ∧
    decodes [(0x77F1E002, .join ct), (0x77F1E006, .brk ct), (0x77F1E00A, .exitI ct), (0x77F1200E, .ret ct 72), (0x77F12012, .jmpr ct 72), (0x77FD2016, .callr ct 126 72), (0x77F1E01A, .yield ct), (0x77F1201E, .winb ct 72), (0x77F1E022, .nop ct), (0x77F1E026, .tret ct)] = true ∧
    decodes [(0x77F1E02A, .tskip ct), (0x78F12332, .arv ct .grid 3 72), (0x78F12336, .syn ct .grid 3 72), (0x78F1E33A, .wt ct .grid 3), (0x7851E33E, .trySync ct .grid 3 40), (0x79F1E00A, .fenceAcq ct .device), (0x79F1E01A, .fenceRel ct .device), (0x79F1E02A, .fenceAr ct .device)] = true := by decide +kernel
theorem test_words_seal_rld : decodes [(0x7951E032, Instr.seal ct 40), (0x79F12036, .waitb ct 72), (0x79F1203A, .waitcL ct 72), (0x79F1203E, .waitcS ct 72), (0x79F12042, .waitcC ct 72), (0x79F12046, .waitcX ct 72), (0x79F1204A, .waitcG ct 72), (0x79F1204E, .xltX0 ct 72), (0x79F12052, .xltX1 ct 72), (0x79F12056, .xltX2 ct 72)] = true ∧
    decodes [(0x79F1205A, .xltX3 ct 72), (0x79F1205E, .xltX4 ct 72), (0x79F12062, .xltX5 ct 72), (0x79F12066, .xltX6 ct 72), (0x79F1206A, .xltX7 ct 72), (0x79F1206E, .cpy ct 72), (0x7A512002, .spawn ct 40 72), (0x7AF12006, .joinc ct 72), (0x7A51200A, .racq ct 40 72), (0x7AF1200E, .rcom ct 72)] = true ∧
    decodes [(0x7A512012, .rpeek ct 40 72), (0x7AF12016, .rrel ct 72), (0x7A51E01A, .sysc ct 40), (0x7A51E01E, .sysct ct 40), (0x7A512022, .reord ct 40 72), (0x7B512002, .rld ct 40 72)] = true := by decide +kernel
theorem test_words_rstp_csrw : decodes [(0x7B512006, .rstp ct 40 72), (0x7B51200A, .rstc ct 40 72), (0x7B51200E, .rstm ct 40 72), (0x7B512012, .rblk ct 40 72), (0x7B512016, .rseal ct 40 72), (0x7C512002, .trace ct 40 72), (0x7C512006, .boxt ct 40 72), (0x7C51200A, .trit ct 40 72), (0x7C51200E, .covr ct 40 72), (0x7C512012, .bint ct 40 72)] = true ∧
    decodes [(0x7D51E002, .winfo ct 40), (0x7D51E006, .rnext ct 40), (0x7DF1200A, .remit ct 72), (0x7DF1200E, .wmark ct 72), (0x7DF12012, .sidle ct 72), (0x7DF12016, .publ ct 72), (0x7D51E01A, .lateq ct 40), (0x7EF12002, .trapI ct 72), (0x7EF1E006, .bkpt ct), (0x7E51E00A, .rdtime ct 40)] = true ∧
    decodes [(0x7EF1200E, .eret ct 72), (0x7E512012, .chinst ct 40 72), (0x7EF12016, .halt ct 72), (0x7E51E01A, .rdid ct 40), (0x7E51201E, .csrr ct 40 72), (0x7E512022, .csrw ct 40 72)] = true := by decide +kernel

/-! ### Registers alone -/

/-- The hypotheses of the statements about a register instruction, and their conclusion. -/
def regOk (s : State) (t : Team) (i : Instr) : Bool :=
  match regOp i with
  | some o => decide (Issues s t ∧ Width t ∧ Readable t (o.as ++ o.bs ++ o.ds ++ [o.d]) ∧ KOk t o.d (o.f t)) &&
      isNext (exec i s) (s.complete o.c ((t.useMarks o.c o.as o.bs).write t [(o.d, o.f t)]))
  | none => false

theorem wit_integerOps : ∀ i ∈ ([.iadd c0 3 0 1, .imulhS c0 3 0 1, .sar c0 3 0 2, .popc c0 124 125] : List Instr), regOk sA tmA i = true := by decide +kernel
theorem wit_division : ∀ i ∈ ([.idivS c0 3 0 1, .iremN c0 3 0 2] : List Instr), regOk sA tmA i = true := by decide +kernel
theorem wit_floatConvert : ∀ i ∈ ([.ffma c0 2 0 1, .fclass c0 3 0, .cvtB16hF32 c0 2 0] : List Instr), regOk sA tmA i = true := by decide +kernel
theorem wit_groupOps : ∀ i ∈ ([.voteAny c0 3 0, .gredIminS c0 3 1, .shflx c0 3 0 2] : List Instr), regOk sA tmA i = true := by decide +kernel

theorem wit_ballots : Issues sA tmA ∧ Width tmA ∧ ¬(tmA.g = 64 ∧ 118 < (3 : Fld).toNat) ∧ Readable tmA [0, 3] ∧
    isNext (exec (.ballot c0 3 0) sA) (sA.complete c0 ((tmA.useMarks c0 [0] []).write tmA [(3, fun _ => 0xFFFF)])) = true := by decide +kernel
/-- A team of groups of 64 lanes. -/
def tm64 : Team := { tmB with g := 64, nlanes := 64 }
theorem wit_ballot_illegal : Issues (stOf tm64) tm64 ∧ Width tm64 ∧ tm64.g = 64 ∧ 118 < (119 : Fld).toNat ∧
    isNext (exec (.ballot c0 119 0) (stOf tm64)) ((stOf tm64).trap tm64 1 0 tm64.mask (encodeWord (.ballot c0 119 0))) = true := by decide +kernel
theorem wit_readControl : Issues sA tmA ∧ Readable tmA [3] ∧ ctlWord sA tmA 47 = some 0 ∧
    isNext (exec (.rdc c0 3 47) sA) (sA.complete c0 (tmA.write tmA [(3, fun _ => 0)])) = true := by decide +kernel
theorem wit_readMaskw : isNext (exec (.rdc c0 3 4) sA) (sA.complete c0 (tmA.write tmA [(3, fun _ => 1)])) = true := by decide +kernel
theorem wit_writeControl : Issues sA tmA ∧ Readable tmA [124] ∧ Uniform tmA 124 ∧ wrcTeam (tmA.useMarks c0 [124] []) 7 5 = some { tmA with trapv := 4 } ∧
    isNext (exec (.wrc c0 124 7) sA) (sA.complete c0 { tmA with trapv := 4 }) = true := by decide +kernel
theorem wit_writeControl_split : ¬Uniform tmA 0 ∧ isNext (exec (.wrc c0 0 7) sA) (sA.trap tmA 5 0 tmA.mask 263) = true := by decide +kernel
theorem wit_regFrame : regOk sA tmA (.iadd c0 3 0 1) = true ∧ WindowOk tmA ∧ tmA.k.length = 4 ∧ NoSkip tmA := by
  refine ⟨by decide +kernel, by decide, by decide, ?_⟩
  intro e rest h; cases h
theorem wit_operand_beyond : isFrame 9 = true ∧ tmA.p ≤ tmA.fieldReg 9 ∧
    isNext (exec (.iadd c0 9 0 1) sA) (sA.trap tmA 6 0 tmA.mask 9) = true := by decide +kernel
/-- Register 1 is empty. -/
def tmE : Team := { tmA with frame := [regA, { regB with full := false }, regC, Reg.zero, Reg.zero, Reg.zero, Reg.zero, Reg.zero] }
theorem wit_operand_empty : (tmE.reg (tmE.fieldReg 1)).full = false ∧
    isNext (exec (.iadd c0 3 0 1) (stOf tmE)) ((stOf tmE).putTeam { tmE with st := .waitingEmpty [1] }) = true := by decide +kernel
theorem wit_operand_k : Readable tmA [0, 1, 124] ∧ ¬KOk tmA 124 (fun l => tmA.get 0 l + tmA.get 1 l) ∧
    isNext (exec (.iadd c0 124 0 1) sA) (sA.trap tmA 5 0 tmA.mask 124) = true := by decide +kernel

/-! ### Fetch and step -/

/-- A program of one word at address 0. -/
def stW (w : Word) : State := { stOf tmB with mem := memWrite [] 0 (wordBytes w) }
theorem wit_fetching : tmB.isHandler = false ∧ tmB.codeBase + tmB.pc.toNat + 4 ≤ 2 ^ 55 ∧ (stW 7).coreSeg 0 0 0 0 = .ok 0 Attr.none ∧
    (stW 7).poisonIn 0 4 = none := by decide +kernel
theorem wit_fetching_nx : { stW 7 with tlb := [{ fetchTlb with attr := { Attr.none with nx := true } }] }.coreSeg 0 0 0 0 =
    .ok 0 { Attr.none with nx := true } := by decide +kernel
theorem wit_illegal : (stW 0).team? 1 = some tmB ∧ (match decodeWord 0#32 with | .error _ => true | .ok _ => false) = true := by decide +kernel
/-- Quadrant 0 of core 0 moves next. -/
def stQ : State := { stW 0x37F1E020 with agenda := [.quadrant 0 0], focus := none }
theorem wit_stepRuns : stQ.dev = .operational ∧ { stQ.tick with agenda := [] }.pick (some (0, 0)) = some tmB ∧
    ({ stQ.tick with agenda := [] }.countStreak tmB).team? 1 = some tmB ∧ decodeWord 0x37F1E020#32 = .ok (.nop c0) ∧
    (match step stQ with | .next s => s.teams.map (·.pc) == [4] | _ => false) = true := by decide +kernel

/-! ### Traps, branches and paths -/

/-- A trap address, and the team that the trap leaves. -/
def tmV : Team := { tmA with trapv := 0x100 }
def tmT : Team := { tmV with stack := [{ kind := .trap 3, mask := 0xFFFF, pc := 0, fmt := tmA.fmt }], trapc := 0x20D, trapa := 9, mask := 3, pc := 0x100 }
theorem wit_takeTrap : Issues (stOf tmV) tmV ∧ tmV.trapv ≠ 0 ∧ tmV.stack.length < 1024 ∧
    (stOf tmV).trap tmV 13 2 3 9 = (stOf tmV).putTeam tmT := by decide +kernel
theorem wit_takeTrap_park : Issues sA tmA ∧ tmA.trapv = 0 ∧ sA.ctx? tmA.ctx = some cx ∧
    ((sA.trap tmA 13 2 3 9).teams.map (·.st)) = [.parked (.event 1), .ready] := by decide +kernel
theorem wit_trapReturn : Issues (stOf tmT) tmT ∧
    isNext (exec (.tret c0) (stOf tmT)) (((stOf tmT).putTeam { tmT with stack := [], mask := 0xFFFF, pc := 0, st := .ready }).yieldIf c0 1) = true ∧
    isNext (exec (.tskip c0) (stOf tmT)) (((stOf tmT).putTeam
      { tmT with stack := [{ kind := .skip, mask := 0xFFFF, pc := 4, fmt := tmA.fmt }], mask := 0xFFFC, pc := 0, st := .ready }).yieldIf c0 1) = true := by decide +kernel
theorem wit_trapReturn_none : tmA.stack = [] ∧ isNext (exec (.tret c0) sA) (sA.trap tmA 12 2 tmA.mask 0) = true := by decide +kernel
/-- Two skip entries of the instruction at PC. -/
def tmS : Team := { tmA with mask := 1, stack := [{ kind := .skip, mask := 3, pc := 4, fmt := 1 }, { kind := .skip, mask := 7, pc := 4, fmt := 2 }] }
theorem wit_skipEntries : Issues (stOf tmS) tmS ∧
    isNext (exec (.nop c0) (stOf tmS)) (((stOf tmS).putTeam { tmS with stack := [], mask := 7, fmt := 2, pc := 4, st := .ready }).yieldIf c0 1) = true := by decide +kernel
theorem wit_branches : Issues sA tmA ∧ Readable tmA [124] ∧ Uniform tmA 124 ∧ tmA.getLow 124 ≠ 0 ∧
    isNext (exec (.bra 124 3) sA) (sA.putTeam { tmA with pc := 16 }) = true ∧ isNext (exec (.brz 124 3) sA) (sA.putTeam { tmA with pc := 4 }) = true := by decide +kernel
theorem wit_branches_split : Readable tmA [0] ∧ ¬Uniform tmA 0 ∧
    isNext (exec (.bra 0 3) sA) (sA.trap tmA 4 0 tmA.mask 0x3F800000) = true := by decide +kernel
/-- Lanes 0 and 1 hold 0 in register 3. -/
def tmD : Team := { tmA with frame := [regA, regB, regC, { full := true, uniform := false, bank := .per ([0, 0] ++ List.replicate 14 1) }, Reg.zero, Reg.zero, Reg.zero, Reg.zero] }
theorem wit_divergence : Issues (stOf tmD) tmD ∧ Readable tmD [3] ∧
    isNext (exec (.bdiv 3 (-1)) (stOf tmD)) ((stOf tmD).putTeam
      { tmD with stack := [{ kind := .pending, mask := 3, pc := 4, fmt := tmD.fmt }], mask := 0xFFFC, pc := 0, st := .ready }) = true ∧
    isNext (exec (.jpt 6) (stOf tmD)) ((stOf tmD).putTeam
      { tmD with stack := [{ kind := .join, mask := 0xFFFF, pc := 28, fmt := tmD.fmt }], pc := 4, st := .ready }) = true := by decide +kernel
theorem wit_divergence_full : ∃ t : Team, Issues (stOf t) t ∧ 1024 ≤ t.stack.length :=
  ⟨{ tmA with stack := List.replicate 1024 { kind := .join, mask := 1, pc := 0, fmt := 0 } }, rfl, Nat.le_of_eq List.length_replicate.symm⟩
/-- A join entry under a pending path without lanes. -/
def tmJ : Team := { tmA with mask := 1, stack := [{ kind := .pending, mask := 0, pc := 8, fmt := 0 }, { kind := .join, mask := 0xFFFF, pc := 28, fmt := 7 }] }
theorem wit_joins : Issues (stOf tmJ) tmJ ∧ JoinAbove tmJ ∧
    isNext (exec (.join c0) (stOf tmJ)) (((stOf tmJ).putTeam { tmJ with stack := [], mask := 0xFFFF, pc := 28, fmt := 7, st := .ready }).yieldIf c0 1) = true ∧
    isNext (exec (.brk c0) (stOf tmJ)) (((stOf tmJ).putTeam { tmJ with stack := [], mask := 0xFFFF, pc := 28, fmt := 7, st := .ready }).yieldIf c0 1) = true := by
  refine ⟨by decide +kernel, ⟨[{ kind := .pending, mask := 0, pc := 8, fmt := 0 }], _, _, rfl, rfl, ?_⟩, by decide +kernel, by decide +kernel⟩
  intro x hx f h; simp at hx; subst hx; cases h
theorem wit_joins_none : tmA.stack = [] ∧ isNext (exec (.join c0) sA) (sA.trap tmA 12 1 tmA.mask 0) = true ∧
    isNext (exec (.brk c0) sA) (sA.trap tmA 12 1 tmA.mask 0) = true := by decide +kernel
theorem wit_exitYield : isNext (exec (.exitI c0) (stOf tmJ)) ((((stOf tmJ).leaveLanes tmJ tmJ.alive 1).putTeam
      { tmJ with stack := [], mask := 0xFFFE, pc := 28, fmt := 7, st := .ready }).yieldIf c0 1) = true ∧
    isNext (exec (.yield c0) sA) ((sA.complete c0 tmA).youngest 1) = true := by decide +kernel
/-- k1 holds a link value. -/
def tmL : Team := { tmA with k := [5, 0x40, 0, 0] }
theorem wit_jumps : Issues (stOf tmL) tmL ∧ Readable tmL [125, 126] ∧ Uniform tmL 125 ∧ (tmL.getLow 125).toNat % 4 = 0 ∧
    isNext (exec (.call 126 2) (stOf tmL)) ((stOf tmL).putTeam { tmL with k := [5, 0x40, 4, 0], pc := 12 }) = true ∧
    isNext (exec (.callr c0 126 125) (stOf tmL)) ((stOf tmL).putTeam { tmL with k := [5, 0x40, 4, 0], pc := 0x40 }) = true ∧
    isNext (exec (.ret c0 124) (stOf tmL)) ((stOf tmL).trap tmL 7 0 tmL.mask 5) = true := by decide +kernel
theorem wit_winb : Uniform tmA 127 ∧ (tmA.getLow 127).toNat % 8 = 0 ∧ (tmA.getLow 127).toNat + 8 ≤ tmA.p ∧
    isNext (exec (.winb c0 127) sA) (sA.complete c0 { tmA with wbase := 0 }) = true ∧
    isNext (exec (.winb c0 124) sA) (sA.trap tmA 6 0 tmA.mask 5) = true := by decide +kernel

/-! ### Global and local memory -/

/-- Page 1 of the context is writable and lies at frame 0x20000; register 3 holds offsets into it, 4 those of a misaligned lane 2, 5 one of a page beyond reach in lane 1. -/
def offs (f : Nat → Nat) : Reg := { full := true, uniform := false, bank := .per ((List.range 16).map fun l => BitVec.ofNat 32 (f l)) }
def regO : Reg := { full := true, uniform := false, bank := .per [0x10000, 0x10004, 0x10008, 0x1000C, 0x10010, 0x10014, 0x10018, 0x1001C, 0x10020, 0x10024, 0x10028, 0x1002C, 0x10030, 0x10034, 0x10038, 0x1003C] }
def regM : Reg := { full := true, uniform := false, bank := .per [0x10000, 0x10004, 0x1000A, 0x1000C, 0x10010, 0x10014, 0x10018, 0x1001C, 0x10020, 0x10024, 0x10028, 0x1002C, 0x10030, 0x10034, 0x10038, 0x1003C] }
def regN : Reg := { full := true, uniform := false, bank := .per [0x10000, 0xFFFFFFF0, 0x10008, 0x1000C, 0x10010, 0x10014, 0x10018, 0x1001C, 0x10020, 0x10024, 0x10028, 0x1002C, 0x10030, 0x10034, 0x10038, 0x1003C] }
def regS : Reg := { full := true, uniform := false, bank := .per [0, 4, 8, 0xC, 0x10, 0x14, 0x18, 0x1C, 0x20, 0x24, 0x28, 0x2C, 0x30, 0x34, 0x38, 0x3C] }
def attW : Attr := { Attr.none with w := true }
def tlbW : Tlb := { core := 0, ctx := 0, page := 1, large := false, frame := 0x20000, attr := attW }
def tmM : Team := { tmB with frame := [regA, regB, regC, regO, regM, regN, regS, Reg.zero], scrSize := 64, privSize := 64 }
def stM (t : Team) : State := { stOf t with tlb := [fetchTlb, tlbW], mem := [(0x20004, 0x11), (0x20005, 0x22)], pools := [], ports := [] }
def sM : State := stM tmM
def stg : Instr := .stg c0 1 3 0 .w false false
def globalHyp (s : State) (t : Team) (i : Instr) (pa : Nat → Nat) (at_ : Nat → Attr) : Prop :=
  ∃ o, globalOp i = some o ∧ Issues s t ∧ Readable t ([o.a] ++ o.srcs ++ o.dests) ∧ DestsOk o ∧
    (∀ l ∈ t.lanes, addr t o.x o.a l % o.n = 0 ∧ Reaches s t o.x o.a o.n l (pa l) (at_ l) ∧ Permits s t o l (pa l) (at_ l)) ∧
    (o.write = true → ∀ l ∈ t.lanes, NoLoadAhead s t o.n (pa l) ∧ (s.stage t.ctx (pa l)).isSome = true)
theorem wit_globalIssue_load : globalHyp sM tmM (.ldg c0 2 3 0 .w false false false) (fun l => 0x20000 + 4 * l) (fun _ => attW) ∧
    sM.capped tmM = false ∧ tmM.count .g < 255 := by
  exact ⟨⟨_, rfl, by decide +kernel⟩, by decide +kernel⟩
theorem wit_globalIssue_store : globalHyp sM tmM stg (fun l => 0x20000 + 4 * l) (fun _ => attW) := ⟨_, rfl, by decide +kernel⟩
theorem wit_globalIssue_atomic : globalHyp sM tmM (.atomCas 1 3 0 .device) (fun l => 0x20000 + 4 * l) (fun _ => attW) := ⟨_, rfl, by decide +kernel⟩
/-- What GlobalIssue says the store leaves. -/
theorem test_globalIssue : isNext (exec stg sM) (sent sM tmM { c := c0, a := 3, x := 0, n := 4, write := true, srcs := [1], dests := [], kind := .stg .w false false, path := none }
    (tmM.lanes.map (lane sM tmM { c := c0, a := 3, x := 0, n := 4, write := true, srcs := [1], dests := [], kind := .stg .w false false, path := none }
      (fun l => 0x20000 + 4 * l) fun _ => attW))) = true := by decide +kernel
theorem wit_globalMisaligned : Issues sM tmM ∧ Readable tmM [4, 1] ∧ addr tmM 0 4 2 % 4 ≠ 0 ∧
    isNext (exec (.stg c0 1 4 0 .w false false) sM) (sM.trap tmM 7 0 4 0x1000A) = true := by decide +kernel
theorem wit_globalForbidden : Issues sM tmM ∧ (∀ l ∈ tmM.lanes, addr tmM 0 5 l % 4 = 0) ∧ addr tmM 0 5 1 < 0 ∧
    isNext (exec (.stg c0 1 5 0 .w false false) sM) (sM.trap tmM 9 0 2 0xFFFFFFF0) = true := by decide +kernel
/-- The same page as a raw view of the surface whose descriptor lies at frame 0x20000: 16 by 16 pixels of 4 bytes, seen at 0x10000. -/
def attRaw : Attr := { attW with raw := true }
def sRaw : State := { sM with
  tlb := [fetchTlb, { tlbW with attr := attRaw }]
  mem := [(0x20001, 0x80), (0x20003, 1), (0x20004, 16), (0x20006, 16), (0x20022, 1)] }
theorem wit_rawStore : Issues sRaw tmM ∧ Readable tmM [3, 1] ∧ (∀ l ∈ tmM.lanes, addr tmM 0 3 l % 4 = 0 ∧
      Reaches sRaw tmM 0 3 4 l (0x20000 + 4 * l) attRaw ∧ NoLoadAhead sRaw tmM 4 (0x20000 + 4 * l)) ∧
    (match exec stg sRaw with | .next s => s.teams.map (·.hold) == [some (.relief c0 3 2)] | _ => false) = true := by decide +kernel

theorem wit_localLoads : Issues sM tmM ∧ Readable tmM [6, 0] ∧ InLevel sM tmM ⟨c0, 0, 6, .core, .w, false⟩ ∧
    InLevel sM tmM ⟨c0, 0, 6, .lane, .w, false⟩ ∧ (match exec (.lds c0 0 6 false .w false) sM with | .next s => s.reqs.length == 1 | _ => false) = true := by decide +kernel
theorem wit_ownStores : Issues sM tmM ∧ Readable tmM [6, 1] ∧ NoSkip tmM ∧ sM.reqs = [] ∧ Memory.wf tmM.scratch = true ∧ Memory.wf tmM.lanePriv = true ∧
    (match exec (.sts c0 1 6 false .w) sM with
     | .next s => s.teams.map (fun t => memRead t.scratch 0x3C 4) == [[0xDC, 0xF9, 0xFF, 0xBE]] | _ => false) = true := by
  refine ⟨by decide +kernel, by decide +kernel, ?_, rfl, rfl, rfl, by decide +kernel⟩
  intro e rest h; cases h
/-- A cluster memory of 64 bytes. -/
def sCl : State := { stM { tmM with cset := 1 } with ctxs := [{ cx with csets := [{ id := 1, kernel := 1, cluster := 0, size := 64, circuits := 0, parts := [], mem := [] }] }] }
theorem wit_sharedStores : Issues sCl { tmM with cset := 1 } ∧ InLevel sCl { tmM with cset := 1 } ⟨c0, 1, 6, .clm, .w, false⟩ ∧ sCl.reqs = [] ∧
    (match exec (.stcl c0 1 6 .w) sCl with | .next s => s.reqs.map (·.kind) == [.stl .clm .w] | _ => false) = true := by decide +kernel
theorem wit_localChecks : isNext (exec (.lds c0 0 4 false .w false) sM) (sM.trap tmM 7 0 4 0x1000A) = true ∧
    isNext (exec (.sts c0 1 3 false .w) sM) (sM.trap tmM 9 0 0xFFFF 0x10000) = true := by decide +kernel
/-- Offsets of slot (r7, lane l). -/
def regP : Reg := { full := true, uniform := false, bank := .per [0x7000, 0x7004, 0x7008, 0x700C, 0x7010, 0x7014, 0x7018, 0x701C, 0x7020, 0x7024, 0x7028, 0x702C, 0x7030, 0x7034, 0x7038, 0x703C] }
def tmP : Team := { tmM with frame := [regA, regB, regC, regP, regM, regN, regO, Reg.zero] }
theorem wit_aperture : Issues (stM tmP) tmP ∧ Readable tmP [3, 1] ∧
    (∀ l ∈ tmP.lanes, (tmP.get 3 l).toNat % 4 = 0 ∧ (tmP.get 3 l).toNat / 4096 % 512 < tmP.p ∧ (tmP.get 3 l).toNat / 4 % 1024 < tmP.nlanes) ∧
    isNext (exec (.sts c0 1 3 true .w) (stM tmP)) ((stM tmP).complete c0
      ((tmP.lanes.foldl (fun u l => u.setSlot 7 l (tmP.get 1 l)) tmP.drain).useMarks c0 [3] [])) = true ∧
    isNext (exec (.sts c0 1 4 true .w) (stM tmP)) ((stM tmP).trap tmP 7 0 4 0x1000A) = true ∧
    isNext (exec (.lds c0 1 6 true .w false) (stM tmP)) ((stM tmP).trap tmP 9 0 0xFFFF 0x10000) = true := by decide +kernel

/-! ### Requests on their way -/

/-- A lane at 0x20000 + 4 l with some data, and a request 7 of the team with one lane. -/
def lnW (st : LaneSt) (data : List Word) : Lane :=
  { lane := 1, va := 0x10004, pa := 0x20004, pa2 := 0x20008, cut := 4, attr := attW, dst := 0, data := data, got := [], spoil := [], via := [], st := st }
def rqW (k : ReqKind) (dests : List Nat) (ls : List Lane) : Req :=
  { id := 7, ctx := 0, team := 1, gen := 0, core := 0, kind := k, at_ := 0, pc := 0, dests := dests, mask := 2, lanes := ls, rays := [] }
def stR (r : Req) : State := { sM with reqs := [r], nextId := 8, focus := none }
/-- Whether a condition holds of the next state. -/
def nextHas (o : Host.Outcome State Fault Refusal) (p : State → Bool) : Bool := match o with | .next t => p t | _ => false

/-- Only lane 0 is active. -/
def tm1 : Team := { tmM with mask := 1 }
def sM1 : State := stM tm1
theorem wit_ldaIssue : Issues sM1 tm1 ∧ Readable tm1 [3, 6] ∧ sM1.capped tm1 = false ∧ tm1.count .s < 255 ∧ tm1.lanes = [0] ∧
    addr tm1 0 3 0 % 4 = 0 ∧ (tm1.get 6 0).toNat % 4 = 0 ∧ (tm1.get 6 0).toNat + 4 ≤ sM1.levelSize tm1 .core ∧
    nextHas (exec (.lda c0 6 3 0 .core 0 false) sM1) (fun s => s.reqs.map (·.kind) == [.lda .core 4 false]) = true := by decide +kernel
theorem wit_ldaIssue_spans : Spans sM1 tm1 0 3 4 0 0x20000 0x20004 4 attW Attr.none
    fun va p m b => sM1.unreachable p = false ∧ (b.raw = true → sM1.rawOutside 0 va p m = false) := by
  refine ⟨by decide +kernel, by decide +kernel, by decide +kernel, by decide +kernel, ?_, ?_⟩
  · rw [if_pos (by decide +kernel)]; decide +kernel
  · rw [if_neg (by decide +kernel)]; exact ⟨by decide +kernel, fun h => absurd h (by decide)⟩
def lnL : Lane := { lnW .pending [] with cut := 4, dst := 8 }
theorem wit_ldaLand : (stR (rqW (.lda .core 4 false) [] [lnL])).live (rqW (.lda .core 4 false) [] [lnL]) = true ∧
    tmM.earlierEntry 7 = false ∧ (stR (rqW (.lda .core 4 false) [] [lnL])).blocked 1 7 0x20004 4 = false ∧
    isNext (exec (.ldaLand 7) (stR (rqW (.lda .core 4 false) [] [lnL])))
      ((((stR (rqW (.lda .core 4 false) [] [lnL])).levelWrite tmM .core 1 8 [0x11, 0x22, 0, 0]).dropReq 7).settleCnt 1) = true := by decide +kernel
/-- The chisel table lies at 0x30000; its entry 0 holds `iadd v0, v0, v16` with GEN 4. -/
def cxC : Ctx := { cx with cht := 0x30000, cfg := 0x84004000 }
def sC (t : Team) : State := { stM t with ctxs := [cxC], mem := [(0x20004, 0x11), (0x20005, 0x22), (0x30000, 4), (0x30001, 0x81), (0x30004, 0x80), (0x30007, 1)] }
def reg0 : Reg := { full := true, uniform := false, bank := .per ([0x10000, 0x10040, 0x10080, 0x100C0, 0x10100, 0x10140, 0x10180, 0x101C0, 0x10200, 0x10240, 0x10280, 0x102C0, 0x10300, 0x10340, 0x10380, 0x103C0]) }
def tmC : Team := { tmM with frame := [reg0, regB, regC, regO, regM, regN, regS, Reg.zero] }
theorem wit_chxIssue : Issues (sC tmC) tmC ∧ Readable tmC [0, 1, 2, 3, 4] ∧ Installed (sC tmC) cxC 0 false 1 4 ∧
    (∀ l ∈ tmC.lanes, addr tmC 0 0 l % 64 = 0 ∧ Reaches (sC tmC) tmC 0 0 64 l (0x20000 + 64 * l) attW ∧ NoLoadAhead (sC tmC) tmC 64 (0x20000 + 64 * l)) ∧
    nextHas (exec (.chx 1 0 0 0) (sC tmC)) (fun s => s.reqs.map (·.kind) == [.chx 0 4 [0x01000080] false]) = true ∧
    isNext (exec (.chx 1 0 0 5) (sC tmC)) ((sC tmC).trap tmC 11 0 tmC.mask 0x10000) = true := by decide +kernel
/-- A uniform CHINST word: one word of code for entry 3, at the address in register 1 of lane 0. -/
def tmI : Team := { tmC with frame := [{ full := true, uniform := true, bank := .uni 0x83 }, { full := true, uniform := true, bank := .uni 0x10004 }, regC, regO, regM, regN, regS, Reg.zero] }
theorem wit_chiselInstall : Issues (sC tmI) tmI ∧ Readable tmI [0, 1, 2] ∧ Uniform tmI 0 ∧ Uniform tmI 1 ∧ (sC tmI).chi 0 = true ∧
    nextHas (exec (.chinst c0 2 0) (sC tmI)) (fun s => s.teams.map (·.hold) == [some (.chinst c0 2 0 3 3 0)]) = true ∧
    isNext (exec (.chinst c0 2 3) (sC tmI)) ((sC tmI).trap tmI 5 0 tmI.mask 3) = true := by decide +kernel
theorem wit_chiselInstall_spans : Spans (sC tmI) tmI 0 1 4 0 0x20004 0x20008 4 attW
    Attr.none (fun _ p _ b => (sC tmI).unreachable p = false ∧ b.rlf = false ∧ b.raw = false) := by
  refine ⟨by decide +kernel, by decide +kernel, by decide +kernel, by decide +kernel, ?_, ?_⟩
  · rw [if_pos (by decide +kernel)]; decide +kernel
  · rw [if_neg (by decide +kernel)]; exact ⟨by decide +kernel, fun h => absurd h (by decide)⟩
theorem wit_chinstDone : nextHas (exec (.chinstDone 1) (sC { tmI with hold := some (.chinst c0 2 0 3 3 0) }))
    (fun s => s.teams.map (fun t => (t.hold, t.pc, t.get 2 5)) == [(none, 4, 3)]) = true := by decide +kernel
theorem wit_chk : isNext (exec (.chk 0 3) sA) (sA.trap tmA 1 0 tmA.mask (encodeWord (.chk 0 3))) = true := by decide +kernel
/-- IADD is in the subset and its fields are, YIELD is not, and IADD of v40 is refused for its fields. -/
theorem wit_chiselEntry : chiselSubset 0x01000080 = true ∧ chiselFields 0x01000080 = true ∧ chiselSubset 0x37F1E024 = false ∧
    chiselSubset 0x01508000 = true ∧ chiselFields 0x01508000 = false ∧ chStatus 0 [0x01000080, 0x37F1E024] = (3, 1) := by decide +kernel
theorem wit_chiselTable : (sC tmI).ctx? 0 = some cxC ∧ cxC.cht.toNat + 128 * 3 + 128 ≤ dramEnd ∧
    ((sC tmI).chInstall 0 3 0 [0x01000080]).chCode 0 3 = [0x01000080] ∧ Installed ((sC tmI).chInstall 0 3 0 [0x01000080]) cxC 3 false 1 1 := by decide +kernel
theorem wit_xlt : Issues (sC tmI) tmI ∧ xltOp (.xltX2 c0 0) = some (c0, 0, 2) ∧ Readable tmI [7, 0] ∧ Uniform tmI 7 ∧
    isNext (exec (.xltX2 c0 6) (sC tmI)) ((sC tmI).trap tmI 5 0 tmI.mask (256 + 32 + 4)) = true ∧
    isNext (exec (.xltX2 c0 0) (sC tmI)) ((sC tmI).putTeam { tmI with hold := some (.walk c0 0 2 (0x83 + 2 ^ 32 * 0x10004)), st := .ready }) = true ∧
    nextHas (exec (.xltWalkDone 1) (sC { tmI with hold := some (.walk c0 0 2 0x10083) }))
      (fun s => s.teams.map (fun t => ((t.xl.getD 2 Xl.reset).vbase, (t.xl.getD 2 Xl.reset).limit, t.hold)) == [(0x10083, 0, none)]) = true := by decide +kernel
/-- Tables at 0x40000 whose leaf for page 1 is frame 2. -/
def sWk (t : Team) : State := { sC t with ctxs := [{ cxC with root := 0x40000 }], mem := [(0x40000, 1), (0x40002, 5), (0x50000, 1), (0x50002, 6), (0x60008, 3), (0x6000A, 2)] }
theorem wit_xlt_leaf : (sWk tmI).walk 0x40000 0x10083 = .leaf 0x20000 false attW ∧
    nextHas (exec (.xltWalkDone 1) (sWk { tmI with hold := some (.walk c0 0 2 0x10083) }))
      (fun s => s.teams.map (fun t => t.xl.getD 2 Xl.reset) == [{ vbase := 0x10083, frame := 0x20083, limit := 0xFF7D, attr := attW }]) = true := by decide +kernel
/-- Poisoned lines of the chisel table, of the routine read and of the page tables contain the context; clean ones do not (R209). -/
theorem wit_poisonedTables :
    (sC tmC).poisonIn 0x30000 128 = none ∧ (sC tmI).chPoison 0 3 = none ∧ (sC tmI).poisonIn 0x20004 4 = none ∧
    (sWk tmI).walkPoison 0x40000 0x10083 = none ∧ { sWk tmI with poisoned := [0x1400] }.walkPoison 0x40000 0x10083 = some 0x1400 ∧
    isNext (exec (.chx 1 0 0 0) { sC tmC with poisoned := [0xC01] }) ({ sC tmC with poisoned := [0xC01] }.contain 0 (some 0xC01)) = true ∧
    nextHas (exec (.chinst c0 2 0) { sC tmI with poisoned := [0x800] }) (fun s => s.ctxs.map (·.st) == [.rollingBack]) = true ∧
    (let s := { sWk { tmI with hold := some (.walk c0 0 2 0x10083) } with poisoned := [0x1400] }
     isNext (exec (.xltWalkDone 1) s) (s.contain 0 (some 0x1400))) = true := by decide +kernel

def rLd : Req := rqW (.ldg .w false false false) [5] [lnW .pending []]
theorem wit_loadMiss : AtLane (stR rLd) 7 1 rLd (lnW .pending []) ∧ InDram 0x20004 4 ∧ (stR rLd).blocked 1 7 0x20004 4 = false ∧
    (stR rLd).poisonIn 0x20004 4 = none ∧
    nextHas (exec (.l2MissServe 7 1) (stR rLd)) (fun s => s.reqs.map (·.lanes) == [[{ lnW .bound [] with got := [0x2211] }]] &&
      s.l1.map (fun c => (c.word, c.owned)) == [(0x4000, false)]) = true ∧
    isNext (exec (.l2MissServe 7 1) { stR rLd with poisoned := [0x800] }) ({ stR rLd with poisoned := [0x800] }.contain 0 (some 0x800)) = true := by decide +kernel
def rLb : Req := rqW (.ldg .w false false false) [5] [{ lnW .bound [] with got := [0x2211] }]
theorem wit_loadReturn : (stR rLb).req? 7 = some rLb ∧ (stR rLb).live rLb = true ∧ (stR rLb).team? 1 = some tmM ∧ tmM.gen = rLb.gen ∧
    nextHas (exec (.loadReturn 7) (stR rLb)) (fun s => s.reqs == [] && s.teams.map (fun t => (t.reg 5).bank.lane 1) == [0x2211]) = true ∧
    isNext (exec (.loadReturn 7) { stR rLb with teams := [{ tmM with gen := 1 }] }) ({ stR rLb with teams := [{ tmM with gen := 1 }] }.dropOld rLb) = true := by decide +kernel
def rCl : Req := rqW (.ldl .clm .w false) [5] [{ lnW .pending [] with va := 8, attr := Attr.none }]
theorem wit_loadReturn_shared : (stR rCl).live rCl = true ∧ (stR rCl).localBlocked 1 7 .clm 8 4 = false ∧
    nextHas (exec (.loadReturn 7) (stR rCl)) (fun s => s.reqs == []) = true := by decide +kernel
def cpy0 : Copy := { core := 0, word := 0x4000, val := 0x2211, owned := false, expiry := 5 }
theorem wit_leaseExpiry : { stR rLd with l1 := [cpy0], clock := 9 }.coreTime 0 = 9 ∧
    isNext (exec (.leaseExpiry 0 0x4000) { stR rLd with l1 := [cpy0], clock := 9 }) { stR rLd with l1 := [], clock := 9 } = true := by decide +kernel
def rSt : Req := rqW (.stg .w false false) [] [lnW .pending [0xAABBCCDD]]
theorem wit_storeRegistration : AtLane (stR rSt) 7 1 rSt (lnW .pending [0xAABBCCDD]) ∧ MemOk (stR rSt) ∧ (stR rSt).heldRelief rSt = false ∧
    (stR rSt).heldBack rSt (lnW .pending [0xAABBCCDD]) 4 = false ∧ (stR rSt).maqs = [] ∧ (stR rSt).surfaces = [] ∧
    nextHas (exec (.storeRegistration 7 1) (stR rSt)) (fun s => memRead s.mem 0x20004 4 == [0xDD, 0xCC, 0xBB, 0xAA] && (s.bankWord 0x4000).owner == some 0 &&
      s.reqs.map (fun r => r.lanes.map (·.st)) == [[.acked 0]]) = true := by decide +kernel
def rSl : Req := rqW (.stl .clm .w) [] [{ lnW .pending [5] with va := 8, attr := Attr.none }]
theorem wit_storeRegistration_local : AtLane (stR rSl) 7 1 rSl { lnW .pending [5] with va := 8, attr := Attr.none } ∧
    (stR rSl).localBlocked 1 7 .clm 8 4 = false ∧ isNext (exec (.storeRegistration 7 1) (stR rSl))
      (((stR rSl).levelWrite tmM .clm 1 8 [5, 0, 0, 0]).setLane rSl { lnW (.acked 0) [5] with va := 8, attr := Attr.none }) = true := by decide +kernel
def rRv : Req := rqW (.stg .w false false) [] [lnW (.registered [3] 4) [1]]
theorem wit_revocationAck : AtLane (stR rRv) 7 1 rRv (lnW (.registered [3] 4) [1]) ∧
    isNext (exec (.revocationAck 7 1) (stR rRv)) ((stR rRv).setLane rRv (lnW (.acked 0) [1])) = true := by decide +kernel
def rAk : Req := rqW (.stg .w false false) [] [lnW (.acked 4) [1]]
theorem wit_storeAck : AtLane (stR rAk) 7 1 rAk (lnW (.acked 4) [1]) ∧ (stR rAk).heldRelief rAk = false ∧
    nextHas (exec (.storeAck 7 1) (stR rAk)) (fun s => s.reqs == [] && s.deadlines.map (·.at_) == [14]) = true := by decide +kernel
def dl0 : Deadline := { id := 9, via := [], req := 7, ctx := 0, team := 1, core := 0, at_ := 14 }
theorem wit_deadline : isNext (exec (.localDeadlinePass 9) { sM with deadlines := [dl0], clock := 14 }) { sM with deadlines := [], clock := 14 } = true ∧
    isNext (exec (.localDeadlinePass 9) { sM with deadlines := [dl0], clock := 13 }) { sM with deadlines := [dl0], clock := 13 } = true := by decide +kernel
def rAt : Req := rqW (.atom .addb .device) [5, 6] [lnW .pending [0x10, 0x2221]]
theorem wit_atomExecute : AtLane (stR rAt) 7 1 rAt (lnW .pending [0x10, 0x2221]) ∧ (stR rAt).heldBack rAt (lnW .pending [0x10, 0x2221]) 4 = false ∧
    (stR rAt).poisonIn 0x20004 4 = none ∧ stored .addb 0x2211 0x10 0x2221 = some 0x2221 ∧
    nextHas (exec (.atomExecute 7 1) (stR rAt)) (fun s => memRead s.mem 0x20004 2 == [0x21, 0x22] &&
      s.reqs.map (fun r => r.lanes.map (·.got)) == [[[0x2211, 1]]]) = true := by decide +kernel
def rAr : Req := rqW (.atom .add .device) [5] [{ lnW (.acked 4) [1] with got := [7] }]
theorem wit_atomReturn : AtLane (stR rAr) 7 1 rAr { lnW (.acked 4) [1] with got := [7] } ∧
    isNext (exec (.atomResultReturn 7 1) { stR rAr with l1 := [cpy0] })
      (({ stR rAr with l1 := [] }.setDeadline rAr 4).landReq (rAr.setLane { lnW .done [1] with got := [7] })) = true := by decide +kernel
def lnX (st : LaneSt) : Lane := { lnW st [2, 3, 4, 5, 0x10000] with va := 0x10000, pa := 0x20000, pa2 := 0x20040, cut := 64 }
def rCh (st : LaneSt) (dst : Nat) : Req := rqW (.chx 0 4 [0x01000080] false) [1, 2, 3, 4] [{ lnX st with dst := dst }]
theorem wit_chiselRun : AtLane (stR (rCh .pending 0)) 7 1 (rCh .pending 0) (lnX .pending) ∧
    (stR (rCh .pending 0)).heldBack (rCh .pending 0) (lnX .pending) 64 = false ∧
    nextHas (exec (.chiselRun 7 1) (stR (rCh .pending 0))) (fun s => memWord s.mem 0x20000 == 2 && memWord s.mem 0x20004 == 0x2211) = true := by decide +kernel
theorem wit_chiselReturn : isNext (exec (.chiselResultReturn 7 1) (stR (rCh (.acked 0) 3)))
    ((((stR (rCh (.acked 0) 3)).setDeadline (rCh (.acked 0) 3) 0).dropReq 7).trap tmM 11 3 2 0x10000) = true := by decide +kernel
theorem wit_chiselWords : ∃ r : List Word, r.length = 32 ∧ chiselSubset 0x01000080 = true ∧ chiselFields 0x01000080 = true ∧
    decodeWord 0x01000080 = .ok (.iadd c0 0 0 16) ∧ ∃ o, regOp (.iadd c0 0 0 16) = some o ∧
    ∃ (t : Team) (l : Nat), ∀ f : Fld, f.toNat ≤ 31 ∨ f.toNat = 120 → t.get f l = chGet r f :=
  ⟨List.replicate 32 0, by decide +kernel, by decide +kernel, by decide +kernel, by decide +kernel, _, rfl,
    { tmB with p := 32, frame := List.replicate 32 Reg.zero }, 0, by decide +kernel⟩

/-! ### Well-formedness: for each check a term that it refuses -/

theorem test_wellFormed : Instr.wfError (.mov (.v0 false true) 3 4) = some .badControl ∧ Instr.wfError (.mov c0 121 4) = some .badDestination ∧
    Instr.wfError (.mms 100 0 8 0 true) = some .badRun ∧ Instr.wfError (.mms 40 121 8 0 true) = some .badField ∧
    Instr.wfError (.wrc c0 3 5) = some .badControlRegister ∧ Instr.wfError (.lds c0 3 4 true .b false) = some .badMemoryField ∧
    Instr.wfError (.mms 40 72 8 3 true) = some .badSelector ∧ Instr.wfError (.syn c0 .grid 4 3) = some .badBarrier ∧ Instr.wf (.iadd c0 3 0 1) = true := by decide +kernel
theorem wit_decodeEncode : Instr.wf (.mms 40 72 8 2 true) = true ∧ (encode (.mms 40 72 8 2 true)).isSome = true ∧
    encode (.iadd c0 3 0 1) = some 0x01060008 ∧ (match decodeWord 0x01060008#32 with | .ok i => i == .iadd c0 3 0 1 | .error _ => false) = true := by decide +kernel
theorem wit_exactSum : (∀ v ∈ [F 0x3F800000, F 0xBF000000], finite v = true) ∧ finite (F 0x3F800000) = true ∧ finite (F (rne32 (sumExact [F 0x3F800000, F 0xBF000000]))) = true ∧
    rne32 (sumExact [F 0x3F800000, F 0xBF000000]) = 0x3F000000 ∧ (F 0x3F800000).isNan = false := by decide +kernel
/-- A store by the next instruction, from a canonical memory. -/
def stMc : State := { stM { tmM with mask := 2 } with agenda := [.event (.storeRegistration 7 1)], reqs := [rSt], nextId := 8, focus := none }
theorem wit_memoryCanonical : MemOk stMc ∧ (match step stMc with | .next s => decide (MemOk s) && memWord s.mem 0x20004 == 0xAABBCCDD | _ => false) = true := by decide +kernel

/-! ### Matrices -/

/-- A team of 32 lanes of which lane 0 is active, with 128 registers; FMT says B16 by B16 in FP32. -/
def tmX : Team := { fetchTeam 1 with g := 32, nlanes := 32, mask := 1, fmt := 0, gangLo := 1 }
def sX : State := stOf tmX
theorem wit_matrixRegisters : Issues sX tmX ∧ (combo tmX.fmt).isSome = true ∧ Readable tmX (32 :: many 40 32) ∧
    isNext (exec (.mclr c0 40) sX) (sX.complete c0 (tmX.write tmX ((many 40 32).map fun f => (f, fun _ => 0)))) = true ∧
    isNext (exec (.mqpk c0 8 16) sX) (sX.complete c0 (tmX.write tmX [(8, fun _ => 0)])) = true := by decide +kernel
theorem wit_matrixRegisters_illegal : combo 7 = none ∧ combo 5 = none ∧
    isNext (exec (.mscl c0 40 0) (stOf { tmX with fmt := 7 })) ((stOf { tmX with fmt := 7 }).trap { tmX with fmt := 7 } 1 0 1 (encodeWord (.mscl c0 40 0))) = true := by decide +kernel
theorem wit_mcvt : af tmX = 0 ∧ cf tmX = false ∧ (8 : Fld).toNat + 16 ≤ 120 ∧ Readable tmX (many 40 32 ++ many 8 16) ∧
    isNext (exec (.mcvt c0 8 40) sX) (sX.complete c0 (tmX.write tmX ((many 8 16).map fun f => (f, fun _ => 0)))) = true ∧
    isNext (exec (.mcvt c0 110 40) sX) (sX.trap tmX 1 0 1 (encodeWord (.mcvt c0 110 40))) = true := by decide +kernel
theorem wit_mabs : Readable tmX (8 :: many 40 32) ∧
    isNext (exec (.mabs c0 8 40) sX) (goes sX tmX c0 (many 40 32) .mabs [8] none [values 0 [0]]) = true := by decide +kernel
def rMa : Req := { rqW .mabs [8] [values 0 [7]] with mask := 1 }
def sMa : State := { sX with reqs := [rMa] }
theorem wit_mabsResult : sMa.live rMa = true ∧ isNext (exec (.mabsResult 7) sMa) (sMa.landReq rMa) = true := by decide +kernel
/-- An FMT for each clause of the accumulation. -/
theorem wit_matrixArithmetic : combo 0 ≠ none ∧ combo 33 ≠ none ∧ combo 91 ≠ none ∧ combo 603 ≠ none ∧ combo 173 ≠ none := by decide +kernel
/-- One chunk of ones: 16 products. -/
theorem test_matElem : matElem 0 16 (fun _ => some (.fin false 1 0)) (fun _ => .fin false 1 0) (fun _ => 0) 0x3F800000 = 0x41880000 := by decide +kernel
theorem wit_soloTiles : tileOp (.mma 40 0 8 true false) = some ⟨40, 0, 8, true, false, none⟩ ∧ Issues sX tmX ∧ tmX.gangLo.toNat % 8 = 1 ∧
    tmX.frame.length = tmX.p ∧ nextHas (exec (.mma 40 0 8 true false) sX) (fun s => s.reqs.map (fun r => (r.kind, r.lanes.length)) == [(.tile none none, 1)]) = true :=
  ⟨rfl, by decide +kernel⟩
theorem wit_soloTiles_fits : ∃ c, combo tmX.fmt = some c ∧ TileFits tmX ⟨40, 0, 8, true, false, none⟩ c ∧
    Readable tmX (tileSources tmX ⟨40, 0, 8, true, false, none⟩ c ++ many 40 32) := ⟨_, rfl, by decide +kernel⟩
theorem wit_soloTiles_illegal : combo 7 = none ∧ isNext (exec (.mma 40 0 8 true false) (stOf { tmX with nlanes := 16 }))
    ((stOf { tmX with nlanes := 16 }).trap { tmX with nlanes := 16 } 1 0 1 (encodeWord (.mma 40 0 8 true false))) = true := by decide +kernel
/-- A member of a gang of two. -/
def tmG : Team := { tmX with gangLo := 2 }
theorem wit_gangTiles : Issues (stOf tmG) tmG ∧ tmG.gangCount ≠ 1 ∧ (stOf tmG).gangOk tmG = false ∧ (stOf tmG).latch? 0 0 tmG.gangTag = none ∧
    isNext (exec (.mma 40 0 8 true false) (stOf tmG)) ((stOf tmG).trap tmG 10 0 1 (BitVec.ofNat 32 tmG.gangTag)) = true := by decide +kernel
def rTi (k : ReqKind) : Req := { rqW k [40, 41] [values 0 [3, 0xC0000000]] with mask := 1 }
def sTi (k : ReqKind) : State := { sX with reqs := [rTi k] }
theorem wit_tileWrite : (sTi (.tile none none)).live (rTi (.tile none none)) = true ∧
    nextHas (exec (.tileWrite 7) (sTi (.tile none none))) (fun s => s.reqs == [] && s.teams.map (fun t => (t.reg 40).bank.lane 0) == [3]) = true ∧
    nextHas (exec (.tileWrite 7) (sTi (.tile (some { va := 0x10000, pa := 0x20000, via := [], came := 7 }) none)))
      (fun s => s.reqs.map (fun r => r.lanes.map (fun x => (x.pa, x.data))) == [[(0x20000, [0x40000000])]]) = true := by decide +kernel
/-- Two teams of core 0 that form a gang: slots 0 and 1. -/
def tmG0 : Team := { tmX with gangLo := 0x200002 }
def tmG1 : Team := { tmX with id := 2, slot := 1, gangLo := 0x20000A }
def sG : State := { stOf tmG0 with teams := [tmG0, tmG1], order := [1, 2] }
theorem wit_gangTiles_first : Issues sG tmG0 ∧ sG.gangOk tmG0 = true ∧ sG.latch? 0 0 0 = none ∧ sG.latchesOf 0 < 32 ∧
    nextHas (exec (.mma 40 0 8 true false) sG) (fun s => s.teams.map (·.st) == [.waitingLatch (.gang 0 0), .ready]) = true := by decide +kernel
theorem wit_gangTiles_hyp : ∃ c, combo tmG0.fmt = some c ∧ (tmG0.bRun ⟨40, 0, 8, true, false, none⟩ c ≠ 0 → 8 + tmG0.bRun ⟨40, 0, 8, true, false, none⟩ c ≤ 120) ∧
    Readable tmG0 (many 0 (c.na + 0) ++ many 8 (tmG0.bRun ⟨40, 0, 8, true, false, none⟩ c) ++ many 40 32) := ⟨_, rfl, by decide +kernel⟩

/-! ### Barriers, fences, batches -/

/-- Circuits: the team's barrier 0, held by one group; the grid barrier 2 of two teams; the grid barrier 3 with an arrival of this team. -/
def circs : List Circuit :=
  [{ key := .team 1 0, phase := 0, count := 0, expected := none, membership := 1, arrived := [] },
   { key := .grid 1 2, phase := 4, count := 0, expected := none, membership := 2, arrived := [] },
   { key := .grid 1 3, phase := 4, count := 1, expected := some 2, membership := 2, arrived := [1] }]
def stC (t : Team) : State := { stOf t with ctxs := [{ cx with circuits := circs }] }
def sBa : State := stC tmA
theorem wit_barrierMisuse : Issues sBa tmA ∧ Readable tmA [124, 3] ∧ ¬Usable sBa tmA .team 1 ∧
    isNext (exec (.arv c0 .team 1 124) sBa) (sBa.trap tmA 12 0 tmA.mask 68) = true ∧
    isNext (exec (.trySync c0 .team 1 3) sBa) (sBa.trap tmA 12 0 tmA.mask 71) = true := by decide +kernel
theorem usable_team0 (s : State) (t : Team) (hs : s = sBa) (ht : t = tmA) : Usable s t .team 0 := by
  subst hs; subst ht
  exact ⟨fun h => (nomatch h), by decide +kernel⟩
theorem wit_barrierMisuse_count : ∃ k, sBa.circuit? 0 (.team 1 0) = some k ∧ k.membership < named k 5 ∧ (.team 1 0, [0]) ∈ reached tmA .team 0 ∧
    isNext (exec (.syn c0 .team 0 124) sBa) (sBa.trap tmA 12 0 tmA.mask 65) = true :=
  ⟨{ key := .team 1 0, phase := 0, count := 0, expected := none, membership := 1, arrived := [] }, by decide +kernel⟩
theorem wit_arrivals : Issues sBa tmA ∧ Readable tmA [125] ∧ reached tmA .team 0 = [(.team 1 0, [0])] ∧ tmA.arvs = [] ∧ sBa.reqs = [] ∧ sBa.deadlines = [] ∧
    nextHas (exec (.syn c0 .team 0 125) sBa) (fun s => (s.circuit? 0 (.team 1 0)).map (·.phase) == some 1 && s.teams.map (fun t => (t.st, t.pc)) == [(.ready, 4)]) = true ∧
    nextHas (exec (.syn c0 .grid 2 125) sBa) (fun s => s.teams.map (·.st) == [.waitingBarrier [{ key := .grid 1 2, phase := 4 }]]) = true := by decide +kernel
theorem wit_arrivals_hyp : Usable sBa tmA .team 0 ∧ Usable sBa tmA .grid 2 := by
  refine ⟨usable_team0 _ _ rfl rfl, ⟨fun _ => rfl, by decide +kernel⟩⟩
/-- A store of the team is on its way: no release holds. -/
def sBs : State := { sBa with reqs := [rqW (.stg .w false false) [] [lnW .pending [1]]], nextId := 8 }
theorem wit_arrivals_later : ¬Released sBs 1 (scopeAt .grid) ∧
    nextHas (exec (.arv c0 .grid 2 125) sBs) (fun s => s.teams.map (fun t => (t.st, t.arvs.map (·.upto))) == [(.ready, [8])]) = true ∧
    nextHas (exec (.syn c0 .grid 2 125) sBs) (fun s => s.teams.map (·.st) == [.waitingArrival (.grid 1 2) false]) = true := by
  refine ⟨?_, by decide +kernel, by decide +kernel⟩
  rintro (h | ⟨-, h, -⟩)
  · cases h
  · exact absurd (h _ (List.mem_cons_self ..) rfl (by decide)).1 (by decide)
theorem wit_waits : nextHas (exec (.wt c0 .grid 3) sBa) (fun s => s.teams.map (·.st) == [.waitingBarrier [{ key := .grid 1 3, phase := 4 }]]) = true ∧
    reached tmA .grid 3 = [(.grid 1 3, [1])] ∧
    isNext (exec (.trySync c0 .grid 3 125) sBa) (sBa.trap tmA 12 0 tmA.mask 0) = false ∧
    isNext (exec (.trySync c0 .grid 3 125) sBa) (sBa.complete c0 (tmA.write tmA [(125, fun _ => 0)])) = true ∧
    isNext (exec (.trySync c0 .grid 2 125) sBa) (sBa.complete c0 (tmA.write tmA [(125, fun _ => 1)])) = true ∧
    nextHas (exec (.trySync c0 .grid 3 124) sBa) (fun s => s.teams.map (·.st) == [.suspended { key := .grid 1 3, phase := 4 } 5]) = true := by decide +kernel
def tmU : Team := { tmA with st := .suspended { key := .grid 1 3, phase := 4 } 5, finish := .tryDone c0 3 .grid 3 }
theorem wit_tryHint : { stC tmU with clock := 5 }.coreTime 0 = 5 ∧
    nextHas (exec (.tryHintExpiry 1) { stC tmU with clock := 5 }) (fun s => s.teams.map (fun t => (t.pc, t.st, t.get 3 1)) == [(4, .ready, 0)]) = true := by decide +kernel
theorem wit_fences : Issues sBa tmA ∧ isNext (exec (.fenceAr c0 .device) { sBa with l1 := [cpy0] }) ((sBa.putTeam { tmA with pc := 4 }).yieldIf c0 1) = true ∧
    nextHas (exec (.fenceRel c0 .device) sBs) (fun s => s.teams.map (·.st) == [.waitingCounter (.release .device 8)]) = true := by decide +kernel
/-- A load of the team has not bound yet. -/
def sBl : State := { sBa with reqs := [rLd], nextId := 8 }
theorem wit_fences_acquire : rLd.kind.isLoad = true ∧ rLd.team = tmA.id ∧ rLd.id < sBl.nextId ∧
    nextHas (exec (.fenceAcq c0 .cluster) sBl) (fun s => s.teams.map (fun t => (t.st, t.finish)) == [(.waitingCounter (.bound .cluster 8), .acquire .cluster)]) = true := by decide +kernel
/-- One entry of path G, two sealed batches of which the second holds a failed command. -/
def cmd (n : Nat) (failed complete : Bool) : Copyc :=
  { id := n, ctx := 0, team := some 1, entry := none, src := 0x10000, dst := 0x10000, chip := false, n := 4, credit := none, failed := failed, complete := complete,
    ready := none, spoil := [], wrote := [], via := [] }
def tmW : Team := { tmA with cnt := [(.g, 7)], sealed := 2, batches := [{ num := 1, cmds := [3], reported := false }, { num := 2, cmds := [4], reported := false }], k := [1, 0, 2, 3] }
def stK (cs : List Copyc) : State := { stOf tmW with copies := cs, nextId := 8 }
theorem wit_waitc : Issues (stK []) tmW ∧ tmW.count .g = 1 ∧ isNext (exec (.waitcG c0 124) (stK [])) ((stK []).complete c0 tmW) = true ∧
    nextHas (exec (.waitcG c0 125) (stK [])) (fun s => s.teams.map (fun t => (t.pc, t.st)) == [(4, .waitingCounter (.cnt .g 0))]) = true := by decide +kernel
theorem wit_seal : nextHas (exec (.seal c0 3) (stK [])) (fun s => s.teams.map (fun t => (t.sealed, t.get 3 2)) == [(3, 3)]) = true := by decide +kernel
theorem wit_waitb : (stK [cmd 3 false true, cmd 4 true false]).copyFailed 4 = true ∧
    nextHas (exec (.waitb c0 124) (stK [cmd 3 false true, cmd 4 true false])) (fun s => s.teams.map (fun t => t.pc) == [4]) = true ∧
    nextHas (exec (.waitb c0 126) (stK [cmd 3 false true, cmd 4 true false])) (fun s => s.teams.map (fun t => (t.trapc, t.trapa)) == [(9, 2), (0, 0)]) = true ∧
    nextHas (exec (.waitb c0 124) (stK [cmd 3 false false])) (fun s => s.teams.map (·.st) == [.waitingCounter (.batches 1)]) = true ∧
    isNext (exec (.waitb c0 125) (stK [])) ((stK []).complete c0 tmW) = true := by decide +kernel
/-- A copy of 4 bytes within page 1, from a team whose context has a channel. -/
def uni (x : Word) : Reg := { full := true, uniform := true, bank := .uni x }
def tmY : Team := { tmM with frame := [uni 0x10000, uni 0x10004, uni 4, uni 0, regM, regN, regS, Reg.zero] }
def sY (t : Team) : State := { stM t with ceOwn := [0x80000000] }
theorem wit_copyIssue : Issues (sY tmY) tmY ∧ Readable tmY [0, 1, 2, 3] ∧ (sY tmY).ownsChannel 0 = true ∧ (sY tmY).reqs = [] ∧
    nextHas (exec (.cpy c0 0) (sY tmY)) (fun s => s.copies.map (fun k => (k.src, k.dst, k.n, k.complete)) == [(0x10000, 0x10004, 4, false)] &&
      s.teams.map (·.openBatch) == [[2]]) = true ∧
    isNext (exec (.cpy c0 0) (stM tmY)) ((stM tmY).trap tmY 9 0 tmY.mask 0) = true ∧
    isNext (exec (.cpy c0 3) (sY tmY)) ((sY tmY).trap tmY 5 0 tmY.mask 4) = true := by decide +kernel

/-! ### Children, rings, services, reordering, the SYS class -/

/-- SPAWN: entry 0x40, P 8 * 4 = 32, 16 lanes, 1 child, no record. -/
def tmSp (r1 : Word) : Team := { tmM with frame := [uni 0x40, uni r1, uni 1, uni 0, regM, regN, regS, Reg.zero] }
def kSp : Kernel := { fetchKernel with desc := { fetchKernel.desc with nest := 1 } }
def sSp (t : Team) : State := { stM t with ctxs := [{ cx with kernels := [kSp], quota := 4 }] }
theorem wit_spawn : Issues (sSp (tmSp 0x40010)) (tmSp 0x40010) ∧ Readable (tmSp 0x40010) (run 0 4 ++ [7]) ∧ (∀ i : Nat, i < 4 → Uniform (tmSp 0x40010) (fplus 0 i)) ∧
    ¬SpawnBad (tmSp 0x40010) kSp.desc 0x40 0x40010 1 0 ∧
    nextHas (exec (.spawn c0 7 0) (sSp (tmSp 0x40010))) (fun s => s.ctxs.map (fun c => (c.quota, c.children.map (fun y => (y.p, y.lanes, y.handle)))) == [(3, [(32, 16, 1)])] &&
      s.teams.map (fun t => t.get 7 0) == [0x10000]) = true := by decide +kernel
theorem wit_spawn_bad : SpawnBad (tmSp 0x40011) kSp.desc 0x40 0x40011 1 0 ∧
    nextHas (exec (.spawn c0 7 0) (sSp (tmSp 0x40011))) (fun s => s.teams.map (fun t => t.get 7 0) == [3]) = true ∧
    nextHas (exec (.spawn c0 7 0) { sSp (tmSp 0x40010) with ctxs := [{ cx with kernels := [kSp], quota := 0 }] }) (fun s => s.teams.map (fun t => t.get 7 0) == [1]) = true ∧
    nextHas (exec (.spawn c0 7 0) { sSp (tmSp 0x40010) with ctxs := [{ cx with quota := 4 }] }) (fun s => s.teams.map (fun t => t.get 7 0) == [2]) = true := by decide +kernel
def tmJc : Team := { tmA with k := [0x10000, 0x20000, 0, 0], handles := [{ hd := 1, children := [5] }] }
theorem wit_joinc : Issues (stOf tmJc) tmJc ∧ Released (stOf tmJc) 5 .device ∧ (stOf tmJc).team? 5 = none ∧
    nextHas (exec (.joinc c0 124) (stOf tmJc)) (fun s => s.teams.map (fun t => (t.pc, t.handles)) == [(4, [])]) = true ∧
    isNext (exec (.joinc c0 125) (stOf tmJc)) ((stOf tmJc).trap tmJc 9 0 tmJc.mask 0x20000) = true ∧
    nextHas (exec (.joinc c0 124) { stOf tmJc with teams := [tmJc, { tmA with id := 5 }] }) (fun s => s.teams.map (·.st) == [.waitingCounter (.children 1), .ready]) = true := by
  refine ⟨by decide +kernel, Or.inr ⟨?_, ?_, ?_⟩, by decide +kernel, by decide +kernel, by decide +kernel, by decide +kernel⟩ <;> intro r hr <;> cases hr
/-- A ring of slice 0 with two slots of 64 bytes: CFG EN, LOG2S 6, CNT1 1. -/
def slotOf (st : SlotSt) : Slot := { st := st, credit := 4, exp := 0, fail := false }
def ring (a b : SlotSt) : Rcb := { key := .slice 3, cfg := 0x86010000, base := 0x10000, ovf := 0, head := 0, tail := 1, slots := [slotOf a, slotOf b] }
def stRg (r : Rcb) (t : Team) : State := { stOf t with ctxs := [{ cx with rcbs := [r] }] }
def tmRg : Team := { tmA with k := [0x43, 0, 0, 0], frame := [regA, regB, uni 0x43, uni 4, uni 0x143, uni 4, Reg.zero, Reg.zero] }
theorem wit_rings : Issues (stRg (ring .full .empty) tmRg) tmRg ∧ Readable tmRg [124, 6, 7] ∧ Uniform tmRg 124 ∧ (stRg (ring .full .empty) tmRg).rcb 0 (ringOf tmRg 0x43) = ring .full .empty ∧
    SlotIs (ring .full .empty) 1 (slotOf .empty) ∧
    nextHas (exec (.racq c0 6 124) (stRg (ring .full .empty) tmRg)) (fun s => s.teams.map (fun t => (t.get 6 1, t.get 7 1)) == [(1, 64)]) = true ∧
    nextHas (exec (.rpeek c0 6 124) (stRg (ring .full .empty) tmRg)) (fun s => s.teams.map (fun t => (t.get 6 1, t.get 7 1)) == [(0, 0)] &&
      s.ctxs.map (fun c => c.rcbs.map (fun r => (r.head, r.slots.map (·.st)))) == [[(1, [.peeked, .empty])]]) = true ∧
    nextHas (exec (.racq c0 6 124) (stRg (ring .full .full) tmRg)) (fun s => s.teams.map (·.st) == [.parked (.racq (.slice 3))]) = true ∧
    isNext (exec (.racq c0 6 125) (stRg (ring .full .full) tmRg)) ((stRg (ring .full .full) tmRg).trap tmRg 9 0 tmRg.mask 0) = true := by decide +kernel
theorem wit_ringCommit : SlotOperand (ring .peeked .acquired) 0x143 ∧ (∀ f ∈ run 4 2, Uniform tmRg f) ∧
    nextHas (exec (.rcom c0 4) (stRg (ring .peeked .acquired) tmRg)) (fun s => s.ctxs.map (fun c => c.rcbs.map (fun r => r.slots.map (·.st))) == [[[.peeked, .full]]]) = true ∧
    nextHas (exec (.rrel c0 2) (stRg (ring .peeked .acquired) tmRg)) (fun s => s.ctxs.map (fun c => c.rcbs.map (fun r => r.slots.map (·.st))) == [[[.empty, .acquired]]]) = true ∧
    nextHas (exec (.rrel c0 4) (stRg (ring .peeked .acquired) tmRg)) (fun s => s.ctxs.map (fun c => c.rcbs.map (·.ovf)) == [[1]]) = true ∧
    isNext (exec (.rcom c0 2) (stRg (ring .peeked .acquired) tmRg)) ((stRg (ring .peeked .acquired) tmRg).trap tmRg 9 0 tmRg.mask 0x43) = true := by decide +kernel
def tmRc : Team := { tmRg with st := .waitingCounter (.release .device 2), finish := .rcom c0 4 (.slice 3) 1 4 }
theorem wit_rcomCommit : (stRg (ring .peeked .acquired) tmRc).releaseDone 1 .device 2 = true ∧
    nextHas (exec (.rcomCommit 1) (stRg (ring .peeked .acquired) tmRc)) (fun s => s.ctxs.map (fun c => c.rcbs.map (fun r => r.slots.map (·.st))) == [[[.peeked, .full]]] &&
      s.teams.map (fun t => (t.pc, t.st)) == [(4, .ready)]) = true := by decide +kernel
theorem wit_services : Issues sA tmA ∧ Readable tmA (run 0 4) ∧ sA.reqs = [] ∧ sA.deadlines = [] ∧ cx.sysc = [] ∧
    nextHas (exec (.sysct c0 0) { sBs with teams := [tmA] }) (fun s => s.teams.map (·.st) == [.waitingCounter (.release .system 8)]) = true := by decide +kernel
def fullSysc : List SyscEntry := (List.range 256).map fun n => { n := n, st := .posted, reply := [], team := 9, words := [], dests := [], mask := 1 }
theorem wit_services_full : (∀ n < 256, ∃ e ∈ fullSysc, e.n = n) ∧
    nextHas (exec (.sysct c0 0) { sA with ctxs := [{ cx with sysc := fullSysc }] }) (fun s => s.teams.map (fun t => t.get 0 2) == [0xFFFFFFFF]) = true := by
  refine ⟨fun n hn => ⟨_, List.mem_map_of_mem (List.mem_range.2 hn), rfl⟩, by decide +kernel⟩
def sRe : State := { sA with ctxs := [{ cx with sysc := [{ n := 3, st := .posted, reply := [], team := 1, words := [], dests := [0, 1, 2, 3], mask := 1 }] }], focus := none }
theorem wit_syscReply : Runs sRe 0 { cx with sysc := [{ n := 3, st := .posted, reply := [], team := 1, words := [], dests := [0, 1, 2, 3], mask := 1 }] } ∧ (1 : Mask) &&& tmA.landing ≠ 0 ∧
    nextHas (exec (.syscReply 0 3 11 12 13 14) sRe) (fun s => s.ctxs.map (fun c => c.sysc.map (fun e => (e.n, e.reply))) == [[(3, [11, 12, 13, 14])]]) = true ∧
    isNext (exec (.syscReply 0 3 0xFFFFFFFF 0 0 0) sRe) sRe = true := by decide +kernel
/-- The reply lands in the lanes of the mask, and its entry is Delivered; the next step frees it. -/
theorem wit_sysc_delivery : (let e : SyscEntry := { n := 3, st := .serviced, reply := [11, 12, 13, 14], team := 1, words := [], dests := [0, 1, 2, 3], mask := 1 }
    let s := { sRe with ctxs := [{ cx with sysc := [e] }] }
    ((s.deliverReply 0 e).teams.map (fun t => ((t.reg 1).bank.lane 0, (t.reg 1).bank.lane 1)), (s.settleSysc 0).ctxs.map (fun c => c.sysc.map (·.st))) ==
      ([(12, 0xBEFFFFFC)], [[.delivered]])) = true := by decide +kernel
/-- Live masks select v0; the keys lie in v2. -/
def kRo : Kernel := { fetchKernel with desc := { fetchKernel.desc with reord := 1 } }
def tmRo : Team := { tmA with k := [1, 0, 0, 0] }
def sRo : State := { stOf tmRo with ctxs := [{ cx with kernels := [kRo] }] }
theorem wit_reorder : Issues sRo tmRo ∧ Readable tmRo (2 :: Claims.live tmRo ++ [3]) ∧
    nextHas (exec (.reord c0 3 2) sRo) (fun s => s.teams.map (fun t => (t.pc, t.gen, t.st, (t.reg 3).bank.lane 5)) == [(4, 1, .ready, 5)]) = true := by decide +kernel
theorem wit_systemReads : Issues sA tmA ∧ isNext (exec (.trapI c0 124) sA) (sA.trap tmA 15 0 tmA.mask 5) = true ∧
    isNext (exec (.bkpt c0) sA) (sA.trap tmA 14 0 tmA.mask (encodeWord (.bkpt c0))) = true ∧
    isNext (exec (.rdtime c0 4) { sA with clock := 2 ^ 32 + 7 }) (puts { sA with clock := 2 ^ 32 + 7 } tmA c0 [] [(4, 7), (5, 1)]) = true ∧
    isNext (exec (.rdid c0 3) sA) (puts sA tmA c0 [] [(3, 0x09600001), (4, 1), (5, 0), (6, 0)]) = true ∧
    isNext (exec (.halt c0 3) sA) (sA.trap tmA 2 0 tmA.mask (encodeWord (.halt c0 3))) = true := by decide +kernel
/-- A handler team: k0 names the event, k1 the context register STAT. -/
def tmHd : Team := { tmA with kind := .handler 6, privileged := true, k := [6, 0x1, 0x4, 9] }
theorem wit_systemControl : Issues (stOf tmHd) tmHd ∧ Uniform tmHd 125 ∧
    isNext (exec (.csrr c0 3 125) (stOf tmHd)) (puts (stOf tmHd) tmHd c0 [125] [(3, 0x20000000)]) = true ∧
    nextHas (exec (.csrw c0 3 126) (stOf tmHd)) (fun s => s.ctxs.map (·.xscr) == [0] && s.teams.map (fun t => t.get 3 0) == [4]) = true ∧
    nextHas (exec (.halt c0 127) (stOf tmHd)) (fun s => s.teams.map (fun t => (t.trapc, t.trapa)) == [(9, 9), (0, 0)]) = true ∧
    nextHas (exec (.halt c0 3) (stOf tmHd)) (fun s => s.ctxs.map (fun c => (c.st, c.haltPending)) == [(.switchingOut, true)]) = true ∧
    isNext (exec (.eret c0 3) (stOf tmHd)) (((stOf tmHd).evdone 0 6 0).exitLanes tmHd tmHd.alive) = true := by decide +kernel
theorem wit_systemControl_bad : isNext (exec (.csrr c0 3 0) (stOf tmHd)) ((stOf tmHd).trap tmHd 5 0 tmHd.mask 0) = true ∧ ¬Uniform tmHd 0 ∧
    isNext (exec (.eret c0 3) (stOf { tmHd with kind := .ordinary })) ((stOf { tmHd with kind := .ordinary }).trap { tmHd with kind := .ordinary } 9 0 tmHd.mask 0) = true := by decide +kernel
theorem wit_contextRegister : (sA.writeCtxReg cx 0x12 0).isSome = true ∧ (sA.writeCtxReg cx 0x13 0).isSome = false ∧ sA.rcbReg 0 0x400 = some (.slice 0, 0) := by decide +kernel

/-! ### The device, teams and kernels -/

def sOff : State := { stB with dev := .off }
theorem wit_resetFreeze : nextHas (exec .powerGood sOff) (fun s => s.dev == .reset) = true ∧
    nextHas (exec .resetRelease { sOff with dev := .reset, freezePin := true }) (fun s => s.dev == .frozen) = true ∧
    nextHas (exec .resetRelease { sOff with dev := .reset }) (fun s => s.dev == .awaiting) = true ∧
    nextHas (exec .freezePinAssert stB) (fun s => s.dev == .frozen) = true ∧ Freezes stB ∧ ¬Freezes sOff := by decide +kernel
def sFw : State := { stB with dev := .verifying, fw := { stB.fw with staging := [(4, 0x80), (8, 0x40), (3, 1)] } }
theorem wit_firmwareLoad : LenOk { sFw with fw := { stB.fw with staging := [(3, 1), (4, 0x80), (8, 0x40)] } } ∧ ¬LenOk { sFw with fw := { stB.fw with staging := [] } } ∧
    nextHas (exec .firmwareVerifyDone { sFw with fw := { stB.fw with staging := [] } }) (fun s => s.dev == .awaiting && s.fw.stat == 5) = true ∧
    nextHas (exec (.fwCmdVerify 1) { sFw with dev := .awaiting }) (fun s => s.dev == .verifying) = true ∧
    nextHas (exec (.stagingWindowWrite 4 [0x80]) { sFw with dev := .awaiting, fw := { stB.fw with staging := [] } }) (fun s => s.fw.staging == [(4, 0x80)]) = true := by decide +kernel
theorem wit_heatAndTap : nextHas (exec (.thermalThrottle 2) stB) (fun s => s.throttled == [2]) = true ∧
    nextHas (exec (.thermalTrip 2) stB) (fun s => s.thermal && s.dev == .reset) = true ∧
    nextHas (exec .tapIdcode stB) (fun s => s.tap.out == 0x1096022F) = true ∧
    nextHas (exec (.tapFrzsel 5) { stB with dev := .frozen }) (fun s => s.tap.sel == 5) = true := by decide +kernel
/-- A kernel of two teams that is being placed. -/
def kPl : Kernel := { fetchKernel with st := .placing, next := 0, desc := { fetchKernel.desc with teams := 2 } }
def sPl : State := { stB with ctxs := [{ cx with kernels := [kPl] }], focus := none, order := [] }
theorem wit_teamPlacement : Runs sPl 0 { cx with kernels := [kPl] } ∧ ({ cx with kernels := [kPl] } : Ctx).kernel? 1 = some kPl ∧ kPl.st = .placing ∧
    sPl.elderWork { cx with kernels := [kPl] } = false ∧ (sPl.tryUnit 0 kPl).isSome = true ∧
    nextHas (exec (.teamPlace 0 1) sPl) (fun s => s.teams.map (fun t => (t.tid, t.st, t.p, t.mask == 0xFFFF)) == [(0, .placed, 128, true)]) = true := by decide +kernel
def chd : Child := { id := 5, kernel := 1, parent := 1, parentTid := 0, parentCore := 0, handle := 1, status := 0x10000, index := 0, entry := 0x40, p := 32, lanes := 16,
                     scr := 0, record := [], depth := 1, upto := 2 }
def sCd : State := { stB with ctxs := [{ cx with kernels := [fetchKernel, { kPl with id := 2, st := .submitted }], children := [chd] }], focus := none, order := [] }
theorem wit_otherPlacement : sCd.releaseDone 1 .device 2 = true ∧
    nextHas (exec (.distributorTakeKernel 0 2) sCd) (fun s => s.ctxs.map (fun c => c.kernels.map (·.st)) == [[.running, .placing]]) = true ∧
    nextHas (exec (.childPlace 0 5) sCd) (fun s => s.teams.map (fun t => (t.id, t.pc, t.p)) == [(5, 0x40, 32)] && s.ctxs.map (·.children) == [[]]) = true := by decide +kernel
def ins : Inst := { id := 6, bind := 0, kernel := 1, k := 0, amend := true, recd := [], team := none }
/-- A binding: windows of 64 that slide by 32, late until 100. -/
def bnd : Binding := { idx := 0, va := 0x18000, pa := 0x28000, paneoff := 0, ovfbase := 0x10200, kernel := 1, out := false, instr := 0, outstr := 0, outsrc := 0, length := 64, slide := 32, offset := 0, late := 100,
                       resbase := 0x10000, resn := 0, logbase := 0x10000, logn := 0, lcount := 3, panesz := 256, ovfsz := 0, panes := [], wins := [], last := none, unbound := false }
def sIn : State := { stB with ctxs := [{ cx with kernels := [{ fetchKernel with desc := { fetchKernel.desc with strm := true, amend := 0x80 } }], insts := [ins], bindings := [bnd] }], focus := none, order := [] }
theorem wit_instancePlace : nextHas (exec (.instancePlace 0 6) sIn) (fun s => s.teams.map (fun t => (t.kind, t.pc)) == [(.amend 6, 0x80)]) = true := by decide +kernel
def tmEx : Team := { tmA with mask := 0, st := .issuing }
def sEx : State := { stC tmEx with focus := none }
theorem wit_teamExited : sEx.team? 1 = some tmEx ∧ tmEx.mask = 0 ∧ tmEx.arvs = [] ∧ sEx.reqs = [] ∧
    nextHas (exec (.teamExited 1) sEx) (fun s => s.teams.map (·.st) == [.exited] && s.ctxs.map (fun c => c.circuits.map (fun k => (k.key, k.membership, k.phase))) ==
      [[(.grid 1 2, 1, 4), (.grid 1 3, 1, 5)]]) = true := by decide +kernel
def sDr : State := { stOf { tmEx with st := .exited } with ctxs := [{ cx with kernels := [{ fetchKernel with st := .draining }] }], focus := none }
theorem wit_kernelDone : nextHas (exec (.kernelDone 0 1) sDr) (fun s => s.teams.map (·.st) == [.exited] && s.ctxs.map (fun c => c.kernels.map (·.st)) == [[.done]]) = true ∧
    isNext (exec (.kernelDone 0 1) sA) sA = true := by decide +kernel
/-- A detector whose last window has ended with 600 hits. -/
def dtc : Locality := { core := 3, victims := [], loads := 0, hits := 0, ended := [600] }
def sLo : State := { sA with detectors := [dtc] }
theorem wit_locality : Runs sLo 0 cx ∧ (sLo.detector 3).ended.head? = some 600 ∧ fld (sLo.part.getD 0 0) 3 0 = 1 ∧ capAfter (sLo.capOf 0 3) (fld cx.cfg 22 14) 600 = 192 ∧
    nextHas (exec (.localityWindowEnd 0 3 600) sLo) (fun s => s.ctxs.map (·.caps) == [[(3, 192)]]) = true ∧
    isNext (exec (.localityWindowEnd 0 3 600) sA) sA = true := by decide +kernel

/-! ### The rest of the device -/

theorem wit_deviceRest : nextHas (exec .powerLoss { stB with mem := [(5, 1)] }) (fun s => s.dev == .off && s.mem == []) = true ∧
    nextHas (exec .perstAssert { stB with mem := [(5, 1)] }) (fun s => s.dev == .reset && s.mem == [(5, 1)] && s.teams == [] && s.ctxs == []) = true ∧
    nextHas (exec .mgmtResetCommand stB) (fun s => s.dev == .reset) = true ∧ nextHas (exec .mgmtFreezeCommand stB) (fun s => s.dev == .frozen) = true ∧
    nextHas (exec (.thermalCooled 2) { stB with throttled := [1, 2] }) (fun s => s.throttled == [1]) = true ∧
    nextHas (exec (.poolStatWrite 0 0x80000000) { State.reset with dev := .operational, pools := [{ Pool.reset with lowf := true, bad := 3, fallbk := 5 }] }) (fun s => s.pools.map (fun p => (p.lowf, p.bad, p.fallbk)) == [(false, 0, 0)]) = true ∧
    nextHas (exec .tapBypass stB) (fun s => s.tap.ir == .bypass) = true ∧ nextHas (exec .tapSamplePreload stB) (fun s => s.tap.ir == .sample) = true ∧
    nextHas (exec .tapExtest stB) (fun s => s.tap.ir == .extest) = true := by decide +kernel

/-! ### Queues, entries, copies, pools -/

/-- Tables at 0x40000: page 1 is frame 2 and writable, page 3 is a coded view at frame 3, page 4 is not present, page 5 is a bad leaf. -/
def pgMem : Mem := [(0x40000, 1), (0x40002, 5), (0x50000, 1), (0x50002, 6), (0x60008, 3), (0x6000A, 2), (0x60018, 9), (0x6001A, 3), (0x60028, 1), (0x6002F, 8)]
def ent (ws : List Word) : QEntry := { n := 0, words := ws ++ List.replicate (16 - ws.length) 0, started := false, status := none, work := none, desc := none, read := 0 }
def que (es : List QEntry) : Queue := { q := 0, qbase := 0x10000, en := true, err := false, log2n := 1, rp := 0, wp := 1, unseen := [], entries := es }
def cxQ (es : List QEntry) : Ctx := { cx with queues := [que es], root := 0x40000 }
def sQ (es : List QEntry) : State := { stB with ctxs := [cxQ es], mem := pgMem, tlb := [], focus := none }
theorem pages_sQ : (sQ []).engineSeg 0 0x10008 = .ok 0x20008 attW ∧ (sQ []).engineSeg 0 0x30000 = .ok 0x30000 { Attr.none with rlf := true } ∧
    (sQ []).engineSeg 0 0x40000 = .fault .park ∧ (sQ []).engineSeg 0 0x50000 = .bad := by decide +kernel
theorem wit_queueRegisters : (sQ []).ctx? 0 = some (cxQ []) ∧
    nextHas (exec (.qbaseWrite 0 0 true 5) (sQ [])) (fun s => s.ctxs.map (fun c => c.queues.map (·.qbase)) == [[0x10000]]) = true ∧
    nextHas (exec (.qcfgWrite 0 0 0x14) (sQ [])) (fun s => s.ctxs.map (fun c => c.queues.map (fun q => (q.en, q.log2n))) == [[(false, 1)]]) = true ∧
    nextHas (exec (.qwpWrite 0 0 3) (sQ [])) (fun s => s.ctxs.map (fun c => c.queues.map (·.err)) == [[true]]) = true ∧
    nextHas (exec (.qwpWrite 0 0 2) (sQ [])) (fun s => s.ctxs.map (fun c => c.queues.map (fun q => (q.err, q.wp))) == [[(false, 2)]]) = true := by decide +kernel
theorem wit_rcbCfg : nextHas (exec (.rcbCfgWrite 0 (.cluster 3 63) 0xA4030000) (sQ [])) (fun s => s.ctxs.map (fun c => c.rcbs.map (fun r => (r.cfg, r.slots.length))) == [[(0xA4030000, 4)]]) = true ∧
    nextHas (exec (.rcbCfgWrite 0 (.slice 3) 0xA4030000) (sQ [])) (fun s => s.ctxs.map (·.status) == [4]) = true := by decide +kernel
theorem wit_queueFetch : Runs (sQ []) 0 (cxQ []) ∧ (cxQ []).queue? 0 = some (que []) ∧ (sQ []).poisonIn 0x20000 64 = none ∧
    nextHas (exec (.queueEntryFetch 0 0) (sQ [])) (fun s => s.ctxs.map (fun c => c.queues.map (fun q => (q.rp, q.entries.length))) == [[(1, 1)]]) = true := by decide +kernel
theorem wit_queueReads : QueueReads (sQ []) 0 0x10000 64 (List.replicate 64 0) := by
  refine ⟨0x20000, 0x20040, 64, ⟨by decide, attW, by decide +kernel, by decide +kernel, ?_⟩, by decide +kernel, by decide +kernel, fun h => absurd h (by decide)⟩
  rw [if_pos (by decide)]; exact ⟨rfl, rfl⟩
/-- A SIGNAL whose work has ended: it completes at 0x10008 with tag 9. -/
def eSig (ca : Word) : QEntry := { ent [0x01000300, ca, 0, 9, 0x10010, 0, 5, 0] with started := true, status := some 0 }
theorem wit_entryComplete : EntryAt (sQ [eSig 0x10008]) 0 0 0 (cxQ [eSig 0x10008]) (que [eSig 0x10008]) (eSig 0x10008) ∧ EntryOk (eSig 0x10008) ∧
    QueueWrites (sQ [eSig 0x10008]) 0 0x10008 0x20008 ∧
    nextHas (exec (.entryComplete 0 0 0) (sQ [eSig 0x10008])) (fun s => memWord s.mem 0x2000C == 9 && s.ctxs.map (fun c => c.queues.map (fun q => (q.err, q.entries))) == [[(false, [])]]) = true ∧
    nextHas (exec (.entryComplete 0 0 0) (sQ [eSig 0x10004])) (fun s => s.ctxs.map (fun c => c.queues.map (fun q => (q.err, q.entries))) == [[(true, [])]]) = true ∧
    nextHas (exec (.entryComplete 0 0 0) (sQ [eSig 0x50000])) (fun s => s.ctxs.map (fun c => c.queues.map (fun q => (q.err, q.entries))) == [[(true, [])]]) = true ∧
    nextHas (exec (.entryComplete 0 0 0) (sQ [eSig 0])) (fun s => s.mem == pgMem && s.ctxs.map (fun c => c.queues.map (fun q => (q.err, q.entries))) == [[(false, [])]]) = true := by
  refine ⟨by decide +kernel, ⟨by decide, ⟨by decide, by decide, by decide, ?_⟩, by decide⟩, ⟨by decide, by decide, ⟨attW, by decide +kernel⟩, by decide, by decide +kernel⟩,
    by decide +kernel, by decide +kernel, by decide +kernel, by decide +kernel⟩
  decide +kernel
/-- A LAUNCH of the descriptor at 0x10100: one team of 16 lanes with 32 registers. -/
def ldMem : Mem := [(0x20103, 1), (0x20114, 1), (0x20118, 0x10), (0x2011A, 4), (0x40000, 1), (0x40002, 5), (0x50000, 1), (0x50002, 6), (0x60008, 3), (0x6000A, 2)]
def ldWords : List Word := [0x01000000, 0, 0, 0, 0, 1, 0x00040010] ++ List.replicate 25 0
def eLau (a : Word) : QEntry := ent [0x01000100, 0, 0, 0, a, 0]
def sLau (a : Word) : State := { sQ [eLau a] with mem := ldMem }
theorem wit_launches : bytesWords ((sLau 0x10100).phys 0x20100 128) = ldWords ∧ LaunchReserved ldWords ∧ LaunchFields (launched ldWords) ∧ TeamFits (launched ldWords) ∧
    nextHas (exec (.entryLaunch 0 0 0) (sLau 0x10100)) (fun s => s.ctxs.map (fun c => (c.kernels.map (fun k => (k.id, k.st, k.desc.p)), c.queues.map (fun q => q.entries.map (·.work)))) ==
      [([(1, .running, 128), (2, .submitted, 32)], [[some 2]])]) = true ∧
    nextHas (exec (.entryLaunch 0 0 0) (sLau 0x10140)) (fun s => s.ctxs.map (fun c => c.queues.map (fun q => q.entries.map (·.status))) == [[[some 3]]]) = true := by
  refine ⟨by decide +kernel, by decide +kernel, by decide +kernel, ?_, by decide +kernel, by decide +kernel⟩
  exact ⟨fun _ => by decide +kernel, fun h => absurd h (by decide)⟩
theorem due_only (e : QEntry) : Due (que [e]) e := by
  intro pre post h hp hq
  cases pre with
  | nil => exact ⟨fun y hy => (nomatch hy), fun _ _ => rfl⟩
  | cons y l =>
    exfalso
    simp only [que, List.cons_append, List.cons.injEq] at h
    exact hp y (List.mem_cons_self ..) (by rw [← h.1])
theorem wit_launch_acts : Acts (sLau 0x10100) 0 0 0 1 (cxQ [eLau 0x10100]) (que [eLau 0x10100]) (eLau 0x10100) := by
  refine ⟨by decide +kernel, ⟨by decide, ⟨by decide, by decide, by decide, by decide +kernel⟩, by decide⟩, by decide, rfl, Or.inr (due_only _), by decide +kernel⟩
theorem wit_launch_forbidden : QueueForbidden (sQ []) 0 0x50000 128 false ∧
    nextHas (exec (.entryLaunch 0 0 0) (sQ [eLau 0x50000])) (fun s => s.ctxs.map (fun c => c.queues.map (fun q => q.entries.map (·.status))) == [[[some 6]]]) = true :=
  ⟨Or.inl (by decide +kernel), by decide +kernel⟩
/-- A COPY of 16 bytes, with and without a channel. -/
def eCpy : QEntry := ent [0x01000200, 0, 0, 0, 0x10000, 0, 0x10020, 0, 16]
theorem wit_entryCopy : nextHas (exec (.entryCopy 0 0 0) { sQ [eCpy] with ceOwn := [0x80000000] }) (fun s => s.copies.map (fun k => (k.src, k.dst, k.n)) == [(0x10000, 0x10020, 16)]) = true ∧
    nextHas (exec (.entryCopy 0 0 0) { sQ [eCpy] with ceOwn := [] }) (fun s => s.ctxs.map (fun c => c.queues.map (fun q => q.entries.map (·.status))) == [[[some 1]]]) = true := by decide +kernel
def eSg : QEntry := ent [0x01000300, 0, 0, 0, 0x10010, 0, 5, 6]
theorem wit_entrySignal : nextHas (exec (.entrySignal 0 0 0) (sQ [eSg])) (fun s => memWord s.mem 0x20010 == 5 && memWord s.mem 0x20014 == 6 &&
    s.ctxs.map (fun c => c.queues.map (fun q => q.entries.map (·.status))) == [[[some 0]]]) = true := by decide +kernel
def eWt (v : Word) (started : Bool) : QEntry := { ent [0x01000400, 0, 0, 0, 0x10010, 0, v, 0] with started := started }
theorem wit_entryWait : nextHas (exec (.entryWait 0 0 0) (sQ [eWt 0 false])) (fun s => s.ctxs.map (fun c => c.queues.map (fun q => q.entries.map (·.status))) == [[[some 0]]]) = true ∧
    nextHas (exec (.entryWait 0 0 0) (sQ [eWt 1 false])) (fun s => s.ctxs.map (fun c => c.queues.map (fun q => q.entries.map (fun e => (e.started, e.status)))) == [[[(true, none)]]]) = true ∧
    isNext (exec (.waitRereadTimer 0 0 0) { sQ [eWt 1 true] with clock := 9999 }) { sQ [eWt 1 true] with clock := 9999 } = true ∧
    nextHas (exec (.waitRereadTimer 0 0 0) { sQ [eWt 1 true] with clock := 10000 }) (fun s => s.ctxs.map (fun c => c.queues.map (fun q => q.entries.map (·.read))) == [[[10000]]]) = true := by decide +kernel
theorem wit_entryMaquette : nextHas (exec (.entryMaquette 0 0 0) { sQ [ent [0x01000500]] with ports := [{ Port.reset with st := .up, ver := 0x10101010 }] }) (fun s => s.ctxs.map (fun c => (c.st, c.capture)) == [(.switchingOut, true)]) = true ∧
    nextHas (exec (.entryMaquette 0 0 0) (sQ [ent [0x01000500]])) (fun s => s.ctxs.map (fun c => (c.st, c.queues.map (fun q => q.entries.map (·.status)))) == [(.running, [[some 1]])]) = true := by decide +kernel
def eTl (w : Option Nat) : QEntry := { ent [0x01000600, 0, 0, 0, 0x10000, 0, 1] with work := w, started := w.isSome }
theorem wit_entryTlbinv : nextHas (exec (.entryTlbinv 0 0 0) { sQ [eTl none] with tlb := [fetchTlb, tlbW] }) (fun s => s.tlb == [fetchTlb]) = true ∧
    nextHas (exec (.entryTlbinv 0 0 0) (sQ [eTl (some 2)])) (fun s => s.ctxs.map (fun c => c.queues.map (fun q => q.entries.map (·.status))) == [[[some 0]]]) = true := by decide +kernel
theorem wit_entryRseal : nextHas (exec (.entryRseal 0 0 0) (sQ [ent [0x01000700, 0, 0, 0, 0x10000, 0]])) (fun s => s.ctxs.map (fun c => c.queues.map (fun q => q.entries.map (·.status))) == [[[some 6]]]) = true := by decide +kernel
/-- A copy of three bytes, from 0x10000 to 0x10004. -/
def cp3 (ready : Option Nat) : Copyc := { cmd 5 false false with src := 0x10000, dst := 0x10004, n := 3, ready := ready }
def sCp (k : Copyc) : State := { sQ [] with copies := [k], mem := [(0x20000, 7), (0x20002, 9), (0x40000, 1), (0x40002, 5), (0x50000, 1), (0x50002, 6), (0x60008, 3), (0x6000A, 2), (0x60028, 1), (0x6002F, 8)] }
theorem wit_copyEngine : (sCp (cp3 none)).copy? 5 = some (cp3 none) ∧ MemOk (sCp (cp3 none)) ∧ (∀ o : Nat, o < 3 → (sCp (cp3 none)).engineSeg 0 (0x10000 + o) = .ok (0x20000 + o) attW ∧
      (sCp (cp3 none)).engineSeg 0 (0x10004 + o) = .ok (0x20004 + o) attW) ∧
    nextHas (exec (.copyCommandComplete 5) (sCp (cp3 none))) (fun s => memRead s.mem 0x20004 3 == [7, 0, 9] && s.copies.map (·.ready) == [some 0]) = true ∧
    isNext (exec (.copyCommandComplete 5) { sCp (cp3 (some 0)) with clock := 9 }) { sCp (cp3 (some 0)) with clock := 9 } = true ∧
    nextHas (exec (.copyCommandComplete 5) { sCp (cp3 (some 0)) with clock := 10 }) (fun s => s.copies.map (·.complete) == [true]) = true := by decide +kernel
theorem wit_copyFault : (sCp { cp3 none with src := 0x40000 }).walkPoison ((sCp (cp3 none)).rootOf 0) 0x40000 = none := by decide +kernel
theorem wit_copyFailure : CopyForbidden (sCp { cp3 none with dst := 0x50000 }) { cp3 none with dst := 0x50000 } 0 ∧
    nextHas (exec (.copyCommandFail 5) (sCp { cp3 none with dst := 0x50000 })) (fun s => s.copies.map (·.failed) == [true]) = true ∧
    nextHas (exec (.enginePageFault 5) (sCp { cp3 none with src := 0x40000 })) (fun s => s.events.map (fun e => (e.kind, e.va)) == [(5, 0x40000)]) = true :=
  ⟨Or.inr (Or.inr (Or.inr (Or.inr ⟨rfl, Or.inl (by decide +kernel)⟩))), by decide +kernel, by decide +kernel⟩
theorem wit_pools : nextHas (exec (.poolCfgWrite 0 0x80000015) stB) (fun s => (s.pool 0).cfg == 0x80000014) = true ∧
    nextHas (exec (.poolTailWrite 0 16) stB) (fun s => (s.pool 0).tail == 16) = true ∧ nextHas (exec (.poolTailWrite 0 17) stB) (fun s => (s.pool 0).tail == 0) = true ∧
    nextHas (exec (.ceOwnWrite 47 0x80000003) stB) (fun s => s.ceOwn.getD 47 0 == 0x80000003) = true ∧
    nextHas (exec (.partCfgWrite 6 0x80000006) stB) (fun s => s.part.getD 6 0 == 0x80000006) = true ∧
    nextHas (exec (.partCfgWrite 6 0x80000004) stB) (fun s => s.part.getD 6 0 == 0) = true := by decide +kernel
def tmIc : Team := { tmA with st := .parked (.intercept 4) }
def icp : Intercept := { num := 4, team := 1, ctx := 0, f := 1, va := 0x10000, data := [] }
theorem wit_writeIntercept : nextHas (exec (.writeInterceptComplete 4 false) { stOf tmIc with intercepts := [icp] }) (fun s => s.teams.map (fun t => (t.st, t.pc)) == [(.ready, 0)]) = true ∧
    nextHas (exec (.writeInterceptComplete 4 true) { stOf tmIc with intercepts := [icp] }) (fun s => s.teams.map (fun t => (t.mask, t.stack.length)) == [(0xFFFE, 1)]) = true := by decide +kernel

/-! ### Contexts -/

def cxOf (st : CtxSt) : Ctx := { cx with st := st, save := 0x50000, cht := 0x40000 }
/-- A context in a state, with one team. -/
def sCx (c : Ctx) (t : Team) : State := { stOf t with ctxs := [c], focus := none }
theorem wit_contextLife : stB.ctx? 5 = none ∧ (stB.part.getD (5 / 16) 0).getLsbD 31 = true ∧ (stB.ctx? 0 ≠ none) ∧
    nextHas (exec (.contextCreate 5) stB) (fun s => s.ctxs.map (fun c => (c.num, c.cfg)) == [(0, cx.cfg), (5, 0x04004000)]) = true ∧
    nextHas (exec (.ctxCmdStart 0) (sCx (cxOf .created) tmA)) (fun s => s.ctxs.map (·.started) == [true]) = true ∧
    nextHas (exec (.ctxCmdHalt 0) (sCx (cxOf .saved) tmA)) (fun s => s.ctxs.map (·.st) == [.halted]) = true ∧
    nextHas (exec (.ctxCmdResume 0) (sCx (cxOf .halted) tmA)) (fun s => s.ctxs.map (·.st) == [.saved]) = true ∧
    nextHas (exec (.ctxCmdDestroy 0) (sCx (cxOf .halted) tmA)) (fun s => s.ctxs == [] && s.teams == []) = true ∧
    isNext (exec (.ctxCmdDestroy 0) sA) sA = true := by decide +kernel
theorem plain_team (t : Team) (h : t.ctx = 0) (k : t.kind = tmA.kind) : Plainly 0 t := ⟨h, fun n e => (nomatch k ▸ e), fun e => (nomatch k ▸ e)⟩
theorem stops_team : Stops 0 tmA := ⟨plain_team _ rfl rfl, Or.inl rfl, by decide +kernel, by decide +kernel⟩
theorem wit_contextHalt : (sA.teams.map (·.id)).Nodup ∧ (cxOf .running).st = .running ∧
    nextHas (exec (.ctxCmdHalt 0) (sCx (cxOf .running) tmA)) (fun s => s.ctxs.map (fun c => (c.st, c.haltPending)) == [(.switchingOut, true)] &&
      s.teams.map (fun t => (t.st, t.gen)) == [(.preempted, 1)]) = true := by decide +kernel
/-- A new context with its chisel table at 0x40000. -/
theorem wit_contextLoad : PartFree (sCx { cxOf .created with started := true } tmA) 0 ∧ (cxOf .created).cht.toNat + 16384 ≤ dramEnd ∧
    MemOk (sCx { cxOf .created with started := true } tmA) ∧
    nextHas (exec (.contextLoad 0) (sCx { cxOf .created with started := true, fresh := false } tmA)) (fun s => s.ctxs.map (·.st) == [.loaded]) = true ∧
    isNext (exec (.contextLoad 0) (sCx (cxOf .created) tmA)) (sCx (cxOf .created) tmA) = true ∧
    nextHas (exec (.contextLoad 0) (sCx (cxOf .saved) tmA)) (fun s => s.ctxs.map (fun c => (c.st, c.status)) == [(.halted, 3)]) = true := by decide +kernel
/-- Chisel headers and the header of the save area, and a reserved word that is not 0. -/
def svMem : Mem := (List.range 128).map (fun i => (0x40000 + 128 * i + 3, 1)) ++ [(0x50003, 1)]
def tmPr : Team := { tmA with st := .preempted, prev := .placed, gen := 2 }
def sSv : State := { sCx (cxOf .saved) tmPr with mem := svMem }
theorem memGet_absent {a : Nat} : ∀ {m : Mem}, (∀ c ∈ m, c.1 ≠ a) → memGet m a = 0
  | [], _ => rfl
  | c :: m, h => by
    rw [show memGet (c :: m) a = if c.1 = a then c.2 else memGet m a from rfl, if_neg (h c (List.mem_cons_self ..))]
    exact memGet_absent fun d hd => h d (List.mem_cons_of_mem _ hd)
theorem memGet_cell {a : Nat} {v : Byte} : ∀ {m : Mem} {lo : Nat}, memSorted lo m = true → (a, v) ∈ m → memGet m a = v
  | [], _, _, h => by cases h
  | (k, u) :: m, lo, hm, h => by
    simp only [memSorted, Bool.and_eq_true] at hm
    rcases List.mem_cons.1 h with e | e
    · cases e; simp [memGet]
    · have hk : k ≠ a := by
        intro hk; subst hk
        have := memGet_cell hm.2 e
        rw [memGet_below hm.2 (Nat.lt_succ_self k)] at this
        have w : ∀ {m : Mem} {lo : Nat}, memSorted lo m = true → (k, v) ∈ m → v ≠ 0 := by
          intro m; induction m with
          | nil => intro lo _ h; cases h
          | cons d m ih =>
            intro lo hm h
            simp only [memSorted, Bool.and_eq_true, bne_iff_ne] at hm
            rcases List.mem_cons.1 h with e | e
            · cases e; exact hm.1.2
            · exact ih hm.2 e
        exact w hm.2 e this.symm
      simp only [memGet, if_neg hk]; exact memGet_cell hm.2 e
theorem svMem_cell {c : Host.Cell} (h : c ∈ svMem) : c.1 % 128 = 3 := by
  simp only [svMem, List.mem_append, List.mem_map, List.mem_range, List.mem_singleton] at h
  rcases h with ⟨i, _, rfl⟩ | rfl
  · show (0x40000 + 128 * i + 3) % 128 = 3; omega
  · decide
theorem svMem_zero {a : Nat} (h : a % 128 ≠ 3) : memGet svMem a = 0 := memGet_absent fun _ hc e => h (e ▸ svMem_cell hc)
theorem wit_contextRestore : PartFree sSv 0 ∧ ChiselsOk sSv 0x40000 ∧ (cxOf .saved).cht.toNat = 0x40000 ∧ fld (memWord sSv.mem 0x50000) 31 24 = 1 := by
  refine ⟨by decide +kernel, fun i hi => ⟨?_, fun j h1 h2 => ?_⟩, by decide +kernel, by decide +kernel⟩
  · have h : (0x40000 + 128 * i + 3, (1 : Byte)) ∈ svMem := by
      refine List.mem_append_left _ (List.mem_map.2 ⟨i, List.mem_range.2 hi, rfl⟩)
    have e := memGet_cell (lo := 0) (by decide +kernel) h
    show fld (BitVec.ofNat 32 (leNat [memGet svMem _, memGet svMem _, memGet svMem _, memGet svMem _])) 31 24 = 1
    rw [e, svMem_zero (a := 0x40000 + 128 * i) (by omega), svMem_zero (a := 0x40000 + 128 * i + 1) (by omega),
      svMem_zero (a := 0x40000 + 128 * i + 1 + 1) (by omega)]
    decide +kernel
  · show BitVec.ofNat 32 (leNat [memGet svMem _, memGet svMem _, memGet svMem _, memGet svMem _]) = 0
    rw [svMem_zero (a := 0x40000 + 128 * i + 4 * j) (by omega), svMem_zero (a := 0x40000 + 128 * i + 4 * j + 1) (by omega),
      svMem_zero (a := 0x40000 + 128 * i + 4 * j + 1 + 1) (by omega), svMem_zero (a := 0x40000 + 128 * i + 4 * j + 1 + 1 + 1) (by omega)]
    decide +kernel
theorem wit_contextSwitch : nextHas (exec (.timeSliceBegin 0) (sCx (cxOf .loaded) tmA)) (fun s => s.ctxs.map (·.st) == [.running]) = true ∧
    nextHas (exec (.timeSliceBegin 0) (sCx { cxOf .loaded with haltPending := true } tmA)) (fun s => s.ctxs.map (·.st) == [.switchingOut]) = true ∧
    isNext (exec (.timeSliceBegin 0) sA) sA = true ∧
    nextHas (exec (.timeSliceEnd 0) sA) (fun s => s.ctxs.map (·.st) == [.switchingOut] && s.teams.map (·.prev) == [.ready]) = true := by decide +kernel
def sSo (h cap : Bool) : State := sCx { cxOf .switchingOut with haltPending := h, capture := cap } tmPr
theorem wit_saveReady (h cap : Bool) : SaveReady (sSo h cap) { cxOf .switchingOut with haltPending := h, capture := cap } := by
  refine ⟨?_, ?_, ?_, ?_, ?_⟩
  · intro t ht _
    simp only [sSo, sCx, stOf, List.mem_singleton] at ht
    subst ht; exact ⟨rfl, rfl, Or.inl rfl⟩
  all_goals intro r hr; cases hr
theorem wit_contextSaves : MemOk (sSo false false) ∧ (cxOf .switchingOut).streams = [] ∧ (sSo false false).surfaces = [] ∧
    nextHas (exec (.contextSaveComplete 0) (sSo false false)) (fun s => s.ctxs.map (·.st) == [.saved]) = true ∧
    nextHas (exec (.contextSaveComplete 0) (sSo true false)) (fun s => s.ctxs.map (fun c => (c.st, c.haltPending)) == [(.halted, false)]) = true ∧
    nextHas (exec (.contextSaveComplete 0) { sSo false true with dirty := [(0, 7)], ports := [{ Port.reset with st := .up, ver := 0x10101010 }] }) (fun s => s.ctxs.map (·.st) == [.running] && s.dirty == [] &&
      s.maqs.map (fun m => (m.todo, m.streaming)) == [([7], true)] && s.teams.map (·.st) == [.ready]) = true := by decide +kernel
theorem wit_contextRegisters : sA.ctx? 0 = some cx ∧
    nextHas (exec (.ctxCfgWrite 0 0x04004000) sA) (fun s => s.ctxs.map (·.cfg) == [0x04004000]) = true ∧
    nextHas (exec (.ctxCfgWrite 0 0x04004001) sA) (fun s => s.ctxs.map (·.status) == [4]) = true ∧
    nextHas (exec (.ctxXscrWrite 0 2) (sCx { cxOf .halted with chip := [(5, 1), (9000, 2)] } tmA)) (fun s => s.ctxs.map (fun c => (c.xscr, c.chip)) == [(2, [(5, 1)])]) = true ∧
    nextHas (exec (.ctxXscrWrite 0 2) sA) (fun s => s.ctxs.map (·.status) == [4]) = true ∧
    nextHas (exec (.ctxAddressWrite 0 6 7) (sCx (cxOf .halted) tmA)) (fun s => s.ctxs.map (·.root) == [0x700000000]) = true ∧
    nextHas (exec (.ctxAddressWrite 0 6 7) sA) (fun s => s.ctxs.map (·.status) == [4]) = true ∧
    nextHas (exec (.ctxMaqiWrite 0 5) sA) (fun s => s.ctxs.map (·.maqi) == [100]) = true := by decide +kernel
/-- The team is parked on event 6; its trap named lanes 0 and 1. -/
def evt (w : EventOf) : SvcEvent := { num := 6, ctx := 0, what := w, kind := 1, cause := 9, detail := 0, f := 3, trapa := 0, va := 0, access := 0 }
def tmPk : Team := { tmA with st := .parked (.event 6) }
def sEv (w : EventOf) : State := { stOf tmPk with events := [evt w] }
theorem wit_eventsEnd : (sEv (.team 1)).events.find? (fun x => x.ctx == 0 && x.num == 6) = some (evt (.team 1)) ∧ (sEv (.team 1)).team? 1 = some tmPk ∧
    tmPk.mask &&& ~~~(evt (.team 1)).f ≠ 0 ∧ (sEv (.team 1)).ctx? 0 = some cx ∧ cx.kernel? 1 = some fetchKernel ∧ fetchKernel.st = .running ∧
    nextHas (exec (.evdoneRetry 0 6) (sEv (.team 1))) (fun s => s.events == [] && s.teams.map (fun t => (t.st, t.pc)) == [(.ready, 0)]) = true ∧
    nextHas (exec (.evdoneSkip 0 6) (sEv (.team 1))) (fun s => s.teams.map (fun t => (t.mask, t.stack.map (·.pc))) == [(0xFFFC, [4])]) = true ∧
    nextHas (exec (.evdoneFatal 0 6) (sEv (.team 1))) (fun s => s.teams.map (·.mask) == [0] && s.ctxs.map (fun c => c.kernels.map (·.st)) == [[.failed]]) = true ∧
    isNext (exec (.evdoneSkip 0 7) (sEv (.team 1))) (sEv (.team 1)) = true ∧
    nextHas (exec (.evdoneSkip 0 6) (sEv (.copy 5))) (fun s => s.giveUp == [(.copy 5, 0)]) = true := by decide +kernel
theorem wit_eventsEnd_all : NoSkip { tmPk with mask := 3 } ∧ (3 : Mask) &&& ~~~(evt (.team 1)).f = 0 ∧ (∀ i, (evt (.copy 5)).what ≠ .team i) ∧
    nextHas (exec (.evdoneSkip 0 6) { sEv (.team 1) with teams := [{ tmPk with mask := 3 }] }) (fun s => s.teams.map (fun t => (t.pc, t.st)) == [(4, .ready)]) = true :=
  ⟨fun e rest h => (nomatch h), by decide +kernel, fun i h => (nomatch h), by decide +kernel⟩
/-! Maquettes: one that is streamed, with page 2 still to go, and a committed one. -/
def maq (streaming : Bool) (todo : List Nat) (pages : List (Nat × List Byte)) : Maq :=
  { ctx := 0, image := { cx with st := .saved }, teams := [tmPr], reqs := [], copies := [], events := [], intercepts := [], pages := pages, todo := todo, staged := [],
    streaming := streaming, entry := none }
def prtS : Port := { Port.reset with st := .up, ver := 0x10101010 }
def sMq (ms : List Maq) : State := { sA with ports := [prtS], maqs := ms, focus := none, ctxs := [{ cx with maqi := 100 }], clock := 100000000 }
theorem wit_maquettes : (∀ m ∈ (sMq [maq false [] []]).maqs, ¬(m.ctx = 0 ∧ m.streaming = true)) ∧
    nextHas (exec (.ctxCmdMaquette 0) (sMq [])) (fun s => s.ctxs.map (fun c => (c.st, c.capture)) == [(.switchingOut, true)]) = true ∧
    nextHas (exec (.maquetteTimer 0) (sMq [])) (fun s => s.ctxs.map (fun c => (c.st, c.lastMaq)) == [(.switchingOut, 100000000)]) = true ∧
    isNext (exec (.maquetteTimer 0) { sMq [] with clock := 99999999 }) { sMq [] with clock := 99999999 } = true ∧
    isNext (exec (.ctxCmdMaquette 0) (sMq [maq true [2] []])) (sMq [maq true [2] []]) = true ∧
    isNext (exec (.maquetteCommit 0) (sMq [maq true [2] []])) (sMq [maq true [2] []]) = true ∧
    nextHas (exec (.maquetteCommit 0) (sMq [maq true [] [(3, [1])], maq false [] [(4, [2])]])) (fun s => s.maqs.map (fun m => (m.pages, m.streaming)) == [([(3, [1]), (4, [2])], false)] &&
      s.ctxs.map (·.maqn) == [1]) = true ∧
    nextHas (exec (.maquetteStreamError 0) (sMq [maq true [2] [(3, [1])]])) (fun s => s.maqs == [] && s.dirty.length == 2) = true ∧
    isNext (exec (.maquetteCommit 0) (sMq [])) (sMq []) = true := by decide +kernel
theorem wit_savePort : SavePort (sMq []) := ⟨prtS, List.mem_singleton.2 rfl, by decide +kernel⟩
theorem wit_maquettePage : nextHas (exec (.maquettePageStreamed 0 2) (sMq [{ maq true [2] [] with staged := [(2, [9])] }])) (fun s => s.maqs.map (fun m => (m.todo, m.pages, m.staged)) == [([], [(2, [9])], [])]) = true := by decide +kernel
theorem wit_containment : nextHas (exec (.containmentEvent 0 (.line 77)) { sQ [ent []] with reqs := [rLd], teams := [tmA] }) (fun s => s.ctxs.map (fun c => (c.st, c.queues.map (fun q => q.entries.map (·.status)))) == [(.rollingBack, [[some 2]])] &&
      s.poisoned == [77] && s.reqs == [] && s.teams.map (fun t => (t.st, t.gen)) == [(.preempted, 1)]) = true := by decide +kernel
theorem wit_rollback : nextHas (exec (.rollbackComplete 0) (sCx (cxOf .rollingBack) tmA)) (fun s => s.ctxs.map (fun c => (c.st, c.status)) == [(.halted, 8)] && s.teams == []) = true ∧
    isNext (exec (.rollbackComplete 0) sA) sA = true ∧
    nextHas (exec (.rollbackComplete 0) { sCx (cxOf .rollingBack) tmA with maqs := [maq false [] []] }) (fun s => s.ctxs.map (·.st) == [.saved] && s.teams.map (·.gen) == [2]) = true := by decide +kernel
theorem wit_vfReset : nextHas (exec (.vfReset 0) { sQ [ent []] with teams := [tmA] }) (fun s => s.teams == [] && s.ctxs.map (fun c => (c.st, c.kernels, c.queues.map (fun q => q.entries.map (·.status)))) == [(.reset, [], [[some 2]])]) = true ∧
    nextHas (exec (.vfResetComplete 0) (sCx (cxOf .reset) tmA)) (fun s => s.ctxs.map (·.st) == [.created]) = true ∧
    isNext (exec (.vfResetComplete 0) sA) sA = true := by decide +kernel

/-! ### Relief surfaces: 16 by 16 pixels of one byte, 16 blocks -/

/-- A Sealed surface at frame 0x30000: every block is CONST 7. -/
def srfG : Surface := { frame := 0x30000, ctx := 0, st := .sealed, dirty := [], refs := [], progress := none
                        coded := [(0, 1), (1, 0x80), (3, 1), (4, 16), (6, 16)] ++ (List.range 16).flatMap fun b => [(128 + 16 * b, 1), (140 + 16 * b, 7)] }
/-- The descriptor of an Open surface that refers to it: heap of 64 bytes at 0x10000, open area at 0x10040, budget 64; block 0 is a Clean SKIP, block 1 Open-dirty RAW,
block 2 malformed. -/
def codF : Mem := [(0, 0x25), (3, 1), (4, 16), (6, 16), (12, 64), (18, 1), (24, 64), (40, 0x40), (42, 1), (66, 3), (128, 3), (145, 1)]
def pixF : List Byte := [0, 1, 2, 3, 4, 5, 6, 7, 8, 9, 10, 11, 12, 13, 14, 15]
def srfP (st : SurfSt) (p : Option Seal) : Surface := { frame := 0x70000, ctx := 0, st := st, coded := codF, dirty := [(1, some pixF)], refs := [0x30000], progress := p }
abbrev srfF (st : SurfSt) : Surface := srfP st none
def sK (fs : List Surface) (rs : List Req) : State := { sQ [] with surfaces := fs, reqs := rs, teams := [tmA], nextId := 8 }
def both : List Surface := [srfF .open_, srfG]
theorem pixG {s : State} {n x y : Nat} (h : s.surface? 0x30000 = some srfG) (hx : x < 16) (hy : y < 16) : Pixel s n 0x30000 x y 0 7 := by
  have e : ∀ b < 16, ¬OpenDirty srfG b ∧ BlockOk srfG b ∧ modeOf srfG b = 1 ∧ fld (bw srfG b 3) 7 0 = 7 := by decide +kernel
  have hb : ∀ x < 16, ∀ y < 16, blockAt srfG x y < 16 := by decide +kernel
  obtain ⟨a, b, c, d⟩ := e _ (hb x hx y hy)
  have p := Pixel.const n 0x30000 x y 0 srfG h a b c
  exact d ▸ p
/-- Block 0 follows its reference. -/
theorem pixF0 {s : State} {st : SurfSt} {p : Option Seal} {n x y : Nat} (h : s.surface? 0x30000 = some srfG) (hf : s.surface? 0x70000 = some (srfP st p))
    (hx : x < 4) (hy : y < 4) : Pixel s (n + 1) 0x70000 x y 0 7 := by
  have hb : ∀ x < 4, ∀ y < 4, blockAt (srfF .open_) x y = 0 := by decide +kernel
  have e : ¬OpenDirty (srfF .open_) 0 ∧ BlockOk (srfF .open_) 0 ∧ modeOf (srfF .open_) 0 = 3 := by decide +kernel
  have k : ∀ x : Nat, x < 4 → ∀ i : Nat, i < 2 → clampTop (wide (srfF .open_) - 1 : Nat) (x + mvx (srfF .open_) 0 / 4 + i) < 16 ∧
      clampTop (high (srfF .open_) - 1 : Nat) (x + mvy (srfF .open_) 0 / 4 + i) < 16 := by decide +kernel
  have e2 : (srfF .open_).refs.getD (refOf (srfF .open_) 0) 0 = 0x30000 := by decide +kernel
  have e3 : ((7 : Nat) : Int) = blend (mvx (srfF .open_) 0 % 4) (mvy (srfF .open_) 0 % 4) (fun _ _ => 7) := by decide +kernel
  have hb' : blockAt (srfP st p) x y = 0 := hb x hx y hy
  refine Pixel.skip n 0x70000 x y 0 (srfP st p) (fun _ _ => 7) 7 hf (by rw [hb']; exact e.1) (by rw [hb']; exact e.2.1) (by rw [hb']; exact e.2.2) ?_ (by rw [hb']; exact e3)
  intro i hi j hj
  rw [hb', show (srfP st p).refs.getD (refOf (srfP st p) 0) 0 = 0x30000 from e2]
  exact pixG h (k x hx i hi).1 (k y hy j hj).2
/-- Block 1 lies in the reconstruction cache. -/
theorem pixF1 {s : State} {st : SurfSt} {p : Option Seal} {n x y : Nat} (hf : s.surface? 0x70000 = some (srfP st p)) (hx : x < 4) (hy : y < 4) :
    Pixel s n 0x70000 (4 + x) y 0 (4 * y + x) := by
  have hb : ∀ x < 4, ∀ y < 4, blockAt (srfF .open_) (4 + x) y = 1 := by decide +kernel
  have e : OpenDirty (srfF .open_) 1 := by decide +kernel
  have hb' : blockAt (srfP st p) (4 + x) y = 1 := hb x hx y hy
  have q : ∀ x < 4, ∀ y < 4, (pixF.getD ((4 * (y % 4) + (4 + x) % 4) * pixelBytes (srfF .open_) + 0) 0).toNat = 4 * y + x := by decide +kernel
  have r := Pixel.dirty n 0x70000 (4 + x) y 0 (srfP st p) pixF hf (by rw [hb']; exact e) (Or.inl (by rw [hb']; rfl))
  have q' : (pixF.getD ((4 * (y % 4) + (4 + x) % 4) * pixelBytes (srfP st p) + 0) 0).toNat = 4 * y + x := q x hx y hy
  rw [q'] at r; exact r
theorem surfs (rs : List Req) : (sK both rs).surface? 0x70000 = some (srfF .open_) ∧ (sK both rs).surface? 0x30000 = some srfG := ⟨rfl, rfl⟩
theorem wit_reconstruction : Pixel (sK both []) 1 0x70000 3 3 0 7 ∧ Pixel (sK both []) 0 0x70000 5 1 0 5 ∧
    (match (sK both []).value [] 0x70000 3 3 0, (sK both []).value [] 0x70000 5 1 0 with | .val 7 [], .val 5 [] => true | _, _ => false) = true :=
  ⟨pixF0 (surfs _).2 (surfs _).1 (by decide) (by decide), pixF1 (surfs _).1 (by decide) (by decide) (x := 1) (y := 1), by decide +kernel⟩
theorem wit_reconstruction_bad : ¬OpenDirty (srfF .open_) (blockAt (srfF .open_) 8 0) ∧ ¬BlockOk (srfF .open_) (blockAt (srfF .open_) 8 0) ∧
    (match (sK both []).value [] 0x70000 8 0 0 with | .val 0 [0x70000] => true | _ => false) = true := by decide +kernel

/-- SURF names a surface whose descriptor lies at the start of page 1. -/
def tmSu : Team := { tmM with surf := 0x10000, k := [1, 4, 0, 0] }
def sSu (fs : List Surface) : State := { stM tmSu with tlb := [fetchTlb, { tlbW with attr := { attW with rlf := true } }], surfaces := fs }
theorem wit_namesSurface : NamesSurface (sSu []) tmSu 0x20000 := by
  refine ⟨by decide +kernel, by decide +kernel, by decide +kernel, by decide +kernel, by decide +kernel, by decide +kernel, ?_⟩
  rw [if_neg (by decide +kernel)]
  exact ⟨{ attW with rlf := true }, by decide +kernel⟩
theorem wit_reliefIssue : Issues (sSu []) tmSu ∧ Readable tmSu (3 :: [2]) ∧ Readable tmSu (3 :: [0, 0 + 1, 0 + 2, 0 + 3]) ∧ (∀ f ∈ [(2 : Fld)], isFrame f = true) ∧
    nextHas (exec (.rld c0 2 3) (sSu [])) (fun s => s.reqs.map (fun r => (r.kind, r.lanes.length)) == [(.relief 0 0x20000 none, 16)] && s.teams.map (·.pc) == [4]) = true ∧
    nextHas (exec (.rstp c0 2 3) (sSu [])) (fun s => s.reqs.map (·.kind) == [.relief 1 0x20000 none] && s.teams.map (·.hold) == [some (.relief c0 3 2)]) = true := by decide +kernel
/-- A relief request with one lane. -/
def rqK (op : Nat) (data : List Word) : Req := rqW (.relief op 0x70000 none) [5] [lnW .pending data]
theorem wit_atEngine (op : Nat) (data : List Word) : AtEngine (sK both [rqK op data]) 7 (rqK op data) op 0x70000 ∧ FirstAtEngine (sK both [rqK op data]) (rqK op data) := by
  have h : (sK both [rqK op data]).live (rqK op data) = true := by
    have e : (sK both [rqK op data]).live (rqK op data) = (!(sK both [rqK op data]).parkedPacket tmA (rqK op data) && !(rqK op data).lost) := rfl
    rw [e]; simp [State.parkedPacket, tmA, tmB, fetchTeam, Req.lost, rqK, rqW, lnW]
  refine ⟨⟨rfl, rfl, h, rfl, _, List.mem_singleton.2 rfl, rfl⟩, ?_, ?_, rfl⟩
  · rintro ⟨x, _, _, b, _, e | ⟨q, hq, _, hlt, _⟩⟩
    · simp [State.acqAhead, sK, rqK, rqW] at e
    · rw [List.mem_singleton.1 hq] at hlt; exact absurd hlt (Nat.lt_irrefl _)
  · rintro ⟨x, _, q, hq, hne, _⟩
    exact absurd (congrArg Req.id (List.mem_singleton.1 hq)) hne
/-- The pixel at (3, 3), and the one at (5, 1). -/
theorem wit_reliefLoads : nextHas (exec (.reliefRequest 7) (sK both [rqK 0 [0x00030003]])) (fun s => s.reqs.map (fun r => r.lanes.map (·.got)) == [[[7]]]) = true ∧
    nextHas (exec (.reliefRequest 7) (sK both [rqK 0 [0x00010005]])) (fun s => s.reqs.map (fun r => r.lanes.map (·.got)) == [[[5]]]) = true ∧
    nextHas (exec (.reliefRequest 7) (sK both [rqK 4 [0x00010005]])) (fun s => s.reqs.map (fun r => r.lanes.map (·.got)) == [[[0x100, 0, 0, 0]]]) = true ∧
    min (coordAt (lnW .pending [0x00030003]) 13 0) (wide (srfF .open_) - 1) = 3 ∧ min (coordAt (lnW .pending [0x00030003]) 29 16) (high (srfF .open_) - 1) = 3 := by decide +kernel
theorem wit_reliefRefused : (sK [] [rqK 0 [0]]).surface? 0x70000 = none ∧ InDram 0x70000 4 ∧ fld ((sK [] [rqK 0 [0]]).physWord 0x70000) 31 24 ≠ 1 ∧
    MemOk (sK [] [rqK 0 [0]]) ∧ Whole (sK [] [rqK 0 [0]]) 0x70000 128 ∧
    nextHas (exec (.reliefRequest 7) (sK [] [rqK 0 [0]])) (fun s => memWord s.mem 0x70000 == 0x100 && s.reqs.map (fun r => r.lanes.map (·.got)) == [[[0]]]) = true ∧
    nextHas (exec (.reliefRequest 7) (sK [] [rqK 1 [0]])) (fun s => s.reqs.map (·.kind) == [.relief 1 0x70000 (some false)]) = true := by decide +kernel
theorem wit_reliefReturn : nextHas (exec (.reliefResultReturn 7) (sK both [rqW (.relief 0 0x70000 none) [5] [{ lnW .bound [0] with got := [9] }]])) (fun s => s.reqs == [] &&
    s.teams.map (fun t => t.get 5 1) == [9]) = true := by decide +kernel
theorem test_reliefPoison : isNext (exec (.reliefRequest 7) { sK [] [rqK 0 [0]] with poisoned := [0x1C01] })
    ({ sK [] [rqK 0 [0]] with poisoned := [0x1C01] }.contain 0 (some 0x1C01)) = true := by decide +kernel
/-- The descriptor of the Open surface in memory, with a depth to be replaced. -/
def sRg (fs : List Surface) (m : Mem) : State := { sK fs [] with mem := pgMem ++ m }
def desF : Mem := [(0x70000, 0x21), (0x70003, 1), (0x70004, 16), (0x70006, 16), (0x7000C, 64), (0x70012, 1), (0x70018, 64), (0x70028, 0x40), (0x7002A, 1), (0x70042, 3)]
theorem wit_registration : (sRg [srfG] desF).surface? 0x70000 = none ∧ InDram 0x70000 (128 + 2 ^ 28) ∧ MemOk (sRg [srfG] desF) ∧ Whole (sRg [srfG] desF) 0x70000 400 ∧
    (∀ r < fld ((sRg [srfG] desF).physWord 0x70000) 7 5, RefMatches (fun i => (sRg [srfG] desF).physWord (0x70000 + 4 * i)) srfG) ∧
    (let x := (sRg [srfG] desF).holdSurf 0 0x70000 []
     (x.2, x.1.surfaces.map (fun f => (f.frame, f.st, f.refs)), memWord x.1.mem 0x70000) == (.held, [(0x70000, .open_, [0x30000]), (0x30000, .sealed, [])], 0x01000025)) = true := by decide +kernel
theorem wit_registration_code : DescCode (fun i => (sRg [srfG] desF).physWord (0x70000 + 4 * i)) 0 := by
  refine Or.inr (Or.inr ⟨by decide +kernel, ?_, rfl⟩)
  and_intros <;> decide +kernel
theorem wit_refHeld : RefHeld (sRg [srfG] desF) 0 (fun i => (sRg [srfG] desF).physWord (0x70000 + 4 * i)) 0 0x30000 srfG :=
  ⟨⟨{ Attr.none with rlf := true }, by decide +kernel⟩, by decide +kernel, by decide +kernel, srfG, by decide +kernel, fun r h => (nomatch h)⟩
theorem wit_registration_refused : (let x := (sRg [{ srfG with st := .open_ }] desF).holdSurf 0 0x70000 []
     (x.2, memWord x.1.mem 0x70000) == (.refused 3, 0x01000321)) = true ∧ ¬RefMatches (fun i => (sRg [srfG] desF).physWord (0x70000 + 4 * i)) { srfG with st := .open_ } ∧
    (let x := (sRg [{ srfG with coded := (0, 0x11) :: srfG.coded.drop 1 }] desF).holdSurf 0 0x70000 []
     (x.2, memWord x.1.mem 0x70000) == (.refused 4, 0x01000421)) = true := by decide +kernel

/-! Stores at the engine, seals and views. -/

theorem wit_reliefStore_hyp : (srfF .open_).frame = 0x70000 ∧ coordAt (lnW .pending [0x00030003, 9]) 13 0 < wide (srfF .open_) ∧ coordAt (lnW .pending [0x00030003, 9]) 29 16 < high (srfF .open_) ∧
    wide (srfF .open_) % 4 = 0 ∧ high (srfF .open_) % 4 = 0 ∧ MemOk (sK both []) ∧ Memory.wf (srfF .open_).coded = true ∧ InDram 0x70000 (128 + 16 * blockCount (srfF .open_)) ∧
    blockAt (srfF .open_) 3 3 = 0 ∧ pixelBytes (srfF .open_) = 1 ∧ refOf (srfF .open_) 0 < refCount (srfF .open_) ∧ modeOf (srfF .open_) 0 = 3 ∧ BlockOk (srfF .open_) 0 := by decide +kernel
/-- The pixels of block 0 before. -/
theorem wit_reliefStore_has {s : State} {st : SurfSt} {p : Option Seal} (h : s.surface? 0x30000 = some srfG) (hf : s.surface? 0x70000 = some (srfP st p)) :
    ∀ i < 16, ∀ ch < 1, ∃ d ≤ 5, Pixel s d 0x70000 (i % 4) (i / 4) ch 7 := by
  intro i hi ch hc
  obtain rfl : ch = 0 := by omega
  exact ⟨1, by decide, pixF0 h hf (Nat.mod_lt _ (by decide)) (by omega)⟩
/-- What a store leaves of block b: mode, heap length, and the cached pixels. -/
def blk (o : Wr) (b : Nat) : Option (Nat × Nat × Option (List Byte)) :=
  match o with
  | .val s [] => (s.surface? 0x70000).map fun f => (modeOf f b, hlenOf f b, (f.dirty.find? fun x => x.1 == b).bind (·.2))
  | _ => none
theorem wit_reliefStores : (blk ((sK both []).reliefLane [] 1 0x70000 (lnW .pending [0x00000005, 9])) 1 == some (0, 0, some (0 :: 9 :: pixF.drop 2))) = true ∧
    (blk ((sK both []).reliefLane [] 2 0x70000 (lnW .pending [0, 0x20000, 0, 0, 0, 0, 0, 0, 0])) 0 == some (2, 2, none)) = true ∧
    (blk ((sK both []).reliefLane [] 2 0x70000 (lnW .pending [0x00000004, 0, 0, 0, 0, 0, 0, 0, 0])) 1 == some (2, 0, some (List.replicate 16 7))) = true ∧
    (blk ((sK both []).reliefLane [] 3 0x70000 (lnW .pending [0, 0x02000000])) 0 == some (2, 0, none)) = true := by decide +kernel
theorem wit_reliefStores_ignored : (match (sK both []).reliefLane [] 2 0x70000 (lnW .pending [0x4000, 0, 0, 0, 0, 0, 0, 0, 0]) with | .val s [] => (s.surfaces.map fun f => fld (sw f 2) 15 8) == [1, 0] | _ => false) = true ∧
    (match (sK both []).reliefLane [] 3 0x70000 (lnW .pending [0, 0x0E000000]) with | .val s [] => (s.surfaces.map fun f => fld (sw f 2) 15 8) == [1, 0] | _ => false) = true ∧
    (match (sK both []).reliefLane [] 1 0x70000 (lnW .pending [16, 9]) with | .val s [] => s == sK both [] | _ => false) = true ∧
    nextHas (exec (.reliefRequest 7) (sK both [rqK 1 [0x00000005, 9]])) (fun s => s.reqs.map (·.kind) == [.relief 1 0x70000 (some true)]) = true ∧
    nextHas (exec (.reliefRequest 7) (sK [srfF .sealed, srfG] [rqK 1 [0x00000005, 9]])) (fun s => s.reqs.map (·.kind) == [.relief 1 0x70000 (some false)]) = true := by decide +kernel
def tmHo : Team := { tmM with hold := some (.relief c0 3 7) }
def sHo (ok : Option Bool) : State := { stM tmHo with reqs := [rqW (.relief 1 0x70000 ok) [] [lnW .bound [0, 9]]], focus := none }
theorem wit_reliefAccept : nextHas (exec (.reliefAcceptReturn 7) (sHo (some true))) (fun s => s.reqs == [] && s.teams.map (fun t => (t.hold, t.pc)) == [(none, 4)]) = true ∧
    isNext (exec (.reliefAcceptReturn 7) (sHo (some false))) (State.trap { sHo (some false) with reqs := [] } { tmHo with hold := none } 9 0 tmHo.mask 0x10000) = true ∧
    isNext (exec (.reliefAcceptReturn 7) (sHo none)) (sHo none) = true := by decide +kernel
/-- The Open surface at the frame that SURF names. -/
def srf2 (st : SurfSt) : Surface := { srfF st with frame := 0x20000 }
def sSe (st : SurfSt) : State := { sSu [srf2 st, srfG] with mem := codF.map fun c => (0x20000 + c.1, c.2) }
theorem wit_sealNames : NamesSurface (sSe .open_) tmSu 0x20000 := by
  refine ⟨by decide +kernel, by decide +kernel, by decide +kernel, by decide +kernel, by decide +kernel, by decide +kernel, ?_⟩
  rw [if_neg (by decide +kernel)]
  exact ⟨{ attW with rlf := true }, by decide +kernel⟩
theorem wit_sealActions : Issues (sSe .open_) tmSu ∧ Readable tmSu [127, 2] ∧ Uniform tmSu 127 ∧ (sSe .open_).surface? 0x20000 = some (srf2 .open_) ∧ MemOk (sSe .open_) ∧
    Memory.wf (srf2 .open_).coded = true ∧ InDram 0x20000 128 ∧ (sSe .open_).releaseDone 1 .device 2 = true ∧
    nextHas (exec (.rseal c0 2 127) (sSe .open_)) (fun s => s.surfaces.map (fun f => (f.st, f.progress.map (·.todo))) == [(.sealing, some [1]), (.sealed, none)] && s.teams.map (fun t => t.get 2 0) == [0]) = true ∧
    nextHas (exec (.rseal c0 2 127) (sSe .sealing)) (fun s => s.teams.map (fun t => t.get 2 0) == [1]) = true ∧
    nextHas (exec (.rseal c0 2 125) (sSe .open_)) (fun s => s.teams.map (fun t => t.get 2 0) == [4]) = true := by decide +kernel
def tmS2 (v : Word) : Team := { tmSu with k := [v, 0, 0, 0] }
theorem wit_sealFlatten : nextHas (exec (.rseal c0 2 124) { sSe .sealed with teams := [tmS2 1] }) (fun s => s.surfaces.map (fun f => (f.st, f.progress.map (fun p => (p.todo.length, p.flatten)))) == [(.sealing, some (16, true)), (.sealed, none)]) = true ∧
    nextHas (exec (.rseal c0 2 124) { sSe .sealed with teams := [tmS2 2] }) (fun s => s.surfaces.map (·.frame) == [0x30000] && memWord s.mem 0x20000 == 0x0100C025) = true ∧
    nextHas (exec (.rseal c0 2 124) { sSe .sealing with teams := [tmS2 2] }) (fun s => s.teams.map (fun t => t.get 2 0) == [2]) = true ∧
    nextHas (exec (.rseal c0 2 127) { sSe .open_ with reqs := [rSt], nextId := 8 }) (fun s => s.teams.map (·.st) == [.waitingCounter (.release .device 8)]) = true := by decide +kernel
theorem wit_evict : (srfF .open_).dirty.find? (fun x => x.1 == 1) = some (1, some pixF) ∧ openAt (srfF .open_) ≠ 0 ∧ openAt (srfF .open_) + 16 * 1 * 1 = 0x10050 ∧
    (sK both []).engineSeg 0 0x10050 = .ok 0x20050 attW ∧
    nextHas (exec (.blockEvict 0x70000 1) (sK both [])) (fun s => memRead s.mem 0x20050 16 == pixF && s.surfaces.map (·.dirty) == [[(1, none)], []]) = true := by decide +kernel
/-- A seal of one block: half-way, at its end, and a flatten without room. -/
def prg (fl : Bool) (todo : List Nat) : Seal := { flatten := fl, n := 1, j := 0, q := 0, h0 := 0, rb := 64, fallback := false, todo := todo, entry := none }
def sSl (p : Seal) : State := sK [srfP .sealing (some p), srfG] []
theorem wit_sealEnd : isNext (exec (.sealBlockCommit 0x70000) (sK both [])) (sK both []) = true ∧ MemOk (sSl (prg false [])) ∧
    nextHas (exec (.sealBlockCommit 0x70000) (sSl (prg false []))) (fun s => s.surfaces.map (·.st) == [.sealed, .sealed] && memWord s.mem 0x70000 == 0x8000 + 0x01000025) = true ∧
    nextHas (exec (.sealBlockCommit 0x70000) { sSl (prg true [2]) with surfaces := [{ srfP .sealing (some (prg true [2])) with coded := (0, 0x25) :: (3, 1) :: (4, 16) :: (6, 16) :: codF.drop 7 }] })
      (fun s => s.surfaces.map (fun f => f.progress.map (·.todo)) == [some []]) = true := by decide +kernel
/-- Block 1 as RAW: its pixels are 0 to 15. -/
def encRaw : Coded := { mode := 0, qp := 0, nz := [0, 0, 0, 0], bytes := (List.range (16 * 1)).map fun i => BitVec.ofNat 8 i, off := 0 }
theorem wit_seals : (∀ i < 16, ∀ ch < 1, ∃ d ≤ 5, Pixel (sSl (prg false [1])) d 0x70000 (1 % (16 / 4) * 4 + i % 4) (1 / (16 / 4) * 4 + i / 4) ch i) ∧
    (∀ x, Encodes (srfP .sealing (some (prg false [1]))) 1 false (fun i _ => i) (fun _ _ => 0) x encRaw) ∧ (prg false [1]).q ≤ 15 ∧
    0 + encRaw.bytes.length - 0 ≤ 64 * (0 + 1) / 1 ∧ (sSl (prg false [1])).engineSeg 0 0x10000 = .ok 0x20000 attW ∧
    nextHas (exec (.sealBlockCommit 0x70000) (sSl (prg false [1]))) (fun s => s.surfaces.map (fun f => (modeOf f 1, hlenOf f 1, (sw f 7).toNat, f.dirty)) == [(0, 16, 16, []), (1, 0, 0, [])] && memRead s.mem 0x20000 16 == pixF) = true := by
  have hm : modeOf (srfF .open_) 1 = 0 := by decide +kernel
  have hm' : modeOf (srfP .sealing (some (prg false [1]))) 1 = 0 := hm
  refine ⟨?_, fun x => ⟨fun _ => by rfl, fun _ h => ?_, fun _ h => ?_⟩, by decide +kernel, by decide +kernel, by decide +kernel, by decide +kernel⟩
  · intro i hi ch hc
    obtain rfl : ch = 0 := by omega
    have := pixF1 (s := sSl (prg false [1])) (n := 0) (x := i % 4) (y := i / 4) rfl (Nat.mod_lt _ (by decide)) (by omega)
    rw [show 4 * (i / 4) + i % 4 = i from Nat.div_add_mod i 4] at this
    refine ⟨0, by decide, ?_⟩
    rw [show 1 % (16 / 4) * 4 + i % 4 = 4 + i % 4 by omega, show 1 / (16 / 4) * 4 + i / 4 = i / 4 by omega]
    exact this
  · omega
  · omega
/-- The Sealed surface seen as raw pixels at 0x10000, and its coded view. -/
def srfR (st : SurfSt) : Surface := { srfG with frame := 0x20000, st := st, coded := (0, 1) :: (3, 1) :: (4, 16) :: (6, 16) :: (34, 1) :: srfG.coded.drop 5 }
def sVw (st : SurfSt) (a : Attr) (k : ReqKind) (data : List Word) : State :=
  { stM { tmM with hold := some (.relief c0 3 7) } with surfaces := [srfR st], reqs := [rqW k [5] [{ lnW .pending data with attr := a }]], focus := none, nextId := 8 }
def attC : Attr := { attW with rlf := true }
theorem pixR {s : State} {st : SurfSt} {n x y : Nat} (h : s.surface? 0x20000 = some (srfR st)) (hx : x < 16) (hy : y < 16) : Pixel s n 0x20000 x y 0 7 := by
  have e : ∀ b < 16, ¬OpenDirty (srfR .open_) b ∧ BlockOk (srfR .open_) b ∧ modeOf (srfR .open_) b = 1 ∧ fld (bw (srfR .open_) b 3) 7 0 = 7 := by decide +kernel
  have hb : ∀ x < 16, ∀ y < 16, blockAt (srfR .open_) x y < 16 := by decide +kernel
  obtain ⟨a, b, c, d⟩ := e _ (hb x hx y hy)
  have p := Pixel.const n 0x20000 x y 0 (srfR st) h a b c
  have d' : fld (bw (srfR st) (blockAt (srfR st) x y) 3) (8 * 0 + 7) (8 * 0) = 7 := d
  rw [d'] at p; exact p
theorem wit_rawView : (∀ i < 4, ∃ d ≤ 5, Pixel (sVw .open_ attRaw (.ldg .w false false false) []) d 0x20000 ((0x10004 + i - 0x10000) / 1 % 16) ((0x10004 + i - 0x10000) / 1 / 16) ((0x10004 + i - 0x10000) % 1) 7) ∧
    (sVw .open_ attRaw (.ldg .w false false false) []).leafFrame 0 0x10004 0x20004 = 0x20000 ∧
    nextHas (exec (.reliefRequest 7) (sVw .open_ attRaw (.ldg .w false false false) [])) (fun s => s.reqs.map (fun r => r.lanes.map (·.got)) == [[[0x07070707]]]) = true ∧
    (∀ i : Nat, i < 4 → (sVw .open_ attC (.ldg .w false false false) []).codedAt (0x20004 + i) = some (srfR .open_, 0x20004 + i - 0x20000)) ∧
    nextHas (exec (.reliefRequest 7) (sVw .open_ attC (.ldg .w false false false) [])) (fun s => s.reqs.map (fun r => r.lanes.map (·.got)) == [[[0x00100010]]]) = true := by
  refine ⟨fun i hi => ⟨0, by decide, ?_⟩, by decide +kernel, by decide +kernel, by decide +kernel, by decide +kernel⟩
  rw [show (0x10004 + i - 0x10000) % 1 = 0 from Nat.mod_one _]
  exact pixR rfl (by omega) (by omega)
theorem wit_rawStores : (∀ i < 16, ∀ ch < 1, ∃ d ≤ 5, Pixel (sVw .open_ attRaw (.stg .b false false) [9]) d 0x20000 (4 / 4 * 4 + i % 4) (0 / 4 * 4 + i / 4) ch 7) ∧
    nextHas (exec (.reliefRequest 7) (sVw .open_ attRaw (.stg .b false false) [9])) (fun s => s.surfaces.map (fun f => (modeOf f 1, f.dirty)) == [(0, [(1, some (9 :: List.replicate 15 7))])] &&
      s.reqs.map (fun r => r.lanes.map (·.st)) == [[.acked 0]]) = true ∧
    nextHas (exec (.reliefRequest 7) (sVw .sealed attRaw (.stg .b false false) [9])) (fun s => s.reqs.map (fun r => r.lanes.map (fun x => (x.st, x.got))) == [[(.done, [1])]]) = true ∧
    isNext (exec (.reliefAcceptReturn 7) (sVw .open_ attRaw (.stg .b false false) [9])) (sVw .open_ attRaw (.stg .b false false) [9]) = true := by
  refine ⟨fun i hi ch hc => ⟨0, by decide, ?_⟩, by decide +kernel, by decide +kernel, by decide +kernel⟩
  obtain rfl : ch = 0 := by omega
  exact pixR rfl (by omega) (by omega)
/-- A raw-view store whose lane was refused, or accepted. -/
def sRf (got : List Word) : State := { stM tmHo with reqs := [rqW (.stg .b false false) [] [{ lnW .done [9] with attr := attRaw, got := got }]], focus := none }
theorem wit_rawAccept : isNext (exec (.reliefAcceptReturn 7) (sRf [1])) (State.trap { sRf [1] with reqs := [] } { tmHo with hold := none } 9 0 2 0x10004) = true ∧
    nextHas (exec (.reliefAcceptReturn 7) (sRf [])) (fun s => s.teams.map (fun t => (t.hold, t.pc)) == [(none, 4)]) = true ∧
    (∀ k : Nat, k < 1024 → (2 : Mask).getLsbD k = decide (1 = k)) := by decide +kernel

/-! ### The visibility unit -/

/-- A ray along z from (0, 0, -1); a box node at 0x20000 whose child 0 is the leaf with reference 3, the triangle at 0x20040. -/
def ray8 : List Word := [0, 0, 0xBF800000, 0, 0, 0x3F800000, 0, 0x41200000]
def boxN : List Word := [0xBF800000, 0xBF800000, 0xBF800000, 0x3F800000, 0x3F800000, 0x3F800000, 0, 0, 0, 0, 0, 0, 3, 0xFFFFFFFF, 0, 0]
def triN : List Word := [0xBF800000, 0xBF800000, 0, 0x40400000, 0xBF800000, 0, 0xBF800000, 0x40400000, 0, 0, 0, 0, 5, 6, 0, 0]
def nodeMem : Mem := memWrite (memWrite [] 0x20000 (wordsBytes boxN)) 0x20040 (wordsBytes triN)
def rec0 (stack : List Word) (st : RaySt) : Ray :=
  { lane := 1, words := ray8, best := none, stack := stack, visits := 0, bad := 0, frame := 0x20000, limit := 256, attr := Attr.none, came := 0, st := st }
def rqT (y : Ray) : Req := { rqW .trace [8, 9, 10, 11, 12, 13, 14, 15] [lnW .pending []] with rays := [y] }
def tmT8 : Team := fetchTeam 1
def sT (r : Req) : State := { stOf tmT8 with reqs := [r], nextId := 8, mem := nodeMem, focus := none }
theorem wit_isecIssue : Issues (stOf tmT8) tmT8 ∧ Readable tmT8 (fields 16 8 ++ fields 8 8) ∧ (∀ f ∈ fields 8 8, isFrame f = true) ∧ (bvhReg tmT8).vbase.toNat % 64 = 0 ∧
    nextHas (exec (.trace c0 8 16) (stOf tmT8)) (fun s => s.reqs.map (fun r => (r.kind, r.rays.length)) == [(.trace, 16)] && s.teams.map (fun t => (t.pc, (t.reg 15).full)) == [(4, false)]) = true ∧
    nextHas (exec (.covr c0 8 0) (stOf tmT8)) (fun s => s.reqs.map (fun r => r.dests) == [[8, 9, 10, 11]]) = true ∧
    nextHas (exec (.boxt c0 8 16) (stOf tmT8)) (fun s => s.reqs.map (fun r => r.lanes.map (fun x => x.data.length)) == [List.replicate 16 9]) = true := by decide +kernel
def tmMis : Team := { tmT8 with xl := [{ Xl.reset with vbase := 32 }] }
theorem wit_isecMisaligned : (bvhReg tmMis).vbase.toNat % 64 ≠ 0 ∧ isNext (exec (.trace c0 8 16) (stOf tmMis)) ((stOf tmMis).trap tmMis 7 0 tmMis.mask 32) = true := by decide +kernel
theorem wit_rayArrive : AtRay (sT (rqT (rec0 [0] .travelling))) 7 1 (rqT (rec0 [0] .travelling)) (rec0 [0] .travelling) ∧
    nextHas (exec (.rayRecordArrive 7 1) (sT (rqT (rec0 [0] .travelling)))) (fun s => s.reqs.map (fun r => r.rays.map (·.st)) == [[.queued]]) = true ∧
    isNext (exec (.rayNodeTest 7 1) (sT (rqT (rec0 [0] .travelling)))) (sT (rqT (rec0 [0] .travelling))) = true := by decide +kernel
/-- The box is hit, and its leaf is pushed; both nodes lie in one bank. -/
theorem wit_rayBox : AtRay (sT (rqT (rec0 [0] .queued))) 7 1 (rqT (rec0 [0] .queued)) (rec0 [0] .queued) ∧ NodeAt 0x20000 256 Attr.none 0 0x20000 ∧
    Hits ray8 boxN 0 (limitOf (rec0 [0] .queued)) ∧ ¬Hits ray8 boxN 1 (limitOf (rec0 [0] .queued)) ∧ bytesWords ((sT (rqT (rec0 [0] .queued))).phys 0x20000 64) = boxN ∧
    nextHas (exec (.rayNodeTest 7 1) (sT (rqT (rec0 [0] .queued)))) (fun s => s.reqs.map (fun r => r.rays.map (fun y => (y.st, y.stack, y.visits))) == [[(.queued, [3], 1)]]) = true := by decide +kernel
theorem wit_rayGoesOn : GoesOn { rec0 [3] .queued with visits := 1 } 0x20000 .queued ∧ GoesOn { rec0 [] .queued with visits := 1 } 0x20040 (.returning 0) := by
  refine ⟨⟨fun h => (nomatch h), ?_⟩, ⟨fun _ => rfl, fun x rest h => (nomatch h)⟩⟩
  intro x rest h
  cases h
  refine ⟨fun pb hb => ?_, fun v hv => ?_⟩
  · have : pb = 0x20040 := hb.2.1
    subst this; decide +kernel
  · rcases hv with h | h
    · exact absurd h.1 (by decide +kernel)
    · exact absurd h.2.1 (by decide +kernel)
/-- t = 1, u = v = 1/4. -/
theorem wit_rayTriangle : TriangleHit ray8 triN 0x41200000 0x3F800000 0x3E800000 0x3E800000 ∧
    nextHas (exec (.rayNodeTest 7 1) (sT (rqT (rec0 [3] .queued)))) (fun s => s.reqs.map (fun r => r.rays.map (fun y => (y.st, y.best))) ==
      [[(.returning 1, some [0x3F800000, 5, 6, 0x3E800000, 0x3E800000])]]) = true := by decide +kernel
theorem wit_rayMiss : TriangleMiss ray8 (List.replicate 16 0) 0x41200000 := fun _ _ _ h => h.1 (by decide +kernel)
theorem wit_rayRefused : NodeRefused 0x20000 256 Attr.none 9 2 ∧ NodeRefused 0x20000 256 { Attr.none with rlf := true } 0 3 ∧
    nextHas (exec (.rayNodeTest 7 1) (sT (rqT (rec0 [9] .queued)))) (fun s => s.reqs.map (fun r => r.rays.map (fun y => (y.st, y.bad))) == [[(.returning 2, 9)]]) = true ∧
    nextHas (exec (.rayNodeTest 7 1) (sT (rqT { rec0 [9] .queued with visits := 65535 }))) (fun s => s.reqs.map (fun r => r.rays.map (·.st)) == [[.returning 5]]) = true ∧
    nextHas (exec (.rayNodeTest 7 1) (sT (rqT (rec0 (List.replicate 33 0) .queued)))) (fun s => s.reqs.map (fun r => r.rays.map (·.st)) == [[.returning 4]]) = true := by decide +kernel
theorem wit_rayReturn : nextHas (exec (.rayRecordReturn 7 1) (sT (rqT { rec0 [] (.returning 1) with best := some [0x3F800000, 5, 6, 7, 8] }))) (fun s => s.reqs == [] &&
      s.teams.map (fun t => (List.range 8).map fun i => (t.reg (8 + i)).bank.lane 1) == [[0x3F800000, 5, 6, 7, 8, 1, 0, 0]]) = true ∧
    isNext (exec (.rayRecordReturn 7 1) (sT (rqT (rec0 [0] .queued)))) (sT (rqT (rec0 [0] .queued))) = true := by decide +kernel
/-- Single tests. -/
def rqI (op : Nat) (data got : List Word) (st : LaneSt) : Req := rqW (.isec op 0x20000 256 Attr.none) (if op = 2 then [8, 9, 10, 11, 12] else [8, 9, 10, 11]) [{ lnW st data with got := got }]
theorem wit_boxTest : AtLane (sT (rqI 1 (ray8 ++ [0]) [] .pending)) 7 1 (rqI 1 (ray8 ++ [0]) [] .pending) { lnW .pending (ray8 ++ [0]) with got := [] } ∧
    nextHas (exec (.isecNodeRequest 7 1) (sT (rqI 1 (ray8 ++ [0]) [] .pending))) (fun s => s.reqs.map (fun r => r.lanes.map (·.got)) == [[[0, 0x7F800000, 3, 0xFFFFFFFF]]]) = true ∧
    nextHas (exec (.isecNodeRequest 7 1) (sT (rqI 2 (ray8 ++ [3]) [] .pending))) (fun s => s.reqs.map (fun r => r.lanes.map (·.got)) == [[[0x3F800000, 5, 6, 0x3E800000, 0x3E800000]]]) = true := by decide +kernel
theorem wit_boxTest_result : SingleTest (sT (rqI 1 (ray8 ++ [0]) [] .pending)) 1 0x20000 256 Attr.none (ray8 ++ [0]) [0, 0x7F800000, 3, 0xFFFFFFFF] := by
  refine ⟨fun _ h => ?_, fun h => absurd h (by decide), fun pa hp _ => ⟨fun _ _ => ⟨rfl, fun i hi => ?_⟩, fun h => absurd h (by decide)⟩⟩
  · rcases h with h | ⟨v, h | h⟩ | ⟨pa, hp, h⟩
    · exact absurd h (by decide +kernel)
    · exact absurd h.1 (by decide +kernel)
    · exact absurd h.2.1 (by decide +kernel)
    · obtain rfl : pa = 0x20000 := hp.2.1
      exact absurd h (by decide +kernel)
  · obtain rfl : pa = 0x20000 := hp.2.1
    revert i; decide +kernel
theorem wit_refusedTest : SingleTest (sT (rqI 2 (ray8 ++ [0]) [] .pending)) 2 0x20000 256 Attr.none (ray8 ++ [0]) noHit := by
  refine ⟨fun h => absurd h (by decide), fun _ _ => rfl, fun pa hp _ => ⟨fun h => absurd h (by decide), fun _ h => absurd h (by decide +kernel)⟩⟩
/-- A triangle without area, and one of half an 8 by 8 node. -/
theorem wit_coverage : CoverageOf 3 [0, 0, 0, 0, 0, 0, 0] [0, 0, 0, 0] := ⟨fun _ => rfl, fun _ h => absurd rfl h⟩
def cov : List Word := [0, 0, 2048, 0, 0, 2048, 0x80000000]
theorem test_bint : turn cov ≠ 0 ∧ nextHas (exec (.isecResultReturn 7) (sT (rqI 4 cov [] .pending))) (fun s => s.reqs == [] &&
      s.teams.map (fun t => (List.range 4).map fun i => (t.reg (8 + i)).bank.lane 1) == [[0x0F1F3F7F, 0x00010307, 0x0F1F3F7F, 0x00010307]]) = true ∧
    isNext (exec (.isecResultReturn 7) (sT (rqI 1 (ray8 ++ [0]) [] .pending))) (sT (rqI 1 (ray8 ++ [0]) [] .pending)) = true ∧
    nextHas (exec (.isecResultReturn 7) (sT (rqI 1 (ray8 ++ [0]) [1, 2, 3, 4] .bound))) (fun s => s.reqs == []) = true := by decide +kernel

/-! ### Streams -/

def src (kind : Nat) : Src := { en := true, kind := kind, st := .live, log2n := 2, rp := 3, wp := 3, disorder := 10, ringva := 0x10100, swm := 100, top := none, seen := 0, held := [], unseen := [] }
/-- Stream 0: sources of a ring, the Ethernet port and teams. -/
def stm : Stream := { idx := 0, va := 0x14000, pa := 0x24000, idle := 5, wm := 100, badrec := 0, decr := 0, srcs := [src 0, src 1, src 2] }
def win (k : Int) (st : WinSt) (late : List (List Word)) : Win := { k := k, st := st, due := st != .collecting, lateFire := false, revision := 4, deliver := [[7]], late := late, published := false }
def insF (amend : Bool) : Inst := { id := 6, bind := 0, kernel := 1, k := 2, amend := amend, recd := [9], team := some 1 }
def bnS (out : Bool) (ws : List Win) : Binding := { bnd with out := out, outstr := 0, outsrc := 2, wins := ws, resbase := 0x10080, logbase := 0x10000 }
def cxS (b : Binding) (x : Inst) : Ctx := { cxQ [] with streams := [stm], bindings := [b], insts := [x], strmCfg := 0x00010004 }
/-- A team of one lane that runs the instance. -/
def tmFi (amend : Bool) : Team := { fetchTeam 1 with kind := if amend then .amend 6 else .fire 6, mask := 1, k := [0x200, 0x205, 0, 0] }
def sS (b : Binding) (x : Inst) (t : Team) : State := { stOf t with ctxs := [cxS b x], tlb := [fetchTlb, tlbW], mem := pgMem, nextId := 8 }
def sFi (amend : Bool) : State := sS (bnS true [win 2 .firing []]) (insF amend) (tmFi amend)
theorem wit_instance (amend : Bool) : Instance (sFi amend) (tmFi amend) (insF amend) (bnS true [win 2 .firing []]) :=
  ⟨by cases amend <;> simp [tmFi, insF], cxS (bnS true [win 2 .firing []]) (insF amend), rfl, rfl, rfl⟩
theorem wit_instanceReads : Issues (sFi false) (tmFi false) ∧ Readable (tmFi false) (fields 20 16) ∧ (∀ f ∈ fields 20 16, isFrame f = true) ∧
    nextHas (exec (.winfo c0 20) (sFi false)) (fun s => s.teams.map (fun t => (List.range 8).map fun i => t.get (20 + BitVec.ofNat 7 i) 0) == [[64, 0, 128, 0, 0x10080, 0, 4, 0]]) = true ∧
    nextHas (exec (.rnext c0 20) (sFi false)) (fun s => s.reqs.map (·.kind) == [.strm 1 6]) = true ∧
    nextHas (exec (.lateq c0 20) (sFi true)) (fun s => s.reqs.map (·.kind) == [.strm 6 6]) = true ∧
    isNext (exec (.lateq c0 20) (sFi false)) ((sFi false).trap (tmFi false) 9 0 1 0) = true := by decide +kernel
theorem wit_noInstance : (∀ x b, ¬Instance (stOf tmA) tmA x b) ∧ Readable tmA (fields 120 8) ∧
    isNext (exec (.winfo c0 120) (stOf tmA)) ((stOf tmA).trap tmA 9 0 tmA.mask 0) = true := by
  refine ⟨fun x b h => ?_, by decide +kernel, by decide +kernel⟩
  rcases h.1 with h | h <;> cases h
theorem wit_emissions : nextHas (exec (.remit c0 32) (sFi false)) (fun s => s.reqs.map (fun r => (r.kind, r.lanes.map (fun x => (x.va, x.dst)))) == [(.strm 2 6, [(0, 2)])]) = true ∧
    Readable (tmFi false) (fields 32 16) ∧ Readable (tmFi false) (fields 124 3) ∧ Uniform (tmFi false) 124 ∧ Uniform (tmFi false) 125 ∧
    nextHas (exec (.sidle c0 124) (sFi false)) (fun s => s.reqs.map (fun r => (r.kind, r.lanes.map (fun x => (x.va, x.dst)))) == [(.strm 4 0, [(0, 2)])]) = true ∧
    isNext (exec (.sidle c0 125) (sFi false)) ((sFi false).trap (tmFi false) 9 0 1 0x205) = true ∧
    isNext (exec (.remit c0 32) (sS (bnS false []) (insF false) (tmFi false))) ((sS (bnS false []) (insF false) (tmFi false)).trap (tmFi false) 9 0 1 0) = true := by decide +kernel
theorem wit_refs : RefOk (sFi false) 0 0x200 ∧ RefBad (sFi false) 0 0x205 ∧ RefBad (sFi false) 0 0 :=
  ⟨⟨_, stm, src 2, rfl, by decide +kernel⟩, ⟨_, rfl, by decide +kernel⟩, ⟨_, rfl, Or.inr (Or.inr ⟨stm, rfl, fun e h => (nomatch h), fun y h => by cases h; exact Or.inr (by decide)⟩)⟩⟩
theorem wit_remitRef : remitRef (tmFi false) 32 0 = 0 ∧ (tmFi false).lanes = [0] ∧ ∀ l, (1 : Mask).getLsbD l = true → l ∈ (tmFi false).lanes := by
  refine ⟨by decide +kernel, by decide +kernel, fun l h => ?_⟩
  have e : ∀ l : Nat, l < 1024 → (1 : Mask).getLsbD l = true → l = 0 := by decide +kernel
  have : l = 0 := e l (BitVec.lt_of_getLsbD h) h
  rw [this]; decide +kernel
/-- A record of the team waits for room. -/
def cxEm : Ctx := { cxS (bnS true []) (insF false) with streams := [{ stm with srcs := [src 0, { src 2 with held := [(some 1, [])] }] }] }
theorem wit_emitted : EmittedBy { sFi false with ctxs := [cxEm] } 0 (tmFi false).id ∧ ¬EmittedBy (sFi false) 0 (tmFi false).id ∧
    nextHas (exec (.remit c0 32) { sFi false with ctxs := [cxEm] }) (fun s => s.teams.map (·.st) == [.waitingCounter .emitted]) = true := by
  refine ⟨⟨cxEm, { stm with srcs := [src 0, { src 2 with held := [(some 1, [])] }] }, { src 2 with held := [(some 1, [])] }, rfl, by simp [cxEm], by simp, (some 1, []), by simp, rfl⟩, ?_, by decide +kernel⟩
  rintro ⟨c, x, y, hc, hx, hy, h, hh, _⟩
  obtain rfl : cxS (bnS true [win 2 .firing []]) (insF false) = c := Option.some.inj hc
  rw [show (cxS (bnS true [win 2 .firing []]) (insF false)).streams = [stm] from rfl, List.mem_singleton] at hx
  subst hx
  have : y.held = [] := by
    simp only [stm, List.mem_cons, List.not_mem_nil, or_false] at hy
    rcases hy with rfl | rfl | rfl <;> rfl
  rw [this] at hh; cases hh
theorem wit_publishes : Readable (tmFi false) (fields 32 16) ∧ (sFi false).releaseDone 1 .device 8 = true ∧ MemOk (sFi false) ∧ NoSkip (tmFi false) ∧ lineOf (bnS true []) 2 = 0x10080 ∧
    (sFi false).coreSeg 0 0 0 0x10080 = .ok 0x20080 attW ∧
    nextHas (exec (.publ c0 32) (sFi false)) (fun s => s.teams.map (·.pc) == [4] && s.deadlines.length == 1 && s.ctxs.map (fun c => c.bindings.map fun b => b.wins.map (·.published)) == [[[true]]]) = true ∧
    isNext (exec (.publ c0 32) (sFi true)) ((sFi true).trap (tmFi true) 9 0 1 0) = true := by
  refine ⟨by decide +kernel, by decide +kernel, by decide +kernel, fun e rest h => (nomatch h), by decide +kernel, by decide +kernel, by decide +kernel, by decide +kernel⟩
def rec16 (t flags : Word) : List Word := [t, 0, 0, flags <<< 16, 0, 0, 0, 0, 0, 0, 0, 0, 0, 0, 0, 0]
theorem wit_takes : Takes (sFi false) 0 0 0 stm (src 0) := ⟨⟨_, rfl, rfl, rfl⟩, rfl, rfl⟩
/-- WM and the sources after an item. -/
def wmOf (s : State) : List (Int × Nat × List (SrcSt × Int)) := s.ctxs.flatMap fun c => c.streams.map fun x => (x.wm, x.badrec, x.srcs.map fun y => (y.st, y.swm))
theorem wit_watermarks : (wmOf ((sFi false).arriveItem 0 0 0 none []) == [(100, 0, [(.idle, 100), (.live, 100), (.live, 100)])]) = true ∧
    (wmOf ((sFi false).arriveItem 0 0 0 none [120, 0]) == [(100, 0, [(.live, 120), (.live, 100), (.live, 100)])]) = true ∧
    (wmOf ((sFi false).arriveItem 0 0 0 none (rec16 1 4)) == [(100, 1, [(.live, 100), (.live, 100), (.live, 100)])]) = true ∧
    (wmOf ({ sFi false with ctxs := [{ cxS (bnS false []) (insF false) with bindings := [] }] }.arriveItem 0 0 0 none (rec16 140 0)) == [(100, 0, [(.live, 130), (.live, 100), (.live, 100)])]) = true ∧
    timeOf (rec16 140 0) = 140 ∧ flagsOf (rec16 140 0) = 0 ∧ (rec16 140 0).length = 16 := by decide +kernel
/-- The state after a record is placed. -/
def placed (s : State) (ctx j : Nat) (wm : Int) (r : List Word) : State :=
  match s.placeRecord ctx j wm r with
  | .val u _ => u
  | .absent _ => s
/-- Windows are 64 wide and start every 32: time 70 lies in windows 1 and 2. -/
theorem wit_placement : (sFi false).binding? 0 0 = some (bnS true [win 2 .firing []]) ∧ windowsOf (bnS true []) (paneOf (bnS true []) 70) = [1, 2] ∧
    ¬Past (bnS true [win 2 .firing []]) 100 2 ∧
    ((placed (sFi false) 0 0 100 [70]).ctxs.flatMap (fun (c : Ctx) => c.bindings.map fun (b : Binding) => (b.panes, b.wins.map fun (w : Win) => (w.k, w.st, w.deliver, w.late))) ==
      [([], [(2, .firing, [[7]], [[70]]), (1, .firing, [[70]], [])])]) = true := by decide +kernel
theorem wit_placement_pane : Collects (bnS true []) 80 1 ∧ FreeSlot (bnS true []) 0 ∧
    (placed (sFi false) 0 0 90 [70]).ctxs.flatMap (fun (c : Ctx) => c.bindings.flatMap (·.panes)) = [{ pane := 2, slot := 0, words := [70] }] ∧
    (placed (sFi false) 0 0 90 [70]).ctxs.map (fun (c : Ctx) => c.chip.head?) = [some (0, 70)] ∧ 0 < (bnS true []).panesz / 64 :=
  ⟨by show (80 : Int) < winEnd (bnS true []) 1; decide +kernel, ⟨fun p h => (nomatch h), fun m h => absurd h (Nat.not_lt_zero m)⟩, by decide +kernel, by decide +kernel, by decide +kernel⟩
/-- The pane area is full, and the overflow region takes the record. -/
def bnOv : Binding := { bnS true [] with panesz := 0, ovfsz := 0x100 }
theorem wit_placement_overflow : UnitWrites (sS bnOv (insF false) (tmFi false)) 0 (0x10200 + 64 * (0 - 0)) 0x20200 ∧
    memWord (placed (sS bnOv (insF false) (tmFi false)) 0 0 90 (rec16 70 0)).mem 0x20200 = 70 :=
  ⟨⟨by decide +kernel, attW, by decide +kernel⟩, by decide +kernel⟩
theorem wit_noRoom : NoPaneRoom { bnS true [] with panesz := 0, ovfsz := 0 } 80 70 := ⟨⟨1, by decide +kernel, by show (80 : Int) < winEnd (bnS true []) 1; decide +kernel⟩, by decide +kernel⟩
theorem wit_placement_late : (∀ k ∈ windowsOf (bnS true []) (paneOf (bnS true []) 70), Past (bnS true []) 1000 k) ∧ (0x10000 + 64 * (3 % 2 ^ 0)) % 64 = 0 ∧
    (placed { sFi false with ctxs := [cxS (bnS true []) (insF false)] } 0 0 1000 (rec16 70 0)).ctxs.flatMap (fun (c : Ctx) => c.bindings.map fun (b : Binding) => b.lcount) = [4] ∧
    memWord (placed { sFi false with ctxs := [cxS (bnS true []) (insF false)] } 0 0 1000 (rec16 70 0)).mem 0x20000 = 70 := by decide +kernel
/-- Window 1 is due at WM 100 and gets its panes 1 and 2. -/
def bnDue : Binding := { bnS true [{ win 1 .collecting [] with deliver := [] }, win 2 .fired [[8]]] with panes := [{ pane := 1, slot := 0, words := [40] }, { pane := 2, slot := 1, words := [70] }, { pane := 3, slot := 2, words := [99] }] }
/-- Window 1 fires with them, and then window 2 is amended with its late record; the panes stay while a window that holds them may fire. -/
theorem wit_windowsFire : winEnd bnDue 1 ≤ stm.wm ∧ (markedDue bnDue stm.wm).wins = [{ win 1 .collecting [] with due := true, deliver := [[40], [70]] }, win 2 .fired [[8]]] ∧
    (sS bnDue (insF false) (tmFi false)).fireBinding 0 0 = { sS bnDue (insF false) (tmFi false) with nextId := 10 }.modCtx 0 (fun (y : Ctx) =>
      { y with bindings := [{ bnDue with wins := [{ win 1 .firing [] with revision := 0, deliver := [[40], [70]] }, win 2 .amending []] }],
               insts := [insF false, { id := 8, bind := 0, kernel := 1, k := 1, amend := false, recd := [], team := none },
                 { id := 9, bind := 0, kernel := 1, k := 2, amend := true, recd := [8], team := none }] }) := by decide +kernel
theorem wit_starts : ∃ s', Starts 0 0 ((sS bnDue (insF false) (tmFi false)).putBinding 0 (markedDue bnDue stm.wm)) s' := by
  refine ⟨_, cxS (markedDue bnDue stm.wm) (insF false), markedDue bnDue stm.wm, { win 1 .collecting [] with due := true, deliver := [[40], [70]] },
    by decide +kernel, by decide +kernel, rfl, by decide +kernel, by decide +kernel, Or.inl ⟨⟨rfl, rfl⟩, by decide +kernel, rfl⟩⟩
theorem wit_fireStream : boundTo (cxS bnDue (insF false)) 0 = [bnDue] := by decide +kernel
/-- Requests of the team's instance at its unit. -/
def rqS (op : Nat) (ls : List Lane) : Req := { rqW (.strm op (if op = 1 ∨ op = 6 then 6 else 0)) (if op = 1 ∨ op = 6 then [20, 21, 22, 23, 24, 25, 26, 27, 28, 29, 30, 31, 32, 33, 34, 35] else []) ls with mask := 1 }
def sDl (amend : Bool) (r : Req) : State := { sFi amend with reqs := [r], focus := none }
theorem wit_deliveries : StreamReq (sDl false (rqS 1 [itemLane 0 0 0 []])) 7 (rqS 1 [itemLane 0 0 0 []]) 1 6 ∧
    nextHas (exec (.recordDelivery 7) (sDl false (rqS 1 [itemLane 0 0 0 []]))) (fun s => s.reqs == [] && s.teams.map (fun t => (t.reg 20).bank.lane 0) == [7] &&
      s.ctxs.map (fun c => c.bindings.map fun b => b.wins.map (·.deliver)) == [[[[]]]]) = true ∧
    nextHas (exec (.recordDelivery 7) (sDl true (rqS 6 [itemLane 0 0 0 []]))) (fun s => s.teams.map (fun t => (t.reg 20).bank.lane 0) == [9]) = true ∧
    nextHas (exec (.recordDelivery 7) (sDl true (rqS 1 [itemLane 0 0 0 []]))) (fun s => s.teams.map (fun t => (t.reg 23).bank.lane 0) == [0x80000000]) = true ∧
    nextHas (exec (.recordDelivery 7) (sDl false (rqS 4 [itemLane 0 0 2 []]))) (fun s => s.reqs == [] && wmOf s == [(100, 0, [(.live, 100), (.live, 100), (.idle, 100)])]) = true ∧
    isNext (exec (.recordDelivery 7) { sDl false (rqS 4 [itemLane 0 0 2 []]) with deadlines := [{ dl0 with req := 3 }] }) { sDl false (rqS 4 [itemLane 0 0 2 []]) with deadlines := [{ dl0 with req := 3 }] } = true := by decide +kernel
theorem wit_streamTable : nextHas (exec (.strmBaseWrite 0 false 0x20000) (sFi false)) (fun s => s.ctxs.map (·.strmBase) == [0x20000]) = true ∧
    nextHas (exec (.strmBaseWrite 0 true 5) (sFi false)) (fun s => s.ctxs.map (·.strmBase) == [0x500000000]) = true ∧
    nextHas (exec (.strmCfgWrite 0 0x80020003) (sFi false)) (fun s => s.ctxs.map (·.strmCfg) == [0x80020003]) = true ∧
    isNext (exec (.strmCfgWrite 0 0x01010000) (sFi false)) (sFi false) = true ∧
    nextHas (exec (.strmUnbWrite 0 0) (sFi false)) (fun s => s.ctxs.map (fun c => c.bindings.map fun b => (b.unbound, b.wins.map (·.deliver))) == [[(true, [[]])]]) = true ∧
    isNext (exec (.strmUnbWrite 0 9) (sFi false)) (sFi false) = true := by decide +kernel
def cxRg (y : Src) : Ctx := { cxS (bnS true []) (insF false) with streams := [{ stm with srcs := [y, src 1, src 2] }], bindings := [], st := .running }
def sRn (y : Src) : State := { sFi false with ctxs := [cxRg y], focus := none }
theorem wit_source : Source (sRn { src 0 with wp := 4 }) 0 0 0 { stm with srcs := [{ src 0 with wp := 4 }, src 1, src 2] } { src 0 with wp := 4 } := ⟨_, rfl, rfl, rfl⟩
theorem wit_ring : nextHas (exec (.srcWpWrite 0 0 0 7) (sRn (src 0))) (fun s => s.ctxs.flatMap (fun c => c.streams.flatMap fun x => x.srcs.map (·.wp)) == [7, 3, 3]) = true ∧
    isNext (exec (.srcWpWrite 0 0 0 8) (sRn (src 0))) (sRn (src 0)) = true ∧ isNext (exec (.ringRecordRead 0 0 0) (sRn (src 0))) (sRn (src 0)) = true ∧
    (sRn { src 0 with wp := 4 }).engineSeg 0 0x101C0 = .ok 0x201C0 attW ∧ (sRn { src 0 with wp := 4 }).poisonIn 0x201C0 64 = none ∧
    nextHas (exec (.ringRecordRead 0 0 0) { sRn { src 0 with wp := 4 } with mem := (0x201C0, 140) :: pgMem }) (fun s => s.ctxs.flatMap (fun c => c.streams.flatMap fun x => x.srcs.map (fun y => (y.rp, y.swm))) == [(4, 130), (3, 100), (3, 100)]) = true ∧
    nextHas (exec (.sourceIdleTimeout 0 0 0) { sRn (src 0) with clock := 5000 }) (fun s => s.ctxs.flatMap (fun c => c.streams.flatMap fun x => x.srcs.map (·.st)) == [.idle, .live, .live]) = true ∧
    isNext (exec (.sourceIdleTimeout 0 0 0) { sRn (src 0) with clock := 4999 }) { sRn (src 0) with clock := 4999 } = true := by decide +kernel
def sIe (amend out : Bool) : State := { sS (bnS out [win 2 (if amend then .amending else .firing) []]) (insF amend) { tmFi amend with st := .exited } with focus := none }
theorem wit_instanceEnd : nextHas (exec (.instanceEnd 0 1) (sIe false true)) (fun s => s.teams.map (·.st) == [.exited] && s.ctxs.map (fun c => (c.insts.length, c.bindings.map fun b => b.wins.map fun w => (w.st, w.revision))) == [(0, [[(.fired, 4)]])]) = true ∧
    nextHas (exec (.instanceEnd 0 1) (sIe true false)) (fun s => s.ctxs.map (fun c => c.bindings.map fun b => b.wins.map fun w => (w.st, w.revision)) == [[[(.fired, 5)]]]) = true ∧
    isNext (exec (.instanceEnd 0 1) (sFi false)) (sFi false) = true := by decide +kernel
def flt : List Filter := [{ w0 := 0x80000007, w1 := 0x00000001, drop := 0 }]
def sEt : State := { sRn (src 0) with filters := flt }
theorem wit_datagrams : isNext (exec (.streamDatagram 0 8 []) sEt) sEt = true ∧ sEt.filters[64 * 0 + 0]? = some { w0 := 0x80000007, w1 := 0x00000001, drop := 0 } ∧
    nextHas (exec (.streamDatagram 0 7 [1]) sEt) (fun s => s.filters.map (·.drop) == [1]) = true ∧
    nextHas (exec (.streamDatagram 0 7 (140 :: List.replicate 63 0)) sEt) (fun s => wmOf s == [(100, 0, [(.live, 100), (.live, 130), (.live, 100)])]) = true := by decide +kernel

/-! ### Links, Ethernet, the host -/

def prt (st : PortSt) : Port := { en := true, st := st, cap := 0x1F, peer := 0, err := 3, ver := 0x10101000 }
/-- Port 0 in a state; inbound window 0 names context 0. -/
def sPo (st : PortSt) : State := { sQ [] with ports := [prt st], inwin := [(0x80000000, 0)] }
theorem wit_linkId : nextHas (exec (.linkIdWrite 0x3FF) (sPo .down)) (fun s => s.linkId == 0x3FF) = true ∧ isNext (exec (.linkIdWrite 0x4FF) (sPo .down)) (sPo .down) = true ∧ isNext (exec (.linkIdWrite 9) (sPo .up)) (sPo .up) = true := by decide +kernel
theorem wit_linkPorts : AtPort (sPo .up) 0 (prt .up) ∧ (∀ r ∈ (sPo .up).reqs, ¬OnWay (sPo .up) 0 r) ∧
    nextHas (exec (.linkEnSet 0) (sPo .down)) (fun s => s.ports.map (·.st) == [.training]) = true ∧
    nextHas (exec (.linkTrained 0) (sPo .training)) (fun s => s.ports.map (·.st) == [.negotiating]) = true ∧
    nextHas (exec (.linkTrainTimeout 0) (sPo .training)) (fun s => s.ports.map (fun p => (p.st, p.err)) == [(.down, 4)]) = true ∧
    nextHas (exec (.linkEnClear 0) (sPo .up)) (fun s => s.ports.map (fun p => (p.st, p.err)) == [(.down, 0)]) = true ∧
    nextHas (exec (.linkFailure 0) (sPo .up)) (fun s => s.ports.map (·.st) == [.training]) = true ∧
    nextHas (exec (.linkPortError 0) (sPo .up)) (fun s => s.ports.map (·.st) == [.fenced]) = true ∧
    isNext (exec (.linkFailure 0) (sPo .down)) (sPo .down) = true := by
  refine ⟨by decide +kernel, fun r h => (nomatch h), ?_⟩; decide +kernel
def ofr (v : Nat) : LinkOffer := { lcap := [(v, 0)], relf := [], srec := [(1, 0)], save := [(1, 0)], caps := 0x3, peer := 7 }
theorem wit_linkNegotiated : nextHas (exec (.linkNegotiated 0 (ofr 1)) (sPo .negotiating)) (fun s => s.ports.map (fun p => (p.st, p.ver, p.peer)) == [(.up, 0x10001010, 7)]) = true ∧
    nextHas (exec (.linkNegotiated 0 (ofr 2)) (sPo .negotiating)) (fun s => s.ports.map (·.st) == [.refused]) = true := by decide +kernel
/-- A load of context 0 is on its way through port 0. -/
def lnF : Lane := { lnW .pending [] with pa := 2 ^ 40 }
def sWay : State := { sPo .up with reqs := [rqW (.ldg .w false false false) [5] [lnF]], lmap := [(0x80000007, 0)] }
def lrq (a : Nat) : LinkReq := { id := 3, port := 0, addr := a, n := 8, dev := 9, sctx := 0, seq := some (1, 5) }
theorem wit_mapped : Mapped (sPo .up) 0 0x10008 0 0x10008 ∧ relqOf (sPo .up) 0 true ∧ NewReq (sPo .up) ∧ OnePage (sPo .up) 0 0x10008 8 0x20008 attW ∧ (sPo .up).poisonIn 0x20008 8 = none ∧
    ForeignWritable (sPo .up) 0 0x10008 4 0x20008 attW ∧ NotPresent (sPo .up) 0 0x40000 8 := by
  refine ⟨⟨by decide +kernel, (0x80000000, 0), by decide +kernel, by decide +kernel, by decide +kernel, by decide +kernel, by decide +kernel, by decide +kernel, prt .up, by decide +kernel, by decide +kernel⟩,
    ⟨prt .up, by decide +kernel, by decide +kernel⟩, ⟨fun x h => (nomatch h), by decide +kernel, fun x h => (nomatch h)⟩, by decide +kernel, by decide +kernel, ?_, by decide +kernel⟩
  refine ⟨by decide +kernel, by decide +kernel, by decide +kernel, by decide +kernel, fun a h1 h2 => ?_, by decide +kernel, fun m h => (nomatch h)⟩
  have e : ∀ i < 4, (sPo .up).heldAt (0x20008 + i) = false := by decide +kernel
  have := e (a - 0x20008) (by omega)
  rwa [show 0x20008 + (a - 0x20008) = a by omega] at this
theorem wit_foreignForbidden : ForeignForbidden (sPo .up) 0 0x50000 8 false true ∧ ForeignForbidden (sPo .up) 0 0x30000 4 true true :=
  ⟨⟨by decide, by decide, by decide, Or.inl (by decide +kernel)⟩, ⟨by decide, by decide, by decide, Or.inr ⟨0x30000, { Attr.none with rlf := true }, by decide +kernel⟩⟩⟩
theorem wit_inbound : nextHas (exec (.inboundRead (lrq 0x10008)) (sPo .up)) (fun s => s.outbox == [.data 3 (List.replicate 8 0)]) = true ∧
    nextHas (exec (.inboundWrite (lrq 0x10008) [1, 2]) (sPo .up)) (fun s => s.outbox == [] && s.acks == [(10, .status 3 0 2)] && memRead s.mem 0x20008 2 == [1, 2] && s.applied == [((9, 0), (1, 5))]) = true ∧
    nextHas (exec (.inboundWrite (lrq 0x10008) [1, 2]) { sPo .up with applied := [((9, 0), (1, 5))] }) (fun s => s.outbox == [.status 3 0 2] && s.mem == pgMem) = true ∧
    nextHas (exec (.inboundAtomic (lrq 0x10008) 0 5 6) (sPo .up)) (fun s => s.outbox.length == 1) = true ∧
    nextHas (exec (.inboundRead (lrq 0x50000)) (sPo .up)) (fun s => s.outbox == [.status 3 1 8]) = true ∧
    nextHas (exec (.inboundRead (lrq 0x40000)) (sPo .up)) (fun s => s.inbound.map (·.va) == [0x40000] && s.events.map (·.kind) == [5]) = true ∧
    isNext (exec (.inboundRead (lrq 0x10008)) (sPo .down)) (sPo .down) = true := by decide +kernel
theorem wit_stale : Stale { sPo .up with applied := [((9, 0), (1, 5))] } 9 0 (1, 5) ∧ ¬Stale (sPo .up) 9 0 (1, 5) :=
  ⟨⟨((9, 0), (1, 5)), by decide +kernel⟩, fun ⟨_, h, _⟩ => (nomatch h)⟩
def inb (e : Option Nat) : Inbound := { id := 3, ctx := 0, va := 0x40000, n := 8, work := .read, relq := false, eth := e, full := 8, since := 5, key := 1, tag := none, held := false, refusal := 1 }
theorem wit_inboundTimeout : nextHas (exec (.inboundFaultTimeout 3) { sPo .up with inbound := [inb none], clock := 10000005 }) (fun s => s.inbound == [] && s.outbox == [.status 3 2 8]) = true ∧
    isNext (exec (.inboundFaultTimeout 3) { sPo .up with inbound := [inb none], clock := 10000004 }) { sPo .up with inbound := [inb none], clock := 10000004 } = true ∧
    nextHas (exec (.switchInvalidation 5) { sPo .up with ssLines := [(5, [])] }) (fun s => s.ssLines == [] && s.acks == [(10, .invAck 5)]) = true ∧
    nextHas (exec (.collectiveAbort 0 4) (sPo .up)) (fun s => s.outbox == []) = true := by decide +kernel
def erq (va len : Nat) : EthReq := { id := 3, eth := 1, ctx := 0, va := va, len := len, dev := 9, sctx := 0, seq := none }
theorem wit_messages : nextHas (exec (.ethMessageReceive (erq 0x10008 2) [1, 2, 3]) (sPo .up)) (fun s => s.outbox == [.status 3 6 3] && memRead s.mem 0x20008 3 == [1, 2, 0]) = true ∧
    nextHas (exec (.rdmaPlacement (erq 0x10008 2) [1, 2, 3]) (sPo .up)) (fun s => s.outbox == [.status 3 0 3] && memRead s.mem 0x20008 3 == [1, 2, 3]) = true ∧
    nextHas (exec (.rdmaPlacement (erq 0x40000 2) [1]) (sPo .up)) (fun s => s.inbound.map (·.eth) == [some 1]) = true ∧
    nextHas (exec (.rdmaPlacement (erq 0x40000 2) [1]) { sPo .up with inbound := [{ inb (some 1) with id := 4, n := 2097152 }] }) (fun s => s.outbox == [.status 3 2 1] && s.ended == [3]) = true ∧
    isNext (exec (.rdmaPlacement (erq 0x40000 2) [1]) { sPo .up with ended := [3] }) { sPo .up with ended := [3] } = true := by decide +kernel
def sHst : State := { sPo .up with ctxs := [{ cxQ [] with vfwin := 0x10000 }] }
theorem wit_host : NewReq sHst ∧ nextHas (exec (.hostBar2Access 0 8 4 none) sHst) (fun s => s.outbox == [.data 0 [0, 0, 0, 0]]) = true ∧
    nextHas (exec (.hostBar2Access 0 8 0 (some [7])) sHst) (fun s => memGet s.mem 0x20008 == 7) = true ∧
    nextHas (exec (.hostBar2Access 0 0x40000 4 none) sHst) (fun s => s.outbox == [.status 0 4 4]) = true ∧
    nextHas (exec (.hostBar2Access 0 0x30000 4 none) sHst) (fun s => s.outbox == [] && s.inbound.map (·.va) == [0x40000]) = true := by
  refine ⟨⟨fun x h => (nomatch h), by decide +kernel, fun x h => (nomatch h)⟩, ?_⟩; decide +kernel
theorem wit_registers : nextHas (exec (.registerWrite .pf 0xC100 9) (sPo .down)) (fun s => s.linkId == 9) = true ∧
    nextHas (exec (.registerWrite .pf 0xB804 0x7FFF) (sPo .up)) (fun s => s.inwin == [(0x80000000, 0x7FFF)]) = true ∧ isNext (exec (.registerWrite .pf 0xB804 0x8000) (sPo .up)) (sPo .up) = true ∧
    isNext (exec (.registerWrite .pf 0x7000 9) (sPo .up)) (sPo .up) = true ∧
    nextHas (exec (.registerWrite (.vf 0) 0x1010 2) (sPo .up)) (fun s => s.ctxs.map (fun c => c.queues.map (·.wp)) == [[2]]) = true ∧
    nextHas (exec (.registerWrite (.vf 0) 4 8) (sPo .up)) (fun s => s.ctxs.map (·.vfwin) == [0x800000000]) = true ∧
    nextHas (exec (.registerWrite (.vf 0) 0x200C 8) (sPo .up)) (fun s => s.ctxs.map (·.quota) == [8]) = true := by decide +kernel
theorem wit_loses : OnWay sWay 0 (rqW (.ldg .w false false false) [5] [lnF]) :=
  Or.inl ⟨lnF, List.mem_singleton.2 rfl, by decide, by decide, (2 ^ 40, 4), by decide +kernel, by decide +kernel, by decide, 2 ^ 34, by decide +kernel⟩
theorem test_loses : nextHas (exec (.linkFailure 0) sWay) (fun s => s.ctxs.map (·.st) == [.rollingBack] && s.reqs == []) = true := by decide +kernel
/-- A copy command whose last write goes by port 0. -/
def cpL : Copyc := { cmd 5 false false with ready := some 3, wrote := [(2 ^ 40, 16)] }
theorem wit_copyOnWay : CopyOnWay { sWay with reqs := [], copies := [cpL] } 0 cpL :=
  ⟨by decide, rfl, rfl, (2 ^ 40, 16), List.mem_singleton.2 rfl, by decide +kernel, by decide, 2 ^ 34, by decide +kernel⟩
theorem test_copyLost : nextHas (exec (.linkFailure 0) { sWay with reqs := [], copies := [cpL] }) (fun s => s.ctxs.map (·.st) == [.running] && s.copies.map (fun k => (k.failed, k.ready)) == [(true, none)]) = true := by decide +kernel
theorem wit_registerReads : (sPo .up).ports[0]? = some (prt .up) ∧ (sPo .up).pfRead 0xC004 = 0x61F00003 ∧ (sPo .up).pfRead 0xF000 = 0 ∧ (sPo .up).pfRead 0xB800 = 0x80000000 ∧
    (sPo .up).vfRead 0 0x4000C = 0 ∧ (sPo .up).vfRead 0 0x1000 = 0x10000 ∧ (sPo .up).vfRead 0 0x1008 = 0x80000001 := by decide +kernel

/-! ### Completion -/

theorem wit_loadEvents_miss : AtLane (stR rLd) 7 1 rLd (lnW .pending []) ∧ (∀ y ∈ rLd.lanes, together (lnW .pending []) 4 y = true →
    InDram y.pa 4 ∧ (stR rLd).poisonIn y.pa 4 = none ∧ (stR rLd).blocked rLd.team rLd.id y.pa 4 = false) ∧
    (lnW .pending []).attr.rlf = false ∧ (lnW .pending []).attr.raw = false := by decide +kernel
theorem wit_loadEvents_return : (stR rLb).req? 7 = some rLb ∧ (stR rLb).live rLb = true ∧ (stR rLb).team? 1 = some tmM ∧ tmM.gen = rLb.gen ∧
    (∀ x ∈ rLb.lanes, x.st = .bound) ∧ (stR rCl).req? 7 = some rCl ∧ (stR rCl).live rCl = true ∧ (∀ x ∈ rCl.lanes, x.st = .pending) ∧
    (∀ x ∈ rCl.lanes, (stR rCl).localBlocked rCl.team rCl.id .clm x.va 4 = false) := by decide +kernel
theorem wit_loadEvents_expiry : ({ stR rLd with l1 := [cpy0], clock := 9 } : State).l1.find? (fun c => c.core == 0 && c.word == 0x4000) = some cpy0 ∧
    cpy0.owned = false ∧ cpy0.expiry ≤ ({ stR rLd with l1 := [cpy0], clock := 9 } : State).coreTime 0 := by decide +kernel
/-- The same team with a drain to 0x10000. -/
def tmXd : Team := { tmX with fmt := 0x02700000, frame := tmX.frame.set 39 { full := true, uniform := true, bank := .uni 0x10000 } }
def sXd : State := { stOf tmXd with tlb := [fetchTlb, tlbW] }
theorem wit_tileReady : ∃ c, TileReady sX tmX c ⟨40, 0, 8, true, false, none⟩ ∧ Readable tmX (tileSources tmX ⟨40, 0, 8, true, false, none⟩ c ++ many 40 32) ∧
    TileReady sX tmX c ⟨40, 0, 8, false, false, some 0⟩ ∧ Readable tmX (tileSources tmX ⟨40, 0, 8, false, false, some 0⟩ c ++ many 40 32) :=
  ⟨_, ⟨by decide +kernel, by decide +kernel, by decide +kernel, fun e rest h => (nomatch h), by decide +kernel, rfl, by decide +kernel⟩, by decide +kernel,
    ⟨by decide +kernel, by decide +kernel, by decide +kernel, fun e rest h => (nomatch h), by decide +kernel, rfl, by decide +kernel⟩, by decide +kernel⟩
theorem wit_drainTo : DrainTo sXd tmXd { va := 0x10000, pa := 0x20000, via := [sXd.pageRange 0 0 0x10000], came := sXd.nextId } :=
  ⟨by decide +kernel, by decide +kernel, by decide +kernel, by decide +kernel, by decide +kernel, by decide +kernel, by decide +kernel, attW, by decide +kernel⟩
theorem wit_drainReady : ∃ c, TileReady sXd tmXd c ⟨40, 0, 8, true, true, none⟩ ∧
    Readable tmXd (tileSources tmXd ⟨40, 0, 8, true, true, none⟩ c ++ many 40 32 ++ [BitVec.ofNat 7 (tmXd.fmt.toNat / 2 ^ 20)]) ∧
    TileReady sXd tmXd c ⟨40, 0, 8, false, true, some 1⟩ ∧
    Readable tmXd (tileSources tmXd ⟨40, 0, 8, false, true, some 1⟩ c ++ many 40 32 ++ [BitVec.ofNat 7 (tmXd.fmt.toNat / 2 ^ 20)]) :=
  ⟨_, ⟨by decide +kernel, by decide +kernel, by decide +kernel, fun e rest h => (nomatch h), by decide +kernel, rfl, by decide +kernel⟩, by decide +kernel,
    ⟨by decide +kernel, by decide +kernel, by decide +kernel, fun e rest h => (nomatch h), by decide +kernel, rfl, by decide +kernel⟩, by decide +kernel⟩
theorem wit_tileWrites : ¬ArrayBusy (sTi (.tile none none)) (rTi (.tile none none)) tmX ∧ (sTi (.tile none none)).live (rTi (.tile none none)) = true :=
  ⟨fun ⟨q, h, hlt, _⟩ => by rw [List.mem_singleton.1 h] at hlt; exact absurd hlt (Nat.lt_irrefl _), by decide +kernel⟩
theorem test_mms : nextHas (exec (.mms 40 0 8 0 false) sX) (fun s => s.reqs.map (fun r => (r.kind, r.lanes.length)) == [(.tile none none, 1)]) = true ∧
    nextHas (exec (.mma 40 0 8 true true) sXd) (fun s => s.reqs.map (fun r => (r.kind, r.lanes.length)) == [(.tile (some { va := 0x10000, pa := 0x20000, via := [sXd.pageRange 0 0 0x10000], came := sXd.nextId }) none, 1)]) = true := by decide +kernel

/-! ### Parts of hypotheses -/

theorem wit_linked : Linked (sK both []) 2 0x70000 ∧ Linked (sSe .open_) 2 0x20000 :=
  ⟨⟨srfF .open_, by decide +kernel, fun r h => by rw [List.mem_singleton.1 h]; exact ⟨srfG, by decide +kernel, fun r h => (nomatch h)⟩⟩,
    ⟨srf2 .open_, by decide +kernel, fun r h => by rw [List.mem_singleton.1 h]; exact ⟨srfG, by decide +kernel, fun r h => (nomatch h)⟩⟩⟩
theorem wit_engineFree : Free (sK both []) (.relief 7) ∧ Free (sSl (prg false [1])) (.seal 0x70000) ∧ CacheRoom (sK both []) 0x70000 (srfF .open_) 1 :=
  ⟨⟨⟨by decide +kernel, by decide +kernel⟩, by decide +kernel⟩, ⟨⟨by decide +kernel, by decide +kernel⟩, by decide +kernel⟩, by decide +kernel⟩
theorem wit_heapWrites : HeapWrites (sK both []) 0 0x10050 0x20050 16 :=
  ⟨by decide +kernel, ⟨attW, by decide +kernel⟩, by decide +kernel, by decide +kernel⟩
theorem wit_blockLoads : BlockLoads (sK both [rqK 0 [0x00030003]]) tmA 0x70000 1 120 := by decide +kernel
theorem wit_inTurn : InTurn (sCx { cxOf .created with started := true } tmA) 0 { cxOf .created with started := true } ∧
    InTurn sSv 0 (cxOf .saved) := ⟨⟨by decide +kernel, fun _ _ _ _ _ => Nat.zero_le _⟩, ⟨by decide +kernel, fun _ _ _ _ _ => Nat.zero_le _⟩⟩
/-- The context was saved in a partition of the same size. -/
def sSw : State := { sSv with ctxs := [{ cxOf .saved with savedSize := 1 }] }
theorem wit_restoreSize : ({ cxOf .saved with savedSize := 1 } : Ctx).savedSize = partSize sSw 0 ∧ PartFree sSw 0 ∧ sSw.mem = sSv.mem := by decide +kernel
theorem test_restore : (sSw.restoreTeams 0).teams.map (·.st) = [.ready] ∧ (sSw.restoreTeams 0).ctxs.map (·.st) = [.saved] := by decide +kernel
/-- A MAQUETTE that has started, and a WAIT behind it: a capture keeps the WAIT alone. -/
def eMq : QEntry := { ent [0x01000500] with started := true, work := some 0 }
theorem okMq : EntryOk eMq ∧ 5 ≤ entryType eMq := by
  have z : ∀ j < 16, 4 ≤ j → word eMq j = 0 := by decide +kernel
  refine ⟨⟨by decide, ⟨by decide, by decide, fun j h1 h2 => z j h2 h1⟩, by decide⟩, by decide⟩
theorem wit_captured : Captured (que [eMq, eWt 5 true]) (que [eWt 5 true]) := by
  refine ⟨rfl, List.Sublist.cons _ (List.Sublist.refl _), fun e => ⟨fun h => ?_, fun h => ?_⟩⟩
  · rw [List.mem_singleton.1 h]
    exact ⟨by decide +kernel, fun k => absurd k.2.1 (by decide)⟩
  · rcases List.mem_cons.1 h.1 with e | e
    · exact absurd (e ▸ ⟨okMq.1, okMq.2, rfl⟩) h.2
    · exact e
theorem wit_asked : Asked { cxOf .switchingOut with queues := [que [eMq]] } (que [eMq]).q eMq.n := by
  refine ⟨⟨_, List.mem_singleton.2 rfl, rfl, _, List.mem_singleton.2 rfl, rfl, okMq.1, by decide, by decide, rfl⟩, ?_⟩
  rintro q n ⟨x, hx, rfl, e, he, rfl, _⟩
  rw [List.mem_singleton.1 hx] at he ⊢
  exact ⟨rfl, by rw [List.mem_singleton.1 he]⟩
theorem wit_areaKept : AreaKept { sSv with mem := [(0x40000, 5)] } { cxOf .saved with save := 0x40000, savedImage := [5, 0] } := by decide +kernel
theorem wit_copyEnds : SourceAt (sCp (cp3 none)) (cp3 none) (0x20000 + ·) ∧ DestAt (sCp (cp3 none)) (cp3 none) (0x20004 + ·) := by
  have e : ∀ o : Nat, o < 3 → (sCp (cp3 none)).engineSeg 0 (0x10000 + o) = .ok (0x20000 + o) attW ∧
      (sCp (cp3 none)).engineSeg 0 (0x10004 + o) = .ok (0x20004 + o) attW := wit_copyEngine.2.2.1
  have p : ∀ o : Nat, o < 3 → (sCp (cp3 none)).unreachable (0x20000 + o) = false ∧ (sCp (cp3 none)).tableAt (0x20000 + o) 1 = false ∧
      (0x20000 + o) / 64 ∉ (sCp (cp3 none)).poisoned ∧ 0x20004 + o < dramEnd ∧ (sCp (cp3 none)).tableAt (0x20004 + o) 1 = false ∧
      (sCp (cp3 none)).heldAt (0x20004 + o) = false := by decide +kernel
  exact ⟨⟨by decide +kernel, fun o h => ⟨⟨attW, (e o h).1, rfl, rfl⟩, (p o h).1, (p o h).2.1, (p o h).2.2.1⟩⟩, rfl, by decide +kernel,
    fun o h => ⟨⟨attW, (e o h).2, rfl, rfl, rfl⟩, (p o h).2.2.2⟩⟩


/-! ### More parts of hypotheses -/

theorem sameSome {β : Type} {o : Option β} {k v : β} (h : o = some k) (e : o = some v) : k = v := Option.some.inj (h.symm.trans e)
def opG : TileOp := ⟨40, 0, 8, true, false, none⟩
theorem wit_gangFits : GangFits sG tmG0 ∧ GangFits sG tmG1 ∧ gangCount tmG0 = 2 ∧ latchesUsed sG 0 = 0 ∧ Fits (record tmG0 opG) tmG1 opG ∧
    ¬Fits (record tmG0 opG) tmG1 { opG with sel := some 1 } := by
  have g : ∀ t, (t = tmG0 ∨ t = tmG1) → ∀ i < gangCount t, ∃ u, occupant sG t (gangSlot t i) = some u ∧ u.ctx = t.ctx ∧ u.kernel = t.kernel ∧
      gangWord u % 8 = gangWord t % 8 ∧ gangWord u / 64 = gangWord t / 64 := by
    rintro t (rfl | rfl) i hi
    · have h : i < 2 := hi
      match i, h with
      | 0, _ => exact ⟨tmG0, by decide +kernel⟩
      | 1, _ => exact ⟨tmG1, by decide +kernel⟩
    · have h : i < 2 := hi
      match i, h with
      | 0, _ => exact ⟨tmG0, by decide +kernel⟩
      | 1, _ => exact ⟨tmG1, by decide +kernel⟩
  refine ⟨⟨by decide +kernel, by decide +kernel, ⟨tmG0, by decide +kernel⟩, by decide +kernel, g _ (Or.inl rfl)⟩,
    ⟨by decide +kernel, by decide +kernel, ⟨tmG1, by decide +kernel⟩, by decide +kernel, g _ (Or.inr rfl)⟩, by decide +kernel, by decide +kernel, by decide +kernel,
    by decide +kernel⟩
def team0 : Circuit := { key := .team 1 0, phase := 0, count := 0, expected := none, membership := 1, arrived := [] }
def grid3 : Circuit := { key := .grid 1 3, phase := 4, count := 1, expected := some 2, membership := 2, arrived := [1] }
theorem wit_barrierParts : CountOk sBa tmA .team 0 1 ∧ NoneArrived sBa tmA .team 0 ∧ AllComplete sBa tmA .team 0 1 ∧ SomeArrived sBa tmA .grid 3 ∧
    Released sBa 1 .device ∧ PhaseOver sBa 0 { key := .grid 1 3, phase := 3 } ∧ ¬PhaseOver sBa 0 { key := .grid 1 3, phase := 4 } := by
  have h : ∀ x ∈ reached tmA .team 0, x = (.team 1 0, [0]) := by decide +kernel
  have e : sBa.circuit? 0 (.team 1 0) = some team0 := by decide +kernel
  have e3 : sBa.circuit? 0 (.grid 1 3) = some grid3 := by decide +kernel
  refine ⟨fun x hx k hk => ?_, fun x hx => ⟨fun k hk => ?_, fun a ha => (nomatch ha)⟩, fun x hx k hk => ?_,
    ⟨(.grid 1 3, [1]), by decide +kernel, grid3, e3, 1, by decide, by decide⟩,
    Or.inr ⟨fun r hr => (nomatch hr), fun r hr => (nomatch hr), fun d hd => (nomatch hd)⟩, fun k hk => ?_, fun f => ?_⟩
  · rw [h x hx] at hk; rw [sameSome hk e]; decide
  · rw [h x hx] at hk ⊢; rw [sameSome hk e]; decide
  · rw [h x hx] at hk ⊢; rw [sameSome hk e]; decide
  · rw [sameSome hk e3]; decide
  · exact absurd (f grid3 e3) (by decide)
/-- A core with room, and one whose granules are taken. -/
def tmFull : Team := { tmA with scrSize := 3670016 }
theorem wit_room : HasRoom stB 0 kPl.desc ∧ NoRoom (stOf tmFull) 0 kPl.desc ∧ PlainKernel kPl.desc ∧ OnlyTeams stB ∧ kPl.next < kPl.desc.teams ∧
    coreOrder stB 0 none = List.range (32 * fld (stB.part.getD 0 0) 3 0) :=
  ⟨⟨by decide +kernel, ⟨0, by decide +kernel⟩, 0, by decide +kernel⟩, Or.inl (by decide +kernel), by decide +kernel, by decide +kernel, by decide +kernel, by decide +kernel⟩
theorem wit_launchBad : LaunchBad (sLau 0x10100) 0 [] fetchKernel 3 := Or.inl (by decide +kernel)
theorem wit_launchOk : LaunchOk (sLau 0x10100) 0 ldWords fetchKernel := by
  have z : ∀ i < 32, 20 ≤ i → ldWords.getD i 0 = 0 := by decide +kernel
  refine ⟨by decide +kernel, ?_, by decide +kernel, by decide +kernel, by decide +kernel⟩
  exact ⟨by decide, by decide, by decide, by decide, by decide, by decide, by decide, by decide, by decide, by decide, by decide, by decide, by decide,
    by decide, by decide, by decide, by decide, by decide, fun i h1 h2 => z i h2 h1⟩
theorem wit_engineSpans : EngineSpans (sCp (cp3 none)) 0 0x10000 3 0x20000 0x20003 3 (Plain (sCp (cp3 none))) ∧
    (sCp (cp3 none)).engineSeg 0 0x50000 = .bad ∧ Unheld (sCp (cp3 none)) (.copy 5) ∧ OnItsWay (sCp (cp3 none)) 0 0x10005 := by
  refine ⟨⟨by decide +kernel, attW, by decide +kernel, by decide +kernel, ?_⟩, ?_, by decide +kernel, Or.inl ⟨cp3 none, by decide +kernel⟩⟩
  · rw [if_pos (by decide)]; decide
  · decide +kernel
/-- Two requests to one block: the second comes behind the first. -/
def rqK2 : Req := { rqK 0 [0x00030003] with id := 9 }
theorem wit_ahead : OwnAhead (sK both [rqK 0 [0x00030003], rqK2]) rqK2 ∧
    PlaceAhead (sK both [{ rqK 0 [0x00030003] with lanes := [{ lnW .pending [0x00030003] with dst := 4 }] }, rqK2]) rqK2 := by
  refine ⟨⟨_, List.mem_singleton.2 rfl, rfl, (0x70000, 0), by decide +kernel, Or.inr ⟨rqK 0 [0x00030003], by decide +kernel, rfl, by decide, rfl, _, List.mem_singleton.2 rfl, rfl, by decide +kernel⟩⟩,
    _, List.mem_singleton.2 rfl, _, List.mem_cons_self .., by decide, by decide +kernel, rfl, _, List.mem_singleton.2 rfl, rfl, by decide, Or.inl rfl, (0x70000, 0), by decide +kernel, by decide +kernel⟩
theorem wit_bankTurn : BankTurn (sT (rqT (rec0 [0] .queued))) 0x20000 0 ∧ ¬BankTurn (sT (rqT (rec0 [0] .queued))) 0x20000 1 := by
  refine ⟨fun q hq _ => ?_, fun h => ?_⟩
  · rw [List.mem_singleton.1 hq]
    exact ⟨fun _ z _ _ hz => absurd hz (Nat.not_lt_zero _), fun op fr lim a hk => (nomatch hk)⟩
  · have := (h _ (List.mem_singleton.2 rfl) (by decide +kernel)).1 rfl (rec0 [0] .queued) (List.mem_singleton.2 rfl) rfl (by decide) 0 [] 0x20000 rfl (by decide +kernel)
    exact this (by decide +kernel)
theorem wit_singleNode : SingleNode 1 0x20000 256 Attr.none 0 0x20000 ∧ SingleNode 2 0x20000 256 Attr.none 3 0x20040 := by decide +kernel
theorem wit_unitForbidden : UnitForbidden (sFi false) 0 0x50000 ∧ (sFi false).engineSeg 0 0x40000 = .fault .park :=
  ⟨⟨by decide, Or.inl (by decide +kernel)⟩, by decide +kernel⟩
/-- A write of partner 0 waits, and a second write to its line comes. -/
def inW (k : Nat) : Inbound := { inb none with id := k, key := k, va := 0x10008, work := .write [1], peer := some 0 }
theorem wit_behind : Behind { sPo .up with inbound := [inW 1] } (inW 9) ∧ NoneWaits (sPo .up) ∧ ¬Behind (sPo .up) (inW 9) :=
  ⟨⟨inW 1, List.mem_singleton.2 rfl, by decide, by decide, fun h => (nomatch h.1), Or.inl rfl, by decide⟩, fun x h => (nomatch h), fun ⟨z, h, _⟩ => (nomatch h)⟩
theorem test_behind : nextHas (exec (.inboundWrite (lrq 0x10008) [1, 2]) { sPo .up with inbound := [inW 1], nextId := 8 })
    (fun s => s.inbound.map (fun x => (x.key, x.held)) == [(1, false), (8, true)] && s.outbox == [] && s.mem == pgMem) = true := by decide +kernel
theorem wit_handles : Outstanding tmJc 1 ∧ ¬Outstanding tmJc 2 ∧ ChildrenDone sA { hd := 1, children := [5] } := by
  refine ⟨⟨_, List.mem_singleton.2 rfl, rfl⟩, fun ⟨x, h, e⟩ => by rw [List.mem_singleton.1 h] at e; exact absurd e (by decide), fun id hid => ?_⟩
  rw [List.mem_singleton.1 hid]
  exact ⟨by decide +kernel, fun u hu => (nomatch hu), Or.inr ⟨fun r hr => (nomatch hr), fun r hr => (nomatch hr), fun d hd => (nomatch hd)⟩⟩
theorem wit_contextParts : Eligible { cxOf .created with started := true } ∧ Eligible (cxOf .saved) ∧ HeaderOk sFw := by
  refine ⟨Or.inl ⟨rfl, rfl⟩, Or.inr rfl, by decide +kernel, by decide +kernel, by decide +kernel, by decide +kernel, fun i h1 h2 => ?_⟩
  have z : ∀ i < 16, 3 ≤ i → imageWord sFw i = 0 := by decide +kernel
  exact z i (by omega) h1

end Sys2Proof.Tests
end

/-!
PROOF. The device: what reset leaves (O9), and power, reset, freeze, firmware load, heat and the TAP (O38).
-/

namespace Sys2Proof.Machine

open Sys2Proof.Safety
open Sys2Proof.Claims

/-! ## Bit fields -/

/-- The statements' bit fields are the machine's. -/
theorem fld_eq_wfld {hi lo : Nat} (h : lo ≤ hi) (w : Word) : fld w hi lo = wfld w hi lo := by
  rw [fld, wfld, bits, Nat.sub_add_comm h]

/-! ## What reset leaves (R23, R27) -/

/-- Every register file of a reset device is the reset value of one register, repeated. -/
theorem reset_registers :
    (∀ p ∈ State.reset.pools, p = Pool.reset) ∧ (∀ p ∈ State.reset.ports, p = Port.reset) ∧
    (∀ w ∈ State.reset.lmap, w = (0, 0)) ∧ (∀ w ∈ State.reset.inwin, w = (0, 0)) ∧
    ∀ f ∈ State.reset.filters, f = { w0 := 0, w1 := 0, drop := 0 } :=
  ⟨fun _ => List.eq_of_mem_replicate, fun _ => List.eq_of_mem_replicate, fun _ => List.eq_of_mem_replicate,
    fun _ => List.eq_of_mem_replicate, fun _ => List.eq_of_mem_replicate⟩

theorem memOk_reset : MemOk State.reset := ⟨rfl, rfl⟩

/-! ## Power, reset and freeze (R23, R24) -/

theorem exec_powerGood (s : State) : exec .powerGood s = execPowerGood s := rfl
theorem exec_powerLoss (s : State) : exec .powerLoss s = execPowerLoss s := rfl
theorem exec_perstAssert (s : State) : exec .perstAssert s = execPerstAssert s := rfl
theorem exec_mgmtResetCommand (s : State) : exec .mgmtResetCommand s = execMgmtResetCommand s := rfl
theorem exec_resetRelease (s : State) : exec .resetRelease s = execResetRelease s := rfl
theorem exec_freezePinAssert (s : State) : exec .freezePinAssert s = execFreezePinAssert s := rfl
theorem exec_mgmtFreezeCommand (s : State) : exec .mgmtFreezeCommand s = execMgmtFreezeCommand s := rfl

/-- A reset of the machine is the cleared device of the statements. -/
theorem resetDevice_eq_cleared (s : State) : s.resetDevice = cleared s := by
  simp only [State.resetDevice, cleared, Bool.decide_eq_false]

theorem cleared_dev (s : State) : (cleared s).dev = .reset := rfl

theorem freeze_of_freezes {s : State} (h : Freezes s) : s.freeze = { s with dev := .frozen } := if_pos h

theorem freeze_ignored {s : State} (h : ¬Freezes s) : s.freeze = s := if_neg h

/-! ## Firmware load (R25, R26) -/

theorem exec_stagingWindowWrite (off : Nat) (bytes : List Byte) (s : State) :
    exec (.stagingWindowWrite off bytes) s = execStagingWindowWrite off bytes s := rfl
theorem exec_fwCmdVerify (v : Word) (s : State) : exec (.fwCmdVerify v) s = execFwCmdVerify v s := rfl
theorem exec_firmwareVerifyDone (s : State) : exec .firmwareVerifyDone s = execFirmwareVerifyDone s := rfl

/-- A command with START clear, or with a reserved bit set, is not the command 1. -/
theorem fwCmd_ne_one {v : Word} (h : v.getLsbD 0 = false ∨ fld v 31 1 ≠ 0) : v ≠ 1 := by
  rintro rfl
  exact absurd h (by decide)

theorem not_lenOk_iff (s : State) : ¬LenOk s ↔
    ((imageWord s 1).toNat % 64 ≠ 0 ∨ (imageWord s 1).toNat < 128 ∨ 0x4000000 < (imageWord s 1).toNat) := by
  simp only [LenOk]
  omega

theorem not_signed_iff (s : State) : ¬Signed s ↔
    ((!Config.xmssValid (memRead s.fw.staging 0 (imageWord s 1).toNat) (memRead s.fw.staging (imageWord s 1).toNat 2820)) = true ∨
      (memWord s.fw.staging (imageWord s 1).toNat).toNat ≤ s.fw.leaf) := by
  simp only [Signed, Bool.not_eq_true', not_and_or, Bool.not_eq_true, Nat.not_lt]

theorem reservedWords_iff (s : State) :
    ((List.range 13).any fun i => imageWord s (3 + i) != 0) = true ↔ ¬∀ i, 3 ≤ i → i ≤ 15 → imageWord s i = 0 := by
  simp only [List.any_eq_true, List.mem_range, bne_iff_ne, not_forall]
  constructor
  · rintro ⟨i, hi, h⟩
    exact ⟨3 + i, by omega, by omega, h⟩
  · rintro ⟨i, h3, h15, h⟩
    exact ⟨i - 3, by omega, by rwa [Nat.add_sub_cancel' h3]⟩

theorem not_headerOk_iff {s : State} (h : LenOk s) : ¬HeaderOk s ↔
    (wfld (imageWord s 0) 15 0 ≠ 0 ∨ (imageWord s 2).toNat % 4 ≠ 0 ∨ (imageWord s 2).toNat < 64 ∨
      (imageWord s 1).toNat - 4 < (imageWord s 2).toNat ∨ ((List.range 13).any fun i => imageWord s (3 + i) != 0) = true) := by
  obtain ⟨-, hlen, -⟩ := h
  have hfit : ¬(imageWord s 2).toNat + 4 ≤ (imageWord s 1).toNat ↔ (imageWord s 1).toNat - 4 < (imageWord s 2).toNat := by omega
  rw [reservedWords_iff]
  simp only [HeaderOk, not_and_or, hfit, Nat.not_le, fld_eq_wfld (Nat.zero_le 15), ne_eq]

/-! The verdict, check by check: the first that fails decides it. -/

theorem verdict_of_length {s : State} (h : ¬LenOk s) : s.fw.verdict = (5, 0) := if_pos ((not_lenOk_iff s).1 h)

section Verdict
variable {s : State} (hl : LenOk s)
include hl

theorem verdict_of_signature (h : ¬Signed s) : s.fw.verdict = (3, 0) :=
  (if_neg (mt (not_lenOk_iff s).2 (not_not_intro hl))).trans (if_pos ((not_signed_iff s).1 h))

variable (hs : Signed s)
include hs

theorem verdict_of_version (h : fld (imageWord s 0) 31 24 ≠ 1) : s.fw.verdict = (4, 0) :=
  (if_neg (mt (not_lenOk_iff s).2 (not_not_intro hl))).trans <|
    (if_neg (mt (not_signed_iff s).2 (not_not_intro hs))).trans (if_pos h)

variable (hv : fld (imageWord s 0) 31 24 = 1)
include hv

theorem verdict_of_header (h : ¬HeaderOk s) : s.fw.verdict = (5, 0) :=
  (if_neg (mt (not_lenOk_iff s).2 (not_not_intro hl))).trans <|
    (if_neg (mt (not_signed_iff s).2 (not_not_intro hs))).trans <|
      (if_neg (not_not_intro hv)).trans (if_pos ((not_headerOk_iff hl).1 h))

theorem verdict_passes (h : HeaderOk s) :
    s.fw.verdict = (2, (memWord s.fw.staging (imageWord s 1).toNat).toNat) :=
  (if_neg (mt (not_lenOk_iff s).2 (not_not_intro hl))).trans <|
    (if_neg (mt (not_signed_iff s).2 (not_not_intro hs))).trans <|
      (if_neg (not_not_intro hv)).trans (if_neg (mt (not_headerOk_iff hl).2 (not_not_intro h)))

end Verdict

/-- An image with any other verdict than 2 leaves the device in Awaiting firmware, with the verdict as status. -/
theorem firmwareVerifyDone_refuses {s : State} {n : Nat} (hd : s.dev = .verifying) (h : s.fw.verdict = (n, 0)) (hn : n ≠ 2) :
    exec .firmwareVerifyDone s = .next { s with dev := .awaiting, fw := { s.fw with stat := n } } := by
  rw [exec_firmwareVerifyDone, execFirmwareVerifyDone, if_pos hd, h]
  exact congrArg _ (if_neg hn)

/-- The teams that the 32 service cores start with. -/
def serviceTeams (id : Nat) (entry : Word) : List Team := (List.range 32).map fun i => firmwareTeam (id + i) i entry

theorem serviceTeams_length (id : Nat) (entry : Word) : (serviceTeams id entry).length = 32 := by
  rw [serviceTeams, List.length_map, List.length_range]

theorem serviceTeam_firmwareTeam (id core : Nat) (entry : Word) :
    ServiceTeam (firmwareTeam id core entry) id (384 + core) entry := by
  refine ⟨rfl, rfl, rfl, rfl, rfl, rfl, rfl, rfl, rfl, fun l hl => ?_, rfl, rfl⟩
  rw [firmwareTeam, BitVec.getLsbD_ofNat, Nat.testBit_two_pow_sub_one, decide_eq_true hl, Bool.true_and]

theorem serviceTeams_get {id i : Nat} {entry : Word} {u : Team} (h : (serviceTeams id entry)[i]? = some u) :
    ServiceTeam u (id + i) (384 + i) entry := by
  obtain ⟨hi, rfl⟩ := List.getElem?_eq_some_iff.1 h
  simp only [serviceTeams, List.getElem_map, List.getElem_range]
  exact serviceTeam_firmwareTeam _ _ _

/-- A firmware team is one group of 32 lanes. -/
theorem firmwareTeam_groupCircuits (id core : Nat) (entry : Word) :
    (firmwareTeam id core entry).groupCircuits =
      [{ key := .group id 0, phase := 0, count := 0, expected := none, membership := 32, arrived := [] }] := by
  have hgroups : (firmwareTeam id core entry).groups = 1 := Nat.div_self (by decide : 0 < 32)
  rw [Team.groupCircuits, hgroups]
  rfl

/-- Starting the service cores, in terms of their teams. -/
theorem startCores_eq (s : State) (entry : Word) :
    s.startCores entry = { s with
      nextId := s.nextId + 32, teams := s.teams ++ serviceTeams s.nextId entry
      order := s.order ++ (serviceTeams s.nextId entry).map (·.id)
      fwCircuits := (serviceTeams s.nextId entry).map fun u =>
        { key := .group u.id 0, phase := 0, count := 0, expected := none, membership := 32, arrived := [] } } := by
  simp only [State.startCores, serviceTeams, firmwareTeam_groupCircuits, ← List.map_eq_flatMap, List.map_map]
  rfl

theorem firmwareVerifyDone_runs {s : State} {leaf : Nat} (hd : s.dev = .verifying) (h : s.fw.verdict = (2, leaf)) :
    exec .firmwareVerifyDone s = .next { s.startCores (imageWord s 2) with
      dev := .operational
      fw := { s.fw with stat := 2, leaf := leaf, code := memSlice s.fw.staging 0 (imageWord s 1).toNat,
                        entry := imageWord s 2, running := true } } := by
  rw [exec_firmwareVerifyDone, execFirmwareVerifyDone, if_pos hd, h]
  rfl

/-! ## Heat (R29, R30) and the TAP (R313) -/

theorem exec_thermalThrottle (die : Nat) (s : State) : exec (.thermalThrottle die) s = execThermalThrottle die s := rfl
theorem exec_thermalCooled (die : Nat) (s : State) : exec (.thermalCooled die) s = execThermalCooled die s := rfl
theorem exec_thermalTrip (die : Nat) (s : State) : exec (.thermalTrip die) s = execThermalTrip die s := rfl
theorem exec_tapBypass (s : State) : exec .tapBypass s = execTapBypass s := rfl
theorem exec_tapSamplePreload (s : State) : exec .tapSamplePreload s = execTapSamplePreload s := rfl
theorem exec_tapExtest (s : State) : exec .tapExtest s = execTapExtest s := rfl
theorem exec_tapIdcode (s : State) : exec .tapIdcode s = execTapIdcode s := rfl
theorem exec_tapFrzsel (x : BitVec 48) (s : State) : exec (.tapFrzsel x) s = execTapFrzsel x s := rfl
theorem exec_tapFrzdata (s : State) : exec .tapFrzdata s = execTapFrzdata s := rfl

theorem thermalThrottle_next {s : State} {die : Nat} (hoff : s.dev ≠ .off) (hfrz : s.dev ≠ .frozen) (hd : die ∉ s.throttled) :
    exec (.thermalThrottle die) s = .next { s with throttled := die :: s.throttled } := by
  rw [exec_thermalThrottle, execThermalThrottle, if_neg]
  simp only [hoff, hfrz, List.contains_iff_mem, hd, or_self, not_false_eq_true]

theorem thermalCooled_next {s : State} {die : Nat} (h : s.dev ≠ .frozen) :
    exec (.thermalCooled die) s = .next { s with throttled := s.throttled.filter fun d => d ≠ die } := by
  rw [exec_thermalCooled, execThermalCooled, if_neg h]
  simp only [bne, beq_eq_decide, decide_not]

theorem tapTo_powered {s : State} (h : s.dev ≠ .off) (x : Tap) : s.tapTo x = .next { s with tap := x } := by
  rw [State.tapTo, if_neg h]

/-- Shifting out a word of a frozen device advances the index of the selection (R313). -/
theorem tapFrzdata_frozen {s : State} {arr : BitVec 16} {ix : Word} (hd : s.dev = .frozen) (h : s.tap.sel = arr ++ ix) :
    exec .tapFrzdata s = .next
      { s with tap := { ir := .frzdata, out := Config.frozenWord arr.toNat ix.toNat s, sel := arr ++ (ix + 1) } } := by
  rw [exec_tapFrzdata, execTapFrzdata, tapTo_powered (by rw [hd]; decide), if_pos hd, h,
    BitVec.extractLsb'_append_eq_left, BitVec.extractLsb'_append_eq_right]

/-! ## The parts of the statements -/

theorem resetFreeze_holds : ResetFreeze := by
  intro s
  refine ⟨fun h => ?_, fun h => ?_, ?_, ?_, ?_, cleared_dev s, fun h => ?_, fun h => ?_, fun h => ⟨?_, ?_⟩, fun h => ⟨?_, ?_⟩⟩
  · rw [exec_powerGood, execPowerGood, if_pos h]
  · rw [exec_powerGood, execPowerGood, if_neg h]
  · rw [exec_powerLoss, execPowerLoss, resetDevice_eq_cleared]
  · rw [exec_perstAssert, execPerstAssert, resetDevice_eq_cleared]
  · rw [exec_mgmtResetCommand, execMgmtResetCommand, resetDevice_eq_cleared]
  · rw [exec_resetRelease, execResetRelease, if_pos h]
  · rw [exec_resetRelease, execResetRelease, if_neg h]
  · rw [exec_freezePinAssert, execFreezePinAssert, freeze_of_freezes h]
  · rw [exec_mgmtFreezeCommand, execMgmtFreezeCommand, freeze_of_freezes h]
  · rw [exec_freezePinAssert, execFreezePinAssert, freeze_ignored h]
  · rw [exec_mgmtFreezeCommand, execMgmtFreezeCommand, freeze_ignored h]

theorem firmwareLoad_holds : FirmwareLoad := by
  intro s
  refine ⟨fun off bytes h hfit => ?_, fun off bytes h => ?_, fun h => ?_, fun v h => ?_, fun h => ⟨fun hl => ?_, fun hl hs => ?_,
    fun hl hs hv => ?_, fun hl hs hv hh => ?_, fun hl hs hv hh => ?_⟩, fun h => ?_⟩
  · rw [exec_stagingWindowWrite, execStagingWindowWrite, if_pos ⟨h, hfit⟩]
  · rw [exec_stagingWindowWrite, execStagingWindowWrite, if_neg fun hc => h hc.1]
  · rw [exec_fwCmdVerify, execFwCmdVerify, if_pos ⟨h, rfl⟩]
  · rw [exec_fwCmdVerify, execFwCmdVerify, if_neg]
    rintro ⟨hd, hv⟩
    exact h.elim (absurd hd) fun hb => fwCmd_ne_one hb hv
  · exact firmwareVerifyDone_refuses h (verdict_of_length hl) (by decide)
  · exact firmwareVerifyDone_refuses h (verdict_of_signature hl hs) (by decide)
  · exact firmwareVerifyDone_refuses h (verdict_of_version hl hs hv) (by decide)
  · exact firmwareVerifyDone_refuses h (verdict_of_header hl hs hv hh) (by decide)
  · refine ⟨serviceTeams s.nextId (imageWord s 2), serviceTeams_length _ _, fun i u hu => serviceTeams_get hu, ?_⟩
    rw [firmwareVerifyDone_runs h (verdict_passes hl hs hv hh), startCores_eq]
  · rw [exec_firmwareVerifyDone, execFirmwareVerifyDone, if_neg h]

theorem heatAndTap_holds : HeatAndTap := by
  intro s
  refine ⟨fun die => thermalThrottle_next, fun die => thermalCooled_next, fun die h => ⟨?_, ?_⟩, fun die h => ?_, fun die h => ?_,
    fun h => ⟨?_, ?_, ?_, ?_, fun x hf => ?_, fun x hf => ?_, fun arr ix => tapFrzdata_frozen, fun hf => ?_⟩⟩
  · rw [exec_thermalThrottle, execThermalThrottle, if_pos (.inr (.inl h))]
  · rw [exec_thermalCooled, execThermalCooled, if_pos h]
  · rw [exec_thermalTrip, execThermalTrip, operational_next h, resetDevice_eq_cleared]
  · rw [exec_thermalTrip, execThermalTrip, operational_ignored h]
  · rw [exec_tapBypass, execTapBypass, tapTo_powered h]
  · rw [exec_tapSamplePreload, execTapSamplePreload, tapTo_powered h]
  · rw [exec_tapExtest, execTapExtest, tapTo_powered h]
  · rw [exec_tapIdcode, execTapIdcode, tapTo_powered h]
  · rw [exec_tapFrzsel, execTapFrzsel, if_pos hf, tapTo_powered h]
  · rw [exec_tapFrzsel, execTapFrzsel, if_neg hf, tapTo_powered h]
  · rw [exec_tapFrzdata, execTapFrzdata, if_neg hf, tapTo_powered h]

/-! ## The obligations -/

/-- Settles O9: the lists and flags of the reset state are literal, and its register files repeat one reset value. -/
theorem resetState : Obligations.ResetState := by
  obtain ⟨hpools, hports, hlmap, hinwin, hfilters⟩ := reset_registers
  unfold Obligations.ResetState
  refine ⟨rfl, rfl, rfl, rfl, rfl, rfl, rfl, rfl, rfl, rfl, rfl, rfl, rfl, rfl, rfl, rfl, rfl, rfl, rfl, rfl, rfl, rfl, rfl, rfl, rfl,
    rfl, rfl, rfl, rfl, rfl, rfl, rfl, hpools, fun p hp => ?_, hlmap, hinwin, fun f hf => ?_, memOk_reset⟩
  · rw [hports p hp]
    exact ⟨rfl, rfl, rfl⟩
  · rw [hfilters f hf]
    exact ⟨rfl, rfl, rfl⟩

/-- Settles O38, from its three parts: resets and freezes, the firmware's verdict check by check, and heat with the TAP. -/
theorem device : Obligations.Device := ⟨resetFreeze_holds, firmwareLoad_holds, heatAndTap_holds⟩

end Sys2Proof.Machine

/-!
PROOF. The SYS class (O37): TRAP, BKPT, RDTIME and RDID, and the privileged ERET, HALT, CSRR and CSRW.
-/

namespace Sys2Proof.Machine

open Sys2Proof.Safety
open Sys2Proof.Claims

/-! ## The arms of exec -/

theorem exec_trapI (c : Ctl) (a : Fld) (s : State) : exec (.trapI c a) s = execTrapI c a s := rfl
theorem exec_bkpt (c : Ctl) (s : State) : exec (.bkpt c) s = execBkpt c s := rfl
theorem exec_rdtime (c : Ctl) (d : Fld) (s : State) : exec (.rdtime c d) s = execRdtime c d s := rfl
theorem exec_rdid (c : Ctl) (d : Fld) (s : State) : exec (.rdid c d) s = execRdid c d s := rfl
theorem exec_eret (c : Ctl) (a : Fld) (s : State) : exec (.eret c a) s = execEret c a s := rfl
theorem exec_halt (c : Ctl) (a : Fld) (s : State) : exec (.halt c a) s = execHalt c a s := rfl
theorem exec_csrr (c : Ctl) (d a : Fld) (s : State) : exec (.csrr c d a) s = execCsrr c d a s := rfl
theorem exec_csrw (c : Ctl) (d a : Fld) (s : State) : exec (.csrw c d a) s = execCsrw c d a s := rfl

/-! ## Operands and destinations -/

theorem fplus_zero (f : Fld) : fplus f 0 = f := by simp [fplus]

theorem run_two (f : Fld) : run f 2 = [f, fplus f 1] := by
  rw [run, show List.range 2 = [0, 1] from rfl, List.map_cons, List.map_cons, List.map_nil, fplus_zero]

/-- One value for all lanes is uniform. -/
theorem uniform_const (t : Team) (v : Word) : t.uniform (fun _ => v) = true := by
  simp only [Team.uniform, beq_self_eq_true, List.all_eq_true, implies_true]

/-- Destinations that each take one value are written as the statements put them. -/
theorem finishWrite_puts (s : State) (t : Team) (c : Ctl) (as : List Fld) (ds : List (Fld × Word)) :
    s.finishWrite c as [] t (ds.map fun x => (x.1, fun _ => x.2)) = puts s t c as ds := by
  refine finishWrite_next fun x hx _ => ?_
  obtain ⟨y, -, rfl⟩ := List.mem_map.1 hx
  exact uniform_const t y.2

theorem finishWrite_const {s : State} {t : Team} {c : Ctl} {as : List Fld} (d : Fld) (v : Word) :
    s.finishWrite c as [] t [(d, fun _ => v)] = s.complete c ((t.useMarks c as []).write t [(d, fun _ => v)]) :=
  finishWrite_puts s t c as [(d, v)]

/-- The issuing team is found by its number. -/
theorem team?_of_issues {s : State} {t : Team} (h : Issues s t) : s.team? t.id = some t := by
  simp only [Issues, State.focusTeam] at h
  split at h
  · exact nomatch h
  · next id _ =>
    have hid : t.id = id := by simpa using List.find?_some h
    rwa [hid]

/-! ## Privilege (R52) -/

theorem privIssue_unprivileged {s : State} {t : Team} {w : Word} {c : Ctl} {as dd : List Fld} (k : Team → State) (hi : Issues s t)
    (hp : t.privileged = false) : s.privIssue w c as dd k = .next (s.trap t 2 0 t.mask w) := by
  rw [State.privIssue, withTeam_next _ hi, State.privilegedOnly, if_neg (by simp [hp])]

theorem privIssue_next {s : State} {t : Team} {w : Word} {c : Ctl} {as dd : List Fld} (k : Team → State) (hi : Issues s t)
    (hp : t.privileged = true) (hr : Readable t (as ++ dd)) : s.privIssue w c as dd k = .next (k t) := by
  rw [State.privIssue, withTeam_next _ hi, State.privilegedOnly, if_pos hp, checked_ok (by simpa using hr)]

/-- Every privileged instruction has one shape: its right, its operands, and that these are uniform. -/
theorem exec_privileged {i : Instr} {as ds : List Fld} (h : privOp i = some (as, ds)) (s : State) :
    ∃ (c : Ctl) (body : Team → State), exec i s = s.privIssue (encodeWord i) c as ds fun t => s.uniforms t as (body t) := by
  unfold privOp at h
  split at h
  · cases h
    exact ⟨_, _, exec_eret _ _ s⟩
  · cases h
    exact ⟨_, _, exec_halt _ _ s⟩
  · cases h
    exact ⟨_, _, exec_csrr _ _ _ s⟩
  · cases h
    exact ⟨_, _, exec_csrw _ _ _ s⟩
  · cases h

/-- A privileged instruction reads one field, or two in a row. -/
theorem privOp_reads {i : Instr} {as ds : List Fld} (h : privOp i = some (as, ds)) : (∃ a, as = [a]) ∨ ∃ a, as = [a, fplus a 1] := by
  unfold privOp at h
  split at h <;> cases h
  · exact .inl ⟨_, rfl⟩
  · exact .inl ⟨_, rfl⟩
  · exact .inl ⟨_, rfl⟩
  · exact .inr ⟨_, run_two _⟩

/-- The first operand that is not uniform takes the nonuniform-write trap. -/
theorem uniforms_trap {s k : State} {t : Team} {fs : List Fld} {f : Fld}
    (h : fs.find? (fun f => !t.uniform (t.get f)) = some f) :
    s.uniforms t fs k = s.trap t 5 0 t.mask (BitVec.ofNat 32 f.toNat) := by
  simp only [State.uniforms, h]

theorem find_nonuniform {i : Instr} {as ds : List Fld} {t : Team} {f : Fld} (h : privOp i = some (as, ds)) (hf : f ∈ as)
    (hfirst : ∀ g, as.head? = some g → g ≠ f → Uniform t g) (hn : ¬Uniform t f) :
    as.find? (fun f => !t.uniform (t.get f)) = some f := by
  have hbad : (!t.uniform (t.get f)) = true := by simpa using hn
  obtain ⟨a, rfl⟩ | ⟨a, rfl⟩ := privOp_reads h
  · rw [List.mem_singleton] at hf
    subst hf
    exact List.find?_cons_of_pos hbad
  · by_cases ha : a = f
    · subst ha
      exact List.find?_cons_of_pos hbad
    · have hgood : ¬(!t.uniform (t.get a)) = true := by simpa using hfirst a rfl ha
      obtain rfl : f = fplus a 1 := by simpa [Ne.symm ha] using hf
      exact (List.find?_cons_of_neg (p := fun f => !t.uniform (t.get f)) hgood).trans (List.find?_cons_of_pos hbad)

theorem privileged_nonuniform {i : Instr} {as ds : List Fld} (h : privOp i = some (as, ds)) {s : State} {t : Team} {f : Fld}
    (hi : Issues s t) (hp : t.privileged = true) (hr : Readable t (as ++ ds)) (hf : f ∈ as)
    (hfirst : ∀ g, as.head? = some g → g ≠ f → Uniform t g) (hn : ¬Uniform t f) :
    exec i s = .next (s.trap t 5 0 t.mask (BitVec.ofNat 32 f.toNat)) := by
  obtain ⟨c, body, hb⟩ := exec_privileged h s
  rw [hb, privIssue_next _ hi hp hr, uniforms_trap (find_nonuniform h hf hfirst hn)]

/-! ## A halt (R300) -/

theorem modCtx_modCtx (s : State) (n : Nat) (f g : Ctx → Ctx) (hf : ∀ x, (f x).num = x.num) :
    (s.modCtx n f).modCtx n g = s.modCtx n fun x => g (f x) := by
  simp only [State.modCtx, List.map_map]
  congr 2
  funext x
  by_cases h : x.num = n <;> simp [h, hf]

section Halt
variable {s : State} {n : Nat} {x : Ctx} (hx : s.ctx? n = some x)
include hx

theorem haltCtx_idle (h : x.st = .created ∨ x.st = .halted) : s.haltCtx n true = s := by
  simp only [State.haltCtx, hx]
  obtain h | h := h <;> rw [h]

theorem haltCtx_pending (h : x.st = .loaded ∨ x.st = .switchingOut) :
    s.haltCtx n true = s.modCtx n fun y => { y with haltPending := true } := by
  simp only [State.haltCtx, hx]
  obtain h | h := h <;> rw [h] <;> rfl

theorem haltCtx_saved (h : x.st = .saved) : s.haltCtx n true = s.modCtx n fun y => { y with st := .halted } := by
  simp only [State.haltCtx, hx, h]

theorem haltCtx_running (h : x.st = .running) : s.haltCtx n true =
    (s.modCtx n fun y => { y with haltPending := true, st := .switchingOut, capture := false }).stopTeams n := by
  simp only [State.haltCtx, hx, h, State.startPreempt]
  rw [modCtx_modCtx]
  intro _
  rfl

end Halt

section HaltIssue
variable {s : State} {t : Team} {c : Ctl} {a : Fld} (hi : Issues s t) (hp : t.privileged = true) (hr : Readable t [a])
  (hu : Uniform t a)
include hi hp hr hu

theorem halt_protect
    (h : s.ctx? (fld (t.getLow a) 7 0) = none ∨
      ∃ x, s.ctx? (fld (t.getLow a) 7 0) = some x ∧ (x.st = .reset ∨ x.st = .rollingBack)) :
    exec (.halt c a) s = .next (s.trap t 9 0 t.mask (t.getLow a)) := by
  rw [fld_eq_wfld (by decide)] at h
  rw [exec_halt, execHalt, privIssue_next _ hi hp hr, uniforms_ok (by simpa using hu)]
  obtain h | ⟨x, h, hst⟩ := h
  · simp only [h, State.protect]
  · simp only [h, State.protect, if_pos hst]

/-- A halt that is posted lets the team complete, where it still exists. -/
theorem halt_completes {x : Ctx} {u : Team} (hx : s.ctx? (fld (t.getLow a) 7 0) = some x)
    (hst : ¬(x.st = .reset ∨ x.st = .rollingBack)) {s1 : State} (hs : s.haltCtx (fld (t.getLow a) 7 0) true = s1)
    (hteam : s1.team? t.id = some u) :
    exec (.halt c a) s = .next (s1.complete c (u.useMarks c [a] [])) := by
  rw [fld_eq_wfld (by decide)] at hx hs
  rw [exec_halt, execHalt, privIssue_next _ hi hp hr, uniforms_ok (by simpa using hu)]
  simp only [hx, if_neg hst, hs, hteam]

end HaltIssue

/-! ## Context registers (R301) -/

theorem dlo_eq_lowHalf (v : Dword) : dlo v = lowHalf v := by
  apply BitVec.eq_of_toNat_eq
  simp [dlo, lowHalf]

theorem dhi_eq_highHalf (v : Dword) : dhi v = highHalf v := by
  apply BitVec.eq_of_toNat_eq
  simp [dhi, highHalf, Nat.shiftRight_eq_div_pow]

theorem code_eq_stateCode (x : CtxSt) : x.code = stateCode x := by
  cases x <;> rfl

theorem readReg_eq_ringReg (r : Rcb) (j : Nat) : r.readReg j = ringReg r j := by
  unfold Rcb.readReg
  split
  · rfl
  · exact dlo_eq_lowHalf _
  · exact dhi_eq_highHalf _
  · next h0 h1 h2 => simp [ringReg]

/-- The registers of R301 read as the statements say. -/
theorem readCtxReg_of_ctxReg {s : State} {x : Ctx} {reg : Nat} {v : Word} (h : ctxReg x reg = some v) :
    s.readCtxReg x reg = some v := by
  unfold ctxReg at h
  split at h <;> cases h <;> simp only [State.readCtxReg, dlo_eq_lowHalf, dhi_eq_highHalf, code_eq_stateCode]

/-- Above the registers of R301 lie the ring control blocks alone. -/
theorem readCtxReg_ring (s : State) (x : Ctx) {reg : Nat} (h : 0x12 < reg) :
    s.readCtxReg x reg = (s.rcbReg x.num reg).map fun k => (s.rcb x.num k.1).readReg k.2 := by
  unfold State.readCtxReg
  split
  case h_19 => rfl
  all_goals omega

theorem writeCtxReg_listed (s : State) (x : Ctx) (v : Word) {n : Nat} (h1 : 1 ≤ n) (h2 : n ≤ 0x12) :
    (s.writeCtxReg x n v).isSome = true := by
  interval_cases n <;> rfl

theorem writeCtxReg_ring (s : State) (x : Ctx) (v : Word) {n : Nat} (h : ¬(1 ≤ n ∧ n ≤ 0x12)) :
    (s.writeCtxReg x n v).isSome = (s.rcbReg x.num n).isSome := by
  unfold State.writeCtxReg
  split
  case h_19 =>
    dsimp only
    split <;> simp only [*, Option.isSome_none, Option.isSome_some]
  all_goals omega

/-- What can be written: the registers of R301 and those of the ring control blocks. -/
theorem writeCtxReg_isSome (s : State) (x : Ctx) (n : Nat) (v : Word) :
    (s.writeCtxReg x n v).isSome = true ↔ (1 ≤ n ∧ n ≤ 0x12) ∨ (s.rcbReg x.num n).isSome = true := by
  by_cases h : 1 ≤ n ∧ n ≤ 0x12
  · simp only [writeCtxReg_listed s x v h.1 h.2, h, and_self, true_or]
  · rw [writeCtxReg_ring s x v h, or_iff_right h]

/-- The rings of a slice are named from 0x400 on (R301). -/
theorem rcbReg_slice (s : State) (n : Nat) {k : Nat} (h : k < 256) : s.rcbReg n (0x400 + k) = some (.slice (k / 4), k % 4) := by
  rw [State.rcbReg, if_pos (by omega), Nat.add_sub_cancel_left, show (0x400 + k) % 4 = k % 4 by omega]

/-- The rings of the partition's cluster j are named from 0x8000 + 0x100 j on (R301). -/
theorem rcbReg_cluster (s : State) (n : Nat) {j k : Nat} (hk : k < 256) (hj : j < 4 * fld (s.part.getD (n / 16) 0) 3 0) :
    s.rcbReg n (0x8000 + 0x100 * j + k) = some (.cluster (4 * (n / 16) + j) (k / 4), k % 4) := by
  rw [fld_eq_wfld (by decide)] at hj
  rw [State.rcbReg, if_neg (by omega), if_pos (by simp only [State.ctxPart]; omega)]
  rw [show (0x8000 + 0x100 * j + k - 0x8000) / 0x100 = j by omega, show (0x8000 + 0x100 * j + k) % 0x100 = k by omega,
    show (0x8000 + 0x100 * j + k) % 4 = k % 4 by omega]
  rfl

theorem selCtx_eq {s : State} {w : Word} (h : fld w 31 24 = 0) : s.selCtx w = s.ctx? (fld w 23 16) := by
  rw [fld_eq_wfld (by decide)] at h
  rw [State.selCtx, if_neg (not_not_intro h), fld_eq_wfld (by decide)]

/-- A selector with a reserved bit set names no context, nor does one whose context does not exist. -/
theorem selCtx_none {s : State} {w : Word} (h : fld w 31 24 ≠ 0 ∨ s.ctx? (fld w 23 16) = none) : s.selCtx w = none := by
  by_cases hw : fld w 31 24 = 0
  · rw [selCtx_eq hw, h.resolve_left (not_not_intro hw)]
  · rw [fld_eq_wfld (by decide)] at hw
    exact if_pos hw

/-- A selector with a reserved bit set, or whose register the context does not have, names no register. -/
theorem selCtx_bind_none {α : Type} {s : State} {w : Word} {x : Ctx} {f : Ctx → Option α} (hx : s.ctx? (fld w 23 16) = some x)
    (h : fld w 31 24 ≠ 0 ∨ f x = none) : (s.selCtx w).bind f = none := by
  by_cases hw : fld w 31 24 = 0
  · rw [selCtx_eq hw, hx]
    exact h.resolve_left (not_not_intro hw)
  · rw [selCtx_none (.inl hw), Option.bind_none]

theorem selCtx_bind_some {α : Type} {s : State} {w : Word} {x : Ctx} {f : Ctx → Option α} {v : α} (hx : s.ctx? (fld w 23 16) = some x)
    (hw : fld w 31 24 = 0) (h : f x = some v) : (s.selCtx w).bind f = some v := by
  rw [selCtx_eq hw, hx]
  exact h

section ReadRegister
variable {s : State} {t : Team} {c : Ctl} {d a : Fld} (hi : Issues s t) (hp : t.privileged = true) (hr : Readable t [a, d])
  (hu : Uniform t a)
include hi hp hr hu

theorem csrr_protect
    (h : ((s.selCtx (t.getLow a)).bind fun x => s.readCtxReg x (fld (t.getLow a) 15 0)) = none) :
    exec (.csrr c d a) s = .next (s.trap t 9 0 t.mask (t.getLow a)) := by
  rw [fld_eq_wfld (by decide)] at h
  rw [exec_csrr, execCsrr, privIssue_next _ hi hp hr, uniforms_ok (by simpa using hu)]
  simp only [h, State.protect]

theorem csrr_reads {x : Ctx} {v : Word} (hw : fld (t.getLow a) 31 24 = 0) (hx : s.ctx? (fld (t.getLow a) 23 16) = some x)
    (hv : s.readCtxReg x (fld (t.getLow a) 15 0) = some v) :
    exec (.csrr c d a) s = .next (puts s t c [a] [(d, v)]) := by
  have h := selCtx_bind_some (f := fun x => s.readCtxReg x (fld (t.getLow a) 15 0)) hx hw hv
  rw [fld_eq_wfld (by decide)] at h
  rw [exec_csrr, execCsrr, privIssue_next _ hi hp hr, uniforms_ok (by simpa using hu)]
  simp only [h, finishWrite_const]
  rfl

end ReadRegister

section WriteRegister
variable {s : State} {t : Team} {c : Ctl} {d a : Fld} {x : Ctx} (hi : Issues s t) (hp : t.privileged = true)
  (hr : Readable t (run a 2 ++ [d])) (hu : ∀ f ∈ run a 2, Uniform t f) (hx : s.ctx? (fld (t.getLow a) 23 16) = some x)
include hi hp hr hu hx

theorem csrw_protect
    (h : fld (t.getLow a) 31 24 ≠ 0 ∨ s.writeCtxReg x (fld (t.getLow a) 15 0) (t.getLow (fplus a 1)) = none) :
    exec (.csrw c d a) s = .next (s.trap t 9 0 t.mask (t.getLow a)) := by
  have hb := selCtx_bind_none (f := fun x => s.writeCtxReg x (fld (t.getLow a) 15 0) (t.getLow (fplus a 1))) hx h
  rw [fld_eq_wfld (by decide)] at hb
  rw [exec_csrw, execCsrw, privIssue_next _ hi hp hr, uniforms_ok hu]
  simp only [hb, State.protect]

theorem csrw_writes {s1 : State} {ok : Bool} {u : Team} (hw : fld (t.getLow a) 31 24 = 0)
    (h : s.writeCtxReg x (fld (t.getLow a) 15 0) (t.getLow (fplus a 1)) = some (s1, ok)) (hteam : s1.team? t.id = some u) :
    exec (.csrw c d a) s = .next (s1.complete c ((u.useMarks c (run a 2) []).write u [(d, fun _ => if ok then 0 else 4)])) := by
  have hb := selCtx_bind_some (f := fun x => s.writeCtxReg x (fld (t.getLow a) 15 0) (t.getLow (fplus a 1))) hx hw h
  rw [fld_eq_wfld (by decide)] at hb
  rw [exec_csrw, execCsrw, privIssue_next _ hi hp hr, uniforms_ok hu]
  simp only [hb, hteam, finishWrite_const]

end WriteRegister

/-! ## RDTIME, RDID and ERET (R18, R306, R307) -/

theorem rdtime_puts {s : State} {t : Team} (c : Ctl) {d : Fld} (hi : Issues s t) (hr : Readable t [d, fplus d 1]) :
    exec (.rdtime c d) s = .next (puts s t c [] [(d, BitVec.ofNat 32 (s.coreTime t.core % 2 ^ 32)),
      (fplus d 1, BitVec.ofNat 32 (s.coreTime t.core / 2 ^ 32))]) := by
  have hlow (n : Nat) : BitVec.ofNat 32 (n % 2 ^ 32) = BitVec.ofNat 32 n := BitVec.eq_of_toNat_eq (by simp)
  rw [exec_rdtime, execRdtime, issue_next _ hi hr, ← finishWrite_puts, hlow]
  rfl

theorem rdid_puts {s : State} {t : Team} {x : Ctx} (c : Ctl) {d : Fld} (hi : Issues s t) (hr : Readable t (run d 4))
    (hx : s.ctx? t.ctx = some x) :
    exec (.rdid c d) s = .next (puts s t c []
      [(d, 0x09600001#32),
       (fplus d 1, BitVec.ofNat 32 (2 ^ 8 * t.ctx + 2 ^ 4 * (t.ctx / 16) + fld (s.part.getD (t.ctx / 16) 0) 3 0)),
       (fplus d 2, BitVec.ofNat 32 (2 ^ 12 * t.core + 2 ^ 8 * t.quad + t.slot)), (fplus d 3, x.maqn)]) := by
  rw [exec_rdid, execRdid, issue_next _ hi hr, ← finishWrite_puts, fld_eq_wfld (by decide), hx]
  rfl

section Eret
variable {s : State} {t : Team} (c : Ctl) {a : Fld} (hi : Issues s t) (hp : t.privileged = true) (hr : Readable t [a])
  (hu : Uniform t a)
include hi hp hr hu

theorem eret_handler {n : Nat} (hk : t.kind = .handler n) : exec (.eret c a) s =
    .next ((s.evdone t.ctx (t.k.getD 0 0).toNat (fld (t.getLow a) 1 0)).exitLanes t t.alive) := by
  rw [exec_eret, execEret, privIssue_next _ hi hp hr, uniforms_ok (by simpa using hu), fld_eq_wfld (by decide)]
  simp only [hk]

theorem eret_protect (hk : ∀ n, t.kind ≠ .handler n) : exec (.eret c a) s = .next (s.trap t 9 0 t.mask 0) := by
  rw [exec_eret, execEret, privIssue_next _ hi hp hr, uniforms_ok (by simpa using hu)]
  split
  · next n h => exact absurd h (hk n)
  · rfl

end Eret

/-! ## The parts of the statement -/

theorem systemReads_holds : SystemReads := by
  refine ⟨fun s t c a hi hr => ?_, fun s t c hi => ?_, fun s t c d hi hr => rdtime_puts c hi hr,
    fun s t c d x hi hr hx => rdid_puts c hi hr hx, fun i o h s t hi hp => ?_⟩
  · rw [exec_trapI, execTrapI, issue_next _ hi hr]
  · rw [exec_bkpt, execBkpt, withTeam_next _ hi]
  · obtain ⟨c, body, hb⟩ := exec_privileged (as := o.1) (ds := o.2) h s
    rw [hb, privIssue_unprivileged _ hi hp]

theorem systemControl_holds : SystemControl := by
  refine ⟨fun i as ds h s t f => privileged_nonuniform h, fun s t c a hi hp hr hu => ?eret, fun s t c a hi hp hr hu => ?halt,
    fun s t c d a hi hp hr hu => ?csrr, fun s t c d a x hi hp hr hu hx => ?csrw, writeCtxReg_isSome, fun s n => ?rings⟩
  case eret => exact ⟨fun n => eret_handler c hi hp hr hu, eret_protect c hi hp hr hu⟩
  case halt =>
    refine ⟨halt_protect hi hp hr hu, fun x hx => ⟨fun h => ?_, fun h => ?_, fun h => ?_, fun h s1 hs1 u => ?_⟩⟩
    · exact halt_completes hi hp hr hu hx (by rcases h with h | h <;> simp [h]) (haltCtx_idle hx h) (team?_of_issues hi)
    · exact halt_completes hi hp hr hu hx (by rcases h with h | h <;> simp [h]) (haltCtx_pending hx h) (team?_of_issues hi)
    · exact halt_completes hi hp hr hu hx (by simp [h]) (haltCtx_saved hx h) (team?_of_issues hi)
    · exact halt_completes hi hp hr hu hx (by simp [h]) ((haltCtx_running hx h).trans hs1.symm)
  case csrr =>
    refine ⟨fun x v hw hx hv => ?_, fun x key j hw hx hk hreg => ?_, fun h => ?_, fun x hx hreg hk => ?_⟩
    · exact csrr_reads hi hp hr hu hw hx (readCtxReg_of_ctxReg hv)
    · refine csrr_reads hi hp hr hu hw hx ?_
      rw [readCtxReg_ring s x hreg, hk, Option.map_some, readReg_eq_ringReg]
    · refine csrr_protect hi hp hr hu ?_
      rw [selCtx_none h, Option.bind_none]
    · refine csrr_protect hi hp hr hu (selCtx_bind_none hx (.inr ?_))
      rw [readCtxReg_ring s x hreg, hk, Option.map_none]
  case csrw => exact ⟨csrw_protect hi hp hr hu hx, fun s1 ok u => csrw_writes hi hp hr hu hx⟩
  case rings => exact ⟨fun k => rcbReg_slice s n, fun k hk j => rcbReg_cluster s n hk⟩

/-- Settles O37, from its two parts: the reads and traps of any team, and the privileged control instructions. -/
theorem systemClass : Obligations.SystemClass := ⟨systemReads_holds, systemControl_holds⟩

end Sys2Proof.Machine

/-!
PROOF. Exceptions (O15, O16), branches (O17) and the control of paths (O18).
-/

namespace Sys2Proof.Machine

open Sys2Proof.Safety
open Sys2Proof.Claims

/-! ## The arms of exec -/

theorem exec_bra (a : Fld) (disp : BitVec 17) (s : State) : exec (.bra a disp) s = execBra a disp s := rfl
theorem exec_brz (a : Fld) (disp : BitVec 17) (s : State) : exec (.brz a disp) s = execBrz a disp s := rfl
theorem exec_bdiv (a : Fld) (disp : BitVec 17) (s : State) : exec (.bdiv a disp) s = execBdiv a disp s := rfl
theorem exec_jpt (disp : BitVec 17) (s : State) : exec (.jpt disp) s = execJpt disp s := rfl
theorem exec_call (a : Fld) (disp : BitVec 17) (s : State) : exec (.call a disp) s = execCall a disp s := rfl
theorem exec_join (c : Ctl) (s : State) : exec (.join c) s = execJoin c s := rfl
theorem exec_brk (c : Ctl) (s : State) : exec (.brk c) s = execBrk c s := rfl
theorem exec_exitI (c : Ctl) (s : State) : exec (.exitI c) s = execExitI c s := rfl
theorem exec_ret (c : Ctl) (a : Fld) (s : State) : exec (.ret c a) s = execRet c a s := rfl
theorem exec_jmpr (c : Ctl) (a : Fld) (s : State) : exec (.jmpr c a) s = execJmpr c a s := rfl
theorem exec_callr (c : Ctl) (d a : Fld) (s : State) : exec (.callr c d a) s = execCallr c d a s := rfl
theorem exec_yield (c : Ctl) (s : State) : exec (.yield c) s = execYield c s := rfl
theorem exec_winb (c : Ctl) (a : Fld) (s : State) : exec (.winb c a) s = execWinb c a s := rfl
theorem exec_nop (c : Ctl) (s : State) : exec (.nop c) s = execNop c s := rfl
theorem exec_tret (c : Ctl) (s : State) : exec (.tret c) s = execTret c s := rfl
theorem exec_tskip (c : Ctl) (s : State) : exec (.tskip c) s = execTskip c s := rfl

/-! ## Teams in the list of teams -/

/-- A change of the teams with one number changes what is found under it. -/
theorem team?_modTeam {s : State} {i : Nat} {f : Team → Team} (hf : ∀ x, x.id = i → (f x).id = i) :
    (s.modTeam i f).team? i = (s.team? i).map f := by
  simp only [State.team?, State.modTeam]
  induction s.teams with
  | nil => rfl
  | cons x xs ih =>
    by_cases hx : x.id = i
    · simp [hx, hf x hx]
    · simpa [hx] using ih

theorem team?_modTeam_of_ne {s : State} {i j : Nat} {f : Team → Team} (hf : ∀ x, x.id = j → (f x).id = j) (hij : i ≠ j) :
    (s.modTeam j f).team? i = s.team? i := by
  simp only [State.team?, State.modTeam]
  induction s.teams with
  | nil => rfl
  | cons x xs ih =>
    by_cases hx : x.id = j
    · have hfx : (f x).id ≠ i := by rw [hf x hx]; exact hij.symm
      have hxi : x.id ≠ i := by rw [hx]; exact hij.symm
      rw [List.map_cons, if_pos hx, List.find?_cons_of_neg (by simpa using hfx), List.find?_cons_of_neg (by simpa using hxi)]
      exact ih
    · by_cases hxi : x.id = i
      · simp [hxi, hij]
      · simpa [hx, hxi] using ih

theorem putTeam_eq_modTeam (s : State) (u : Team) : s.putTeam u = s.modTeam u.id fun _ => u := rfl

/-- A team that is written back is found by its number. -/
theorem team?_putTeam {s : State} {t u : Team} (h : s.team? t.id = some t) (hid : u.id = t.id) :
    (s.putTeam u).team? t.id = some u := by
  rw [putTeam_eq_modTeam, hid, team?_modTeam fun _ _ => hid, h]
  rfl

theorem modTeam_id (s : State) (i : Nat) : s.modTeam i (fun x => x) = s := by
  simp only [State.modTeam, ite_self, List.map_id']

theorem modTeam_modTeam {i : Nat} {f : Team → Team} (hf : ∀ x, x.id = i → (f x).id = i) (s : State) (g : Team → Team) :
    (s.modTeam i f).modTeam i g = s.modTeam i fun x => g (f x) := by
  simp only [State.modTeam, List.map_map]
  congr 2
  funext x
  by_cases h : x.id = i <;> simp [h, hf]

theorem modTeam_comm {i j : Nat} {f g : Team → Team} (hf : ∀ x, x.id = i → (f x).id = i) (hg : ∀ x, x.id = j → (g x).id = j)
    (hij : i ≠ j) (s : State) : (s.modTeam i f).modTeam j g = (s.modTeam j g).modTeam i f := by
  simp only [State.modTeam, List.map_map]
  congr 2
  funext x
  by_cases hi : x.id = i
  · have hj : x.id ≠ j := hi ▸ hij
    simp [hi, hf x hi, hij]
  · by_cases hj : x.id = j
    · simp [hj, hg x hj, hij.symm]
    · simp [hi, hj]

/-- What was done to a team is lost when the team is written anew. -/
theorem putTeam_modTeam {u : Team} {f : Team → Team} (hf : ∀ x, x.id = u.id → (f x).id = u.id) (s : State) :
    (s.modTeam u.id f).putTeam u = s.putTeam u :=
  modTeam_modTeam hf s fun _ => u

theorem focus_of_issues {s : State} {t : Team} (h : Issues s t) : s.focus = some t.id := by
  have ht := team?_of_issues h
  simp only [Issues, State.focusTeam] at h
  split at h
  · exact nomatch h
  · next id hf =>
    have hid : t.id = id := by simpa using List.find?_some h
    rw [hf, hid]

/-- The team of the number in focus issues. -/
theorem issues_of_team? {s : State} {t : Team} (hf : s.focus = some t.id) (h : s.team? t.id = some t) : Issues s t := by
  simpa only [Issues, State.focusTeam, hf] using h

/-! ## What leaves all of a team but its registers -/

/-- Team u is t but for its frame, its forwarding window and k0 to k3. -/
def RegsOnly (t u : Team) : Prop := { u with frame := t.frame, window := t.window, k := t.k } = t

theorem RegsOnly.refl (t : Team) : RegsOnly t t := rfl

theorem RegsOnly.trans {t u v : Team} (h : RegsOnly t u) (h' : RegsOnly u v) : RegsOnly t v := by
  unfold RegsOnly at *
  rw [← h, ← h']

theorem RegsOnly.id {t u : Team} (h : RegsOnly t u) : u.id = t.id :=
  (congrArg Team.id (show { u with frame := t.frame, window := t.window, k := t.k } = t from h) :)

/-- A fold of steps that leave all but the registers leaves all but the registers. -/
theorem foldl_regsOnly {α : Type} {f : Team → α → Team} (hf : ∀ t a, RegsOnly t (f t a)) (l : List α) (t : Team) :
    RegsOnly t (l.foldl f t) := by
  induction l generalizing t with
  | nil => exact .refl t
  | cons a l ih => exact (hf t a).trans (ih (f t a))

theorem vacate_regsOnly (t : Team) (f : Fld) : RegsOnly t (t.vacate f) := by
  rw [Team.vacate]
  split
  · rfl
  · rfl

theorem useMarks_regsOnly (c : Ctl) (t : Team) (as bs : List Fld) : RegsOnly t (t.useMarks c as bs) := by
  have hif (b : Bool) (fs : List Fld) (u : Team) : RegsOnly u (if b then fs.foldl Team.vacate u else u) := by
    cases b
    · exact .refl u
    · exact foldl_regsOnly vacate_regsOnly fs u
  exact (hif (ctlLa c) as t).trans (hif (ctlLb c) bs _)

theorem retire_regsOnly (newer : List (List (Nat × RegVal))) (e : List (Nat × RegVal)) (t : Team) :
    RegsOnly t (retire t newer e) := by
  induction e generalizing t with
  | nil => exact .refl t
  | cons x e ih =>
    rw [retire]
    split
    · exact ih t
    · exact RegsOnly.trans (u := t.setBank x.1 x.2) rfl (ih _)

theorem push_regsOnly (t : Team) (e : List (Nat × RegVal)) : RegsOnly t (t.push e) := by
  cases e with
  | nil => exact .refl t
  | cons x e =>
    have hform := foldl_regsOnly (f := fun u (x : Nat × RegVal) => u.setForm x.1 x.2.isUni) (fun _ _ => rfl) (x :: e) t
    simp only [Team.push]
    split
    · exact hform.trans rfl
    · exact (hform.trans (retire_regsOnly _ _ _)).trans rfl

theorem write_regsOnly (t old : Team) (ds : List Dest) : RegsOnly t (t.write old ds) := by
  refine (push_regsOnly t _).trans (foldl_regsOnly (fun u d => ?_) ds _)
  split
  · rfl
  · rfl

/-! ## Service events (R306) -/

/-- A new event takes a number that no open event has: there are more candidates than open events. -/
theorem eventNum_fresh (s : State) : ∀ e ∈ s.events, e.num ≠ s.eventNum := by
  obtain ⟨n, hn⟩ : ∃ n, (List.range (s.events.length + 1)).find? (fun n => !(s.events.any fun e => e.num == n + 1)) = some n := by
    rw [← Option.isSome_iff_exists, List.find?_isSome]
    by_contra hall
    have hsub : (List.range (s.events.length + 1)).map (· + 1) ⊆ s.events.map (·.num) := by
      intro m hm
      obtain ⟨n, hn, rfl⟩ := List.mem_map.1 hm
      by_contra hnot
      refine hall ⟨n, hn, ?_⟩
      simpa using fun e he h => hnot (List.mem_map.2 ⟨e, he, h⟩)
    have hnodup : ((List.range (s.events.length + 1)).map (· + 1)).Nodup :=
      List.nodup_range.map (add_left_injective 1)
    have hlen := (hnodup.subperm hsub).length_le
    simp at hlen
  intro e he
  have hfree := List.find?_some hn
  rw [State.eventNum, hn]
  simp only [List.any_eq_true, beq_iff_eq, Bool.not_eq_true', ← Bool.not_eq_true] at hfree
  exact fun h => hfree ⟨e, he, h⟩

theorem handlerTeam_groupCircuits (id num core slot : Nat) (c : Ctx) (e : SvcEvent) :
    (handlerTeam id num core slot c e).groupCircuits =
      [{ key := .group id 0, phase := 0, count := 0, expected := none, membership := 32, arrived := [] }] := by
  have hgroups : (handlerTeam id num core slot c e).groups = 1 := Nat.div_self (by decide : 0 < 32)
  rw [Team.groupCircuits, hgroups]
  rfl

/-- The event of a team that is parked. -/
def parkEvent (s : State) (t : Team) (kind cause detail : Nat) (f : Mask) (trapa : Word) (va access : Nat) : SvcEvent :=
  { num := s.eventNum, ctx := t.ctx, what := .team t.id, kind := kind, cause := cause, detail := detail, f := f,
    trapa := trapa, va := va, access := access }

/-- Parking a team: its state, its event, and the handler with its circuit. -/
theorem park_eq {s : State} {t : Team} {kind cause detail va access : Nat} {f : Mask} {trapa : Word} {c : Ctx}
    (hc : s.ctx? t.ctx = some c) :
    let e := parkEvent s t kind cause detail f trapa va access
    let h := handlerTeam s.nextId s.eventNum t.core t.slot c e
    s.park t kind cause detail f trapa va access = { s with
      nextId := s.nextId + 1, events := e :: s.events
      teams := (s.putTeam { t with st := .parked (.event s.eventNum) }).teams ++ [h], order := s.order ++ [h.id]
      ctxs := s.ctxs.map fun x => if x.num = t.ctx then { x with circuits := x.circuits ++ h.groupCircuits } else x } := by
  have hc' : (s.putTeam { t with st := .parked (.event s.eventNum) }).ctx? t.ctx = some c := hc
  simp only [State.park, State.openEvent, hc', parkEvent]
  rfl

/-- The team that is parked goes on issuing under its number. -/
theorem issues_park {s : State} {t t0 : Team} {kind cause detail va access : Nat} {f : Mask} {trapa : Word} {c : Ctx}
    (hi : Issues s t0) (hid : t.id = t0.id) (hc : s.ctx? t.ctx = some c) :
    Issues (s.park t kind cause detail f trapa va access) { t with st := .parked (.event s.eventNum) } := by
  rw [park_eq hc]
  refine issues_of_team? (by rw [focus_of_issues hi, hid]) ?_
  have hput := team?_putTeam (u := { t with st := .parked (.event s.eventNum) }) (team?_of_issues hi) hid
  rw [← hid] at hput
  exact List.find?_append.trans (by rw [State.team?] at hput; rw [hput]; rfl)

/-! ## Taking a trap (R83) -/

theorem trap_parks {s : State} {t : Team} {cause detail : Nat} {f : Mask} {datum : Word} (h : t.trapv = 0 ∨ cause = 2) :
    s.trap t cause detail f datum =
      s.park { t with trapc := BitVec.ofNat 32 (cause + 256 * detail), trapa := datum } 1 cause detail f datum 0 0 :=
  if_pos h

theorem trap_pushes {s : State} {t : Team} {cause detail : Nat} {f : Mask} {datum : Word} (hv : t.trapv ≠ 0) (hc : cause ≠ 2)
    (hlen : t.stack.length < 1024) :
    s.trap t cause detail f datum = s.putTeam
      { t with stack := { kind := .trap f, mask := t.mask, pc := t.pc, fmt := t.fmt } :: t.stack,
               trapc := BitVec.ofNat 32 (cause + 256 * detail), trapa := datum, mask := f, pc := t.trapv, st := .ready } :=
  (if_neg (not_or.2 ⟨hv, hc⟩)).trans (if_pos hlen)

theorem pushEntry_fits {s : State} {t : Team} {e : Entry} {k : Team → State} (h : t.stack.length < 1024) :
    s.pushEntry t e k = k { t with stack := e :: t.stack } :=
  if_pos h

/-- A push onto a full stack parks the team with a stack overflow and fails its kernel (R79). -/
theorem pushEntry_overflows {s : State} {t : Team} {e : Entry} {k : Team → State} (h : 1024 ≤ t.stack.length) :
    s.pushEntry t e k = (s.park t 3 0 0 t.mask t.trapa 0 0).failKernel t.ctx t.kernel :=
  if_neg (Nat.not_lt.2 h)

/-! ## Skip entries (R85) -/

/-- Skip entries of the instruction are taken off; the outermost gives the active set and FMT. -/
theorem popSkips_append {n : Word} {es rest : List Entry} (hes : ∀ e ∈ es, e.kind = .skip ∧ e.pc = n) (m : Mask) (f : Word) :
    popSkips n (es ++ rest) m f =
      popSkips n rest ((es.getLast?.map (·.mask)).getD m) ((es.getLast?.map (·.fmt)).getD f) := by
  induction es generalizing m f with
  | nil => rfl
  | cons e es ih =>
    rw [List.cons_append, popSkips, if_pos (hes e (by simp)), ih fun x hx => hes x (by simp [hx])]
    cases es with
    | nil => rfl
    | cons x xs => simp [List.getLast?_cons]

theorem advance_skips {t : Team} {n : Word} {l rest : List Entry} {e : Entry} (hstack : t.stack = l ++ [e] ++ rest)
    (hes : ∀ x ∈ l ++ [e], x.kind = .skip ∧ x.pc = t.pc + 4)
    (hrest : ∀ x xs, rest = x :: xs → ¬(x.kind = .skip ∧ x.pc = t.pc + 4)) :
    t.advance n = { t with stack := rest, mask := e.mask, fmt := e.fmt, pc := n, st := .ready } := by
  have hlen : ¬rest.length = (l ++ [e] ++ rest).length := by simp; omega
  simp only [Team.advance, hstack, popSkips_append hes, popSkips_none hrest, List.getLast?_concat, Option.map_some,
    Option.getD_some, if_neg hlen]

/-! ## Branches (R89, R90) -/

theorem fbTarget_eq_target (t : Team) (disp : BitVec 17) : fbTarget t.pc disp = target t disp := by
  rw [target, BitVec.ofInt_add, BitVec.ofInt_add, BitVec.ofInt_toInt, BitVec.ofInt_mul]
  rfl

theorem jump_eq {s : State} {c : Ctl} {t : Team} {next : Word} {n : Nat} (h : t.id = n) :
    s.jump c t next = (s.putTeam (t.advance next)).yieldIf c n := by
  rw [State.jump, h]

theorem jump_plain (s : State) (t : Team) (next : Word) : s.jump ctlNone t next = s.putTeam (t.advance next) := rfl

theorem branchUniform_pos {s k : State} {t : Team} {a : Fld} (h : Uniform t a) : s.branchUniform t a k = k := if_pos h

theorem branchUniform_neg {s k : State} {t : Team} {a : Fld} (h : ¬Uniform t a) :
    s.branchUniform t a k = s.trap t 4 0 t.mask (t.getLow a) := if_neg h

/-! ## Sets of lanes -/

theorem getLsbD_maskOf_foldl (ls : List Nat) (m : Mask) (i : Nat) :
    (ls.foldl (fun m l => m ||| BitVec.ofNat 1024 (2 ^ l)) m).getLsbD i =
      (m.getLsbD i || (decide (i < 1024) && decide (i ∈ ls))) := by
  induction ls generalizing m with
  | nil => simp
  | cons l ls ih =>
    have hbit : Nat.testBit (2 ^ l) i = decide (i = l) := by simp only [Nat.testBit_two_pow, eq_comm]
    rw [List.foldl_cons, ih, BitVec.getLsbD_or, BitVec.getLsbD_ofNat, hbit]
    simp only [List.mem_cons, Bool.decide_or, Bool.and_or_distrib_left, Bool.or_assoc]

theorem getLsbD_maskOf (ls : List Nat) (i : Nat) : (maskOf ls).getLsbD i = (decide (i < 1024) && decide (i ∈ ls)) := by
  rw [maskOf, getLsbD_maskOf_foldl]
  simp

theorem mem_lanes {t : Team} {l : Nat} : l ∈ t.lanes ↔ l < t.nlanes ∧ t.mask.getLsbD l = true := by
  simp [Team.lanes]

/-- The set of the active lanes with a property, as the machine builds it. -/
theorem maskOf_lanes {t : Team} {p : Nat → Bool} {m : Mask} (h : LanesOf t p m) : maskOf (t.lanes.filter p) = m := by
  refine BitVec.eq_of_getLsbD_eq fun i hi => ?_
  rw [getLsbD_maskOf, h i]
  simp only [List.mem_filter, mem_lanes, hi, decide_true, Bool.true_and, Bool.decide_and, Bool.decide_eq_true]

theorem lanes_filter_eq_nil {t : Team} {p : Nat → Bool} {m : Mask} (h : LanesOf t p m) : t.lanes.filter p = [] ↔ m = 0 := by
  constructor
  · intro hnil
    rw [← maskOf_lanes h, hnil]
    rfl
  · rintro rfl
    refine List.filter_eq_nil_iff.2 fun l hl hp => ?_
    obtain ⟨hlt, hm⟩ := mem_lanes.1 hl
    have := h l
    simp [hlt, hm, hp] at this

/-! ## Pops (R80, R81, R94) -/

theorem takePath_eq (t : Team) (e : Entry) (rest : List Entry) :
    t.takePath e rest = { t with stack := rest, mask := e.mask, pc := e.pc, fmt := e.fmt, st := pathSt e rest } := by
  rw [Team.takePath]
  congr 1
  obtain ⟨kind, mask, pc, fmt⟩ := e
  cases kind with
  | yielded w =>
    obtain _ | ⟨⟨kind, _, _, _⟩, rest⟩ := rest
    · rfl
    · cases kind <;> rfl
  | join => rfl
  | pending => rfl
  | trap f => rfl
  | skip => rfl

theorem popFrom_path (t : Team) {es rest : List Entry} {e : Entry} (hes : ∀ x ∈ es, x.mask = 0) (he : e.mask ≠ 0) :
    t.popFrom (es ++ e :: rest) = { t with stack := rest, mask := e.mask, pc := e.pc, fmt := e.fmt, st := pathSt e rest } := by
  induction es with
  | nil => rw [List.nil_append, Team.popFrom, if_neg he, takePath_eq]
  | cons x es ih =>
    rw [List.cons_append, Team.popFrom, if_pos (hes x (by simp)), ih fun y hy => hes y (by simp [hy])]

theorem popFrom_empty (t : Team) {es : List Entry} (hes : ∀ x ∈ es, x.mask = 0) :
    t.popFrom es = { t with stack := [], mask := 0, st := .issuing } := by
  induction es with
  | nil => rfl
  | cons x es ih => rw [Team.popFrom, if_pos (hes x (by simp)), ih fun y hy => hes y (by simp [hy])]

/-- A pop is what the statements say of it. -/
theorem popped_pop (t : Team) : Popped t t.pop := by
  refine ⟨fun es e rest hstack hes he => ?_, fun hes => popFrom_empty t hes⟩
  rw [Team.pop, hstack, popFrom_path t hes he]

theorem popFrom_leaving (t : Team) (es : List Entry) : (t.popFrom es).leaving = t.leaving := by
  induction es with
  | nil => rfl
  | cons e es ih =>
    rw [Team.popFrom]
    split
    · exact ih
    · rfl

theorem joinAbove_iff (t : Team) : joinAbove t.stack = true ↔ JoinAbove t := by
  have key (es : List Entry) : joinAbove es = true ↔
      ∃ l e rest, es = l ++ e :: rest ∧ e.kind = .join ∧ ∀ x ∈ l, ∀ f, x.kind ≠ .trap f := by
    induction es with
    | nil => simp [joinAbove]
    | cons e es ih =>
      constructor
      · intro h
        by_cases hj : e.kind = .join
        · exact ⟨[], e, es, rfl, hj, by simp⟩
        · have htrap : ∀ f, e.kind ≠ .trap f := fun f hf => by
            obtain ⟨kind, _, _, _⟩ := e
            simp only at hf
            subst hf
            exact Bool.false_ne_true h
          have hrest : joinAbove es = true := by
            obtain ⟨kind, _, _, _⟩ := e
            cases kind with
            | join => exact absurd rfl hj
            | trap f => exact absurd rfl (htrap f)
            | pending => exact h
            | yielded w => exact h
            | skip => exact h
          obtain ⟨l, e', rest, rfl, he', hl⟩ := ih.1 hrest
          exact ⟨e :: l, e', rest, rfl, he', by simpa using ⟨htrap, hl⟩⟩
      · rintro ⟨l, e', rest, heq, he', hl⟩
        cases l with
        | nil =>
          obtain ⟨rfl, rfl⟩ := List.cons.inj heq
          obtain ⟨kind, _, _, _⟩ := e
          simp only at he'
          subst he'
          rfl
        | cons x l =>
          obtain ⟨rfl, rfl⟩ := List.cons.inj heq
          have hrest := ih.2 ⟨l, e', rest, rfl, he', fun y hy => hl y (by simp [hy])⟩
          have hx := hl e (by simp)
          obtain ⟨kind, _, _, _⟩ := e
          cases kind with
          | trap f => exact absurd rfl (hx f)
          | join => rfl
          | pending => exact hrest
          | yielded w => exact hrest
          | skip => exact hrest
  exact key t.stack

theorem join_misuses {s : State} {t : Team} (c : Ctl) (hi : Issues s t)
    (h : t.stack = [] ∨ ∃ e rest f, t.stack = e :: rest ∧ e.kind = .trap f) :
    exec (.join c) s = .next (s.trap t 12 1 t.mask 0) := by
  rw [exec_join, execJoin, withTeam_next _ hi]
  obtain h | ⟨⟨kind, _, _, _⟩, rest, f, h, rfl⟩ := h <;> rw [h] <;> rfl

theorem join_pops {s : State} {t : Team} (c : Ctl) (hi : Issues s t) (hne : t.stack ≠ [])
    (h : ∀ e rest, t.stack = e :: rest → ∀ f, e.kind ≠ .trap f) :
    exec (.join c) s = .next ((s.putTeam t.pop).yieldIf c t.id) := by
  rw [exec_join, execJoin, withTeam_next _ hi]
  split
  · next h0 => exact absurd h0 hne
  · next h0 => exact absurd rfl (h _ _ h0 _)
  · rfl

/-- After an EXIT the active lanes are out of the active set and of every entry. -/
theorem removeLanes_self (t : Team) : t.removeLanes t.mask =
    { t with mask := 0, stack := t.stack.map fun e => { e with mask := e.mask &&& ~~~t.mask } } := by
  rw [Team.removeLanes, BitVec.and_not_self]

theorem exitLanes_self (s : State) (t : Team) : s.exitLanes t t.mask =
    (s.leaveLanes t t.alive t.mask).putTeam
      { (t.removeLanes t.mask).pop with leaving := if (t.removeLanes t.mask).pop.mask = 0 then t.mask else t.leaving } := by
  have hmask : (t.removeLanes t.mask).mask = 0 := BitVec.and_not_self t.mask
  have hleave : (t.removeLanes t.mask).pop.leaving = t.leaving := popFrom_leaving _ _
  rw [State.exitLanes, if_pos hmask]
  split
  · rfl
  · rw [← hleave]

/-! ## Trap returns (R85) -/

section TrapReturn
variable {s : State} {t : Team} (c : Ctl) (hi : Issues s t)
include hi

theorem trapReturn_misuses (h : ∀ e rest, t.stack = e :: rest → ∀ f, e.kind ≠ .trap f) :
    exec (.tret c) s = .next (s.trap t 12 2 t.mask 0) ∧ exec (.tskip c) s = .next (s.trap t 12 2 t.mask 0) := by
  rw [exec_tret, exec_tskip, execTret, execTskip, withTeam_next _ hi, withTeam_next _ hi]
  cases hstack : t.stack with
  | nil => exact ⟨rfl, rfl⟩
  | cons e rest =>
    have hk := h e rest hstack
    obtain ⟨kind, _, _, _⟩ := e
    cases kind with
    | trap f => exact absurd rfl (hk f)
    | join => exact ⟨rfl, rfl⟩
    | pending => exact ⟨rfl, rfl⟩
    | yielded w => exact ⟨rfl, rfl⟩
    | skip => exact ⟨rfl, rfl⟩

variable {f m : Mask} {pc fmt : Word} {rest : List Entry}
  (hstack : t.stack = { kind := .trap f, mask := m, pc := pc, fmt := fmt } :: rest)
include hstack

theorem tret_returns : exec (.tret c) s =
    .next ((s.putTeam { t with stack := rest, mask := m, pc := pc, fmt := fmt, st := .ready }).yieldIf c t.id) := by
  rw [exec_tret, execTret, withTeam_next _ hi, hstack]
  rfl

theorem tskip_skips : exec (.tskip c) s = .next ((s.skip { t with stack := rest } m f pc fmt).yieldIf c t.id) := by
  rw [exec_tskip, execTskip, withTeam_next _ hi, hstack]

theorem tskip_others (hm : m &&& ~~~f ≠ 0) (hlen : rest.length < 1024) : exec (.tskip c) s =
    .next ((s.putTeam { t with stack := { kind := .skip, mask := m, pc := pc + 4, fmt := fmt } :: rest,
                               mask := m &&& ~~~f, pc := pc, fmt := fmt, st := .ready }).yieldIf c t.id) := by
  rw [tskip_skips c hi hstack, State.skip, if_neg hm, pushEntry_fits hlen]

theorem tskip_passes (hm : m &&& ~~~f = 0) (hrest : ∀ e es, rest = e :: es → ¬(e.kind = .skip ∧ e.pc = pc + 4)) :
    exec (.tskip c) s =
      .next ((s.putTeam { t with stack := rest, mask := m, pc := pc + 4, fmt := fmt, st := .ready }).yieldIf c t.id) := by
  rw [tskip_skips c hi hstack, State.skip, if_pos hm, advance_plain hrest]

end TrapReturn

/-! ## Jumps and the window (R92, R94) -/

section Jumps
variable {s : State} {t : Team} (c : Ctl) {d a : Fld} (hi : Issues s t)
include hi

theorem jumps_target (hr : Readable t [a, d]) : ∀ i ∈ [Instr.ret c a, .jmpr c a, .callr c d a],
    ∃ k, exec i s = .next (s.target t a k) := by
  have hra : Readable t [a] := fun f hf => hr f (by simp_all)
  intro i hmem
  simp only [List.mem_cons, List.not_mem_nil, or_false] at hmem
  obtain rfl | rfl | rfl := hmem
  · exact ⟨_, by rw [exec_ret, execRet, issue_next _ hi hra]⟩
  · exact ⟨_, by rw [exec_jmpr, execJmpr, issue_next _ hi hra]⟩
  · exact ⟨_, by rw [exec_callr, execCallr, issue_next _ hi hr]⟩

theorem winb_next (hr : Readable t [a]) : exec (.winb c a) s =
    .next (if t.uniform (t.get a) then s.setWbase c t [a] (t.getLow a) else s.trap t 5 0 t.mask 259) := by
  rw [exec_winb, execWinb, issue_next _ hi hr]

end Jumps

theorem target_jumps {s k : State} {t : Team} {a : Fld} (hu : Uniform t a) (h : (t.getLow a).toNat % 4 = 0) :
    s.target t a k = k := by
  rw [State.target, branchUniform_pos hu, if_neg (not_not_intro h)]

theorem target_misaligned {s k : State} {t : Team} {a : Fld} (hu : Uniform t a) (h : (t.getLow a).toNat % 4 ≠ 0) :
    s.target t a k = s.trap t 7 0 t.mask (t.getLow a) := by
  rw [State.target, branchUniform_pos hu, if_pos h]

/-! ## The parts of the statements -/

theorem trapReturn_holds : TrapReturn := by
  refine fun s t c hi => ⟨fun f m pc fmt rest hstack => ⟨tret_returns c hi hstack, tskip_others c hi hstack, tskip_passes c hi hstack⟩,
    trapReturn_misuses c hi⟩

theorem skipEntries_holds : SkipEntries := by
  intro s t c hi es rest hstack hes hrest
  rw [exec_nop, execNop, withTeam_next _ hi]
  constructor
  · rintro rfl
    rw [complete_plain]
    exact fun e l h => hrest e l (hstack.symm.trans h)
  · rintro e l rfl
    rw [State.complete, advance_skips hstack hes hrest]

theorem divergence_holds : Divergence := by
  intro s t hi
  refine ⟨fun a disp T N hr hT hN => ?_, fun disp hlen => ?_, fun disp hlen => ?_⟩
  · have htaken : t.lanes.filter (fun l => isTrue (t.get a l)) = [] ↔ T = 0 := lanes_filter_eq_nil hT
    have hN' : LanesOf t (fun l => !isTrue (t.get a l)) N := by simpa only [isTrue, bne, Bool.not_not] using hN
    have hstay := lanes_filter_eq_nil hN'
    rw [exec_bdiv, execBdiv, issue_next _ hi hr]
    refine ⟨fun h => ?_, fun h h' => ?_, fun h h' hlen => ?_⟩
    · rw [if_pos (htaken.2 h), jump_plain]
    · rw [if_neg (mt htaken.1 h), if_pos (hstay.2 h'), jump_plain, fbTarget_eq_target]
    · rw [if_neg (mt htaken.1 h), if_neg (mt hstay.1 h'), pushEntry_fits hlen, maskOf_lanes hN', fbTarget_eq_target]
      have hmask : maskOf (t.lanes.filter fun l => isTrue (t.get a l)) = T := maskOf_lanes hT
      rw [hmask]
  · rw [exec_jpt, execJpt, withTeam_next _ hi, pushEntry_fits hlen, fbTarget_eq_target]
  · rw [exec_jpt, execJpt, withTeam_next _ hi, pushEntry_overflows hlen]

theorem joins_holds : Joins := by
  intro s t c hi
  refine ⟨fun hne h => ⟨t.pop, popped_pop t, join_pops c hi hne h⟩, join_misuses c hi, fun h => ⟨t.pop, popped_pop t, ?_⟩, fun h => ?_⟩
  · rw [exec_brk, execBrk, withTeam_next _ hi, if_pos ((joinAbove_iff t).2 h)]
  · rw [exec_brk, execBrk, withTeam_next _ hi, if_neg (mt (joinAbove_iff t).1 h), State.misuse]

theorem exitYieldNop_holds : ExitYieldNop := by
  intro s t c hi
  refine ⟨⟨(t.removeLanes t.mask).pop, ?_, ?_⟩, ?_, ?_⟩
  · rw [← removeLanes_self]
    exact popped_pop _
  · rw [exec_exitI, execExitI, withTeam_next _ hi, exitLanes_self]
  · rw [exec_yield, execYield, withTeam_next _ hi]
  · rw [exec_nop, execNop, withTeam_next _ hi]

theorem jumps_holds : Jumps := by
  intro s t hi
  refine ⟨fun a disp hr => ?_, fun c d a hr => ⟨fun hu h => ⟨?_, ?_, ?_⟩, fun i hmem => ?_⟩, fun c a hr h8 => ⟨fun hu => ?_, fun hu h => ?_, fun hu h hp => ?_⟩⟩
  · rw [exec_call, execCall, issue_next _ hi hr, jump_plain, fbTarget_eq_target]
  · rw [exec_ret, execRet, issue_next _ hi fun f hf => hr f (by simp_all), target_jumps hu h, jump_eq (useMarks_regsOnly c t [a] []).id]
  · rw [exec_jmpr, execJmpr, issue_next _ hi fun f hf => hr f (by simp_all), target_jumps hu h, jump_eq (useMarks_regsOnly c t [a] []).id]
  · rw [exec_callr, execCallr, issue_next _ hi hr, target_jumps hu h,
      jump_eq ((useMarks_regsOnly c t [a] []).trans (write_regsOnly _ t _)).id]
  · obtain ⟨k, hk⟩ := jumps_target c hi hr i hmem
    rw [hk]
    exact ⟨fun hu => by rw [State.target, branchUniform_neg hu], fun hu h => by rw [target_misaligned hu h]⟩
  · rw [winb_next c hi hr, if_neg hu]
  · rw [winb_next c hi hr, if_pos hu, State.setWbase, if_pos (by omega)]
  · rw [winb_next c hi hr, if_pos hu, State.setWbase, if_neg (by omega)]

/-! ## The obligations -/

/-- Settles O15: a trap either pushes its entry, or parks the team with an event and a handler. -/
theorem takeTrap : Obligations.TakeTrap := by
  unfold Obligations.TakeTrap
  intro s t cause detail f datum hi
  refine ⟨fun hv hc hlen => ?_, fun h c hc => ?_⟩
  · exact trap_pushes hv hc hlen
  · have hpark := park_eq (t := { t with trapc := BitVec.ofNat 32 (cause + 256 * detail), trapa := datum }) (kind := 1)
      (cause := cause) (detail := detail) (va := 0) (access := 0) (f := f) (trapa := datum) hc
    rw [trap_parks h]
    refine ⟨s.eventNum, eventNum_fresh s, issues_park (t0 := t) hi rfl hc, ?_⟩
    rw [hpark]
    refine ⟨⟨_, rfl, rfl, rfl, rfl, rfl, rfl, rfl, rfl⟩, ⟨_, _, rfl, rfl, rfl, rfl, rfl, rfl, rfl, ?_⟩, rfl⟩
    rw [handlerTeam_groupCircuits]
    rfl

/-- Settles O16, from the two trap returns and the completion that pops skip entries. -/
theorem trapReturn : Obligations.TrapReturn := ⟨trapReturn_holds, skipEntries_holds⟩

/-- Settles O17: both branches run under one test of their operand. -/
theorem branches : Obligations.Branches := by
  unfold Obligations.Branches
  intro s t a disp hi hr
  rw [exec_bra, exec_brz, execBra, execBrz, issue_next _ hi hr, issue_next _ hi hr]
  refine ⟨fun hu => ?_, fun hu => ?_⟩
  · simp only [branchUniform_pos hu, jump_plain, fbTarget_eq_target, isTrue, bne_iff_ne, ne_eq, ite_not, and_self]
  · simp only [branchUniform_neg hu, and_self]

/-- Settles O18, from its four parts: splits, joins, exits and jumps. -/
theorem pathControl : Obligations.PathControl := ⟨divergence_holds, joins_holds, exitYieldNop_holds, jumps_holds⟩

end Sys2Proof.Machine

/-!
PROOF. The register aperture (O22).
-/

namespace Sys2Proof.Machine

open Sys2Proof.Safety
open Sys2Proof.Claims

theorem exec_lds_aperture (c : Ctl) (d a : Fld) (sz : Size) (sx : Bool) (s : State) :
    exec (.lds c d a true sz sx) s = s.apLoad c d a := rfl
theorem exec_sts_aperture (c : Ctl) (d a : Fld) (sz : Size) (s : State) : exec (.sts c d a true sz) s = s.apStore c d a := rfl

/-! ## Lanes that fail a check -/

/-- Only what a property says of the active lanes matters for its set. -/
theorem lanesOf_congr {t : Team} {p q : Nat → Bool} {m : Mask} (h : LanesOf t p m) (hpq : ∀ l ∈ t.lanes, p l = q l) :
    LanesOf t q m := by
  intro l
  rw [h l]
  by_cases hl : l < t.nlanes ∧ t.mask.getLsbD l = true
  · rw [hpq l (mem_lanes.2 hl)]
  · obtain hl | hl := not_and_or.1 hl <;> simp [hl]

theorem lanes_pairwise (t : Team) : t.lanes.Pairwise (· < ·) := List.pairwise_lt_range.filter _

/-- The first lane that fails a check is the lowest of the failing set. -/
theorem lanes_filter_lowest {t : Team} {p : Nat → Bool} {m : Mask} {l0 : Nat} (h : LanesOf t p m) (hl : m.getLsbD l0 = true)
    (hlow : ∀ l < l0, m.getLsbD l = false) : ∃ ls, t.lanes.filter p = l0 :: ls := by
  have hmem : ∀ l, l ∈ t.lanes.filter p ↔ m.getLsbD l = true := fun l => by
    rw [h l, List.mem_filter, mem_lanes]
    simp [and_assoc]
  cases hf : t.lanes.filter p with
  | nil => exact absurd ((hmem l0).2 hl) (by simp [hf])
  | cons x xs =>
    have hx : m.getLsbD x = true := (hmem x).1 (by simp [hf])
    have hsorted := (lanes_pairwise t).filter p
    rw [hf, List.pairwise_cons] at hsorted
    have h0 : l0 = x ∨ l0 ∈ xs := by simpa [hf] using (hmem l0).2 hl
    obtain rfl | h0 := h0
    · exact ⟨xs, rfl⟩
    · exact absurd hx (by rw [hlow x (hsorted.1 l0 h0)]; decide)

/-! ## The checks of aperture offsets (R140, R141) -/

theorem aperture_select (o : Word) : wfld o 31 21 = 0 ↔ o.toNat < 2 ^ 21 := by
  have := o.isLt
  simp only [wfld, bits]
  omega

theorem aperture_register (o : Word) : wfld o 20 12 = o.toNat / 4096 % 512 := rfl
theorem aperture_lane (o : Word) : wfld o 11 2 = o.toNat / 4 % 1024 := rfl

/-- An offset below 2^21 names the issuing team's own frame. -/
theorem apTeam_own {s : State} {t : Team} {o : Word} (h : o.toNat < 2 ^ 21) : s.apTeam t o = some t :=
  if_pos ((aperture_select o).2 h)

theorem apTeam_unprivileged {s : State} {t : Team} {o : Word} (hp : t.privileged = false) (h : 2 ^ 21 ≤ o.toNat) :
    s.apTeam t o = none := by
  rw [State.apTeam, if_neg (mt (aperture_select o).1 (Nat.not_lt.2 h)), hp]
  rfl

theorem apBad_of_apTeam {s : State} {t u : Team} {o : Word} (h : s.apTeam t o = some u) :
    s.apBad t o = decide (u.p ≤ o.toNat / 4096 % 512 ∨ u.nlanes ≤ o.toNat / 4 % 1024) := by
  rw [Bool.decide_or]
  simp only [State.apBad, h]
  rfl

/-- Without privilege, or with SEL 0, an offset is forbidden when it names no register or lane of the team's own frame. -/
theorem apBad_own {s : State} {t : Team} {o : Word} (h : t.privileged = false ∨ o.toNat < 2 ^ 21) :
    s.apBad t o = decide (2 ^ 21 ≤ o.toNat ∨ t.p ≤ o.toNat / 4096 % 512 ∨ t.nlanes ≤ o.toNat / 4 % 1024) := by
  by_cases hsel : o.toNat < 2 ^ 21
  · rw [apBad_of_apTeam (apTeam_own hsel)]
    simp only [Nat.not_le.2 hsel, false_or]
  · have hp : t.privileged = false := h.resolve_right hsel
    simp only [State.apBad, apTeam_unprivileged hp (Nat.not_lt.1 hsel), Nat.not_lt.1 hsel, true_or, decide_true]

section ApCheck
variable {s k : State} {t : Team} {off : Nat → Word}

theorem apCheck_misaligned {m : Mask} {l0 : Nat} (h : LanesOf t (fun l => decide ((off l).toNat % 4 ≠ 0)) m) (hl : m.getLsbD l0 = true)
    (hlow : ∀ l < l0, m.getLsbD l = false) : s.apCheck t off k = s.trap t 7 0 m (off l0) := by
  have hm : LanesOf t (fun l => (off l).toNat % 4 != 0) m := lanesOf_congr h fun l _ => by simp [bne, beq_eq_decide]
  obtain ⟨ls, hls⟩ := lanes_filter_lowest hm hl hlow
  rw [← maskOf_lanes hm]
  simp only [State.apCheck, hls]

variable (hal : ∀ l ∈ t.lanes, (off l).toNat % 4 = 0)
include hal

theorem apCheck_aligned_nil : t.lanes.filter (fun l => (off l).toNat % 4 != 0) = [] :=
  List.filter_eq_nil_iff.2 fun l hl => by simp [hal l hl]

theorem apCheck_forbidden {m : Mask} {l0 : Nat} (h : LanesOf t (fun l => s.apBad t (off l)) m) (hl : m.getLsbD l0 = true)
    (hlow : ∀ l < l0, m.getLsbD l = false) : s.apCheck t off k = s.trap t 9 0 m (off l0) := by
  obtain ⟨ls, hls⟩ := lanes_filter_lowest h hl hlow
  rw [← maskOf_lanes h]
  simp only [State.apCheck, apCheck_aligned_nil hal, hls]

theorem apCheck_passes (h : ∀ l ∈ t.lanes, s.apBad t (off l) = false) : s.apCheck t off k = k := by
  have hnil : t.lanes.filter (fun l => s.apBad t (off l)) = [] := List.filter_eq_nil_iff.2 fun l hl => by simp [h l hl]
  simp only [State.apCheck, apCheck_aligned_nil hal, hnil]

end ApCheck

/-! ## Loads -/

theorem isFrame_of_le {d : Fld} (h : d.toNat ≤ 120) (h' : d ≠ 120#7) : isFrame d = true := by
  have : d.toNat ≠ 120 := fun hd => h' (BitVec.eq_of_toNat_eq hd)
  simp only [isFrame, decide_eq_true_eq]
  omega

/-- A load that is launched is the request that the statements send. -/
theorem launch_eq_goes (s : State) (t : Team) (c : Ctl) (as : List Fld) (k : ReqKind) {ds : List Fld} (ls : List Lane) (p : Option Path)
    (h : ∀ f ∈ ds, isFrame f = true) : s.launch t c as k ds ls p = goes s t c as k ds p ls := by
  have hregs : t.regsOf ds = ds.map t.fieldReg := by rw [Team.regsOf, List.filter_eq_self.2 h]
  simp only [State.launch, goes, hregs]
  cases p <;> rfl

theorem apLoad_next {s : State} {t : Team} (c : Ctl) {d a : Fld} (hi : Issues s t) (hr : Readable t [a, d]) : s.apLoad c d a =
    .next (s.apCheck t (t.get a) (s.launch t.drain c [a] (.ldl .aperture .w false) (loadDests d .w)
      (t.lanes.map fun l => localLane l (t.get a l).toNat [(s.putTeam t.drain).apRead t.drain (t.get a l)] true) none)) := by
  refine issue_next _ hi fun f hf => hr f ?_
  rw [loadDests] at hf
  split at hf <;> simp_all

theorem apRead_of_apTeam {s : State} {t u : Team} {o : Word} (h : s.apTeam t o = some u) :
    s.apRead t o = ((u.reg (o.toNat / 4096 % 512)).bank).lane (o.toNat / 4 % 1024) := by
  simp only [State.apRead, h]
  rfl

/-! ## Stores -/

theorem setSlot_regsOnly (t : Team) (r l : Nat) (v : Word) : RegsOnly t (t.setSlot r l v) := rfl

theorem drain_regsOnly (t : Team) : RegsOnly t t.drain := by
  have hgo (w : List (List (Nat × RegVal))) (u : Team) : RegsOnly u (Team.drain.go u w) := by
    induction w generalizing u with
    | nil => exact .refl u
    | cons e w ih =>
      have he := foldl_regsOnly (f := fun v (x : Nat × RegVal) => v.setBank x.1 x.2) (fun _ _ => rfl) e u
      exact he.trans (ih _)
  exact (hgo t.window.reverse t).trans rfl

/-- What a store through the aperture does to the frame it names, lane after lane. -/
def writeSlots (t : Team) (d a : Fld) (ls : List Nat) (u : Team) : Team :=
  ls.foldl (fun u l => u.setSlot ((t.get a l).toNat / 4096 % 512) ((t.get a l).toNat / 4 % 1024) (t.get d l)) u

theorem writeSlots_regsOnly (t : Team) (d a : Fld) (ls : List Nat) (u : Team) : RegsOnly u (writeSlots t d a ls u) :=
  foldl_regsOnly (fun u _ => setSlot_regsOnly u _ _ _) ls u

/-- Changes of one team, one after another, are one change of it. -/
theorem foldl_modTeam {g : State → Nat → State} {i : Nat} {f : Team → Nat → Team} (hf : ∀ w l, w.id = i → (f w l).id = i) {ls : List Nat}
    (h : ∀ v, ∀ l ∈ ls, g v l = v.modTeam i fun w => f w l) (v : State) : ls.foldl g v = v.modTeam i fun w => ls.foldl f w := by
  induction ls generalizing v with
  | nil => exact (modTeam_id v i).symm
  | cons l ls ih =>
    rw [List.foldl_cons, ih fun v x hx => h v x (by simp [hx]), h v l (by simp), modTeam_modTeam fun w hw => hf w l hw]
    rfl

theorem localLoadAhead_false {s : State} {team : Nat} (h : ∀ q ∈ s.reqs, q.team ≠ team) (id : Nat) (lvl : Level) (l o n : Nat) :
    s.localLoadAhead team id lvl l o n = false := by
  rw [State.localLoadAhead, List.any_eq_false]
  intro q hq
  simp [h q hq]

/-- A store whose lanes all name the frame of team u, with no earlier load of the team in flight. -/
theorem apStore_next {s : State} {t u v : Team} (c : Ctl) {d a : Fld} (hi : Issues s t) (hr : Readable t [a, d])
    (hal : ∀ l ∈ t.lanes, (t.get a l).toNat % 4 = 0) (hbad : ∀ l ∈ t.lanes, s.apBad t (t.get a l) = false)
    (hown : ∀ l ∈ t.lanes, s.apTeam t (t.get a l) = some u) (hq : ∀ q ∈ s.reqs, q.team ≠ t.id)
    (hv : ((s.putTeam t.drain).modTeam u.id (writeSlots t d a t.lanes)).team? t.id = some v) :
    s.apStore c d a = .next (((s.putTeam t.drain).modTeam u.id (writeSlots t d a t.lanes)).complete c (v.useMarks c [a] [])) := by
  have hnone : (t.lanes.any fun l => s.localLoadAhead t.id s.nextId .aperture l (t.get a l).toNat 4) = false :=
    List.any_eq_false.2 fun l _ => by simp [localLoadAhead_false hq]
  rw [State.apStore, issue_next _ hi hr, apCheck_passes hal hbad, hnone, if_neg Bool.false_ne_true]
  dsimp only
  rw [foldl_modTeam (f := fun w l => w.setSlot ((t.get a l).toNat / 4096 % 512) ((t.get a l).toNat / 4 % 1024) (t.get d l))
    (fun _ _ hw => hw) (fun v l hl => by simp only [hown l hl]; rfl)]
  rw [show (fun w => t.lanes.foldl _ w) = writeSlots t d a t.lanes from rfl, hv]

/-- What was done to the team that completes is lost in its completion. -/
theorem complete_modTeam {u : Team} {f : Team → Team} {i : Nat} (hid : u.id = i) (hf : ∀ x, x.id = i → (f x).id = i) (s : State) (c : Ctl) :
    (s.modTeam i f).complete c u = s.complete c u := by
  subst hid
  rw [State.complete, State.complete]
  exact congrArg (fun x => State.yieldIf x c u.id) (putTeam_modTeam (u := u.advance (u.pc + 4)) hf s)

/-! ## The obligation -/

/-- Settles O22: the checks lane by lane, then a load from the drained frames, or a store that changes the one frame its lanes name. -/
theorem aperture : Obligations.Aperture := by
  unfold Obligations.Aperture
  intro s t c d a hi hd hr
  dsimp only
  rw [exec_lds_aperture, exec_sts_aperture, apLoad_next c hi hr]
  have hstore (k : State) (hk : ∀ k', s.apCheck t (t.get a) k' = k) : s.apStore c d a = .next k := by
    rw [State.apStore, issue_next _ hi hr, hk]
  refine ⟨fun m l0 hm hl hlow => ⟨congrArg _ (apCheck_misaligned hm hl hlow), hstore _ fun k' => apCheck_misaligned hm hl hlow⟩,
    fun hal => ⟨fun hpriv m l0 hm hl hlow => ?_, fun own hown => ?_, fun hlanes hq => ?_, fun u hne hlanes hq => ?_⟩⟩
  · have hbad : LanesOf t (fun l => s.apBad t (t.get a l)) m :=
      lanesOf_congr hm fun l hmem => (apBad_own (hpriv.imp id fun h => h l hmem)).symm
    exact ⟨congrArg _ (apCheck_forbidden hal hbad hl hlow), hstore _ fun k' => apCheck_forbidden hal hbad hl hlow⟩
  · have hpass : ∀ l ∈ t.lanes, s.apBad t (t.get a l) = false := fun l hl => by
      obtain ⟨⟨u, hu, hp, hn⟩, -⟩ := hown l hl
      rw [apBad_of_apTeam hu]
      simp [hp, hn]
    have hread : ∀ l ∈ t.lanes, (s.putTeam t.drain).apRead t.drain (t.get a l) =
        (((own l).reg ((t.get a l).toNat / 4096 % 512)).bank).lane ((t.get a l).toNat / 4 % 1024) := fun l hl => by
      obtain ⟨-, hown⟩ := hown l hl
      split at hown
      · next hsel => rw [apRead_of_apTeam (apTeam_own hsel), hown]
      · exact apRead_of_apTeam hown
    have hdests : loadDests d .w = if d = 120#7 then [] else [d] := rfl
    rw [apCheck_passes hal hpass, launch_eq_goes, List.map_congr_left fun l hl => by rw [hread l hl], hdests]
    · rfl
    · rw [hdests]
      intro f hf
      split at hf
      · exact nomatch hf
      · next hne => exact List.mem_singleton.1 hf ▸ isFrame_of_le hd hne
  · have hpass : ∀ l ∈ t.lanes, s.apBad t (t.get a l) = false := fun l hl => by
      obtain ⟨hsel, hp, hn⟩ := hlanes l hl
      rw [apBad_of_apTeam (apTeam_own hsel)]
      simp [hp, hn]
    have hkeep : ∀ x : Team, x.id = t.id → (writeSlots t d a t.lanes x).id = t.id := fun x hx =>
      (writeSlots_regsOnly t d a t.lanes x).id.trans hx
    have hid := (drain_regsOnly t).id
    rw [apStore_next c hi hr hal hpass (fun l hl => apTeam_own (hlanes l hl).1) hq
      (by rw [team?_modTeam hkeep, team?_putTeam (team?_of_issues hi) hid]; rfl)]
    have hdone : ((writeSlots t d a t.lanes t.drain).useMarks c [a] []).id = t.id :=
      (useMarks_regsOnly c _ [a] []).id.trans (hkeep _ hid)
    rw [complete_modTeam hdone hkeep, putTeam_eq_modTeam, hid, complete_modTeam hdone fun _ _ => hid]
    rfl
  · have hpass : ∀ l ∈ t.lanes, s.apBad t (t.get a l) = false := fun l hl => by
      obtain ⟨-, hu, hp, hn⟩ := hlanes l hl
      rw [apBad_of_apTeam hu]
      simp [hp, hn]
    have hkeep : ∀ x : Team, x.id = u.id → (writeSlots t d a t.lanes x).id = u.id := fun x hx =>
      (writeSlots_regsOnly t d a t.lanes x).id.trans hx
    have hid := (drain_regsOnly t).id
    rw [apStore_next c hi hr hal hpass (fun l hl => (hlanes l hl).2.1) hq
      (by rw [team?_modTeam_of_ne hkeep hne.symm, team?_putTeam (team?_of_issues hi) hid])]
    have hdone : (t.drain.useMarks c [a] []).id = t.id := (useMarks_regsOnly c _ [a] []).id.trans hid
    rw [putTeam_eq_modTeam, hid, modTeam_comm (fun _ _ => hid) hkeep hne.symm, complete_modTeam hdone fun _ _ => hid]
    rfl

end Sys2Proof.Machine

/-!
PROOF. The completion of service events (O46).
-/

namespace Sys2Proof.Machine

open Sys2Proof.Safety
open Sys2Proof.Claims

theorem exec_evdoneRetry (ctx num : Nat) (s : State) : exec (.evdoneRetry ctx num) s = execEvdoneRetry ctx num s := rfl
theorem exec_evdoneSkip (ctx num : Nat) (s : State) : exec (.evdoneSkip ctx num) s = execEvdoneSkip ctx num s := rfl
theorem exec_evdoneFatal (ctx num : Nat) (s : State) : exec (.evdoneFatal ctx num) s = execEvdoneFatal ctx num s := rfl

/-- What is done on a context that exists, in a device that runs. -/
theorem onCtx_next {s : State} {ctx : Nat} {c : Ctx} {k : Ctx → State} (hd : s.dev = .operational) (hc : s.ctx? ctx = some c) :
    s.onCtx ctx k = .next (k c) := by
  rw [State.onCtx, operational_next hd, hc]

/-! ## Contexts in the list of contexts -/

theorem ctx?_modCtx {s : State} {n : Nat} {f : Ctx → Ctx} (hf : ∀ x, (f x).num = x.num) : (s.modCtx n f).ctx? n = (s.ctx? n).map f := by
  simp only [State.ctx?, State.modCtx]
  induction s.ctxs with
  | nil => rfl
  | cons x xs ih =>
    by_cases hx : x.num = n
    · simp [hx, hf]
    · simpa [hx] using ih

/-- The contexts of s' are those of s, with their numbers and kernels. -/
def KeepsKernels (s s' : State) : Prop :=
  ∃ f : Ctx → Ctx, (∀ c, (f c).num = c.num ∧ (f c).kernels = c.kernels) ∧ s'.ctxs = s.ctxs.map f

theorem KeepsKernels.of_ctxs {s s' : State} (h : s'.ctxs = s.ctxs) : KeepsKernels s s' :=
  ⟨fun x => x, fun _ => ⟨rfl, rfl⟩, by rw [h, List.map_id']⟩

theorem KeepsKernels.trans {s s' s'' : State} (h : KeepsKernels s s') (h' : KeepsKernels s' s'') : KeepsKernels s s'' := by
  obtain ⟨f, hf, hs⟩ := h
  obtain ⟨g, hg, hs'⟩ := h'
  refine ⟨fun c => g (f c), fun c => ⟨(hg _).1.trans (hf c).1, (hg _).2.trans (hf c).2⟩, ?_⟩
  rw [hs', hs, List.map_map]
  rfl

theorem KeepsKernels.modCtx (s : State) (n : Nat) {f : Ctx → Ctx} (hf : ∀ c, (f c).num = c.num ∧ (f c).kernels = c.kernels) :
    KeepsKernels s (s.modCtx n f) := by
  refine ⟨fun c => if c.num = n then f c else c, fun c => ?_, rfl⟩
  dsimp only
  split
  · exact hf c
  · exact ⟨rfl, rfl⟩

theorem KeepsKernels.ctx? {s s' : State} {n : Nat} {c : Ctx} (h : KeepsKernels s s') (hc : s.ctx? n = some c) :
    ∃ c', s'.ctx? n = some c' ∧ c'.kernels = c.kernels := by
  obtain ⟨f, hf, hs⟩ := h
  have hnum : ((fun c : Ctx => c.num == n) ∘ f) = fun c => c.num == n := funext fun c => by simp only [Function.comp_apply, (hf c).1]
  refine ⟨f c, ?_, (hf c).2⟩
  rw [State.ctx?, hs, List.find?_map, hnum]
  rw [State.ctx?] at hc
  rw [hc]
  rfl

/-! ## Teams that are removed (R250) -/

/-- Team u issues no more: it has exited, or has no lane left. -/
def Team.Gone (u : Team) : Prop := u.st = .exited ∨ u.mask = 0

theorem modCircuits_teams (s : State) (ctx : Nat) (f : List Circuit → List Circuit) : (s.modCircuits ctx f).teams = s.teams := by
  unfold State.modCircuits
  split <;> rfl

theorem modCircuits_mem (s : State) (ctx : Nat) (f : List Circuit → List Circuit) : (s.modCircuits ctx f).mem = s.mem := by
  unfold State.modCircuits
  split <;> rfl

theorem KeepsKernels.modCircuits (s : State) (ctx : Nat) (f : List Circuit → List Circuit) : KeepsKernels s (s.modCircuits ctx f) := by
  unfold State.modCircuits
  split
  · exact .of_ctxs rfl
  · exact .modCtx s ctx fun _ => ⟨rfl, rfl⟩

/-- With distinct numbers, the team found under a number is the one that has it. -/
theorem team?_of_mem {s : State} {u : Team} (hnd : (s.teams.map (·.id)).Nodup) (hu : u ∈ s.teams) : s.team? u.id = some u := by
  obtain ⟨x, hx⟩ : ∃ x, s.team? u.id = some x := by
    rw [← Option.isSome_iff_exists, State.team?, List.find?_isSome]
    exact ⟨u, hu, beq_self_eq_true _⟩
  have hid : x.id = u.id := by simpa using List.find?_some hx
  rw [hx, List.inj_on_of_nodup_map hnd (List.mem_of_find?_eq_some hx) hu hid]

theorem removeTeam_mem (s : State) (i : Nat) : (s.removeTeam i).mem = s.mem := by
  unfold State.removeTeam
  split
  · rfl
  · split
    · rfl
    · exact modCircuits_mem _ _ _

theorem KeepsKernels.removeTeam (s : State) (i : Nat) : KeepsKernels s (s.removeTeam i) := by
  unfold State.removeTeam
  split
  · exact .of_ctxs rfl
  · split
    · exact .of_ctxs rfl
    · exact (KeepsKernels.modCircuits s _ _).trans (.of_ctxs rfl)

/-- A team as it is after its removal. -/
def Team.removed (u : Team) : Team :=
  if u.st = .exited then u
  else { u with mask := 0, leaving := u.alive ||| u.leaving, stack := [], st := .issuing, hold := none, finish := .none, arvs := [] }

theorem removed_gone (u : Team) : u.removed.Gone := by
  unfold Team.removed
  split
  · next h => exact .inl h
  · exact .inr rfl

theorem removed_key (u : Team) : u.removed.id = u.id ∧ u.removed.ctx = u.ctx ∧ u.removed.kernel = u.kernel := by
  unfold Team.removed
  split <;> exact ⟨rfl, rfl, rfl⟩

theorem removeTeam_teams {s : State} (hnd : (s.teams.map (·.id)).Nodup) (i : Nat) :
    (s.removeTeam i).teams = s.teams.map fun u => if u.id = i then u.removed else u := by
  have hfound : ∀ u ∈ s.teams, u.id = i → s.team? i = some u := fun u hu h => h ▸ team?_of_mem hnd hu
  have hself (h : ∀ u ∈ s.teams, u.id = i → u.removed = u) : s.teams = s.teams.map fun u => if u.id = i then u.removed else u :=
    (List.map_id' s.teams).symm.trans (List.map_congr_left fun u hu => by
      split
      · next hi => exact (h u hu hi).symm
      · rfl)
  unfold State.removeTeam
  split
  · next hnone => exact hself fun u hu h => absurd (hfound u hu h) (by simp [hnone])
  · next t ht =>
    have hid : t.id = i := by simpa using List.find?_some ht
    have heq : ∀ u ∈ s.teams, u.id = i → u = t := fun u hu h => Option.some.inj ((hfound u hu h).symm.trans ht)
    split
    · next hst => exact hself fun u hu h => by rw [heq u hu h, Team.removed, if_pos hst]
    · next hst =>
      have hremoved : t.removed = { t with mask := 0, leaving := t.alive ||| t.leaving, stack := [], st := .issuing, hold := none, finish := .none, arvs := [] } :=
        if_neg hst
      rw [← hremoved, State.putTeam_teams, State.leaveLanes, modCircuits_teams, (removed_key t).1, hid]
      exact List.map_congr_left fun u hu => by
        split
        · next h => rw [heq u hu h]
        · rfl

/-- Removing teams one after another keeps who they are; those that were removed are gone, and those that were gone stay so. -/
theorem removeTeams_gone (ids : List Nat) {s : State} (hnd : (s.teams.map (·.id)).Nodup) :
    ∀ u ∈ (ids.foldl State.removeTeam s).teams,
      ∃ u0 ∈ s.teams, u0.id = u.id ∧ u0.ctx = u.ctx ∧ u0.kernel = u.kernel ∧ (u0.Gone ∨ u0.id ∈ ids → u.Gone) := by
  induction ids generalizing s with
  | nil => exact fun u hu => ⟨u, hu, rfl, rfl, rfl, fun h => h.resolve_right (by simp)⟩
  | cons i ids ih =>
    have hteams := removeTeam_teams hnd i
    have hids : (s.removeTeam i).teams.map (·.id) = s.teams.map (·.id) := by
      rw [hteams, List.map_map]
      refine List.map_congr_left fun u _ => ?_
      simp only [Function.comp_apply]
      split
      · exact (removed_key u).1
      · rfl
    intro u hu
    obtain ⟨u1, hu1, hid, hctx, hker, hgone⟩ := ih (hids ▸ hnd) u hu
    rw [hteams, List.mem_map] at hu1
    obtain ⟨u0, hu0, rfl⟩ := hu1
    by_cases hi : u0.id = i
    · rw [if_pos hi] at hid hctx hker hgone
      obtain ⟨kid, kctx, kker⟩ := removed_key u0
      exact ⟨u0, hu0, kid ▸ hid, kctx ▸ hctx, kker ▸ hker, fun _ => hgone (.inl (removed_gone u0))⟩
    · rw [if_neg hi] at hid hctx hker hgone
      exact ⟨u0, hu0, hid, hctx, hker, fun h => hgone (h.imp id fun h => (List.mem_cons.1 h).resolve_left hi)⟩

theorem removeTeams_mem (ids : List Nat) (s : State) : (ids.foldl State.removeTeam s).mem = s.mem :=
  foldl_keeps State.mem removeTeam_mem ids s

theorem KeepsKernels.removeTeams (ids : List Nat) (s : State) : KeepsKernels s (ids.foldl State.removeTeam s) := by
  induction ids generalizing s with
  | nil => exact .of_ctxs rfl
  | cons i ids ih => exact (KeepsKernels.removeTeam s i).trans (ih _)

/-! ## A kernel that fails (R250) -/

theorem endEntry_teams (s : State) (ctx : Nat) (e : Option (Nat × Nat)) (n : Nat) : (s.endEntry ctx e n).teams = s.teams := by
  unfold State.endEntry
  split <;> rfl

theorem endEntry_mem (s : State) (ctx : Nat) (e : Option (Nat × Nat)) (n : Nat) : (s.endEntry ctx e n).mem = s.mem := by
  unfold State.endEntry
  split <;> rfl

theorem KeepsKernels.endEntry (s : State) (ctx : Nat) (e : Option (Nat × Nat)) (n : Nat) : KeepsKernels s (s.endEntry ctx e n) := by
  unfold State.endEntry
  split
  · exact .of_ctxs rfl
  · exact .modCtx s ctx fun _ => ⟨rfl, rfl⟩

theorem kernel?_modKernel {c : Ctx} {n : Nat} {f : Kernel → Kernel} (hf : ∀ k, (f k).id = k.id) :
    (c.modKernel n f).kernel? n = (c.kernel? n).map f := by
  simp only [Ctx.kernel?, Ctx.modKernel]
  induction c.kernels with
  | nil => rfl
  | cons x xs ih =>
    by_cases hx : x.id = n
    · simp [hx, hf]
    · simpa [hx] using ih

/-- A context after the failure of a kernel whose teams are ids; c is the context before (R213, R250). -/
def failedCtx (c : Ctx) (n : Nat) (ids : List Nat) (x : Ctx) : Ctx :=
  { (x.modKernel n fun k => { k with st := .failed }) with
    children := x.children.filter fun y => y.kernel != n
    csets := x.csets.map fun y => if y.kernel = n then { y with circuits := 0 } else y
    circuits := x.circuits.filter fun y => !y.key.ofKernel ids ((c.csets.filter fun y => y.kernel == n).map (·.id)) n
    insts := x.insts.filter fun y => y.kernel != n
    bindings := x.bindings.filter fun b => b.kernel != n }

/-- A kernel that fails is Failed, and its teams are gone; memory is as it was. -/
theorem failKernel_fails {s : State} {ctx n : Nat} {c : Ctx} {k : Kernel} (hnd : (s.teams.map (·.id)).Nodup) (hc : s.ctx? ctx = some c)
    (hk : c.kernel? n = some k) (hdone : k.st ≠ .done) (hfailed : k.st ≠ .failed) :
    (∃ c' k', (s.failKernel ctx n).ctx? ctx = some c' ∧ c'.kernel? n = some k' ∧ k'.st = .failed) ∧
    (∀ u ∈ (s.failKernel ctx n).teams, u.ctx = ctx → u.kernel = n → u.Gone) ∧ (s.failKernel ctx n).mem = s.mem := by
  unfold State.failKernel
  simp only [hc, hk, if_neg (not_or.2 ⟨hdone, hfailed⟩)]
  refine ⟨?_, fun u hu hctx hker => ?_, ?_⟩
  · obtain ⟨c1, hc1, hk1⟩ := (KeepsKernels.removeTeams
      ((s.teams.filter fun t => t.ctx == ctx && t.kernel == n).map (·.id)) s).ctx? hc
    have hfound : (c1.modKernel n fun x => { x with st := .failed }).kernel? n = some { k with st := .failed } := by
      rw [kernel?_modKernel (f := fun x => { x with st := .failed }) fun _ => rfl, Ctx.kernel?, hk1]
      exact congrArg (Option.map _) hk
    have hmod := ctx?_modCtx (s := ((s.teams.filter fun t => t.ctx == ctx && t.kernel == n).map (·.id)).foldl State.removeTeam s)
      (n := ctx) (f := failedCtx c n ((s.teams.filter fun t => t.ctx == ctx && t.kernel == n).map (·.id))) fun _ => rfl
    rw [hc1] at hmod
    obtain ⟨c2, hc2, hk2⟩ := (KeepsKernels.endEntry _ ctx k.entry 1).ctx? hmod
    exact ⟨c2, { k with st := .failed }, hc2, by rw [Ctx.kernel?, hk2]; exact hfound, rfl⟩
  · rw [endEntry_teams] at hu
    obtain ⟨u0, hu0, hid0, hctx0, hker0, hgone⟩ := removeTeams_gone _ hnd u hu
    refine hgone (.inr (List.mem_map_of_mem (List.mem_filter.2 ⟨hu0, ?_⟩)))
    simp [hctx0, hker0, hctx, hker]
  · rw [endEntry_mem]
    exact removeTeams_mem _ s

/-! ## Reissue (R78, R303) -/

theorem packet_eq_isPacket (k : ReqKind) : packet k = k.isPacket := by
  cases k <;> rfl

/-- A request that is issued again keeps who it is and where it lands. -/
theorem reissue_keeps (s : State) (t : Team) (r : Req) :
    (s.reissue t r).id = r.id ∧ (s.reissue t r).team = r.team ∧ (s.reissue t r).gen = r.gen ∧ (s.reissue t r).dests = r.dests ∧
      (s.reissue t r).mask = r.mask := by
  obtain ⟨id, ctx, team, gen, core, kind, at_, pc, dests, mask, lanes, rays⟩ := r
  cases kind with
  | isec op frame limit attr =>
    simp only [State.reissue]
    split <;> exact ⟨rfl, rfl, rfl, rfl, rfl⟩
  | relief op surf answer =>
    simp only [State.reissue]
    split <;> exact ⟨rfl, rfl, rfl, rfl, rfl⟩
  | _ => exact ⟨rfl, rfl, rfl, rfl, rfl⟩

/-- The requests as the completion of an event leaves them, whose team is t. -/
def reissueParked (s : State) (t : Team) : List Req := s.reqs.map fun r => if s.parkedPacket t r then s.reissue t r else r

/-- The machine with these requests. -/
def State.reissued (s : State) (t : Team) : State := { s with reqs := reissueParked s t }

theorem parkedPacket_false {s : State} {t : Team} {num : Nat} {r : Req} (hst : t.st = .parked (.event num))
    (h : (¬∃ e ∈ s.events, e.num = num ∧ e.kind = 2) ∨ r.team ≠ t.id ∨ packet r.kind = false ∨ r.dests = []) :
    s.parkedPacket t r = false := by
  rw [packet_eq_isPacket] at h
  simp only [State.parkedPacket, hst, State.pageEvent]
  obtain h | h | h | h := h
  · have hany : (s.events.any fun e => e.num == num && e.kind == 2) = false := by
      rw [List.any_eq_false]
      exact fun e he hb => h ⟨e, he, by simpa using hb⟩
    rw [hany, Bool.and_false]
  · simp [h]
  · simp [h]
  · simp [h]

theorem reissueParked_reissued {s : State} {t : Team} {num : Nat} (hst : t.st = .parked (.event num)) :
    List.Forall₂ (Reissued s t num) s.reqs (reissueParked s t) := by
  rw [reissueParked, List.forall₂_map_right_iff, List.forall₂_same]
  intro r _
  split
  · next hp =>
    obtain ⟨hid, hteam, hgen, hdests, hmask⟩ := reissue_keeps s t r
    exact ⟨hid, hteam, hgen, hdests, hmask, fun h => absurd hp (by rw [parkedPacket_false hst h]; decide)⟩
  · exact ⟨rfl, rfl, rfl, rfl, rfl, fun _ => rfl⟩

/-! ## Completions (R306, R417) -/

theorem evdone_unknown {s : State} {ctx num : Nat} (h : ∀ e ∈ s.events, ¬(e.ctx = ctx ∧ e.num = num)) (action : Nat) :
    s.evdone ctx num action = s := by
  have hnone : s.events.find? (fun e => e.ctx == ctx && e.num == num) = none :=
    List.find?_eq_none.2 fun e he hb => h e he (by simpa using hb)
  rw [State.evdone, hnone]

section Open
variable {s : State} {ctx num : Nat} {e : SvcEvent} (he : s.events.find? (fun x => x.ctx == ctx && x.num == num) = some e)
include he

/-- A completion of an open event frees its number. -/
theorem evdone_open {action : Nat} (ha : action < 3) : s.evdone ctx num action =
    { s.endEvent e action with events := (s.endEvent e action).events.filter fun x => x.num ≠ num } := by
  rw [State.evdone, he]
  simp only [if_neg (Nat.not_le.2 ha), bne, beq_eq_decide, decide_not]

theorem event_num : e.num = num := by
  have := List.find?_some he
  simp only [Bool.and_eq_true, beq_iff_eq] at this
  exact this.2

end Open

section ParkedTeam
variable {s : State} {e : SvcEvent} {t : Team} (hw : e.what = .team t.id) (ht : s.team? t.id = some t)
  (hst : t.st = .parked (.event e.num))
include hw ht hst

theorem endEvent_retry : s.endEvent e 0 = ((s.reissued t).putTeam { t with st := .ready }).youngest t.id := by
  have hnot : t.st ≠ .preempted := by rw [hst]; exact nofun
  simp only [State.endEvent, hw, State.unpark, ht, if_pos (Or.inl hst), if_neg hnot]
  rfl

theorem endEvent_skip : s.endEvent e 1 = ((s.reissued t).skip t t.mask e.f t.pc t.fmt).youngest t.id := by
  have hnot : t.st ≠ .preempted := by rw [hst]; exact nofun
  simp only [State.endEvent, hw, State.unpark, ht, if_pos (Or.inl hst), if_neg hnot]
  rfl

theorem endEvent_fatal : s.endEvent e 2 = (s.fatal t).youngest t.id := by
  simp only [State.endEvent, hw, State.unpark, ht, if_pos (Or.inl hst)]

end ParkedTeam

/-- A fatal completion fails the kernel of its team. -/
theorem fatal_kernel {s : State} {t : Team} {c : Ctx} {k : Kernel} (hc : s.ctx? t.ctx = some c) (hk : c.kernel? t.kernel = some k) :
    s.fatal t = s.failKernel t.ctx t.kernel := by
  have hid : k.id = t.kernel := by simpa using List.find?_some hk
  simp only [State.fatal, State.kernelOf, hc, hk, hid]

theorem endEvent_agent {s : State} {e : SvcEvent} (h : ∀ i, e.what ≠ .team i) (action : Nat) :
    s.endEvent e action = if action = 0 then s else { s with giveUp := (e.what, e.va / 65536) :: s.giveUp } := by
  unfold State.endEvent
  split
  · next i hi => exact absurd hi (h i)
  · rfl

/-! ## The obligation -/

/-- Settles O46: an unknown number is ignored, a team goes on, skips or fails with its kernel, and an agent gives its page up. -/
theorem eventsEnd : Obligations.EventsEnd := by
  unfold Obligations.EventsEnd
  refine ⟨fun s ctx num c hd hc h => ?_, fun s ctx num c e t hd hc he hw ht hst => ⟨?_, fun ct k hnd hct hk hdone hfailed => ?_⟩,
    fun s ctx num c e hd hc he hw => ?_⟩
  · simp only [exec_evdoneRetry, exec_evdoneSkip, exec_evdoneFatal, execEvdoneRetry, execEvdoneSkip, execEvdoneFatal,
      onCtx_next hd hc, evdone_unknown h, and_self]
  · have hst' : t.st = .parked (.event e.num) := by rw [hst, event_num he]
    refine ⟨reissueParked s t, reissueParked_reissued hst, ?_, fun hm hlen => ?_, fun hm hno => ?_⟩
    · rw [exec_evdoneRetry, execEvdoneRetry, onCtx_next hd hc, evdone_open he (by decide), endEvent_retry hw ht hst']
      rfl
    · rw [exec_evdoneSkip, execEvdoneSkip, onCtx_next hd hc, evdone_open he (by decide), endEvent_skip hw ht hst',
        State.skip, if_neg hm, pushEntry_fits hlen]
      rfl
    · rw [exec_evdoneSkip, execEvdoneSkip, onCtx_next hd hc, evdone_open he (by decide), endEvent_skip hw ht hst',
        State.skip, if_pos hm, advance_plain hno]
      rfl
  · have hst' : t.st = .parked (.event e.num) := by rw [hst, event_num he]
    obtain ⟨⟨c', k', hc', hk', hfail⟩, hgone, hmem⟩ := failKernel_fails hnd hct hk hdone hfailed
    rw [exec_evdoneFatal, execEvdoneFatal, onCtx_next hd hc, evdone_open he (by decide), endEvent_fatal hw ht hst',
      fatal_kernel hct hk]
    exact ⟨_, c', k', rfl, hc', hk', hfail, fun u hu hctx hker hex => (hgone u hu hctx hker).resolve_left hex, hmem⟩
  · simp only [exec_evdoneRetry, exec_evdoneSkip, exec_evdoneFatal, execEvdoneRetry, execEvdoneSkip, execEvdoneFatal,
      onCtx_next hd hc, evdone_open he (show 0 < 3 by decide), evdone_open he (show 1 < 3 by decide), evdone_open he (show 2 < 3 by decide),
      endEvent_agent hw]
    exact ⟨rfl, rfl, rfl⟩

end Sys2Proof.Machine

/-!
PROOF. Serving and landing a load (O27).
-/

namespace Sys2Proof.Machine

open Sys2Proof.Safety
open Sys2Proof.Claims

theorem exec_l2MissServe (req lane : Nat) (s : State) : exec (.l2MissServe req lane) s = execL2MissServe req lane s := rfl
theorem exec_loadReturn (req : Nat) (s : State) : exec (.loadReturn req) s = execLoadReturn req s := rfl
theorem exec_leaseExpiry (core word : Nat) (s : State) : exec (.leaseExpiry core word) s = execLeaseExpiry core word s := rfl

/-! ## Requests and their lanes -/

theorem onReq_next {s : State} {req : Nat} {r : Req} {k : Req → State} (hd : s.dev = .operational) (hr : s.req? req = some r)
    (hl : s.live r = true) : s.onReq req k = .next (k r) := by
  simp only [State.onReq, operational_next hd, hr, hl, if_true]

theorem onLane_next {s : State} {req lane : Nat} {r : Req} {x : Lane} {k : Req → Lane → State} (h : AtLane s req lane r x) :
    s.onLane req lane k = .next (k r x) := by
  obtain ⟨hd, hr, hl, hx⟩ := h
  rw [State.onLane, onReq_next hd hr hl, hx]

theorem req_id {s : State} {n : Nat} {r : Req} (h : s.req? n = some r) : r.id = n := by
  simpa using List.find?_some h

theorem lane_lane {r : Req} {l : Nat} {x : Lane} (h : r.lane? l = some x) : x ∈ r.lanes ∧ x.lane = l :=
  ⟨List.mem_of_find?_eq_some h, by simpa using List.find?_some h⟩

/-- A request that is written back is found by its number. -/
theorem req?_putReq {s : State} {n : Nat} {r r' : Req} (h : s.req? n = some r) (hid : r'.id = r.id) : (s.putReq r').req? n = some r' := by
  have hn := req_id h
  subst hn
  simp only [State.req?, State.putReq] at h ⊢
  revert h
  induction s.reqs with
  | nil => exact nofun
  | cons x xs ih =>
    intro h
    by_cases hx : x.id = r.id
    · simp [hx, hid]
    · rw [List.map_cons, if_neg (hid ▸ hx), List.find?_cons_of_neg (by simpa using hx)]
      rw [List.find?_cons_of_neg (by simpa using hx)] at h
      exact ih h

/-! ## Bytes and words -/

theorem le_eq_leNat (bs : List Byte) : le bs = leNat bs := by
  induction bs with
  | nil => rfl
  | cons b bs ih => rw [le, leNat, ih]

theorem bytesOf_eq_sizeBytes (sz : Size) : bytesOf sz = sizeBytes sz := by
  cases sz <;> rfl

theorem bytesOf_pos (sz : Size) : 0 < bytesOf sz := by
  cases sz <;> decide

/-- The words of a load's bytes are what the statements say. -/
theorem loaded_eq_loadWords {sz : Size} (sx : Bool) {bs : List Byte} (h : bs.length = bytesOf sz) : loaded sz sx bs = loadWords sz sx bs := by
  cases sz with
  | b => simp only [loaded, loadWords, le_eq_leNat]; rfl
  | h => simp only [loaded, loadWords, le_eq_leNat]; rfl
  | w => simp only [loaded, loadWords, le_eq_leNat]
  | q =>
    match bs, h with
    | [_, _, _, _, _, _, _, _, _, _, _, _, _, _, _, _], _ => simp [loaded, loadWords, le_eq_leNat, bytesWords, List.range, List.range.loop]

/-- Where a level has no bytes a load reads zeros. -/
theorem loaded_nil_getD (sz : Size) (sx : Bool) (j : Nat) : (loaded sz sx []).getD j 0 = (loadWords sz sx []).getD j 0 := by
  cases sz with
  | q =>
    have h : ∀ w ∈ loaded .q sx [], w = 0 := by simp [loaded, le]
    rw [List.getD_eq_getElem?_getD]
    cases hj : (loaded .q sx [])[j]? with
    | none => rfl
    | some w => exact h w (List.mem_of_getElem? hj)
  | b => rw [show loaded .b sx [] = loadWords .b sx [] from rfl]
  | h => rw [show loaded .h sx [] = loadWords .h sx [] from rfl]
  | w => rfl

theorem dram_local {pa n : Nat} (h : InDram pa n) : isRemote pa = false := by
  have : ¬linkBase ≤ pa := by
    have := h
    simp only [InDram, dramEnd] at this
    simp only [linkBase]
    omega
  simpa [isRemote] using this

theorem phys_local {s : State} {pa n : Nat} (h : isRemote pa = false) : s.phys pa n = memRead s.mem pa n := by
  rw [State.phys, h]
  rfl

theorem wordsOf_local {pa n w : Nat} (h : InDram pa n) (hw : w ∈ wordsOf pa n) : isRemote (8 * w) = false := by
  have hlt : 8 * w < dramEnd := by
    rw [wordsOf] at hw
    split at hw
    · exact nomatch hw
    · obtain ⟨i, hi, rfl⟩ := List.mem_map.1 hw
      rw [List.mem_range] at hi
      have := h
      simp only [InDram] at this
      omega
  exact dram_local (n := 0) (by simpa [InDram] using hlt.le)

/-! ## Leases (R159) -/

/-- The caches and the banks are all that changes. -/
def OnlyCaches (s u : State) : Prop := { u with l1 := s.l1, banks := s.banks } = s

theorem OnlyCaches.refl (s : State) : OnlyCaches s s := rfl

theorem OnlyCaches.trans {s u v : State} (h : OnlyCaches s u) (h' : OnlyCaches u v) : OnlyCaches s v := by
  unfold OnlyCaches at *
  rw [← h, ← h']

theorem bankWord_word (s : State) (w : Nat) : (s.bankWord w).word = w := by
  rw [State.bankWord]
  cases h : s.banks.find? (fun b => b.word == w) with
  | none => rfl
  | some b => simpa using List.find?_some h

theorem bankWord_setBankWord (s : State) (b : BankWord) (w : Nat) :
    (s.setBankWord b).bankWord w = if w = b.word then b else s.bankWord w := by
  have hrest (h : w ≠ b.word) : (s.banks.filter fun x => x.word != b.word).find? (fun x => x.word == w) =
      s.banks.find? fun x => x.word == w := by
    rw [List.find?_filter]
    congr 1
    funext x
    by_cases hx : x.word = w <;> simp [hx, h]
  by_cases hw : w = b.word
  · subst hw
    rw [if_pos rfl, State.bankWord, State.setBankWord]
    split
    · next hb =>
      have hnone : (s.banks.filter fun x => x.word != b.word).find? (fun x => x.word == b.word) = none :=
        List.find?_eq_none.2 fun x hx => by simpa using (List.mem_filter.1 hx).2
      obtain ⟨hexp, hown⟩ := hb
      rw [List.nil_append, hnone, Option.getD_none, ← hexp, ← hown]
    · simp
  · rw [if_neg hw, State.bankWord, State.bankWord, State.setBankWord]
    split
    · rw [List.nil_append, hrest hw]
    · rw [List.singleton_append, List.find?_cons_of_neg (by simpa using Ne.symm hw), hrest hw]

/-- What one word of a miss leaves under leases of lam ns: the bank keeps the latest expiry, and the core a copy, its own or a leased one. -/
def leaseWord (lam : Nat) (r : Req) (u : State) (w : Nat) : State :=
  let b := u.bankWord w
  let v := u.setBankWord { b with expiry := max b.expiry (u.clock - u.released + lam + 10) }
  if v.l1.any fun c => c.core == r.core && c.word == w && c.owned then v
  else v.putCopy { core := r.core, word := w, val := v.physDword (8 * w), owned := false, expiry := r.at_ + lam }

theorem grant_eq_leaseWords (s : State) (r : Req) (ws : List Nat) : s.grant r ws = ws.foldl (leaseWord (s.leaseNs r.ctx) r) s := rfl

theorem leaseWord_onlyCaches (lam : Nat) (r : Req) (u : State) (w : Nat) : OnlyCaches u (leaseWord lam r u w) := by
  unfold leaseWord
  dsimp only
  split <;> rfl

theorem leaseWords_onlyCaches (lam : Nat) (r : Req) (ws : List Nat) (s : State) : OnlyCaches s (ws.foldl (leaseWord lam r) s) := by
  induction ws generalizing s with
  | nil => exact .refl s
  | cons w ws ih => exact (leaseWord_onlyCaches lam r s w).trans (ih _)

theorem leaseNs_onlyCaches {s u : State} (h : OnlyCaches s u) (ctx : Nat) : u.leaseNs ctx = s.leaseNs ctx := by
  rw [← h]
  rfl

/-- The copies of a miss are granted word by word, lane after lane. -/
theorem grants_eq_leaseWords {s u : State} (h : OnlyCaches s u) (r : Req) (n : Nat) (ys : List Lane) :
    ys.foldl (fun u y => u.grant r (wordsOf y.pa n)) u =
      (ys.flatMap fun y => wordsOf y.pa n).foldl (leaseWord (s.leaseNs r.ctx) r) u := by
  induction ys generalizing u with
  | nil => rfl
  | cons y ys ih =>
    rw [List.foldl_cons, List.flatMap_cons, List.foldl_append, grant_eq_leaseWords, leaseNs_onlyCaches h,
      ih (h.trans (leaseWords_onlyCaches _ r _ u))]

/-- Copy c of word w is the one that a core owned before a miss, or one that the miss has leased. -/
def LeasedCopy (s : State) (r : Req) (w : Nat) (c : Copy) : Prop :=
  c.core = r.core ∧ c.word = w ∧
    (c.owned = true ∧ c ∈ s.l1 ∨ c.owned = false ∧ c.seen = [] ∧ c.expiry = r.at_ + s.leaseNs r.ctx ∧ c.val = wordAt s w)

/-- A miss that has served the words of D has come from s to u. -/
structure Leasing (s : State) (r : Req) (D : Nat → Prop) (u : State) : Prop where
  caches : OnlyCaches s u
  owned : ∀ c ∈ u.l1, c.owned = true → c ∈ s.l1
  copy : ∀ w, D w → ∃ c ∈ u.l1, LeasedCopy s r w c
  expiry : ∀ w, D w → (u.bankWord w).expiry = max (s.bankWord w).expiry (s.clock - s.released + s.leaseNs r.ctx + 10)
  rest : ∀ w, ¬D w → u.bankWord w = s.bankWord w
  owner : ∀ w, (u.bankWord w).owner = (s.bankWord w).owner

theorem Leasing.start (s : State) (r : Req) : Leasing s r (fun _ => False) s :=
  ⟨.refl s, fun _ h _ => h, nofun, nofun, fun _ _ => rfl, fun _ => rfl⟩

theorem Leasing.step {s u : State} {r : Req} {D : Nat → Prop} (h : Leasing s r D u) {w : Nat} (hw : isRemote (8 * w) = false) :
    Leasing s r (fun x => D x ∨ x = w) (leaseWord (s.leaseNs r.ctx) r u w) := by
  obtain ⟨hcaches, howned, hcopy, hexpiry, hrest, howner⟩ := h
  have hbank : ∀ x, ((leaseWord (s.leaseNs r.ctx) r u w).bankWord x) = if x = w then
      { u.bankWord w with expiry := max (u.bankWord w).expiry (u.clock - u.released + s.leaseNs r.ctx + 10) } else u.bankWord x := fun x => by
    have hset := bankWord_setBankWord u { u.bankWord w with expiry := max (u.bankWord w).expiry (u.clock - u.released + s.leaseNs r.ctx + 10) } x
    rw [bankWord_word] at hset
    unfold leaseWord
    dsimp only
    split <;> exact hset
  have hclock : u.clock - u.released = s.clock - s.released := by rw [← hcaches]
  refine ⟨hcaches.trans (leaseWord_onlyCaches _ r u w), fun c hc ho => ?owned, fun x hx => ?copy, fun x hx => ?expiry,
    fun x hx => ?rest, fun x => ?owner⟩
  case expiry =>
    rw [hbank]
    split
    · next hxw =>
      subst hxw
      by_cases hD : D x
      · simp only [hexpiry x hD, hclock, max_assoc, max_self]
      · simp only [hrest x hD, hclock]
    · next hxw => exact hexpiry x (hx.resolve_right hxw)
  case rest =>
    obtain ⟨hD, hxw⟩ := not_or.1 hx
    rw [hbank, if_neg hxw, hrest x hD]
  case owner =>
    rw [hbank]
    split
    · next hxw => rw [hxw]; exact howner w
    · exact howner x
  case owned =>
    unfold leaseWord at hc
    dsimp only at hc
    split at hc
    · exact howned c hc ho
    · obtain rfl | hc := List.mem_cons.1 hc
      · exact nomatch ho
      · exact howned c (List.mem_filter.1 hc).1 ho
  case copy =>
    unfold leaseWord
    dsimp only
    split
    · next hany =>
      obtain hD | rfl := hx
      · exact hcopy x hD
      · obtain ⟨c, hc, hcond⟩ := List.any_eq_true.1 hany
        simp only [Bool.and_eq_true, beq_iff_eq] at hcond
        obtain ⟨⟨hcore, hword⟩, ho⟩ := hcond
        exact ⟨c, hc, hcore, hword, .inl ⟨ho, howned c hc ho⟩⟩
    · by_cases hxw : x = w
      · subst hxw
        refine ⟨_, List.mem_cons_self .., rfl, rfl, .inr ⟨rfl, rfl, rfl, ?_⟩⟩
        have hmem : u.mem = s.mem := by rw [← hcaches]
        simp only [State.physDword, phys_local hw, wordAt, le_eq_leNat, ← hmem]
        rfl
      · obtain ⟨c, hc, hcore, hword, hkind⟩ := hcopy x (hx.resolve_right hxw)
        refine ⟨c, List.mem_cons_of_mem _ (List.mem_filter.2 ⟨hc, ?_⟩), hcore, hword, hkind⟩
        simp [hword, hxw]

theorem Leasing.words {s u : State} {r : Req} {D : Nat → Prop} (h : Leasing s r D u) {ws : List Nat} (hws : ∀ w ∈ ws, isRemote (8 * w) = false) :
    Leasing s r (fun x => D x ∨ x ∈ ws) (ws.foldl (leaseWord (s.leaseNs r.ctx) r) u) := by
  induction ws generalizing u D with
  | nil => simpa using h
  | cons w ws ih =>
    have hstep := ih (h.step (hws w (by simp))) fun x hx => hws x (by simp [hx])
    simpa only [List.foldl_cons, List.mem_cons, or_assoc] using hstep

/-! ## A miss that is served (R149, R160, R209) -/

theorem together_self {r : Req} {lane : Nat} {x : Lane} (h : r.lane? lane = some x) (n : Nat) : x ∈ r.lanes ∧ together x n x = true :=
  ⟨(lane_lane h).1, by simp [together]⟩

/-- The lanes that a miss serves lie in DRAM, with nothing of the team ahead. -/
theorem served_local {s : State} {r : Req} {x : Lane} {n : Nat}
    (hfree : ∀ y ∈ r.lanes, together x n y = true → InDram y.pa n ∧ s.blocked r.team r.id y.pa n = false) :
    ∀ y ∈ r.lanes.filter (together x n), isRemote y.pa = false ∧ s.blocked r.team r.id y.pa n = false := fun y hy => by
  obtain ⟨hmem, htog⟩ := List.mem_filter.1 hy
  obtain ⟨hdram, hblocked⟩ := hfree y hmem htog
  exact ⟨dram_local hdram, hblocked⟩

section Miss
variable {s : State} {req lane : Nat} {r : Req} {x : Lane} {sz : Size} {sx strong stream : Bool} (h : AtLane s req lane r x)
  (hk : r.kind = .ldg sz sx strong stream) (hst : x.st = .pending) (hrlf : x.attr.rlf = false) (hraw : x.attr.raw = false)
  (hfree : ∀ y ∈ r.lanes, together x (bytesOf sz) y = true → InDram y.pa (bytesOf sz) ∧ s.blocked r.team r.id y.pa (bytesOf sz) = false)
include h hk hst hrlf hraw hfree

theorem l2MissServe_poisoned {line : Nat}
    (hp : (r.lanes.filter (together x (bytesOf sz))).findSome? (fun y => s.poisonIn y.pa (bytesOf sz)) = some line) :
    exec (.l2MissServe req lane) s = .next (s.contain r.ctx (some line)) := by
  have hserved : x.servedWith (bytesOf sz) = together x (bytesOf sz) := rfl
  have hopen : ((r.lanes.filter (together x (bytesOf sz))).any fun y => s.blocked r.team r.id y.pa (bytesOf sz)) = false :=
    List.any_eq_false.2 fun y hy => by simp [(served_local hfree y hy).2]
  rw [exec_l2MissServe, execL2MissServe, onLane_next h, hk]
  simp only [← bytesOf_eq_sizeBytes, hserved, hst, hrlf, hraw, hopen, hp, ne_eq, not_true_eq_false, Bool.false_eq_true, or_self, if_false]

/-- A clean miss with nothing ahead binds its lanes, and leases their words to the core unless the load is strong or a stream. -/
theorem l2MissServe_clean
    (hp : (r.lanes.filter (together x (bytesOf sz))).findSome? (fun y => s.poisonIn y.pa (bytesOf sz)) = none) :
    exec (.l2MissServe req lane) s =
      .next (State.putReq
        (if strong = true ∨ stream = true then s
         else (r.lanes.filter (together x (bytesOf sz))).foldl (fun u y => u.grant r (wordsOf y.pa (bytesOf sz))) s)
        { r with lanes := r.lanes.map fun y => if together x (bytesOf sz) y = true then
            { y with got := loaded sz sx (memRead s.mem y.pa (bytesOf sz)), st := .bound } else y }) := by
  have hserved : x.servedWith (bytesOf sz) = together x (bytesOf sz) := rfl
  have hys := served_local hfree
  have hlocal : isRemote x.pa = false := (hys x (List.mem_filter.2 (together_self h.2.2.2 _))).1
  have hopen : ((r.lanes.filter (together x (bytesOf sz))).any fun y => s.blocked r.team r.id y.pa (bytesOf sz)) = false :=
    List.any_eq_false.2 fun y hy => by simp [(hys y hy).2]
  have hkeep : (r.lanes.filter (together x (bytesOf sz))).foldl (fun u y => u.keepLine y.pa y.attr) s = s := by
    refine List.foldlRecOn (motive := fun u => u = s) _ _ rfl ?_
    rintro u rfl y hy
    simp [State.keepLine, (hys y hy).1]
  have hread : ∀ y ∈ r.lanes, together x (bytesOf sz) y = true →
      loadWords sz sx (s.homeRead y.pa (bytesOf sz) x.attr) = loaded sz sx (memRead s.mem y.pa (bytesOf sz)) := fun y hmem htog => by
    have hy := (hys y (List.mem_filter.2 ⟨hmem, htog⟩)).1
    rw [loaded_eq_loadWords sx (memRead_length _ _ _)]
    simp [State.homeRead, hy, phys_local hy]
  rw [exec_l2MissServe, execL2MissServe, onLane_next h, hk]
  simp only [← bytesOf_eq_sizeBytes, hserved, hst, hrlf, hraw, hopen, hp, hkeep, hlocal, ne_eq, not_true_eq_false, Bool.false_eq_true,
    or_self, if_false, or_false]
  congr 3
  refine List.map_congr_left fun y hmem => ?_
  split
  · next htog => rw [Lane.bind, hread y hmem htog]
  · rfl

end Miss

theorem putReq_onlyReqs (s : State) (r : Req) : { s.putReq r with reqs := s.reqs } = s := rfl

theorem req?_onlyCaches {s u : State} (h : OnlyCaches s u) (n : Nat) : u.req? n = s.req? n := by
  rw [← h]
  rfl

theorem loadMiss_holds : LoadMiss := by
  intro s req lane r x sz sx strong stream h hk hst hrlf hraw n hfree
  refine ⟨fun ⟨y, hy, htog, hpoison⟩ => ?_, fun hclean => ?_⟩
  · cases hp : (r.lanes.filter (together x (bytesOf sz))).findSome? fun y => s.poisonIn y.pa (bytesOf sz) with
    | none => exact absurd (List.findSome?_eq_none_iff.1 hp y (List.mem_filter.2 ⟨hy, htog⟩)) hpoison
    | some line =>
      obtain ⟨z, hz, hzp⟩ := List.exists_of_findSome?_eq_some hp
      obtain ⟨hzmem, hztog⟩ := List.mem_filter.1 hz
      exact ⟨z, hzmem, line, hztog, hzp, l2MissServe_poisoned h hk hst hrlf hraw hfree hp⟩
  · have hp : (r.lanes.filter (together x (bytesOf sz))).findSome? (fun y => s.poisonIn y.pa (bytesOf sz)) = none :=
      List.findSome?_eq_none_iff.2 fun y hy => hclean y (List.mem_filter.1 hy).1 (List.mem_filter.1 hy).2
    refine ⟨_, l2MissServe_clean h hk hst hrlf hraw hfree hp, ?_⟩
    by_cases hplain : strong = true ∨ stream = true
    · rw [if_pos hplain]
      refine ⟨req?_putReq h.2.1 rfl, fun _ => ⟨rfl, rfl⟩, fun hs hst => ?_, rfl⟩
      exact absurd hplain (by simp [hs, hst])
    · rw [if_neg hplain, grants_eq_leaseWords (.refl s)]
      have hlease := (Leasing.start s r).words (ws := (r.lanes.filter (together x (bytesOf sz))).flatMap fun y => wordsOf y.pa (bytesOf sz))
        fun w hw => by
          obtain ⟨y, hy, hw⟩ := List.mem_flatMap.1 hw
          exact wordsOf_local (hfree y (List.mem_filter.1 hy).1 (List.mem_filter.1 hy).2).1 hw
      have hreq := (req?_onlyCaches hlease.caches req).trans h.2.1
      refine ⟨req?_putReq hreq rfl, fun hs => absurd hs hplain, fun _ _ y hy htog w hw => ?_, ?_⟩
      · have hmem : False ∨ w ∈ (r.lanes.filter (together x (bytesOf sz))).flatMap fun y => wordsOf y.pa (bytesOf sz) :=
          .inr (List.mem_flatMap.2 ⟨y, List.mem_filter.2 ⟨hy, htog⟩, hw⟩)
        exact ⟨hlease.copy w hmem, hlease.expiry w hmem, hlease.owner w⟩
      · exact (congrArg (fun u : State => { u with reqs := s.reqs }) hlease.caches)

/-! ## Landing (R74, R95, R148) -/

theorem reg_set (t : Team) (q : Nat) (g : Reg) (i : Nat) :
    ({ t with frame := t.frame.set q g } : Team).reg i = if i = q ∧ q < t.frame.length then g else t.reg i := by
  simp only [Team.reg, List.getD_eq_getElem?_getD, List.getElem?_set]
  by_cases hi : q = i
  · subst hi
    by_cases hq : q < t.frame.length
    · simp [hq]
    · simp [hq]
  · simp [hi, Ne.symm hi]

/-- A merged value holds the new values in its lanes and the old ones elsewhere. -/
theorem merge_lane {n l : Nat} (hl : l < n) {all : Bool} {m : Mask} (hall : all = true → ∀ i < n, m.getLsbD i = true)
    (vals : Nat → Word) (old : RegVal) : (merge n all m vals old).lane l = if m.getLsbD l then vals l else old.lane l := by
  rw [merge]
  split
  · next h =>
    obtain ⟨ha, hsame⟩ := Bool.and_eq_true_iff.1 h
    have hl0 : vals l = vals 0 := by simpa using List.all_eq_true.1 hsame l (List.mem_range.2 hl)
    rw [if_pos (hall ha l hl), hl0]
    rfl
  · simp [RegVal.lane, hl]

theorem allLanes_getLsbD {t : Team} (h : t.nlanes ≤ 1024) : ∀ i < t.nlanes, t.allLanes.getLsbD i = true := fun i hi => by
  rw [Team.allLanes, BitVec.getLsbD_ofNat, Nat.testBit_two_pow_sub_one, decide_eq_true hi, decide_eq_true (by omega : i < 1024)]
  rfl

/-- What lands in one destination: its index in the request and its register. -/
def Team.landDest (m : Mask) (r : Req) (u : Team) (x : Nat × Nat) : Team :=
  if m = 0 then u.fill x.2
  else u.land x.2 m fun l => match r.lane? l with | some y => y.got.getD x.1 0 | none => 0

theorem landAll_eq (t : Team) (r : Req) :
    t.landAll r = ((List.range r.dests.length).zip r.dests).foldl (Team.landDest (r.mask &&& t.landing) r) t := rfl

/-- Only the frame changes where a value lands, and it keeps its length. -/
theorem landDest_frame (m : Mask) (r : Req) (u : Team) (x : Nat × Nat) :
    { u.landDest m r x with frame := u.frame } = u ∧ (u.landDest m r x).frame.length = u.frame.length := by
  rw [Team.landDest]
  split <;> exact ⟨rfl, List.length_set⟩

theorem landDest_reg_of_ne (m : Mask) (r : Req) (u : Team) {x : Nat × Nat} {q : Nat} (h : q ≠ x.2) :
    (u.landDest m r x).reg q = u.reg q := by
  rw [Team.landDest]
  split <;> exact (reg_set u _ _ q).trans (if_neg fun hc => h hc.1)

theorem landDest_reg_self (m : Mask) (r : Req) (u : Team) {j q : Nat} (hn : u.nlanes ≤ 1024) (hq : q < u.frame.length) :
    ((u.landDest m r (j, q)).reg q).full = true ∧ ∀ l < u.nlanes, ((u.landDest m r (j, q)).reg q).bank.lane l =
      if m.getLsbD l then ((r.lane? l).map fun x => x.got.getD j 0).getD 0 else (u.reg q).bank.lane l := by
  rw [Team.landDest]
  split
  · next hm =>
    have hreg : (u.fill q).reg q = { u.reg q with full := true } := (reg_set u q _ q).trans (if_pos ⟨rfl, hq⟩)
    rw [hreg, hm]
    exact ⟨rfl, fun l _ => by simp⟩
  · have hreg (vals : Nat → Word) : (u.land q m vals).reg q =
        { full := true, uniform := (merge u.nlanes (m == u.allLanes) m vals (u.reg q).bank).isUni
          bank := merge u.nlanes (m == u.allLanes) m vals (u.reg q).bank } := (reg_set u q _ q).trans (if_pos ⟨rfl, hq⟩)
    rw [hreg]
    refine ⟨rfl, fun l hl => ?_⟩
    rw [merge_lane hl fun hall i hi => by rw [eq_of_beq hall]; exact allLanes_getLsbD hn i hi]
    cases r.lane? l <;> rfl

theorem landDests_frame (m : Mask) (r : Req) (ps : List (Nat × Nat)) (u : Team) :
    { ps.foldl (Team.landDest m r) u with frame := u.frame } = u := by
  induction ps generalizing u with
  | nil => rfl
  | cons x ps ih =>
    have hx := (landDest_frame m r u x).1
    have hps := ih (u.landDest m r x)
    rw [List.foldl_cons]
    calc _ = { ({ ps.foldl (Team.landDest m r) (u.landDest m r x) with frame := (u.landDest m r x).frame } : Team) with frame := u.frame } := rfl
      _ = u := by rw [hps, hx]

theorem landDests_reg_of_notMem (m : Mask) (r : Req) {ps : List (Nat × Nat)} {q : Nat} (h : q ∉ ps.map (·.2)) (u : Team) :
    (ps.foldl (Team.landDest m r) u).reg q = u.reg q := by
  induction ps generalizing u with
  | nil => rfl
  | cons x ps ih =>
    obtain ⟨hx, hps⟩ := not_or.1 (mt List.mem_cons.2 h)
    rw [List.foldl_cons, ih hps, landDest_reg_of_ne m r u hx]

/-- With distinct destinations each takes its own value. -/
theorem landDests_reg_of_mem (m : Mask) (r : Req) {ps : List (Nat × Nat)} (hnd : (ps.map (·.2)).Nodup) {j q : Nat} (h : (j, q) ∈ ps)
    (u : Team) (hn : u.nlanes ≤ 1024) (hq : q < u.frame.length) :
    ((ps.foldl (Team.landDest m r) u).reg q).full = true ∧ ∀ l < u.nlanes, ((ps.foldl (Team.landDest m r) u).reg q).bank.lane l =
      if m.getLsbD l then ((r.lane? l).map fun x => x.got.getD j 0).getD 0 else (u.reg q).bank.lane l := by
  induction ps generalizing u with
  | nil => exact nomatch h
  | cons x ps ih =>
    obtain ⟨hx, hps⟩ := List.nodup_cons.1 hnd
    rw [List.foldl_cons]
    obtain rfl | h := List.mem_cons.1 h
    · rw [landDests_reg_of_notMem m r hx]
      exact landDest_reg_self m r u hn hq
    · obtain ⟨hkeep, hlen⟩ := landDest_frame m r u x
      have hlanes : (u.landDest m r x).nlanes = u.nlanes := (congrArg Team.nlanes hkeep :)
      have hne : q ≠ x.2 := fun hqx => hx (List.mem_map.2 ⟨(j, q), h, hqx⟩)
      have := ih hps h (u.landDest m r x) (hlanes ▸ hn) (hlen ▸ hq)
      rwa [hlanes, landDest_reg_of_ne m r u hne] at this

theorem zip_range_map_snd (ds : List Nat) : ((List.range ds.length).zip ds).map (·.2) = ds :=
  List.map_snd_zip (by simp)

theorem mem_zip_range {ds : List Nat} {j q : Nat} (h : ds[j]? = some q) : (j, q) ∈ (List.range ds.length).zip ds := by
  obtain ⟨hj, rfl⟩ := List.getElem?_eq_some_iff.1 h
  exact List.mem_iff_getElem.2 ⟨j, by simpa using hj, by simp⟩

/-! ## What a team has seen at the home (R185) -/

theorem sameWord_zero (a b m : Nat) : sameWord a 0 b m = false := rfl

/-- The runs that a load reads at the home meet a word where one of its lanes does. -/
theorem homeRuns_any {r : Req} (hk : (∃ sz sx strong stream, r.kind = .ldg sz sx strong stream) ∨ ∃ lvl sz sx, r.kind = .ldl lvl sz sx)
    (w : Nat) : (r.homeRuns.any fun p => sameWord p.1 p.2 (8 * w) 8) = true ↔
      ∃ x ∈ r.lanes, sameWord x.pa (homeBytes r.kind) (8 * w) 8 = true := by
  obtain ⟨sz, sx, strong, stream, hk⟩ | ⟨lvl, sz, sx, hk⟩ := hk
  · cases hs : strong || stream with
    | true =>
      have hspan : ∀ x, r.kind.laneSpans x = [(x.pa, bytesOf sz)] := fun x => by
        rw [hk, bytesOf_eq_sizeBytes]
        cases sz <;> rfl
      simp only [Req.homeRuns, homeBytes, hk, hs, if_true]
      rw [← hk]
      simp [hspan]
    | false => simp [Req.homeRuns, homeBytes, hk, hs, sameWord_zero]
  · simp [Req.homeRuns, homeBytes, hk, sameWord_zero]

/-- A copy after a request has read words at their home: its team has seen it, where it is a copy of one of them that its core does not own. -/
def sawCopy (r : Req) (c : Copy) : Copy :=
  if c.core = r.core ∧ !c.owned ∧ !c.seen.contains r.team ∧ (r.homeRuns.any fun p => sameWord p.1 p.2 (8 * c.word) 8) then
    { c with seen := r.team :: c.seen }
  else c

theorem seeHome_eq (s : State) (r : Req) : s.seeHome r = { s with l1 := s.l1.map (sawCopy r) } := by
  simp only [State.seeHome]
  split
  · next h =>
    have hid : s.l1.map (sawCopy r) = s.l1 := by
      rw [show sawCopy r = fun c => c from funext fun c => by simp [sawCopy, h], List.map_id']
    rw [hid]
  · rfl

/-- The home has been seen as the statements say. -/
theorem sees_of_l1 {s s' : State} {r : Req}
    (hk : (∃ sz sx strong stream, r.kind = .ldg sz sx strong stream) ∨ ∃ lvl sz sx, r.kind = .ldl lvl sz sx)
    (h : s'.l1 = s.l1.map (sawCopy r)) : Sees s s' r := by
  constructor
  · rw [h, List.map_map]
    refine List.map_congr_left fun c _ => ?_
    simp only [Function.comp_apply, sawCopy]
    split <;> rfl
  · intro i c c' hc hc' team
    rw [h, List.getElem?_map, hc, Option.map_some, Option.some.injEq] at hc'
    subst hc'
    rw [← homeRuns_any hk c.word]
    simp only [sawCopy]
    split
    · next hcond =>
      obtain ⟨hcore, howned, -, hruns⟩ := hcond
      have howned' : c.owned = false := by simpa using howned
      simp [hcore, howned', hruns, or_comm]
    · next hcond =>
      constructor
      · exact .inl
      · rintro (hseen | ⟨rfl, hcore, howned, hruns⟩)
        · exact hseen
        · by_contra hnot
          exact hcond ⟨hcore, by simpa using howned, by simpa using hnot, hruns⟩

/-! ## Returns (R74, R153, R302) -/

theorem landAll_frame (t : Team) (r : Req) : { t.landAll r with frame := t.frame } = t := landDests_frame _ r _ t

/-- A landing leaves the caches, the requests and the teams changed, and nothing else. -/
theorem landReq_rest (s : State) (r : Req) :
    { s.landReq r with teams := s.teams, reqs := s.reqs, l1 := s.l1 } = s ∧
      (s.landReq r).reqs = s.reqs.filter (fun q => q.id != r.id) ∧ (s.landReq r).l1 = s.l1.map (sawCopy r) := by
  rw [State.landReq, seeHome_eq]
  exact ⟨rfl, rfl, rfl⟩

/-- The team of a landing has its values, and its path counters leave in order. -/
theorem landReq_team {s : State} {r : Req} {t : Team} (h : s.team? r.team = some t) :
    ∃ cnt, (s.landReq r).team? r.team = some { t.landAll r with cnt := cnt } := by
  have hid : t.id = r.team := by simpa using List.find?_some h
  have hland : ∀ x : Team, x.id = r.team → (x.landAll r).id = r.team := fun x hx => by
    rw [← hx]
    exact (congrArg Team.id (landAll_frame x r) :)
  refine ⟨leaveCnt (fun id => (s.reqs.filter fun q => q.id != r.id).any fun q => q.id == id) (t.landAll r).cnt [], ?_⟩
  rw [State.landReq, seeHome_eq, State.settleCnt]
  refine (team?_modTeam ?_).trans ?_
  · exact fun _ hx => hx
  have hteam : (s.modTeam r.team fun t => t.landAll r).team? r.team = some (t.landAll r) := by rw [team?_modTeam hland, h]; rfl
  exact congrArg (Option.map _) hteam

theorem current_eq {s : State} {r : Req} {t : Team} (h : s.team? r.team = some t) : s.current r = (t.gen == r.gen) := by
  simp only [State.current, h]

theorem packetOf_eq_packet (r : Req) (g : BitVec 16) : r.packet g = packetOf r g := by
  obtain ⟨id, ctx, team, gen, core, kind, at_, pc, dests, mask, lanes, rays⟩ := r
  cases kind <;> rfl

section Return
variable {s : State} {req : Nat} {r : Req} {t : Team} (hd : s.dev = .operational) (hr : s.req? req = some r) (hl : s.live r = true)
  (ht : s.team? r.team = some t)
include hd hr hl ht

theorem loadReturn_old (hk : (∃ sz sx strong stream, r.kind = .ldg sz sx strong stream) ∨ ∃ lvl sz sx, r.kind = .ldl lvl sz sx)
    (hgen : t.gen ≠ r.gen) : exec (.loadReturn req) s = .next (s.dropOld r) := by
  have hcur : s.current r = false := by rw [current_eq ht]; simpa using hgen
  rw [exec_loadReturn, execLoadReturn, onReq_next hd hr hl]
  obtain ⟨sz, sx, strong, stream, hk⟩ | ⟨lvl, sz, sx, hk⟩ := hk <;> simp [hk, hcur]

theorem loadReturn_bound (hk : (∃ sz sx strong stream, r.kind = .ldg sz sx strong stream) ∨ ∃ lvl sz sx, r.kind = .ldl lvl sz sx)
    (hgen : t.gen = r.gen) (hb : ∀ x ∈ r.lanes, x.st ≠ .pending) : exec (.loadReturn req) s = .next (s.landReq r) := by
  have hcur : s.current r = true := by rw [current_eq ht]; simpa using hgen
  have hall : r.boundAll = true := List.all_eq_true.2 fun x hx => by simpa using hb x hx
  rw [exec_loadReturn, execLoadReturn, onReq_next hd hr hl]
  obtain ⟨sz, sx, strong, stream, hk⟩ | ⟨lvl, sz, sx, hk⟩ := hk
  · simp [hk, hcur, hall]
  · have hany : (r.lanes.any fun x => x.st == .pending && s.localBlocked r.team r.id lvl x.va (sizeBytes sz)) = false :=
      List.any_eq_false.2 fun x hx => by simp [hb x hx]
    have hmap : (r.lanes.map fun x => if x.st = .pending then
        x.bind (loadWords sz sx (s.levelRead t lvl x.lane x.va (sizeBytes sz))) else x) = r.lanes :=
      (List.map_congr_left fun x hx => if_neg (hb x hx)).trans (List.map_id' _)
    simp only [hk, hcur, ht, hany, hmap, Bool.not_true, Bool.false_eq_true, if_false]
    rw [← hk]

/-- A load of a shared level takes its bytes as they stand there on its arrival. -/
theorem loadReturn_shared {lvl : Level} {sz : Size} {sx : Bool} (hk : r.kind = .ldl lvl sz sx) (hgen : t.gen = r.gen)
    (hp : ∀ x ∈ r.lanes, x.st = .pending) (hfree : ∀ x ∈ r.lanes, s.localBlocked r.team r.id lvl x.va (bytesOf sz) = false) :
    exec (.loadReturn req) s = .next (s.landReq { r with lanes := r.lanes.map fun x =>
      { x with got := loadWords sz sx (s.levelRead t lvl x.lane x.va (bytesOf sz)), st := .bound } }) := by
  have hcur : s.current r = true := by rw [current_eq ht]; simpa using hgen
  have hany : (r.lanes.any fun x => x.st == .pending && s.localBlocked r.team r.id lvl x.va (bytesOf sz)) = false :=
    List.any_eq_false.2 fun x hx => by simp [hfree x hx]
  have hmap : (r.lanes.map fun x => if x.st = .pending then
      x.bind (loadWords sz sx (s.levelRead t lvl x.lane x.va (bytesOf sz))) else x) = r.lanes.map fun x =>
        { x with got := loadWords sz sx (s.levelRead t lvl x.lane x.va (bytesOf sz)), st := .bound } :=
    List.map_congr_left fun x hx => if_pos (hp x hx)
  rw [exec_loadReturn, execLoadReturn, onReq_next hd hr hl]
  simp only [hk, hcur, ht, ← bytesOf_eq_sizeBytes, hany, hmap, Bool.not_true, Bool.false_eq_true, if_false]

end Return

/-- The words of a local level are the statements', but that the bytes of a level that is not there read as zeros. -/
theorem loaded_levelRead_getD (s : State) (t : Team) {lvl : Level} (h : lvl = .clm ∨ lvl = .chip) (l o : Nat) (sz : Size) (sx : Bool) (j : Nat) :
    (loaded sz sx (s.levelRead t lvl l o (bytesOf sz))).getD j 0 = (loadWords sz sx (s.levelRead t lvl l o (bytesOf sz))).getD j 0 := by
  obtain h | h : (s.levelRead t lvl l o (bytesOf sz)).length = bytesOf sz ∨ s.levelRead t lvl l o (bytesOf sz) = [] := by
    obtain rfl | rfl := h
    · simp only [State.levelRead]
      split
      · exact .inl (memRead_length _ _ _)
      · exact .inr rfl
    · simp only [State.levelRead]
      split
      · exact .inl (memRead_length _ _ _)
      · exact .inr rfl
  · rw [loaded_eq_loadWords sx h]
  · rw [h, loaded_nil_getD]

/-- What lands depends on the words of each lane alone. -/
theorem landReq_congr_got {s : State} {r : Req} {f g : Lane → Lane} (hf : ∀ x, (f x).lane = x.lane) (hg : ∀ x, (g x).lane = x.lane)
    (hgot : ∀ x ∈ r.lanes, ∀ j, (f x).got.getD j 0 = (g x).got.getD j 0) (hk : ∀ ls, ({ r with lanes := ls } : Req).homeRuns = []) :
    s.landReq { r with lanes := r.lanes.map f } = s.landReq { r with lanes := r.lanes.map g } := by
  have hlane (h : Lane → Lane) (hh : ∀ x, (h x).lane = x.lane) (l : Nat) :
      ({ r with lanes := r.lanes.map h } : Req).lane? l = (r.lane? l).map h := by
    have hcomp : (fun x : Lane => x.lane == l) ∘ h = fun x => x.lane == l := funext fun x => by simp only [Function.comp_apply, hh x]
    rw [Req.lane?, List.find?_map, hcomp]
    rfl
  have hword (l j : Nat) : (match ({ r with lanes := r.lanes.map f } : Req).lane? l with | some y => y.got.getD j 0 | none => (0 : Word)) =
      match ({ r with lanes := r.lanes.map g } : Req).lane? l with | some y => y.got.getD j 0 | none => 0 := by
    rw [hlane f hf, hlane g hg]
    cases hx : r.lane? l with
    | none => rfl
    | some x => exact hgot x (lane_lane hx).1 j
  have hland : (fun t : Team => t.landAll { r with lanes := r.lanes.map f }) = fun t => t.landAll { r with lanes := r.lanes.map g } := by
    funext t
    rw [landAll_eq, landAll_eq]
    refine congrArg (fun step => List.foldl step t _) (funext fun u => funext fun x => ?_)
    simp only [Team.landDest, hword]
  have hsee (u : State) (ls : List Lane) : u.seeHome { r with lanes := ls } = u := by simp only [State.seeHome, hk, if_true]
  simp only [State.landReq, hsee, hland]

theorem dropOld_holds (s : State) (r : Req) :
    (s.team? r.team = none → s.dropOld r = { s with reqs := s.reqs.filter fun q => q.id != r.id }) ∧
      ∀ t, s.team? r.team = some t →
        s.dropOld r = { s with reqs := s.reqs.map fun q => if q.id = r.id then packetOf r t.gen else q } := by
  refine ⟨fun h => ?_, fun t h => ?_⟩
  · simp only [State.dropOld, h]
    rfl
  · simp only [State.dropOld, h, packetOf_eq_packet]
    rfl

theorem leaseExpiry_next {s : State} {core word : Nat} {c : Copy} (hd : s.dev = .operational)
    (hc : s.l1.find? (fun c => c.core == core && c.word == word) = some c) (ho : c.owned = false) (he : c.expiry ≤ s.coreTime core) :
    exec (.leaseExpiry core word) s = .next { s with l1 := s.l1.filter fun c => !(c.core == core && c.word == word) } := by
  have hcore : c.core = core := by
    have := List.find?_some hc
    simp only [Bool.and_eq_true, beq_iff_eq] at this
    exact this.1
  have husable : s.usable c = false := by simp [State.usable, ho, hcore, he]
  have hword : (fun c : Copy => !(c.core == core && [word].contains c.word)) = fun c => !(c.core == core && c.word == word) := by
    funext c
    simp [beq_eq_decide]
  rw [exec_leaseExpiry, execLeaseExpiry, operational_next hd, hc]
  simp only [husable, State.dropCopies, hword]
  rfl

theorem loadReturn_holds : LoadReturn := by
  refine ⟨fun s req r t hd hr hl ht hk hb => ⟨fun hgen => ?_, fun hgen hn => ?_⟩, dropOld_holds,
    fun s req r t lvl sz sx hd hr hl ht hk hlvl hgen hp hfree => ?_, fun s core word c => leaseExpiry_next⟩
  · exact loadReturn_old hd hr hl ht (hk.imp id fun ⟨lvl, sz, sx, hk, _⟩ => ⟨lvl, sz, sx, hk⟩) hgen
  · have hk' : (∃ sz sx strong stream, r.kind = .ldg sz sx strong stream) ∨ ∃ lvl sz sx, r.kind = .ldl lvl sz sx :=
      hk.imp id fun ⟨lvl, sz, sx, hk, _⟩ => ⟨lvl, sz, sx, hk⟩
    obtain ⟨hrest, hreqs, hl1⟩ := landReq_rest s r
    obtain ⟨cnt, hteam⟩ := landReq_team ht
    refine ⟨_, _, loadReturn_bound hd hr hl ht hk' hgen hb, hteam, hreqs, fun j q hj hq hnd => ?_, fun q hq => ?_, sees_of_l1 hk' hl1, ?_, hrest⟩
    · exact landDests_reg_of_mem _ r (by rwa [zip_range_map_snd]) (mem_zip_range hj) t hn hq
    · exact landDests_reg_of_notMem _ r (by rwa [zip_range_map_snd]) t
    · exact congrArg (fun u : Team => { u with cnt := t.cnt }) (landAll_frame t r)
  · rw [loadReturn_shared hd hr hl ht hk hgen hp hfree]
    exact congrArg _ (landReq_congr_got (fun _ => rfl) (fun _ => rfl)
      (fun x _ j => (loaded_levelRead_getD s t hlvl x.lane x.va sz sx j).symm) fun ls => by simp [Req.homeRuns, hk])

/-- Settles O27, from the miss that is served and the return that lands. -/
theorem loads : Obligations.Loads := ⟨loadMiss_holds, loadReturn_holds⟩

end Sys2Proof.Machine

/-!
PROOF. The barriers: the misuse trap, arrivals, waits and tries (O32).
-/

namespace Sys2Proof.Machine

open Sys2Proof.Safety
open Sys2Proof.Claims

theorem exec_arv (c : Ctl) (lvl : SyncLevel) (n : BitVec 4) (a : Fld) (s : State) : exec (.arv c lvl n a) s = execArv c lvl n a s := rfl
theorem exec_syn (c : Ctl) (lvl : SyncLevel) (n : BitVec 4) (a : Fld) (s : State) : exec (.syn c lvl n a) s = execSyn c lvl n a s := rfl
theorem exec_wt (c : Ctl) (lvl : SyncLevel) (n : BitVec 4) (s : State) : exec (.wt c lvl n) s = execWt c lvl n s := rfl
theorem exec_trySync (c : Ctl) (lvl : SyncLevel) (n : BitVec 4) (d : Fld) (s : State) :
    exec (.trySync c lvl n d) s = execTrySync c lvl n d s := rfl
theorem exec_tryHintExpiry (team : Nat) (s : State) : exec (.tryHintExpiry team) s = execTryHintExpiry team s := rfl

/-! ## What the instruction reaches, and the words the statements use -/

theorem scopeAt_eq_levelScope (lvl : SyncLevel) : scopeAt lvl = levelScope lvl := by cases lvl <;> rfl

theorem syncFn_eq (lvl : SyncLevel) (n : BitVec 4) (mode : Nat) : syncFn lvl n mode = 64 * levelNum lvl + 4 * n.toNat + mode := by
  cases lvl <;> rfl

theorem named_eq_expCount (k : Circuit) (e : Nat) : named k e = expCount k e := rfl

/-- A group is active where it has an active lane. -/
theorem groupLanes_ne_nil (t : Team) (g : Nat) : (t.groupLanes g != []) = t.lanes.any fun l => l / t.g == g := by
  rw [Bool.eq_iff_iff, bne_iff_ne, ne_eq, Team.groupLanes, List.filter_eq_nil_iff, List.any_eq_true]
  push Not
  rfl

theorem reached_eq_reach (t : Team) (lvl : SyncLevel) (n : BitVec 4) : reached t lvl n = t.reach lvl n := by
  have h : t.activeGroups = (List.range (t.nlanes / t.g)).filter fun g => t.lanes.any fun l => l / t.g == g :=
    List.filter_congr fun g _ => groupLanes_ne_nil t g
  cases lvl <;> simp only [reached, Team.reach, h, Team.groupLanes]

/-- The circuits that an instruction reaches are distinct. -/
theorem reach_keys_nodup (t : Team) (lvl : SyncLevel) (n : BitVec 4) : ((t.reach lvl n).map (·.1)).Nodup := by
  cases lvl with
  | group =>
    rw [Team.reach, List.map_map]
    exact (List.nodup_range.filter _).map fun g g' h => by simpa using h
  | team | cluster | grid => exact List.nodup_singleton _

/-! ## The conditions of the statements -/

section
variable {s : State} {t : Team} {lvl : SyncLevel} {n : BitVec 4}

theorem usableBarrier_iff : s.usableBarrier t lvl n = true ↔ Usable s t lvl n := by
  simp only [State.usableBarrier, Usable, reached_eq_reach, Bool.and_eq_true, Bool.or_eq_true, bne_iff_ne, beq_iff_eq, List.all_eq_true,
    Option.isSome_iff_ne_none]
  exact and_congr_left fun _ => by rw [imp_iff_not_or]

theorem anyArrived_iff (rs : List (CKey × List Nat)) :
    s.anyArrived t rs = true ↔ ∃ x ∈ rs, ∃ k, s.circuit? t.ctx x.1 = some k ∧ ∃ m ∈ x.2, m ∈ k.arrived := by
  rw [State.anyArrived, List.any_eq_true]
  refine exists_congr fun x => and_congr_right fun _ => ?_
  cases s.circuit? t.ctx x.1 with
  | none => simp
  | some k => simp

theorem someArrived_iff : SomeArrived s t lvl n ↔ s.anyArrived t (t.reach lvl n) = true := by
  rw [SomeArrived, reached_eq_reach, anyArrived_iff]

theorem noneArrived_iff : NoneArrived s t lvl n ↔ (s.anyArrived t (t.reach lvl n) || t.pendingArv (t.reach lvl n)) = false := by
  rw [Bool.or_eq_false_iff, Bool.eq_false_iff, Bool.eq_false_iff, ne_eq, ne_eq, anyArrived_iff, Team.pendingArv, NoneArrived, reached_eq_reach]
  simp only [List.any_eq_true, beq_iff_eq]
  push Not
  exact forall₂_and

/-- The two halves of the condition. -/
theorem NoneArrived.not_arrived (h : NoneArrived s t lvl n) : s.anyArrived t (t.reach lvl n) = false :=
  (Bool.or_eq_false_iff.1 (noneArrived_iff.1 h)).1

theorem NoneArrived.not_pending (h : NoneArrived s t lvl n) : t.pendingArv (t.reach lvl n) = false :=
  (Bool.or_eq_false_iff.1 (noneArrived_iff.1 h)).2

theorem boundDone_iff (s : State) (team : Nat) : s.boundDone team s.nextId = true ↔ Bound s team := by
  rw [State.boundDone, List.all_eq_true]
  refine forall₂_congr fun r _ => ?_
  simp only [Req.boundAll, Bool.or_eq_true, bne_iff_ne, decide_eq_true_eq, Bool.not_eq_true', Bool.or_eq_false_iff, List.all_eq_true]
  constructor
  · rintro h ht hid hk
    rcases h with (((h | h) | h) | h) | h
    · exact absurd ht h
    · omega
    · simp [h.1, h.2] at hk
    · exact .inl h
    · exact .inr h
  · intro h
    by_cases ht : r.team = team
    · by_cases hid : r.id < s.nextId
      · by_cases hk : r.kind.isLoad = true ∨ r.kind.isAtomic = true
        · rcases h ht hid hk with h | h
          · exact .inl (.inr h)
          · exact .inr h
        · exact .inl (.inl (.inr (by simpa using hk)))
      · exact .inl (.inl (.inl (.inr (by omega))))
    · exact .inl (.inl (.inl (.inl ht)))

theorem releaseDone_iff (s : State) (team : Nat) (sc : Scope) : s.releaseDone team sc s.nextId = true ↔ Released s team sc := by
  rw [State.releaseDone, Bool.or_eq_true, Bool.and_eq_true, Bool.and_eq_true, beq_iff_eq, boundDone_iff, List.all_eq_true, List.all_eq_true,
    and_assoc]
  refine or_congr_right (and_congr_right fun _ => and_congr (forall₂_congr fun r _ => ?_) (forall₂_congr fun d _ => ?_))
  · simp only [Bool.or_eq_true, bne_iff_ne, decide_eq_true_eq, Bool.not_eq_true', Bool.or_eq_false_iff]
    by_cases ht : r.team = team <;> simp [ht, imp_iff_not_or]
  · simp only [Bool.or_eq_true, bne_iff_ne, decide_eq_true_eq, ne_eq, imp_iff_not_or]

theorem phaseDone_iff (ctx : Nat) (w : BWait) : s.phaseDone ctx w = true ↔ PhaseOver s ctx w := by
  rw [State.phaseDone, PhaseOver]
  cases s.circuit? ctx w.key <;> simp

theorem acquire_eq_acquired (s : State) (core : Nat) (sc : Scope) : s.acquire core sc = acquired s core sc := by
  rw [State.acquire, acquired]
  split <;> rfl

theorem scope_bound_iff (s : State) (team : Nat) (lvl : SyncLevel) :
    (levelScope lvl == .team || s.boundDone team s.nextId) = true ↔ scopeAt lvl = .team ∨ Bound s team := by
  rw [Bool.or_eq_true, beq_iff_eq, boundDone_iff, scopeAt_eq_levelScope]

/-! ## The checks of R218 -/

theorem not_all_iff {rs : List (CKey × List Nat)} {p : CKey × List Nat → Bool} {P : CKey × List Nat → Prop} (h : ∀ x ∈ rs, (p x = true ↔ P x)) :
    (!rs.all p) = true ↔ ¬∀ x ∈ rs, P x := by
  rw [Bool.not_eq_true', ← Bool.not_eq_true, not_iff_not, List.all_eq_true]
  exact forall₂_congr h

open Classical in
/-- The checks, in the statements' words. -/
theorem syncChecks_eq (mode e : Nat) (k : State) : s.syncChecks t lvl n mode e k =
    let bad := s.trap t 12 0 t.mask (BitVec.ofNat 32 (64 * levelNum lvl + 4 * n.toNat + mode))
    if ¬Usable s t lvl n then bad
    else if mode ≤ 1 ∧ ¬CountOk s t lvl n e then bad
    else if lvl = .group ∧ mode = 1 ∧ (SomeArrived s t lvl n ∨ ¬AllComplete s t lvl n e) then bad
    else if lvl = .group ∧ mode = 2 ∧ SomeArrived s t lvl n then bad
    else k := by
  rw [State.syncChecks, syncFn_eq]
  refine ite_congr (propext ?_) (fun _ => rfl) fun hu => ?_
  · rw [← usableBarrier_iff, Bool.not_eq_true', Bool.not_eq_true]
  have hsome : ∀ x ∈ t.reach lvl n, ∃ k, s.circuit? t.ctx x.1 = some k := fun x hx =>
    Option.ne_none_iff_exists'.1 ((not_not.1 hu).2 x (by rwa [reached_eq_reach]))
  refine ite_congr (propext (and_congr_right fun _ => ?_)) (fun _ => rfl) fun _ => ?_
  · rw [CountOk, reached_eq_reach]
    refine not_all_iff fun x hx => ?_
    obtain ⟨k, hk⟩ := hsome x hx
    simp [hk, arrivalOk, named_eq_expCount]
  refine ite_congr (propext (and_congr_right fun _ => and_congr_right fun _ => or_congr someArrived_iff.symm ?_)) (fun _ => rfl) fun _ => ?_
  · rw [AllComplete, reached_eq_reach]
    refine not_all_iff fun x hx => ?_
    obtain ⟨k, hk⟩ := hsome x hx
    simp [hk, completesNow, named_eq_expCount]
  exact ite_congr (propext (and_congr_right fun _ => and_congr_right fun _ => someArrived_iff.symm)) (fun _ => rfl) fun _ => rfl

theorem syncChecks_unusable (h : ¬Usable s t lvl n) (mode e : Nat) (k : State) : s.syncChecks t lvl n mode e k =
    s.trap t 12 0 t.mask (BitVec.ofNat 32 (64 * levelNum lvl + 4 * n.toNat + mode)) := by
  classical exact (syncChecks_eq mode e k).trans (if_pos h)

theorem syncChecks_count (hu : Usable s t lvl n) {mode e : Nat} (hm : mode ≤ 1) (h : ¬CountOk s t lvl n e) (k : State) :
    s.syncChecks t lvl n mode e k = s.trap t 12 0 t.mask (BitVec.ofNat 32 (64 * levelNum lvl + 4 * n.toNat + mode)) := by
  classical exact (syncChecks_eq mode e k).trans ((if_neg (not_not.2 hu)).trans (if_pos ⟨hm, h⟩))

/-- At group level a wait that would not be met at once is no wait. -/
theorem syncChecks_group (hu : Usable s t lvl n) {mode e : Nat} (hc : mode ≤ 1 → CountOk s t lvl n e) (hl : lvl = .group)
    (h : (mode = 1 ∧ (SomeArrived s t lvl n ∨ ¬AllComplete s t lvl n e)) ∨ (mode = 2 ∧ SomeArrived s t lvl n)) (k : State) :
    s.syncChecks t lvl n mode e k = s.trap t 12 0 t.mask (BitVec.ofNat 32 (64 * levelNum lvl + 4 * n.toNat + mode)) := by
  classical
  refine (syncChecks_eq mode e k).trans ((if_neg (not_not.2 hu)).trans ((if_neg fun x => x.2 (hc x.1)).trans ?_))
  rcases h with h | h
  · exact if_pos ⟨hl, h⟩
  · exact (if_neg fun x => absurd x.2.1 (by omega)).trans (if_pos ⟨hl, h⟩)

theorem syncChecks_passes (hu : Usable s t lvl n) {mode e : Nat} (hc : mode ≤ 1 → CountOk s t lvl n e)
    (hg : lvl = .group → (mode = 1 → ¬SomeArrived s t lvl n ∧ AllComplete s t lvl n e) ∧ (mode = 2 → ¬SomeArrived s t lvl n)) (k : State) :
    s.syncChecks t lvl n mode e k = k := by
  classical
  refine (syncChecks_eq mode e k).trans ((if_neg (not_not.2 hu)).trans ((if_neg fun x => x.2 (hc x.1)).trans ((if_neg ?_).trans (if_neg ?_))))
  · rintro ⟨hl, hm, h⟩
    exact h.elim ((hg hl).1 hm).1 fun h => h ((hg hl).1 hm).2
  · rintro ⟨hl, hm, h⟩
    exact (hg hl).2 hm h

theorem syncChecks_arv (hu : Usable s t lvl n) {e : Nat} (hc : CountOk s t lvl n e) (k : State) : s.syncChecks t lvl n 0 e k = k :=
  syncChecks_passes hu (fun _ => hc) (fun _ => ⟨fun h => absurd h (by omega), fun h => absurd h (by omega)⟩) k

theorem syncChecks_syn (hu : Usable s t lvl n) {e : Nat} (hc : CountOk s t lvl n e)
    (hg : lvl = .group → ¬SomeArrived s t lvl n ∧ AllComplete s t lvl n e) (k : State) : s.syncChecks t lvl n 1 e k = k :=
  syncChecks_passes hu (fun _ => hc) (fun hl => ⟨fun _ => hg hl, fun h => absurd h (by omega)⟩) k

theorem syncChecks_wt (hu : Usable s t lvl n) (hg : lvl = .group → ¬SomeArrived s t lvl n) (k : State) : s.syncChecks t lvl n 2 0 k = k :=
  syncChecks_passes hu (fun h => absurd h (by omega)) (fun hl => ⟨fun h => absurd h (by omega), fun _ => hg hl⟩) k

theorem syncChecks_try (hu : Usable s t lvl n) (k : State) : s.syncChecks t lvl n 3 0 k = k :=
  syncChecks_passes hu (fun h => absurd h (by omega)) (fun _ => ⟨fun h => absurd h (by omega), fun h => absurd h (by omega)⟩) k

/-! ## The members arrive -/

/-- One arrival, as the statements write it. -/
theorem arrive_eq_after (k : Circuit) (ms : List Nat) (e : Nat) : k.arrive ms (expCount k e) = after k ms e := by
  rw [after, named_eq_expCount]
  cases h : k.expected with
  | none => simp only [Circuit.arrive, Circuit.check, h, Option.getD_none]; rfl
  | some x => simp only [Circuit.arrive, Circuit.check, h, Option.getD_some]; rfl

theorem after_key (k : Circuit) (ms : List Nat) (e : Nat) : (after k ms e).key = k.key := by
  simp only [after]
  split <;> rfl

theorem find?_modCircuit {f : Circuit → Circuit} (hf : ∀ x, (f x).key = x.key) (cs : List Circuit) (k j : CKey) :
    (modCircuit cs k f).find? (fun x => x.key == j) =
      if j = k then (cs.find? fun x => x.key == j).map f else cs.find? fun x => x.key == j := by
  rw [modCircuit, List.find?_map]
  have hcomp : ((fun x : Circuit => x.key == j) ∘ fun x => if x.key = k then f x else x) = fun x => x.key == j := by
    funext x
    simp only [Function.comp_apply]
    split <;> simp only [hf]
  rw [hcomp]
  cases h : cs.find? (fun x => x.key == j) with
  | none => simp
  | some c =>
    have hc : c.key = j := by simpa using List.find?_some h
    simp only [Option.map_some, hc]
    split <;> rfl

/-- The circuits of a list, after the members have arrived at those that are reached. -/
def arrivals (cs : List Circuit) (rs : List (CKey × List Nat)) (e : Nat) : List Circuit :=
  rs.foldl (fun u x => modCircuit u x.1 fun k => k.arrive x.2 (expCount k e)) cs

theorem arrive_key (ms : List Nat) (e : Nat) (k : Circuit) : (k.arrive ms (expCount k e)).key = k.key := by
  rw [arrive_eq_after, after_key]

theorem find?_arrivals_other (e : Nat) {j : CKey} {rs : List (CKey × List Nat)} (h : ∀ x ∈ rs, x.1 ≠ j) (cs : List Circuit) :
    (arrivals cs rs e).find? (fun x => x.key == j) = cs.find? fun x => x.key == j := by
  induction rs generalizing cs with
  | nil => rfl
  | cons y ys ih =>
    have ⟨hy, hys⟩ := List.forall_mem_cons.1 h
    rw [arrivals, List.foldl_cons]
    exact (ih hys _).trans ((find?_modCircuit (arrive_key y.2 e) cs y.1 j).trans (if_neg hy.symm))

theorem find?_arrivals (e : Nat) {x : CKey × List Nat} {k : Circuit} {rs : List (CKey × List Nat)} (hnd : (rs.map (·.1)).Nodup) (hx : x ∈ rs)
    {cs : List Circuit} (hk : cs.find? (fun y => y.key == x.1) = some k) :
    (arrivals cs rs e).find? (fun y => y.key == x.1) = some (after k x.2 e) := by
  induction rs generalizing cs with
  | nil => exact nomatch hx
  | cons y ys ih =>
    obtain ⟨hy, hys⟩ := List.nodup_cons.1 hnd
    rw [arrivals, List.foldl_cons]
    rcases List.mem_cons.1 hx with rfl | hx
    · refine (find?_arrivals_other e (fun z hz h => hy (List.mem_map.2 ⟨z, hz, h⟩)) _).trans ?_
      rw [find?_modCircuit (arrive_key x.2 e), if_pos rfl, hk, Option.map_some, arrive_eq_after]
    · refine ih hys hx ((find?_modCircuit (arrive_key y.2 e) cs y.1 x.1).trans ?_)
      rw [if_neg fun h => hy (List.mem_map.2 ⟨x, hx, h⟩), hk]

/-- A change of circuits: what the contexts and the firmware have afterwards. -/
theorem circuitsOf_modCircuits (s : State) (ctx : Nat) (f : List Circuit → List Circuit) :
    (s.modCircuits ctx f).circuitsOf ctx = f (s.circuitsOf ctx) := by
  rw [State.modCircuits, State.circuitsOf]
  cases h : s.ctx? ctx with
  | none =>
    have h' : ({ s with fwCircuits := f s.fwCircuits } : State).ctx? ctx = none := h
    simp only [State.circuitsOf, h, h']
  | some c =>
    simp only [State.circuitsOf, ctx?_modCtx (f := fun c => { c with circuits := f c.circuits }) fun _ => rfl, h, Option.map_some]

theorem ctx?_modCtx_of_ne {f : Ctx → Ctx} (hf : ∀ x, (f x).num = x.num) {m ctx : Nat} (hne : m ≠ ctx) :
    (s.modCtx ctx f).ctx? m = s.ctx? m := by
  simp only [State.ctx?, State.modCtx]
  induction s.ctxs with
  | nil => rfl
  | cons x xs ih =>
    by_cases hx : x.num = m
    · simp [hx, hne]
    · have : ((if x.num = ctx then f x else x).num == m) = false := by split <;> simp [hx, hf]
      simpa [hx, this] using ih

/-- The state after the members have arrived (R219). -/
theorem modCircuits_fields (s : State) (ctx : Nat) (f : List Circuit → List Circuit) :
    (s.modCircuits ctx f).ctxs.map (fun c : Ctx => { c with circuits := [] }) = s.ctxs.map (fun c : Ctx => { c with circuits := [] }) ∧
    ((s.ctx? ctx).isSome = true → (s.modCircuits ctx f).fwCircuits = s.fwCircuits) ∧
    (∀ m, (s.ctx? m).isSome = true → m ≠ ctx → (s.modCircuits ctx f).ctx? m = s.ctx? m) ∧
    { s.modCircuits ctx f with ctxs := s.ctxs, fwCircuits := s.fwCircuits } = s := by
  rw [State.modCircuits]
  cases h : s.ctx? ctx with
  | none => exact ⟨rfl, nofun, fun _ _ _ => rfl, rfl⟩
  | some c =>
    refine ⟨?_, fun _ => rfl, fun m _ hne => ctx?_modCtx_of_ne (f := fun c => { c with circuits := f c.circuits }) (fun _ => rfl) hne, rfl⟩
    simp only [State.modCtx, List.map_map]
    refine List.map_congr_left fun c _ => ?_
    simp only [Function.comp_apply]
    split <;> rfl

theorem arriveAll_eq (s : State) (ctx : Nat) (rs : List (CKey × List Nat)) (e : Nat) :
    s.arriveAll ctx rs e = s.modCircuits ctx fun cs => arrivals cs rs e := rfl

theorem arriveAll_arrived (s : State) (t : Team) (lvl : SyncLevel) (n : BitVec 4) (e : Nat) :
    Arrived s (s.arriveAll t.ctx (t.reach lvl n) e) t lvl n e := by
  obtain ⟨hctxs, hfw, hother, hrest⟩ := modCircuits_fields s t.ctx fun cs => arrivals cs (t.reach lvl n) e
  have hfind : ∀ key, (s.arriveAll t.ctx (t.reach lvl n) e).circuit? t.ctx key =
      (arrivals (s.circuitsOf t.ctx) (t.reach lvl n) e).find? fun x => x.key == key := fun key => by
    rw [State.circuit?, arriveAll_eq, circuitsOf_modCircuits]
  rw [Arrived, reached_eq_reach]
  refine ⟨fun x hx k hk => ?_, fun key h => ?_, fun m key hm hne => ?_, hctxs, hfw, hrest⟩
  · rw [hfind]
    exact find?_arrivals e (reach_keys_nodup t lvl n) hx hk
  · rw [hfind]
    exact find?_arrivals_other e h _
  · obtain ⟨c, hc⟩ := Option.isSome_iff_exists.1 hm
    simp only [State.circuit?, State.circuitsOf, arriveAll_eq, hother m hm hne, hc]

/-- Arrivals change no request, deadline or team. -/
theorem boundDone_arriveAll (ctx : Nat) (rs : List (CKey × List Nat)) (e team : Nat) :
    (s.arriveAll ctx rs e).boundDone team (s.arriveAll ctx rs e).nextId = s.boundDone team s.nextId := by
  rw [arriveAll_eq, State.modCircuits]
  cases s.ctx? ctx <;> rfl

/-- A release holds what an acquire waits for. -/
theorem bound_of_released {team : Nat} {sc : Scope} (h : s.releaseDone team sc s.nextId = true) :
    (sc == .team || s.boundDone team s.nextId) = true := by
  rw [State.releaseDone, Bool.or_eq_true, Bool.and_eq_true, Bool.and_eq_true] at h
  rw [Bool.or_eq_true]
  exact h.imp_right fun h => h.1.1

/-- With all of them complete, no member is left in a phase. -/
theorem not_anyArrived_arriveAll {e : Nat} (hu : Usable s t lvl n) (hc : CountOk s t lvl n e) (ha : AllComplete s t lvl n e) :
    (s.arriveAll t.ctx (t.reach lvl n) e).anyArrived t (t.reach lvl n) = false := by
  rw [Bool.eq_false_iff, ne_eq, anyArrived_iff]
  rintro ⟨x, hx, k, hk, m, -, hm⟩
  rw [← reached_eq_reach] at hx
  obtain ⟨k0, hk0⟩ := Option.ne_none_iff_exists'.1 (hu.2 x hx)
  rw [(arriveAll_arrived s t lvl n e).1 x hx k0 hk0, Option.some.injEq] at hk
  have hexp : k0.expected.getD (named k0 e) = named k0 e := by
    rcases (hc x hx k0 hk0).2 with h | h <;> rw [h] <;> rfl
  subst hk
  simp only [after, hexp, if_pos (ha x hx k0 hk0)] at hm
  exact nomatch hm

/-- One that they do not complete goes on in its phase, with them arrived. -/
theorem arriveAll_fills {e : Nat} {key : CKey} {ms : List Nat} {k : Circuit} (hc : CountOk s t lvl n e) (hrs : t.reach lvl n = [(key, ms)])
    (hk : s.circuit? t.ctx key = some k) (hlt : k.count + ms.length < named k e) :
    ∃ k', (s.arriveAll t.ctx (t.reach lvl n) e).circuit? t.ctx key = some k' ∧ k'.phase = k.phase ∧ k'.arrived = k.arrived ++ ms := by
  have hx : (key, ms) ∈ reached t lvl n := by rw [reached_eq_reach, hrs]; exact List.mem_singleton_self _
  refine ⟨_, (arriveAll_arrived s t lvl n e).1 _ hx k hk, ?_⟩
  have hexp : k.expected.getD (named k e) = named k e := by
    rcases (hc _ hx k hk).2 with h | h <;> rw [h] <;> rfl
  simp only [after, hexp, if_neg (Nat.not_le.2 hlt), and_self]

/-! ## Waiting for a phase -/

theorem phaseOf_some {ctx : Nat} {key : CKey} {k : Circuit} (h : s.circuit? ctx key = some k) : s.phaseOf ctx key = k.phase := by
  rw [State.phaseOf, h]

theorem waits_id (u : Team) (lvl : SyncLevel) (w : BWait) : (waits u lvl w).id = u.id := by
  simp only [waits]
  split
  · split <;> rfl
  · rfl

/-- Path yield and the wait in Waiting-barrier. -/
theorem waitPhase_eq (s : State) (u : Team) (lvl : SyncLevel) (w : BWait) : s.waitPhase u lvl w = s.putTeam (waits u lvl w) := by
  cases lvl with
  | group | cluster | grid => rfl
  | team =>
    rw [State.waitPhase, if_pos rfl]
    cases hs : u.stack with
    | nil => simp only [waits, hs]
    | cons e rest =>
      cases hk : e.kind with
      | pending | yielded _ => simp only [waits, hs, hk, Team.takePath]
      | join | trap _ | skip => simp only [waits, hs, hk]

theorem acquireThen_bound {u : Team} {sc : Scope} (c : Ctl) (h : (sc == .team || s.boundDone u.id s.nextId) = true) :
    s.acquireThen c u sc = (acquired (s.putTeam u) u.core sc).yieldIf c u.id := by
  rw [State.acquireThen, if_pos h, acquire_eq_acquired]

/-- An instruction without operands marks none. -/
theorem useMarks_nil (t : Team) (c : Ctl) : t.useMarks c [] [] = t := by
  simp only [Team.useMarks, List.foldl_nil, ite_self]

/-- TRY ends: its flag in D, and an acquire with a 1. -/
theorem tryEnd_eq (s : State) (t : Team) (c : Ctl) (d : Fld) (lvl : SyncLevel) (p : Bool) :
    s.tryEnd t c d lvl p = (if p then acquired s t.core (scopeAt lvl) else s).complete c (t.write t [(d, fun _ => flagWord p)]) := by
  rw [State.tryEnd, finishWrite_const, useMarks_nil, scopeAt_eq_levelScope, acquire_eq_acquired]

/-- A held arrival waits at the circuit that holds it. -/
theorem holdArrival_eq {key : CKey} {ms : List Nat} {k : Circuit} (hk : s.circuit? t.ctx key = some k) :
    s.holdArrival t [(key, ms)] = s.putTeam { t with st := .waitingHeld { key := key, phase := k.phase } } := by
  have : (([(key, ms)].find? fun x => s.anyArrived t [x] || t.pendingArv [x]).map (·.1)).getD key = key := by
    rw [List.find?_singleton]
    split <;> rfl
  simp only [State.holdArrival, List.head?_cons, Option.map_some, Option.getD_some, this, phaseOf_some hk]

end

/-! ## The instructions -/

section
variable {s : State} {t : Team} {c : Ctl} {lvl : SyncLevel} {n : BitVec 4}

theorem RegsOnly.core {t u : Team} (h : RegsOnly t u) : u.core = t.core := by
  rw [RegsOnly] at h
  rw [← h]

theorem marked_id (t : Team) (c : Ctl) (as bs : List Fld) (w : Word) : ((t.useMarks c as bs).advance w).id = t.id :=
  (useMarks_regsOnly c t as bs).id

theorem marked_core (t : Team) (c : Ctl) (as bs : List Fld) (w : Word) : ((t.useMarks c as bs).advance w).core = t.core :=
  (useMarks_regsOnly c t as bs).core

/-- A failing check of R218 is all that an instruction of the class does. -/
theorem arv_checks {a : Fld} {k : State} (hi : Issues s t) (hr : Readable t [a])
    (h : ∀ x, s.syncChecks t lvl n 0 (t.getLow a).toNat x = k) : exec (.arv c lvl n a) s = .next k := by
  rw [exec_arv, execArv, issue_next _ hi (by simpa using hr)]
  exact congrArg _ (h _)

theorem syn_checks {a : Fld} {k : State} (hi : Issues s t) (hr : Readable t [a])
    (h : ∀ x, s.syncChecks t lvl n 1 (t.getLow a).toNat x = k) : exec (.syn c lvl n a) s = .next k := by
  rw [exec_syn, execSyn, issue_next _ hi (by simpa using hr)]
  exact congrArg _ (h _)

theorem wt_checks {k : State} (hi : Issues s t) (h : ∀ x, s.syncChecks t lvl n 2 0 x = k) : exec (.wt c lvl n) s = .next k := by
  rw [exec_wt, execWt, withTeam_next _ hi]
  exact congrArg _ (h _)

theorem trySync_checks {d : Fld} {k : State} (hi : Issues s t) (hr : Readable t [d]) (h : ∀ x, s.syncChecks t lvl n 3 0 x = k) :
    exec (.trySync c lvl n d) s = .next k := by
  rw [exec_trySync, execTrySync, issue_next _ hi fun f hf => hr f (by simpa using hf)]
  exact congrArg _ (h _)

end

theorem barrierMisuse_holds : BarrierMisuse := by
  intro s t c lvl n a d hi hr
  dsimp only
  have ha : Readable t [a] := fun f hf => hr f (List.mem_cons.2 (.inl (List.mem_singleton.1 hf)))
  have hd : Readable t [d] := fun f hf => hr f (List.mem_cons_of_mem _ hf)
  refine ⟨fun hu => ⟨?_, ?_, ?_, ?_⟩, fun hu hc => ⟨?_, ?_⟩, fun hl hu => ⟨fun hc h => ?_, fun h => ?_⟩⟩
  · exact arv_checks hi ha (syncChecks_unusable hu 0 _)
  · exact syn_checks hi ha (syncChecks_unusable hu 1 _)
  · exact wt_checks hi (syncChecks_unusable hu 2 _)
  · exact trySync_checks hi hd (syncChecks_unusable hu 3 _)
  · exact arv_checks hi ha (syncChecks_count hu (by omega) hc)
  · exact syn_checks hi ha (syncChecks_count hu (by omega) hc)
  · exact syn_checks hi ha (syncChecks_group hu (fun _ => hc) hl (.inl ⟨rfl, h⟩))
  · exact wt_checks hi (syncChecks_group hu (fun h => absurd h (by omega)) hl (.inr ⟨rfl, h⟩))

section
variable {s : State} {t : Team} {c : Ctl} {lvl : SyncLevel} {n : BitVec 4} (hi : Issues s t)
include hi

/-- ARV past its checks. -/
theorem arv_arrives {a : Fld} (hr : Readable t [a]) (hu : Usable s t lvl n) (hc : CountOk s t lvl n (t.getLow a).toNat)
    (hn : NoneArrived s t lvl n) : exec (.arv c lvl n a) s = .next
      (let u := t.useMarks c [a] []
       if s.releaseDone t.id (scopeAt lvl) s.nextId then (s.arriveAll t.ctx (t.reach lvl n) (t.getLow a).toNat).complete c u
       else s.complete c { u with arvs := u.arvs ++ (t.reach lvl n).map fun x =>
         { key := x.1, members := x.2, exp := (t.getLow a).toNat, upto := s.nextId } }) := by
  rw [exec_arv, execArv, issue_next _ hi (by simpa using hr), scopeAt_eq_levelScope]
  refine congrArg _ ((syncChecks_arv hu hc _).trans (if_neg ?_))
  rw [noneArrived_iff.1 hn]
  exact Bool.false_ne_true

/-- SYN past its checks, with the phase that all complete. -/
theorem syn_completes {a : Fld} (hr : Readable t [a]) (hu : Usable s t lvl n) (hc : CountOk s t lvl n (t.getLow a).toNat)
    (hn : NoneArrived s t lvl n) (ha : AllComplete s t lvl n (t.getLow a).toNat) (hrel : s.releaseDone t.id (scopeAt lvl) s.nextId = true) :
    exec (.syn c lvl n a) s = .next ((acquired ((s.arriveAll t.ctx (t.reach lvl n) (t.getLow a).toNat).putTeam
      ((t.useMarks c [a] []).advance (t.pc + 4))) t.core (scopeAt lvl)).yieldIf c t.id) := by
  rw [exec_syn, execSyn, issue_next _ hi (by simpa using hr), scopeAt_eq_levelScope]
  rw [scopeAt_eq_levelScope] at hrel
  refine congrArg _ ((syncChecks_syn hu hc (fun _ => ⟨?_, ha⟩) _).trans ((if_neg ?_).trans ((if_pos hrel).trans
    ((if_neg ?_).trans ((acquireThen_bound c ?_).trans ?_)))))
  · rw [someArrived_iff, NoneArrived.not_arrived hn]
    exact Bool.false_ne_true
  · rw [noneArrived_iff.1 hn]
    exact Bool.false_ne_true
  · rw [not_anyArrived_arriveAll hu hc ha]
    exact Bool.false_ne_true
  · rw [boundDone_arriveAll, marked_id]
    exact bound_of_released hrel
  · rw [marked_core, marked_id]

/-- SYN past its checks, with a phase that they do not complete. -/
theorem syn_waits {a : Fld} (hr : Readable t [a]) (hu : Usable s t lvl n) (hc : CountOk s t lvl n (t.getLow a).toNat)
    (hn : NoneArrived s t lvl n) (hl : lvl ≠ .group) (hrel : s.releaseDone t.id (scopeAt lvl) s.nextId = true) {key : CKey} {ms : List Nat} {k : Circuit}
    (hrs : t.reach lvl n = [(key, ms)]) (hms : ms ≠ []) (hk : s.circuit? t.ctx key = some k) (hlt : k.count + ms.length < named k (t.getLow a).toNat) :
    exec (.syn c lvl n a) s = .next (((s.arriveAll t.ctx (t.reach lvl n) (t.getLow a).toNat).putTeam
      (waits ((t.useMarks c [a] []).advance (t.pc + 4)) lvl { key := key, phase := k.phase })).yieldIf c t.id) := by
  obtain ⟨k', hk', hphase, harr⟩ := arriveAll_fills hc hrs hk hlt
  obtain ⟨m, hm⟩ := List.exists_mem_of_ne_nil ms hms
  rw [exec_syn, execSyn, issue_next _ hi (by simpa using hr)]
  rw [scopeAt_eq_levelScope] at hrel
  refine congrArg _ ((syncChecks_syn hu hc (fun h => absurd h hl) _).trans ((if_neg ?_).trans ((if_pos hrel).trans
    ((if_pos ?_).trans ?_))))
  · rw [noneArrived_iff.1 hn]
    exact Bool.false_ne_true
  · refine (anyArrived_iff _).2 ⟨(key, ms), by simp [hrs], k', hk', m, hm, ?_⟩
    rw [harr]
    exact List.mem_append_right _ hm
  · rw [← hphase, ← phaseOf_some hk', ← waitPhase_eq]
    simp only [hrs]

/-- SYN past its checks, whose arrival is kept. -/
theorem syn_later {a : Fld} (hr : Readable t [a]) (hu : Usable s t lvl n) (hc : CountOk s t lvl n (t.getLow a).toNat)
    (hn : NoneArrived s t lvl n) (hl : lvl ≠ .group) (hrel : ¬s.releaseDone t.id (scopeAt lvl) s.nextId = true) {key : CKey} {ms : List Nat}
    (hrs : t.reach lvl n = [(key, ms)]) :
    exec (.syn c lvl n a) s = .next ((s.putTeam { (t.useMarks c [a] []).advance (t.pc + 4) with
      st := .waitingArrival key false, arvs := (t.useMarks c [a] []).arvs ++ (t.reach lvl n).map fun x =>
        { key := x.1, members := x.2, exp := (t.getLow a).toNat, upto := s.nextId } }).yieldIf c t.id) := by
  rw [exec_syn, execSyn, issue_next _ hi (by simpa using hr)]
  rw [scopeAt_eq_levelScope] at hrel
  refine congrArg _ ((syncChecks_syn hu hc (fun h => absurd h hl) _).trans ((if_neg ?_).trans ((if_neg hrel).trans ?_)))
  · rw [noneArrived_iff.1 hn]
    exact Bool.false_ne_true
  · simp only [hrs]
    rfl

end

theorem arrivals_holds : Arrivals := by
  intro s t c lvl n a hi hr hu hn
  dsimp only
  intro hc
  have harr := arriveAll_arrived s t lvl n (t.getLow a).toNat
  simp only [← releaseDone_iff, reached_eq_reach t lvl n]
  refine ⟨fun h => ⟨_, harr, ?_⟩, fun h => ?_, fun ha h => ⟨_, harr, ?_⟩, fun hl h key ms k hrs hms hk hlt => ⟨_, harr, ?_⟩,
    fun hl h key ms hrs => ?_⟩
  · rw [arv_arrives hi hr hu hc hn]
    exact congrArg _ (if_pos h)
  · rw [arv_arrives hi hr hu hc hn]
    exact congrArg _ (if_neg h)
  · exact syn_completes hi hr hu hc hn (by simpa only [AllComplete, reached_eq_reach] using ha) h
  · exact syn_waits hi hr hu hc hn hl h hrs hms hk hlt
  · exact syn_later hi hr hu hc hn hl h hrs

section
variable {s : State} {t : Team} {c : Ctl} {lvl : SyncLevel} {n : BitVec 4} {d : Fld} (hi : Issues s t)
include hi

/-- WT goes on where no arrival is open. -/
theorem wt_passes (hu : Usable s t lvl n) (hn : NoneArrived s t lvl n) (hb : scopeAt lvl = .team ∨ Bound s t.id) (hne : reached t lvl n ≠ []) :
    exec (.wt c lvl n) s = .next ((acquired (s.putTeam (t.advance (t.pc + 4))) t.core (scopeAt lvl)).yieldIf c t.id) := by
  obtain ⟨x, xs, hx⟩ := List.exists_cons_of_ne_nil (by rwa [reached_eq_reach] at hne)
  rw [exec_wt, execWt, withTeam_next _ hi]
  refine congrArg _ ((syncChecks_wt hu (fun _ => ?_) _).trans ?_)
  · rw [someArrived_iff, NoneArrived.not_arrived hn]
    exact Bool.false_ne_true
  · have hp := NoneArrived.not_pending hn
    have ha := NoneArrived.not_arrived hn
    rw [hx] at hp ha
    simp only [hx, hp, ha, Bool.false_eq_true, if_false]
    rw [scopeAt_eq_levelScope]
    exact acquireThen_bound (u := t.advance (t.pc + 4)) c ((scope_bound_iff s t.id lvl).2 hb)

/-- WT waits for the phase in which an active member has arrived. -/
theorem wt_waits (hu : Usable s t lvl n) {key : CKey} {ms : List Nat} {k : Circuit} (hrs : reached t lvl n = [(key, ms)])
    (hk : s.circuit? t.ctx key = some k) (hsome : SomeArrived s t lvl n) (hl : lvl ≠ .group) (harv : ∀ a ∈ t.arvs, a.key ≠ key) :
    exec (.wt c lvl n) s =
      .next ((s.putTeam (waits (t.advance (t.pc + 4)) lvl { key := key, phase := k.phase })).yieldIf c t.id) := by
  rw [reached_eq_reach] at hrs
  have hp : t.pendingArv [(key, ms)] = false := by simpa [Team.pendingArv] using harv
  rw [someArrived_iff, hrs] at hsome
  rw [exec_wt, execWt, withTeam_next _ hi]
  refine congrArg _ ((syncChecks_wt hu (fun h => absurd h hl) _).trans ?_)
  simp only [hrs, hp, hsome, Bool.false_eq_true, if_false, if_true, phaseOf_some hk, waitPhase_eq]

/-- TRY answers 1 at once where no arrival is open. -/
theorem trySync_passes (hr : Readable t [d]) (hu : Usable s t lvl n) (hn : NoneArrived s t lvl n) (hb : scopeAt lvl = .team ∨ Bound s t.id) :
    exec (.trySync c lvl n d) s = .next ((acquired s t.core (scopeAt lvl)).complete c (t.write t [(d, fun _ => 1)])) := by
  have hp : s.tryPred t lvl n = true := by rw [State.tryPred, NoneArrived.not_arrived hn, NoneArrived.not_pending hn]; rfl
  rw [exec_trySync, execTrySync, issue_next _ hi fun f hf => hr f (by simpa using hf)]
  exact congrArg _ ((syncChecks_try hu _).trans ((if_pos hp).trans ((if_pos ((scope_bound_iff s t.id lvl).2 hb)).trans (tryEnd_eq s t c d lvl true))))

/-- TRY without a hint, or at group level, answers 0 at once where an arrival is open. -/
theorem trySync_fails (hr : Readable t [d]) (hu : Usable s t lvl n) (hn : ¬NoneArrived s t lvl n) (h : (t.getLow d).toNat = 0 ∨ lvl = .group) :
    exec (.trySync c lvl n d) s = .next (s.complete c (t.write t [(d, fun _ => 0)])) := by
  have hp : ¬s.tryPred t lvl n = true := by
    rwa [State.tryPred, ← Bool.not_or, Bool.not_eq_true', ← noneArrived_iff]
  rw [exec_trySync, execTrySync, issue_next _ hi fun f hf => hr f (by simpa using hf)]
  exact congrArg _ ((syncChecks_try hu _).trans ((if_neg hp).trans ((if_pos h).trans (tryEnd_eq s t c d lvl false))))

/-- TRY with a hint suspends its team. -/
theorem trySync_suspends (hr : Readable t [d]) (hu : Usable s t lvl n) {key : CKey} {ms : List Nat} {k : Circuit}
    (hrs : reached t lvl n = [(key, ms)]) (hk : s.circuit? t.ctx key = some k) (hn : ¬NoneArrived s t lvl n) (hl : lvl ≠ .group)
    (h : (t.getLow d).toNat ≠ 0) : exec (.trySync c lvl n d) s = .next (s.putTeam
      { t with st := .suspended { key := key, phase := k.phase } (s.coreTime t.core + (t.getLow d).toNat), finish := .tryDone c d lvl n }) := by
  have hp : ¬s.tryPred t lvl n = true := by
    rwa [State.tryPred, ← Bool.not_or, Bool.not_eq_true', ← noneArrived_iff]
  rw [reached_eq_reach] at hrs
  rw [exec_trySync, execTrySync, issue_next _ hi fun f hf => hr f (by simpa using hf)]
  refine congrArg _ ((syncChecks_try hu _).trans ((if_neg hp).trans ((if_neg (not_or.2 ⟨h, hl⟩)).trans ?_)))
  simp only [hrs, phaseOf_some hk]

/-- An arrival of a member that has arrived is held. -/
theorem arrival_held {a : Fld} (hr : Readable t [a]) (hu : Usable s t lvl n) (hc : CountOk s t lvl n (t.getLow a).toNat) (hl : lvl ≠ .group)
    {key : CKey} {ms : List Nat} {k : Circuit} (hrs : reached t lvl n = [(key, ms)]) (hk : s.circuit? t.ctx key = some k) (hn : ¬NoneArrived s t lvl n) :
    exec (.arv c lvl n a) s = .next (s.putTeam { t with st := .waitingHeld { key := key, phase := k.phase } }) ∧
    exec (.syn c lvl n a) s = .next (s.putTeam { t with st := .waitingHeld { key := key, phase := k.phase } }) := by
  have hopen : (s.anyArrived t (t.reach lvl n) || t.pendingArv (t.reach lvl n)) = true := by rwa [noneArrived_iff, Bool.not_eq_false] at hn
  have hheld := holdArrival_eq (ms := ms) hk
  rw [reached_eq_reach] at hrs
  rw [← hrs] at hheld
  constructor
  · rw [exec_arv, execArv, issue_next _ hi (by simpa using hr)]
    exact congrArg _ ((syncChecks_arv hu hc _).trans ((if_pos hopen).trans hheld))
  · rw [exec_syn, execSyn, issue_next _ hi (by simpa using hr)]
    exact congrArg _ ((syncChecks_syn hu hc (fun h => absurd h hl) _).trans ((if_pos hopen).trans hheld))

end

/-- TRY_HINT_EXPIRY of a team whose hint has elapsed. -/
theorem tryHintExpiry_next {s : State} {t : Team} {team at_ : Nat} {w : BWait} {c : Ctl} {d : Fld} {lvl : SyncLevel} {n : BitVec 4}
    (hd : s.dev = .operational) (ht : s.team? team = some t) (hst : t.st = .suspended w at_) (hf : t.finish = .tryDone c d lvl n) :
    exec (.tryHintExpiry team) s = .next
      (if s.coreTime t.core < at_ ∨ (s.phaseDone t.ctx w = true ∧ levelScope lvl ≠ .team ∧ (!s.boundDone t.id s.nextId) = true) then s
       else (s.tryEnd { t with finish := .none } c d lvl (s.phaseDone t.ctx w)).youngest t.id) := by
  rw [exec_tryHintExpiry, execTryHintExpiry, operational_next hd, ht]
  simp only [hst, hf]

/-- The end of a hint: 0 in a phase that goes on, else 1 once the acquire is possible. -/
theorem tryHintExpiry_ends {s : State} {t : Team} {team at_ : Nat} {w : BWait} {c : Ctl} {d : Fld} {lvl : SyncLevel} {n : BitVec 4}
    (hd : s.dev = .operational) (ht : s.team? team = some t) (hst : t.st = .suspended w at_) (hf : t.finish = .tryDone c d lvl n)
    (hat : at_ ≤ s.coreTime t.core) :
    let u : Team := { t with finish := .none }
    (¬PhaseOver s t.ctx w → exec (.tryHintExpiry team) s = .next ((s.complete c (u.write u [(d, fun _ => 0)])).youngest t.id)) ∧
    (PhaseOver s t.ctx w → scopeAt lvl = .team ∨ Bound s t.id → exec (.tryHintExpiry team) s =
      .next (((acquired s t.core (scopeAt lvl)).complete c (u.write u [(d, fun _ => 1)])).youngest t.id)) ∧
    (PhaseOver s t.ctx w → ¬(scopeAt lvl = .team ∨ Bound s t.id) → exec (.tryHintExpiry team) s = .next s) := by
  dsimp only
  rw [tryHintExpiry_next hd ht hst hf, ← phaseDone_iff, ← scope_bound_iff, tryEnd_eq]
  have hwait : (levelScope lvl ≠ .team ∧ (!s.boundDone t.id s.nextId) = true) ↔ ¬(levelScope lvl == .team || s.boundDone t.id s.nextId) = true := by
    simp
  refine ⟨fun h => congrArg _ ?_, fun h hb => congrArg _ ?_, fun h hb => congrArg _ (if_pos (.inr ⟨h, hwait.2 hb⟩))⟩
  · rw [if_neg (by simp [h]; omega), Bool.not_eq_true _ |>.mp h]
    rfl
  · rw [if_neg (not_or.2 ⟨by omega, fun x => (hwait.1 x.2) hb⟩), h]
    rfl

theorem waitsAndTries_holds : WaitsAndTries := by
  refine ⟨fun s t c lvl n d hi hr hu => ⟨fun hn hb hne => ⟨wt_passes hi hu hn hb hne, trySync_passes hi hr hu hn hb⟩, ?_, fun hl hn =>
    trySync_fails hi hr hu hn (.inr hl)⟩, fun s t c lvl n a key ms k hi hr hu hc hl hrs hk hn => arrival_held hi hr hu hc hl hrs hk hn,
    fun s t team w at_ c d lvl n hd ht hst hf hat => tryHintExpiry_ends hd ht hst hf hat⟩
  intro key ms k m hrs hk hm harr hl harv
  have hsome : SomeArrived s t lvl n := ⟨(key, ms), by simp [hrs], k, hk, m, hm, harr⟩
  have hn : ¬NoneArrived s t lvl n := fun h => (h (key, ms) (by simp [hrs])).1 k hk m hm harr
  exact ⟨wt_waits hi hu hrs hk hsome hl harv, fun h => trySync_fails hi hr hu hn (.inl h), trySync_suspends hi hr hu hrs hk hn hl⟩

/-- Settles O32: the checks of SYNC in the statements' words, then an arrival circuit by circuit, a wait or a try. -/
theorem barriers : Obligations.Barriers := ⟨barrierMisuse_holds, arrivals_holds, waitsAndTries_holds⟩

end Sys2Proof.Machine

/-!
PROOF. System calls and lane reordering (O36).
-/

namespace Sys2Proof.Machine

open Sys2Proof.Safety
open Sys2Proof.Claims

theorem exec_sysc (c : Ctl) (d : Fld) (s : State) : exec (.sysc c d) s = execSysc c d s := rfl
theorem exec_sysct (c : Ctl) (d : Fld) (s : State) : exec (.sysct c d) s = execSysct c d s := rfl
theorem exec_syscReply (ctx entry : Nat) (w0 w1 w2 w3 : Word) (s : State) :
    exec (.syscReply ctx entry w0 w1 w2 w3) s = execSyscReply ctx entry w0 w1 w2 w3 s := rfl
theorem exec_reord (c : Ctl) (d a : Fld) (s : State) : exec (.reord c d a) s = execReord c d a s := rfl

/-! ## System calls -/

/-- Whether entry n of the ring is taken. -/
theorem sysc_taken {x : Ctx} {n : Nat} : (!(x.sysc.any fun e => e.n == n)) = true ↔ ∀ e ∈ x.sysc, e.n ≠ n := by
  simp

theorem syscFree_full {s : State} {n : Nat} {x : Ctx} (hx : s.ctx? n = some x) (h : ∀ m < 256, ∃ e ∈ x.sysc, e.n = m) :
    s.syscFree n = none := by
  rw [State.syscFree, hx]
  refine List.find?_eq_none.2 fun m hm => ?_
  rw [sysc_taken]
  push Not
  exact h m (List.mem_range.1 hm)

theorem syscFree_lowest {s : State} {n m : Nat} {x : Ctx} (hx : s.ctx? n = some x) (hm : m < 256) (hfree : ∀ e ∈ x.sysc, e.n ≠ m)
    (h : ∀ j < m, ∃ e ∈ x.sysc, e.n = j) : s.syscFree n = some m := by
  rw [State.syscFree, hx]
  refine List.find?_range_eq_some.2 ⟨sysc_taken.2 hfree, List.mem_range.2 hm, fun j hj => ?_⟩
  obtain ⟨e, he, hej⟩ := h j hj
  simpa using ⟨e, he, hej⟩

section
variable {s : State} {t : Team} {i : Instr} {c : Ctl} {d : Fld} {full : Team → State} (hi : Issues s t) (hr : Readable t (run d 4))
include hi hr

theorem sysc_waits (h : ¬Released s t.id .system) : s.sysc i c d full =
    .next (s.putTeam { t with st := .waitingCounter (.release .system s.nextId), finish := .again i }) := by
  rw [State.sysc, issue_next _ hi fun f hf => hr f (by simpa using hf)]
  rw [← releaseDone_iff, Bool.not_eq_true] at h
  exact congrArg _ (if_pos (by rw [h]; rfl))

theorem sysc_full (h : Released s t.id .system) (hf : s.syscFree t.ctx = none) : s.sysc i c d full = .next (full t) := by
  rw [State.sysc, issue_next _ hi fun f hf => hr f (by simpa using hf)]
  rw [← releaseDone_iff] at h
  simp only [h, hf, Bool.not_true, Bool.false_eq_true, if_false]

theorem sysc_posts {n : Nat} (h : Released s t.id .system) (hf : s.syscFree t.ctx = some n) : s.sysc i c d full = .next (s.syscPost t c d n) := by
  rw [State.sysc, issue_next _ hi fun f hf => hr f (by simpa using hf)]
  rw [← releaseDone_iff] at h
  simp only [h, hf, Bool.not_true, Bool.false_eq_true, if_false]

end

/-- A message takes its number in the sequence of its context. -/
theorem tagSent_eq {s : State} {n p : Nat} {x : Ctx} (hx : s.ctx? n = some x) : s.tagSent n p =
    if (s.ports.getD p Port.reset).cap.getLsbD 3 then
      (s.modCtx n fun y => { y with seq := y.seq + 1 }).say (.sent p s.linkId n x.maqn.toNat (x.seq + 1))
    else s := by
  rw [State.tagSent, hx]

/-- A post adds an entry to the ring of its context. -/
theorem ctx?_addSysc {s : State} {n : Nat} {x : Ctx} (hx : s.ctx? n = some x) (e : SyscEntry) :
    (s.modCtx n fun y => { y with sysc := y.sysc ++ [e] }).ctx? n = some { x with sysc := x.sysc ++ [e] } := by
  rw [ctx?_modCtx (f := fun y => { y with sysc := y.sysc ++ [e] }) fun _ => rfl, hx]
  rfl

theorem syscReply_next {s : State} {n r : Nat} {x : Ctx} {e : SyscEntry} {w0 w1 w2 w3 : Word} (hd : s.dev = .operational)
    (hx : s.ctx? n = some x) (he : x.sysc.find? (fun y => y.n == r && y.st == .posted) = some e) :
    exec (.syscReply n r w0 w1 w2 w3) s = .next (if w0 = 0xFFFFFFFF#32 then s else s.modCtx n fun y =>
      { y with sysc := y.sysc.map fun z => if z.n = r then { z with st := .serviced, reply := [w0, w1, w2, w3] } else z }) := by
  rw [exec_syscReply, execSyscReply, onCtx_next hd hx, he]

theorem deliverReply_lands {s : State} {n : Nat} {e : SyscEntry} {t : Team} {w0 w1 w2 w3 : Word} {r0 r1 r2 r3 : Nat} (ht : s.team? e.team = some t)
    (hw : e.reply = [w0, w1, w2, w3]) (hr : e.dests = [r0, r1, r2, r3]) (hm : e.mask &&& t.landing ≠ 0) :
    s.deliverReply n e = acquired
      ((s.modCtx n fun y => { y with sysc := y.sysc.map fun z => if z.n = e.n then { z with st := .delivered } else z }).putTeam
        ((((t.land r0 (e.mask &&& t.landing) fun _ => w0).land r1 (e.mask &&& t.landing) fun _ => w1).land r2 (e.mask &&& t.landing) fun _ => w2).land
          r3 (e.mask &&& t.landing) fun _ => w3)) t.core .system := by
  rw [State.deliverReply, ht, hw, hr]
  simp only [List.zip_cons_cons, List.zip_nil_right, List.foldl_cons, List.foldl_nil, if_neg hm, acquire_eq_acquired]

theorem settleSysc_eq {s : State} {n : Nat} {x : Ctx} (hx : s.ctx? n = some x) : s.settleSysc n =
    if x.st ≠ .running then s else (x.sysc.filter fun e => e.st == .serviced).foldl (fun u e => u.deliverReply n e)
      (s.modCtx n fun y => { y with sysc := y.sysc.filter fun z => z.st != .delivered }) := by
  rw [State.settleSysc, hx]

theorem services_holds : Services := by
  refine ⟨fun s t c d x hi hr hx => ⟨fun hrel => ?_, fun hrel => ⟨fun hfull => ?_, fun n hn hfree hlow => ?_⟩⟩, fun s n x e w0 w1 w2 w3 r hd hx he => ?_,
    fun s n x e t w0 w1 w2 w3 hx ht hw r0 r1 r2 r3 hr hm => deliverReply_lands ht hw hr hm, fun s n x hx => ?_⟩
  · simp only [List.forall_mem_cons, List.not_mem_nil, false_imp_iff, implies_true, and_true]
    exact ⟨sysc_waits hi hr hrel, sysc_waits hi hr hrel⟩
  · have hf := syscFree_full hx hfull
    refine ⟨sysc_full hi hr hrel hf, (sysc_full hi hr hrel hf).trans (congrArg _ ?_)⟩
    exact finishWrite_puts s t c [] [(d, 0xFFFFFFFF#32)]
  · have hf := syscFree_lowest hx hn hfree hlow
    suffices h : ∀ i full, s.sysc i c d full = _ by
      simp only [List.forall_mem_cons, List.not_mem_nil, false_imp_iff, implies_true, and_true]
      exact ⟨h _ _, h _ _⟩
    intro i full
    rw [sysc_posts hi hr hrel hf, State.syscPost]
    dsimp only
    cases Config.message ((run d 4).map t.getLow) with
    | none => rfl
    | some p => simp only [tagSent_eq (ctx?_addSysc hx _)]; rfl
  · rw [syscReply_next hd hx he]
    exact ⟨fun h => congrArg _ (if_neg h), fun h => congrArg _ (if_pos h)⟩
  · rw [settleSysc_eq hx]
    exact ⟨fun h => if_pos h, fun h => if_neg (not_not.2 h)⟩

/-! ## The lists of REORD -/

theorem live_eq_liveFields (t : Team) : live t = t.liveFields := rfl

theorem brought_eq_rlanes (u : Team) (key : Nat → Nat) : brought u key = u.rlanes key := rfl

theorem before_iff (a b : RLane) : a.before b = true ↔
    a.key < b.key ∨ (a.key = b.key ∧ (a.tid < b.tid ∨ (a.tid = b.tid ∧ a.lid ≤ b.lid))) := by
  simp only [RLane.before, Bool.or_eq_true, Bool.and_eq_true, decide_eq_true_eq, beq_iff_eq]

theorem insertLane_eq (x : RLane) (ls : List RLane) : insertLane x ls = ls.orderedInsert (fun a b => a.before b = true) x := by
  induction ls with
  | nil => rfl
  | cons y ls ih => rw [insertLane, List.orderedInsert, ih]

theorem sortLanes_eq (ls : List RLane) : sortLanes ls = ls.insertionSort fun a b => a.before b = true := by
  induction ls with
  | nil => rfl
  | cons x ls ih => exact (insertLane_eq x _).trans (congrArg _ ih)

/-- A list that ascends is what sorting gives: there is one such order of its lanes. -/
theorem sortLanes_of_ascends {ls S : List RLane} (hp : S.Perm ls) (hs : Ascends S) : sortLanes ls = S := by
  have htotal : Std.Total fun a b : RLane => a.before b = true := ⟨fun a b => by simp only [before_iff]; omega⟩
  have htrans : IsTrans RLane fun a b => a.before b = true := ⟨fun a b c => by simp only [before_iff]; omega⟩
  have hsorted : S.Pairwise fun a b => a.before b = true := hs.imp fun {a b} h => by rw [before_iff]; omega
  have hsymm : Std.Symm fun a b : RLane => ¬(a.before b = true ∧ b.before a = true) := ⟨fun _ _ h h' => h h'.symm⟩
  have hstrict : ∀ a ∈ S, ∀ b ∈ S, a ≠ b → ¬(a.before b = true ∧ b.before a = true) := fun a ha b hb hne =>
    List.Pairwise.forall (R := fun a b : RLane => ¬(a.before b = true ∧ b.before a = true)) (l := S)
      (hs.imp fun {a b} h => by simp only [before_iff]; omega) ha hb hne
  rw [sortLanes_eq]
  refine List.Perm.eq_of_pairwise (le := fun a b => a.before b = true) (fun a b ha hb hab hba => ?_) (List.pairwise_insertionSort _ ls) hsorted
    ((List.perm_insertionSort _ ls).trans hp.symm)
  have haS : a ∈ S := hp.symm.subset ((List.mem_insertionSort _).1 ha)
  exact not_not.1 fun hne => hstrict a haS b hb hne ⟨hab, hba⟩

theorem nodup_of_ascends {S : List RLane} (h : Ascends S) : S.Nodup :=
  h.imp fun {a b} h hab => by subst hab; omega

/-- The partner of the one element that p holds of. -/
theorem find?_zip {α β : Type} {p : α → Bool} {O : List α} {S : List β} {i : Nat} {x : α} {y : β} (hO : O[i]? = some x) (hS : S[i]? = some y)
    (hp : p x = true) (hu : ∀ j z, O[j]? = some z → p z = true → j = i) : ((O.zip S).find? fun q => p q.1).map (·.2) = some y := by
  induction i generalizing O S with
  | zero =>
    cases O with
    | nil => exact nomatch hO
    | cons x' O =>
      cases S with
      | nil => exact nomatch hS
      | cons y' S =>
        obtain rfl : x' = x := by simpa using hO
        obtain rfl : y' = y := by simpa using hS
        rw [List.zip_cons_cons, List.find?_cons_of_pos (by exact hp)]
        rfl
  | succ i ih =>
    cases O with
    | nil => exact nomatch hO
    | cons x' O =>
      cases S with
      | nil => exact nomatch hS
      | cons y' S =>
        have hx' : ¬p x' = true := fun h => absurd (hu 0 x' rfl h) (by omega)
        rw [List.zip_cons_cons, List.find?_cons_of_neg (by exact hx')]
        refine ih (by simpa using hO) (by simpa using hS) fun j z hz hpz => ?_
        have := hu (j + 1) z (by simpa using hz) hpz
        omega

/-! ## The participants -/

theorem setBanks_k (e : List (Nat × RegVal)) (t : Team) : (e.foldl (fun v x => v.setBank x.1 x.2) t).k = t.k := by
  induction e generalizing t with
  | nil => rfl
  | cons x e ih => exact ih _

theorem drain_k (t : Team) : t.drain.k = t.k := by
  have hgo (w : List (List (Nat × RegVal))) (u : Team) : (Team.drain.go u w).k = u.k := by
    induction w generalizing u with
    | nil => rfl
    | cons e w ih => exact (ih _).trans (setBanks_k e u)
  exact hgo _ t

/-- The team, arrived at its REORD. -/
def Team.arrivedAt (t : Team) (c : Ctl) (d a : Fld) : Team :=
  { t.drain with st := .waitingLatch .reord, finish := .again (.reord c d a) }

theorem arrivedAt_id (t : Team) (c : Ctl) (d a : Fld) : (t.arrivedAt c d a).id = t.id := (drain_regsOnly t).id

theorem arrivedAt_pc (t : Team) (c : Ctl) (d a : Fld) : (t.arrivedAt c d a).pc = t.pc :=
  (congrArg Team.pc (show { t.drain with frame := t.frame, window := t.window, k := t.k } = t from drain_regsOnly t) :)

theorem arrivedAt_live (t : Team) (c : Ctl) (d a : Fld) : (t.arrivedAt c d a).liveFields = t.liveFields := by
  have hk : (t.arrivedAt c d a).k = t.k := drain_k t
  rw [Team.liveFields, hk, Team.liveFields]

theorem reord_next {s : State} {t : Team} {c : Ctl} {d a : Fld} (hi : Issues s t) (hr : Readable t (a :: live t ++ [d])) :
    exec (.reord c d a) s = .next ((s.putTeam (t.arrivedAt c d a)).reordTry (t.arrivedAt c d a)) := by
  rw [exec_reord, execReord, withTeam_next _ hi, checked_ok (by simpa [live_eq_liveFields] using hr)]
  rfl

section
variable {s : State} {t : Team}

theorem reordTry_waits (h : ∃ u ∈ s.reordSet t, u.st ≠ .waitingLatch .reord) : s.reordTry t = s := by
  obtain ⟨u, hu, hst⟩ := h
  refine if_pos (.inr ?_)
  rw [Bool.not_eq_true', ← Bool.not_eq_true, List.all_eq_true]
  exact fun h => hst (eq_of_beq (h u hu))

theorem reordTry_agrees (h : ∀ u ∈ s.reordSet t, u.st = .waitingLatch .reord) (ht : t ∈ s.reordSet t) : s.reordTry t =
    if ∀ u ∈ s.reordSet t, u.pc = t.pc ∧ u.liveFields = t.liveFields then s.reordAll (s.reordSet t)
    else (s.reordSet t).foldl (fun u v => u.trap { v with finish := .none } 13 0 v.mask 0) s := by
  have hall : ((s.reordSet t).all fun u => u.st == .waitingLatch .reord) = true := List.all_eq_true.2 fun u hu => beq_iff_eq.2 (h u hu)
  refine (if_neg (not_or.2 ⟨List.ne_nil_of_mem ht, by rw [hall]; exact Bool.false_ne_true⟩)).trans ?_
  refine ite_congr (propext ?_) (fun _ => rfl) fun _ => rfl
  simp only [List.all_eq_true, Bool.and_eq_true, beq_iff_eq]

/-- The participants are teams of the device, each once. -/
theorem reordSet_teams (hnd : (s.teams.map (·.id)).Nodup) (ht : s.team? t.id = some t) :
    (∀ u ∈ s.reordSet t, s.team? u.id = some u) ∧ ((s.reordSet t).map (·.id)).Nodup := by
  rw [State.reordSet]
  cases s.kernelOf t with
  | none => exact ⟨by simpa using ht, List.nodup_singleton _⟩
  | some k => exact ⟨fun u hu => team?_of_mem hnd (List.mem_of_mem_filter hu), hnd.sublist (List.filter_sublist.map _)⟩

end

/-! ## What a participant loses and receives -/

/-- Team u is t but for the contents of its frame, its window and its path counters. -/
def SameShape (t u : Team) : Prop :=
  { u with frame := t.frame, window := t.window, cnt := t.cnt } = t ∧ u.frame.length = t.frame.length

theorem SameShape.refl (t : Team) : SameShape t t := ⟨rfl, rfl⟩

theorem SameShape.trans {t u v : Team} (h : SameShape t u) (h' : SameShape u v) : SameShape t v := by
  obtain ⟨h, hl⟩ := h
  obtain ⟨h', hl'⟩ := h'
  exact ⟨by rw [← h, ← h'], hl'.trans hl⟩

theorem SameShape.id {t u : Team} (h : SameShape t u) : u.id = t.id := by
  rw [← h.1]

/-- What the fields that a participant keeps determine. -/
theorem SameShape.fields {t u : Team} (h : SameShape t u) : u.gen = t.gen ∧ u.pc = t.pc ∧ u.wbase = t.wbase ∧ u.nlanes = t.nlanes ∧
    u.finish = t.finish ∧ u.k = t.k := by
  rw [← h.1]
  exact ⟨rfl, rfl, rfl, rfl, rfl, rfl⟩

/-- The teams of s' are those of s, each of the same shape. -/
def KeepsShapes (s s' : State) : Prop := ∀ i t, s.team? i = some t → ∃ u, s'.team? i = some u ∧ SameShape t u

theorem KeepsShapes.of_teams {s s' : State} (h : s'.teams = s.teams) : KeepsShapes s s' := fun i t ht => by
  refine ⟨t, ?_, .refl t⟩
  rwa [State.team?, h]

theorem KeepsShapes.trans {s s' s'' : State} (h : KeepsShapes s s') (h' : KeepsShapes s' s'') : KeepsShapes s s'' := fun i t ht => by
  obtain ⟨u, hu, htu⟩ := h i t ht
  obtain ⟨v, hv, huv⟩ := h' i u hu
  exact ⟨v, hv, htu.trans huv⟩

theorem KeepsShapes.modTeam (s : State) (i : Nat) {f : Team → Team} (hf : ∀ u, SameShape u (f u)) : KeepsShapes s (s.modTeam i f) := fun j t ht => by
  have hid : ∀ x, x.id = i → (f x).id = i := fun x hx => (hf x).id.trans hx
  by_cases hj : j = i
  · subst hj
    exact ⟨f t, (team?_modTeam hid).trans (by rw [ht]; rfl), hf t⟩
  · exact ⟨t, (team?_modTeam_of_ne hid hj).trans ht, .refl t⟩

theorem KeepsShapes.foldl {α : Type} {f : State → α → State} (hf : ∀ s a, KeepsShapes s (f s a)) (l : List α) (s : State) :
    KeepsShapes s (l.foldl f s) := by
  induction l generalizing s with
  | nil => exact .of_teams rfl
  | cons a l ih => exact (hf s a).trans (ih _)

theorem KeepsShapes.putTeam {s : State} {t u : Team} (ht : s.team? t.id = some t) (h : SameShape t u) : KeepsShapes s (s.putTeam u) :=
  fun j w hw => by
    by_cases hj : j = t.id
    · subst hj
      obtain rfl : t = w := Option.some.inj (ht.symm.trans hw)
      exact ⟨u, team?_putTeam ht h.id, h⟩
    · refine ⟨w, ?_, .refl w⟩
      rw [putTeam_eq_modTeam]
      exact (team?_modTeam_of_ne (fun _ _ => rfl) (by rwa [h.id])).trans hw

theorem undefReg_keepsShapes (s : State) (i r : Nat) : KeepsShapes s (s.undefReg i r) := by
  rw [State.undefReg]
  cases h : s.team? i with
  | none => exact .of_teams rfl
  | some t =>
    have hid : t.id = i := by simpa using List.find?_some h
    subst hid
    exact (KeepsShapes.of_teams (s' := { s with freeCtr := s.freeCtr + t.nlanes }) rfl).trans (.putTeam h ⟨rfl, List.length_set⟩)

theorem dropReturns_keepsShapes (s : State) (t : Team) : KeepsShapes s (s.dropReturns t) := by
  have hundef (rs : List Nat) : KeepsShapes s (rs.foldl (fun u r => u.undefReg t.id r) s) :=
    .foldl (fun s r => undefReg_keepsShapes s t.id r) rs s
  rw [State.dropReturns]
  dsimp only
  exact (hundef _).trans ((KeepsShapes.of_teams rfl).trans (.modTeam _ t.id fun u => ⟨rfl, rfl⟩))

theorem vacate_sameShape (t : Team) (f : Fld) : SameShape t (t.vacate f) := by
  rw [Team.vacate]
  split
  · exact ⟨rfl, rfl⟩
  · exact .refl t

theorem useMark_sameShape (t : Team) (c : Ctl) (a : Fld) : SameShape t (t.useMarks c [a] []) := by
  simp only [Team.useMarks, List.foldl_nil, List.foldl_cons, ite_self]
  split
  · exact vacate_sameShape t a
  · exact .refl t

/-! ## The registers of a participant after REORD -/

/-- Replaces what the banks of a register hold, lane by lane. -/
def Team.putLanes (n : Nat) (f : Nat → Nat → Word) (u : Team) (r : Nat) : Team :=
  { u with frame := u.frame.set r { u.reg r with uniform := false, bank := .per ((List.range n).map (f r)) } }

theorem putLanes_sameShape (n : Nat) (f : Nat → Nat → Word) (u : Team) (r : Nat) : SameShape u (u.putLanes n f r) := ⟨rfl, List.length_set⟩

theorem foldl_putLanes_sameShape (n : Nat) (f : Nat → Nat → Word) (rs : List Nat) (u : Team) : SameShape u (rs.foldl (Team.putLanes n f) u) := by
  induction rs generalizing u with
  | nil => exact .refl u
  | cons r rs ih => exact (putLanes_sameShape n f u r).trans (ih _)

theorem foldl_putLanes_other (n : Nat) (f : Nat → Nat → Word) {q : Nat} {rs : List Nat} (hq : q ∉ rs) (u : Team) :
    (rs.foldl (Team.putLanes n f) u).reg q = u.reg q := by
  induction rs generalizing u with
  | nil => rfl
  | cons r rs ih =>
    obtain ⟨hr, hrs⟩ := not_or.1 (fun h => hq (List.mem_cons.2 h))
    exact (ih hrs _).trans ((reg_set u r _ q).trans (if_neg fun h => hr h.1))

theorem foldl_putLanes_lane {n : Nat} (f : Nat → Nat → Word) {q l : Nat} {rs : List Nat} (hq : q ∈ rs) (hl : l < n) {u : Team}
    (hlen : q < u.frame.length) : ((rs.foldl (Team.putLanes n f) u).reg q).bank.lane l = f q l := by
  induction rs generalizing u with
  | nil => exact nomatch hq
  | cons r rs ih =>
    by_cases hin : q ∈ rs
    · exact ih hin (by rwa [(putLanes_sameShape n f u r).2])
    · obtain rfl : q = r := (List.mem_cons.1 hq).resolve_right hin
      rw [List.foldl_cons, foldl_putLanes_other n f hin]
      have : (u.putLanes n f q).reg q = _ := (reg_set u q _ q).trans (if_pos ⟨rfl, hlen⟩)
      rw [this]
      simp [RegVal.lane, hl]

/-- What slot l of register r of t receives. -/
def Team.received (t : Team) (ts : List Team) (source : Nat → Option RLane) (r l : Nat) : Word :=
  ((source l).bind fun x => (ts.find? fun v => v.id == x.id).map fun v => (v.reg (v.wbase + (r - t.wbase))).bank.lane x.lid).getD
    ((t.reg r).bank.lane l)

/-- The identity that slot l of D receives. -/
def Team.receivedId (t : Team) (source : Nat → Option RLane) (r l : Nat) : Word :=
  ((source l).map fun x => BitVec.ofNat 32 (1024 * x.tid + x.lid)).getD ((t.reg r).bank.lane l)

theorem reordered_eq (t : Team) (ts : List Team) (source : Nat → Option RLane) : t.reordered ts source =
    let u1 := (t.regsOf t.liveFields).foldl (Team.putLanes t.nlanes (t.received ts source)) t
    let u2 := (t.regsOf [(reordFields t).2.1]).foldl (Team.putLanes t.nlanes (u1.receivedId source)) u1
    { u2 with gen := u2.gen + 1, finish := .none } := by
  have h1 : t.received ts source = fun r l => match source l with
    | none => (t.reg r).bank.lane l
    | some x => match ts.find? fun v => v.id == x.id with
      | some v => (v.reg (v.wbase + (r - t.wbase))).bank.lane x.lid
      | none => (t.reg r).bank.lane l := by
    funext r l
    rw [Team.received]
    cases source l with
    | none => rfl
    | some x =>
      cases h : ts.find? fun v => v.id == x.id with
      | none => simp [h]
      | some v => simp [h]
  have h2 (u : Team) : u.receivedId source = fun r l => match source l with
    | some x => BitVec.ofNat 32 (1024 * x.tid + x.lid)
    | none => (u.reg r).bank.lane l := by
    funext r l
    rw [Team.receivedId]
    cases source l <;> rfl
  simp only [h1, h2]
  rfl

theorem liveFields_isFrame {t : Team} {f : Fld} (h : f ∈ t.liveFields) : isFrame f = true := by
  obtain ⟨n, hn, rfl⟩ := List.mem_map.1 h
  have hlt := List.mem_range.1 (List.mem_of_mem_filter hn)
  simp only [isFrame, BitVec.toNat_ofNat, decide_eq_true_eq]
  omega

theorem fieldReg_inj {t : Team} {f f' : Fld} (h : t.fieldReg f = t.fieldReg f') : f = f' :=
  BitVec.eq_of_toNat_eq (Nat.add_left_cancel h)

section
variable {u w v : Team} {ts : List Team} {source : Nat → Option RLane} {c : Ctl} {d a : Fld} {l : Nat} {y : RLane}
  (hs : SameShape u w) (hf : u.finish = .again (.reord c d a))
include hs

theorem reordered_fields : (w.reordered ts source).id = u.id ∧ (w.reordered ts source).gen = u.gen + 1 ∧ (w.reordered ts source).pc = u.pc := by
  obtain ⟨hgen, hpc, -⟩ := hs.fields
  rw [reordered_eq]
  dsimp only
  have h1 := foldl_putLanes_sameShape w.nlanes (w.received ts source) (w.regsOf w.liveFields) w
  set u1 := (w.regsOf w.liveFields).foldl (Team.putLanes w.nlanes (w.received ts source)) w
  have h2 := h1.trans (foldl_putLanes_sameShape w.nlanes (u1.receivedId source) (w.regsOf [(reordFields w).2.1]) u1)
  exact ⟨h2.id.trans hs.id, by rw [h2.fields.1, hgen], h2.fields.2.1.trans hpc⟩

include hf

/-- The slots of a participant that have a source receive its live registers, and its identity in D. -/
theorem reordered_receives (hd : isFrame d = true) (hlen : ∀ f ∈ d :: u.liveFields, u.fieldReg f < u.frame.length) (hl : l < u.nlanes)
    (hsrc : source l = some y) (hv : ts.find? (fun x => x.id == y.id) = some v) :
    (∀ f ∈ u.liveFields, f ≠ d → ((w.reordered ts source).reg (u.fieldReg f)).bank.lane l = (v.reg (v.fieldReg f)).bank.lane y.lid) ∧
    ((w.reordered ts source).reg (u.fieldReg d)).bank.lane l = BitVec.ofNat 32 (1024 * y.tid + y.lid) := by
  obtain ⟨-, -, hwbase, hnl, hfin, hk⟩ := hs.fields
  have hreg : w.fieldReg = u.fieldReg := by funext f; rw [Team.fieldReg, hwbase, Team.fieldReg]
  have hlive : w.liveFields = u.liveFields := by rw [Team.liveFields, hk, Team.liveFields]
  have hds : w.regsOf [(reordFields w).2.1] = [u.fieldReg d] := by
    have : (reordFields w).2.1 = d := by rw [reordFields, hfin, hf]
    rw [this, Team.regsOf, List.filter_cons_of_pos hd, hreg]
    rfl
  rw [reordered_eq]
  simp only [hds, hlive, hnl]
  set u1 := (w.regsOf u.liveFields).foldl (Team.putLanes u.nlanes (w.received ts source)) w
  have hlen1 : u1.frame.length = u.frame.length := (foldl_putLanes_sameShape _ _ _ w).2.trans hs.2
  constructor
  · intro f hfl hfd
    have hin : u.fieldReg f ∈ w.regsOf u.liveFields :=
      List.mem_map.2 ⟨f, List.mem_filter.2 ⟨hfl, liveFields_isFrame hfl⟩, by rw [hreg]⟩
    have hout : u.fieldReg f ∉ [u.fieldReg d] := fun h => hfd (fieldReg_inj (List.mem_singleton.1 h))
    refine (congrArg (fun r => r.bank.lane l) (foldl_putLanes_other u.nlanes (u1.receivedId source) hout u1)).trans ?_
    refine (foldl_putLanes_lane _ hin hl (by rw [hs.2]; exact hlen f (List.mem_cons_of_mem _ hfl))).trans ?_
    have : u.fieldReg f - w.wbase = f.toNat := by rw [hwbase, Team.fieldReg, Nat.add_sub_cancel_left]
    simp only [Team.received, hsrc, hv, Option.bind_some, Option.map_some, Option.getD_some, this]
    rfl
  · refine (foldl_putLanes_lane _ (List.mem_singleton_self _) hl (by rw [hlen1]; exact hlen d List.mem_cons_self)).trans ?_
    simp only [Team.receivedId, hsrc, Option.map_some, Option.getD_some]

end

/-! ## REORD takes effect -/

theorem yieldIf_teams (s : State) (c : Ctl) (i : Nat) : (s.yieldIf c i).teams = s.teams := by
  rw [State.yieldIf]
  split <;> rfl

theorem team?_complete_self {s : State} {c : Ctl} {i : Nat} {t u : Team} (h : s.team? i = some t) (hid : u.id = i) :
    (s.complete c u).team? i = some (u.advance (u.pc + 4)) := by
  obtain rfl : t.id = i := by simpa using List.find?_some h
  rw [State.complete, State.team?, yieldIf_teams]
  exact team?_putTeam h hid

theorem team?_complete_other {s : State} {c : Ctl} {u : Team} {i : Nat} (h : i ≠ u.id) : (s.complete c u).team? i = s.team? i := by
  rw [State.complete, State.team?, yieldIf_teams]
  exact team?_modTeam_of_ne (s := s) (f := fun _ => u.advance (u.pc + 4)) (j := u.id) (fun _ _ => rfl) h

/-- The lane that a slot of a participant receives. -/
def reordSource (pairs : List (RLane × RLane)) (i l : Nat) : Option RLane := (pairs.find? fun p => p.1.id == i && p.1.lid == l).map (·.2)

/-- REORD takes effect in one participant. -/
def State.reordOne (ts : List Team) (pairs : List (RLane × RLane)) (u : State) (t : Team) : State :=
  match u.team? t.id with
  | none => u
  | some v => u.complete (reordFields t).1 ((v.useMarks (reordFields t).1 [(reordFields t).2.2] []).reordered ts (reordSource pairs t.id))

theorem reordAll_eq (s : State) (ts : List Team) : s.reordAll ts =
    ts.foldl (State.reordOne ts ((sortLanes (ts.flatMap fun t => t.rlanes fun _ => 0)).zip
      (sortLanes (ts.flatMap fun t => t.rlanes fun l => (t.get (reordFields t).2.2 l).toNat)))) (ts.foldl (fun u t => u.dropReturns t) s) := rfl

section
variable {ts : List Team} {pairs : List (RLane × RLane)} {s : State}

theorem reordOne_other {t : Team} {i : Nat} (h : i ≠ t.id) : (s.reordOne ts pairs t).team? i = s.team? i := by
  rw [State.reordOne]
  cases hv : s.team? t.id with
  | none => rfl
  | some v =>
    have hid : v.id = t.id := by simpa using List.find?_some hv
    have hw : SameShape v (v.useMarks (reordFields t).1 [(reordFields t).2.2] []) := useMark_sameShape v _ _
    exact team?_complete_other (by rw [(reordered_fields hw).1, hid]; exact h)

theorem reordOne_self {t v : Team} (hv : s.team? t.id = some v) (hs : SameShape t v) :
    ∃ w, SameShape t w ∧
      (s.reordOne ts pairs t).team? t.id = some ((w.reordered ts (reordSource pairs t.id)).advance ((w.reordered ts (reordSource pairs t.id)).pc + 4)) := by
  have hw := hs.trans (useMark_sameShape v (reordFields t).1 (reordFields t).2.2)
  refine ⟨_, hw, ?_⟩
  rw [State.reordOne, hv]
  exact team?_complete_self hv (reordered_fields hw).1

theorem foldl_reordOne_other {us : List Team} {i : Nat} (h : ∀ t ∈ us, i ≠ t.id) (s : State) :
    (us.foldl (State.reordOne ts pairs) s).team? i = s.team? i := by
  induction us generalizing s with
  | nil => rfl
  | cons t us ih =>
    have ⟨ht, hus⟩ := List.forall_mem_cons.1 h
    exact (ih hus _).trans (reordOne_other ht)

theorem foldl_reordOne_self {us : List Team} {t v : Team} (hnd : (us.map (·.id)).Nodup) (ht : t ∈ us) (hv : s.team? t.id = some v) (hs : SameShape t v) :
    ∃ w, SameShape t w ∧ (us.foldl (State.reordOne ts pairs) s).team? t.id =
      some ((w.reordered ts (reordSource pairs t.id)).advance ((w.reordered ts (reordSource pairs t.id)).pc + 4)) := by
  induction us generalizing s with
  | nil => exact nomatch ht
  | cons x us ih =>
    obtain ⟨hx, hus⟩ := List.nodup_cons.1 hnd
    rcases List.mem_cons.1 ht with rfl | hin
    · obtain ⟨w, hw, h⟩ := reordOne_self (ts := ts) (pairs := pairs) hv hs
      exact ⟨w, hw, (foldl_reordOne_other (fun y hy h => hx (List.mem_map.2 ⟨y, hy, h.symm⟩)) _).trans h⟩
    · have hne : t.id ≠ x.id := fun h => hx (List.mem_map.2 ⟨t, hin, h⟩)
      exact ih hus hin ((reordOne_other hne).trans hv)

end

/-- A participant after REORD. -/
theorem reordAll_team {s : State} {ts : List Team} (hteam : ∀ u ∈ ts, s.team? u.id = some u) (hnd : (ts.map (·.id)).Nodup) {S O : List RLane}
    (hS : sortLanes (ts.flatMap fun t => t.rlanes fun l => (t.get (reordFields t).2.2 l).toNat) = S)
    (hO : sortLanes (ts.flatMap fun t => t.rlanes fun _ => 0) = O) {u : Team} (hu : u ∈ ts) :
    ∃ w, SameShape u w ∧ (s.reordAll ts).team? u.id =
      some ((w.reordered ts (reordSource (O.zip S) u.id)).advance ((w.reordered ts (reordSource (O.zip S) u.id)).pc + 4)) := by
  obtain ⟨v, hv, hs⟩ := KeepsShapes.foldl (fun s t => dropReturns_keepsShapes s t) ts s u.id u (hteam u hu)
  rw [reordAll_eq, hS, hO]
  exact foldl_reordOne_self hnd hu hv hs

/-- The lanes of the list by slot: each slot of a participant once. -/
theorem slot_unique {ts : List Team} (hnd : (ts.map (·.id)).Nodup) {O : List RLane} (hp : O.Perm (ts.flatMap fun u => u.rlanes fun _ => 0))
    (ha : Ascends O) {i : Nat} {x : RLane} (hx : O[i]? = some x) :
    ∀ j z, O[j]? = some z → (z.id == x.id && z.lid == x.lid) = true → j = i := by
  have hform : ∀ z ∈ O, ∃ u ∈ ts, u.id = z.id ∧ z = { key := 0, tid := u.tid, lid := z.lid, id := u.id } := fun z hz => by
    obtain ⟨u, hu, hz⟩ := List.mem_flatMap.1 (hp.subset hz)
    obtain ⟨l, -, rfl⟩ := List.mem_map.1 hz
    exact ⟨u, hu, rfl, rfl⟩
  intro j z hz h
  obtain ⟨hid, hlid⟩ : z.id = x.id ∧ z.lid = x.lid := by simpa using h
  obtain ⟨u, hu, huz, hzf⟩ := hform z (List.mem_of_getElem? hz)
  obtain ⟨v, hv, hvx, hxf⟩ := hform x (List.mem_of_getElem? hx)
  obtain rfl : u = v := List.inj_on_of_nodup_map hnd hu hv (by rw [huz, hvx, hid])
  have hzx : z = x := by rw [hzf, hxf, hlid]
  subst hzx
  obtain ⟨hj, hjz⟩ := List.getElem?_eq_some_iff.1 hz
  obtain ⟨hi, hix⟩ := List.getElem?_eq_some_iff.1 hx
  exact ((nodup_of_ascends ha).getElem_inj_iff).1 (hjz.trans hix.symm)

/-- What a slot has after REORD: the live registers of the lane it is given, and its identity in D. -/
theorem reordAll_receives {s : State} {ts : List Team} {fs : List Fld} (hteam : ∀ u ∈ ts, s.team? u.id = some u) (hnd : (ts.map (·.id)).Nodup)
    (hlive : ∀ u ∈ ts, live u = fs) {dOf aOf : Nat → Fld} {cOf : Nat → Ctl} (hat : ∀ u ∈ ts, AtReord u (cOf u.id) (dOf u.id) (aOf u.id))
    (hlen : ∀ u ∈ ts, isFrame (dOf u.id) = true ∧ ∀ f ∈ dOf u.id :: fs, u.fieldReg f < u.frame.length) {S O : List RLane}
    (hS : S.Perm (ts.flatMap fun u => brought u fun l => (u.get (aOf u.id) l).toNat)) (haS : Ascends S)
    (hO : O.Perm (ts.flatMap fun u => brought u fun _ => 0)) (haO : Ascends O) {i : Nat} {x y : RLane} (hx : O[i]? = some x) (hy : S[i]? = some y)
    {u v : Team} (hu : u ∈ ts) (hux : u.id = x.id) (hv : v ∈ ts) (hvy : v.id = y.id) :
    ∃ u', (s.reordAll ts).team? u.id = some u' ∧ u'.gen = u.gen + 1 ∧ u'.pc = u.pc + 4 ∧ u'.st = .ready ∧
      (∀ f ∈ fs, f ≠ dOf u.id → (u'.reg (u.fieldReg f)).bank.lane x.lid = (v.reg (v.fieldReg f)).bank.lane y.lid) ∧
      (u'.reg (u.fieldReg (dOf u.id))).bank.lane x.lid = BitVec.ofNat 32 (1024 * y.tid + y.lid) := by
  have hkeys : (ts.flatMap fun t => t.rlanes fun l => (t.get (reordFields t).2.2 l).toNat) =
      ts.flatMap fun u => brought u fun l => (u.get (aOf u.id) l).toNat := by
    simp only [List.flatMap]
    refine congrArg _ (List.map_congr_left fun w hw => ?_)
    have : (reordFields w).2.2 = aOf w.id := by rw [reordFields, (hat w hw).2]
    rw [this, brought_eq_rlanes]
  obtain ⟨w, hw, hteam'⟩ := reordAll_team (S := S) hteam hnd (by rw [hkeys]; exact sortLanes_of_ascends hS haS) (sortLanes_of_ascends hO haO) hu
  obtain ⟨-, hgen, hpc⟩ := reordered_fields (ts := ts) (source := reordSource (O.zip S) u.id) hw
  have hl : x.lid < u.nlanes := by
    obtain ⟨w', hw', hxw⟩ := List.mem_flatMap.1 (hO.subset (List.mem_of_getElem? hx))
    obtain ⟨l, hl, rfl⟩ := List.mem_map.1 hxw
    obtain rfl : u = w' := List.inj_on_of_nodup_map hnd hu hw' hux
    exact List.mem_range.1 (List.mem_of_mem_filter hl)
  have hsrc : reordSource (O.zip S) u.id x.lid = some y :=
    find?_zip (p := fun z : RLane => z.id == u.id && z.lid == x.lid) hx hy (by simp [hux]) (by rw [hux]; exact slot_unique hnd hO haO hx)
  have hfind : ts.find? (fun z => z.id == y.id) = some v := by
    obtain ⟨z, hz⟩ := Option.isSome_iff_exists.1 (List.find?_isSome.2 ⟨v, hv, beq_iff_eq.2 hvy⟩ : (ts.find? fun z => z.id == y.id).isSome)
    have hzid : z.id = y.id := by simpa using List.find?_some hz
    rw [hz, List.inj_on_of_nodup_map hnd (List.mem_of_find?_eq_some hz) hv (hzid.trans hvy.symm)]
  have hrec := reordered_receives hw (hat u hu).2 (hlen u hu).1 (by rw [← live_eq_liveFields, hlive u hu]; exact (hlen u hu).2) hl hsrc hfind
  rw [← live_eq_liveFields, hlive u hu] at hrec
  exact ⟨_, hteam', hgen, by rw [Team.advance, hpc], rfl, hrec⟩

section
variable {s : State} {t : Team} {c : Ctl} {d a : Fld} (hi : Issues s t)
include hi

/-- The teams of a device in which the team has arrived. -/
theorem arrived_teams (hnd : (s.teams.map (·.id)).Nodup) : (((s.putTeam (t.arrivedAt c d a)).teams.map (·.id)).Nodup) ∧
    (s.putTeam (t.arrivedAt c d a)).team? (t.arrivedAt c d a).id = some (t.arrivedAt c d a) := by
  constructor
  · have : (s.putTeam (t.arrivedAt c d a)).teams.map (·.id) = s.teams.map (·.id) := by
      rw [State.putTeam, List.map_map]
      refine List.map_congr_left fun u _ => ?_
      simp only [Function.comp_apply]
      split
      · next h => exact h.symm
      · rfl
    rwa [this]
  · rw [arrivedAt_id]
    exact team?_putTeam (team?_of_issues hi) (arrivedAt_id t c d a)

/-- The last participant arrives, and all agree. -/
theorem reord_all (hr : Readable t (a :: live t ++ [d])) (hw : ∀ u ∈ (s.putTeam (t.arrivedAt c d a)).reordSet (t.arrivedAt c d a), u.st = .waitingLatch .reord)
    (ht : t.arrivedAt c d a ∈ (s.putTeam (t.arrivedAt c d a)).reordSet (t.arrivedAt c d a))
    (h : ∀ u ∈ (s.putTeam (t.arrivedAt c d a)).reordSet (t.arrivedAt c d a), u.pc = t.pc ∧ live u = live t) :
    exec (.reord c d a) s = .next ((s.putTeam (t.arrivedAt c d a)).reordAll ((s.putTeam (t.arrivedAt c d a)).reordSet (t.arrivedAt c d a))) := by
  rw [reord_next hi hr, reordTry_agrees hw ht, if_pos]
  intro u hu
  rw [arrivedAt_pc, arrivedAt_live]
  exact h u hu

end

theorem reorder_holds : Reorder := by
  intro s t c d a hi hr hnd
  dsimp only
  rw [show { t.drain with st := .waitingLatch .reord, finish := .again (.reord c d a) } = t.arrivedAt c d a from rfl]
  obtain ⟨hnd1, hfind⟩ := arrived_teams (c := c) (d := d) (a := a) hi hnd
  obtain ⟨hteam, hids⟩ := reordSet_teams hnd1 hfind
  have hagree (u : Team) : (u.pc ≠ t.pc ∨ live u ≠ live t) ↔ ¬(u.pc = (t.arrivedAt c d a).pc ∧ u.liveFields = (t.arrivedAt c d a).liveFields) := by
    rw [arrivedAt_pc, arrivedAt_live, ← live_eq_liveFields, ← live_eq_liveFields, not_and_or]
  refine ⟨fun h => ?_, fun hw ht => ⟨fun ⟨u, hu, h⟩ => ?_, fun h _ dOf aOf cOf hat hlen => ⟨_, reord_all hi hr hw ht h, ?_⟩⟩⟩
  · rw [reord_next hi hr, reordTry_waits h]
  · rw [reord_next hi hr, reordTry_agrees hw ht, if_neg fun h' => (hagree u).1 h (h' u hu)]
  · intro S O hS haS hO haO i x y hx hy u hu hux v hv hvy
    exact reordAll_receives hteam hids (fun u hu => (h u hu).2) hat hlen hS haS hO haO hx hy hu hux hv hvy

/-- Settles O36: a post, a reply and its landing; then REORD, whose sorted lists are the only ones that ascend, participant by participant. -/
theorem servicesReorder : Obligations.ServicesReorder := ⟨services_holds, reorder_holds⟩

end Sys2Proof.Machine

/-!
PROOF. The load events and the tiles complete (O57).
-/

namespace Sys2Proof.Machine

open Sys2Proof.Safety
open Sys2Proof.Claims

theorem exec_mma (d a b : Fld) (z x : Bool) (s : State) : exec (.mma d a b z x) s = execMma d a b z x s := rfl
theorem exec_mms (d a b : Fld) (sl : BitVec 2) (x : Bool) (s : State) : exec (.mms d a b sl x) s = execMms d a b sl x s := rfl
theorem exec_tileWrite (req : Nat) (s : State) : exec (.tileWrite req) s = execTileWrite req s := rfl

/-! ## The load events -/

/-- A destination that a value lands in is full, and stays full when others land. -/
theorem landDests_full (m : Mask) (r : Req) {q : Nat} {ps : List (Nat × Nat)} (hq : q ∈ ps.map (·.2)) {u : Team} (hlen : q < u.frame.length) :
    ((ps.foldl (Team.landDest m r) u).reg q).full = true := by
  have hself (u : Team) (x : Nat × Nat) (hx : q = x.2) (hlen : q < u.frame.length) : ((u.landDest m r x).reg q).full = true := by
    subst hx
    rw [Team.landDest]
    split
    · exact congrArg Reg.full ((reg_set u x.2 _ x.2).trans (if_pos ⟨rfl, hlen⟩))
    · exact congrArg Reg.full ((reg_set u x.2 _ x.2).trans (if_pos ⟨rfl, hlen⟩))
  induction ps generalizing u with
  | nil => exact nomatch hq
  | cons x ps ih =>
    have hlen' : q < (u.landDest m r x).frame.length := by rwa [(landDest_frame m r u x).2]
    by_cases hin : q ∈ ps.map (·.2)
    · exact ih hin hlen'
    · have hx : q = x.2 := (List.mem_cons.1 hq).resolve_right hin
      rw [List.foldl_cons, landDests_reg_of_notMem m r hin]
      exact hself u x hx hlen

/-- What a landing leaves of the team and of the device. -/
theorem landReq_lands {s : State} {r : Req} {t : Team} (h : s.team? r.team = some t) :
    ∃ t', (s.landReq r).team? r.team = some t' ∧ (s.landReq r).reqs = s.reqs.filter (fun q => q.id != r.id) ∧
      (∀ q ∈ r.dests, q < t.frame.length → (t'.reg q).full = true) ∧ (∀ q, q ∉ r.dests → t'.reg q = t.reg q) ∧
      (s.landReq r).mem = s.mem ∧ (s.landReq r).ctxs = s.ctxs := by
  obtain ⟨cnt, ht⟩ := landReq_team h
  obtain ⟨hrest, hreqs, -⟩ := landReq_rest s r
  have hsnd := zip_range_map_snd r.dests
  refine ⟨_, ht, hreqs, fun q hq hlen => ?_, fun q hq => ?_, (congrArg State.mem hrest :), (congrArg State.ctxs hrest :)⟩
  · exact landDests_full _ r (by rwa [hsnd]) hlen
  · exact landDests_reg_of_notMem _ r (by rwa [hsnd]) t

theorem loadEventsComplete_holds : LoadEventsComplete := by
  refine ⟨fun s req lane r x sz sx strong stream h hk hst hrlf hraw hfree => ?_, fun s req r t sz sx strong stream hd hr hl ht hgen hk hb => ?_,
    fun s req r t lvl sz sx hd hr hl ht hgen hk hlvl hp hfree => ?_, fun s core word c hd hc ho he => ?_⟩
  · obtain ⟨s', he, hreq, -, -, hrest⟩ := (loadMiss_holds s req lane r x sz sx strong stream h hk hst hrlf hraw
      fun y hy htog => ⟨(hfree y hy htog).1, (hfree y hy htog).2.2⟩).2 fun y hy htog => (hfree y hy htog).2.1
    refine ⟨s', he, ⟨_, hreq, ?_⟩, (congrArg State.mem hrest :), (congrArg State.teams hrest :), (congrArg State.ctxs hrest :)⟩
    rw [Req.lane?, List.find?_map]
    have hcomp : ((fun y : Lane => y.lane == lane) ∘ fun y => if together x (bytesOf sz) y = true then
        { y with got := loaded sz sx (memRead s.mem y.pa (bytesOf sz)), st := .bound } else y) = fun y => y.lane == lane := by
      funext y
      simp only [Function.comp_apply]
      split <;> rfl
    have hx : r.lanes.find? (fun y => y.lane == lane) = some x := h.2.2.2
    rw [hcomp, hx, Option.map_some, if_pos (together_self h.2.2.2 _).2]
  · obtain ⟨t', hteam, hrest⟩ := landReq_lands ht
    exact ⟨_, t', loadReturn_bound hd hr hl ht (.inl ⟨sz, sx, strong, stream, hk⟩) hgen fun x hx => by rw [hb x hx]; exact nofun, hteam, hrest⟩
  · obtain ⟨t', hteam, hrest⟩ := landReq_lands (r := { r with lanes := r.lanes.map fun x =>
      { x with got := loadWords sz sx (s.levelRead t lvl x.lane x.va (bytesOf sz)), st := .bound } }) ht
    exact ⟨_, t', loadReturn_shared hd hr hl ht hk hgen hp hfree, hteam, hrest⟩
  · have hgone (k : Copy) : (!(k.core == core && k.word == word)) = true ↔ ¬(k.core = core ∧ k.word = word) := by
      rw [Bool.not_eq_true', ← Bool.not_eq_true, Bool.and_eq_true, beq_iff_eq, beq_iff_eq]
    refine ⟨_, leaseExpiry_next hd hc ho he, fun k hk => ?_, fun k hk hne => ?_, rfl⟩
    · exact (hgone k).1 (List.mem_filter.1 hk).2
    · exact List.mem_filter.2 ⟨hk, (hgone k).2 hne⟩

/-! ## TILE_WRITE -/

theorem arrayBusy_iff (s : State) (r : Req) (t : Team) : s.arrayBusy r t = true ↔ ArrayBusy s r t := by
  rw [State.arrayBusy, List.any_eq_true, ArrayBusy]
  refine exists_congr fun q => and_congr_right fun _ => ?_
  rw [Bool.and_eq_true, Bool.and_eq_true, decide_eq_true_eq, and_assoc]
  refine and_congr_right fun _ => and_congr_right fun _ => ?_
  cases hk : q.kind <;> cases hu : s.team? q.team <;> simp

/-- The magnitude of an element, as a word. -/
def magnitudeWord (cf : Bool) (c : Word) : Word :=
  if cf then BitVec.ofNat 32 (s32 c).natAbs else if (F c).isNan then nan32 else c &&& 0x7FFFFFFF#32

theorem magnitudeWord_toNat (cf : Bool) (c : Word) : (magnitudeWord cf c).toNat = magnitude cf c := by
  cases cf with
  | true =>
    have := BitVec.toInt_lt (x := c)
    have := BitVec.le_toInt (x := c)
    simp only [magnitudeWord, if_true, magnitude, s32, BitVec.toNat_ofNat]
    omega
  | false =>
    simp only [magnitudeWord, Bool.false_eq_true, if_false, magnitude]
    split
    · rfl
    · rw [BitVec.toNat_and]
      exact Nat.and_two_pow_sub_one_eq_mod c.toNat 31

/-- The drain takes the largest magnitude. -/
theorem drainOf_eq (cf : Bool) (ws : List Word) : drainOf cf ws = BitVec.ofNat 32 ((ws.map (magnitude cf)).foldl max 0) := by
  have hfold (ws : List Word) (m : Word) : (ws.foldl (fun m c => if m.toNat < (magnitudeWord cf c).toNat then magnitudeWord cf c else m) m).toNat =
      (ws.map (magnitude cf)).foldl max m.toNat := by
    induction ws generalizing m with
    | nil => rfl
    | cons c ws ih =>
      rw [List.foldl_cons, ih, List.map_cons, List.foldl_cons, ← magnitudeWord_toNat]
      split
      · next h => rw [Nat.max_eq_right h.le]
      · next h => rw [Nat.max_eq_left (not_lt.1 h)]
  have h : (drainOf cf ws).toNat = (ws.map (magnitude cf)).foldl max 0 := hfold ws 0
  rw [← h, BitVec.ofNat_toNat, BitVec.setWidth_eq]

/-- The word of a drain, on its way. -/
def drainLane (w : Drain) (v : Word) : Lane :=
  { valueLane 0 [] with va := w.va, pa := w.pa, pa2 := w.pa + 4, cut := 4, via := w.via, data := [v] }

theorem markSpoil_drain (s : State) (t : Team) (w : Drain) (v : Word) : ∃ x : Lane,
    (s.markSpoil t false 4 [drainLane w v]).1 = [x] ∧ x.pa = w.pa ∧ x.st = .pending ∧ x.data = [v] := ⟨_, rfl, rfl, rfl, rfl⟩

section
variable {s : State} {req : Nat} {r : Req} {t : Team} (hd : s.dev = .operational) (hr : s.req? req = some r) (hl : s.live r = true)
  (ht : s.team? r.team = some t) (hb : ¬ArrayBusy s r t)
include hd hr hl ht hb

theorem tileWrite_lands (hk : r.kind = .tile none none) :
    exec (.tileWrite req) s = .next ((s.modTeam r.team fun u => u.landAll r).dropReq r.id) := by
  rw [← arrayBusy_iff] at hb
  rw [exec_tileWrite, execTileWrite, onReq_next hd hr hl]
  simp only [hk, ht, if_neg hb]

/-- A tile with a drain lands, and goes on to its word. -/
theorem tileWrite_drains {w : Drain} (hk : r.kind = .tile (some w) none) :
    ∃ s1 : State, ∃ x : Lane, s1.req? req = some r ∧
      exec (.tileWrite req) s = .next (s1.putReq { r with kind := .drain, dests := [], lanes := [x] }) ∧ x.pa = w.pa ∧ x.st = .pending ∧
      x.data = [BitVec.ofNat 32 ((r.lanes.flatMap fun y => y.got.map (magnitude (r.lanes.any fun z => z.dst == 1))).foldl max 0)] := by
  rw [← arrayBusy_iff] at hb
  have hmap : (r.lanes.flatMap (·.got)).map (magnitude (r.lanes.any fun z => z.dst == 1)) =
      r.lanes.flatMap fun y => y.got.map (magnitude (r.lanes.any fun z => z.dst == 1)) := List.map_flatMap
  rw [exec_tileWrite, execTileWrite, onReq_next hd hr hl, ← hmap, ← drainOf_eq]
  obtain ⟨x, hx, hpa, hst, hdata⟩ := markSpoil_drain (s.modTeam r.team fun u => u.landAll r) t w
    (drainOf (r.lanes.any fun z => z.dst == 1) (r.lanes.flatMap (·.got)))
  refine ⟨((s.modTeam r.team fun u => u.landAll r).markSpoil t false 4
    [drainLane w (drainOf (r.lanes.any fun z => z.dst == 1) (r.lanes.flatMap (·.got)))]).2, x, hr, ?_, hpa, hst, hdata⟩
  rw [← hx]
  simp only [hk, ht, if_neg hb]
  rfl

end

/-! ## FMT and the operands of a solo tile -/

/-- The fields of a tile, as the model names them. -/
def TileOp.mat (o : TileOp) : MatOp := { d := o.d, a := o.a, b := o.b, z := o.z, x := o.x, sel := o.sel }

theorem many_eq_run (f : Fld) (n : Nat) : many f n = run f n := rfl
theorem nidx_eq (o : TileOp) (k : Nat) : (TileOp.mat o).nidx k = o.nidx k := rfl
theorem quarterRegs_eq (o : TileOp) (c : Combo) : (TileOp.mat o).quarterRegs c = o.quarter c := rfl
theorem logicalK_eq (o : TileOp) (c : Combo) : (TileOp.mat o).logicalK c = if o.sel.isSome then 2 * c.k else c.k := rfl

theorem rd_eq_get (t : Team) (f : Fld) (n l : Nat) : rd t f n l = t.get (fplus f n) l := rfl

theorem fplus_fplus (f : Fld) (a b : Nat) : fplus (fplus f a) b = fplus f (a + b) := by
  apply BitVec.eq_of_toNat_eq
  simp only [fplus, BitVec.toNat_ofNat]
  omega

theorem fmtAf_eq (f : Word) : fmtAf f = f.toNat % 8 := by simp [fmtAf, wfld, bits]
theorem fmtBf_eq (f : Word) : fmtBf f = f.toNat / 8 % 8 := by simp [fmtBf, wfld, bits]
theorem fmtSyn_eq (f : Word) : fmtSyn f = f.toNat / 128 % 4 := by simp [fmtSyn, wfld, bits]
theorem fmtCf_eq (f : Word) : fmtCf f = decide (f.toNat / 64 % 2 = 1) := by
  simp [fmtCf, wbit, BitVec.getLsbD, Nat.testBit_eq_decide_div_mod_eq]
theorem fmtSat_eq (f : Word) : fmtSat f = decide (f.toNat / 512 % 2 = 1) := by
  simp [fmtSat, wbit, BitVec.getLsbD, Nat.testBit_eq_decide_div_mod_eq]

theorem fmtGsr_eq (f : Word) : fmtGsr f = BitVec.ofNat 7 (f.toNat / 1024) := by
  apply BitVec.eq_of_toNat_eq
  simp [fmtGsr, Nat.shiftRight_eq_div_pow]

theorem fmtDoff_eq (f : Word) : fmtDoff f = BitVec.ofNat 7 (f.toNat / 2 ^ 20) := by
  apply BitVec.eq_of_toNat_eq
  simp [fmtDoff, Nat.shiftRight_eq_div_pow]

theorem fmtDx_eq (f : Word) : fmtDx f = (BitVec.ofNat 3 (f.toNat / 2 ^ 17)).toNat := by
  simp [fmtDx, wfld, bits]

/-- The legal combinations are those of the table. -/
theorem fmtCombo_of_combo {f : Word} {c : Combo} (h : combo f = some c) : fmtCombo f = some c ∧ (fmtBf f = 4 → c = ⟨256, 64, 9, 18⟩) := by
  rw [fmtCombo, fmtAf_eq, fmtBf_eq, fmtSyn_eq, fmtCf_eq, fmtSat_eq]
  rw [combo] at h
  generalize f.toNat % 8 = a, f.toNat / 8 % 8 = b, f.toNat / 64 % 2 = cf, f.toNat / 128 % 4 = syn, f.toNat / 512 % 2 = sat at h ⊢
  split at h
  all_goals cases h
  all_goals simp

/-! ## The tile of a solo instruction (R236, R239, R241) -/

section
variable {t : Team} (o : TileOp) (c : Combo)

theorem sparseIx_eq (i j : Nat) : t.sparseIx (TileOp.mat o) c i j = index t o c i j := by
  have hbits (v : Nat) : bits v (2 * (j % 16) + 1) (2 * (j % 16)) = v / 2 ^ (2 * (j % 16)) % 4 := by
    rw [bits, show 2 * (j % 16) + 1 + 1 - 2 * (j % 16) = 2 by omega]; rfl
  rw [Team.sparseIx, index, hbits]
  rfl

theorem aRow_eq (i k : Nat) : t.aRow (TileOp.mat o) c i k = rowA t o c i k := by
  rw [Team.aRow, rowA, fmtAf_eq]
  cases hs : o.sel with
  | none => simp only [TileOp.mat, hs]; rfl
  | some n =>
    simp only [TileOp.mat, hs]
    have : ([2 * (k / 4), 2 * (k / 4) + 1].filter fun j => t.sparseIx (TileOp.mat o) c i j == k % 4) =
        [2 * (k / 4), 2 * (k / 4) + 1].filter fun j => index t o c i j == k % 4 := List.filter_congr fun j _ => by rw [sparseIx_eq]
    simp only [TileOp.mat, hs] at this
    rw [this]
    cases [2 * (k / 4), 2 * (k / 4) + 1].filter fun j => index t o c i j == k % 4 with
    | nil => rfl
    | cons j js => rfl

theorem quarterBase_solo (q r : Nat) : fplus (quarterBase (TileOp.mat o) c 1 q) r = fplus o.b (o.quarter c * q + r) := by
  rw [quarterBase, fplus_fplus, show q / min 1 4 = q by simp]
  rfl

variable (hpos : t.gangCount = 1) (dr : Option Drain)
include hpos

/-- A solo team holds every quarter. -/
theorem holderOf_solo (q : Nat) : holderOf [(t, TileOp.mat o, dr)] 1 q = some (t, TileOp.mat o, dr) := by
  have : t.matPos = 0 := if_pos hpos
  simp [holderOf, this, Nat.mod_one]

theorem bCol_solo (kk j : Nat) : bCol [(t, TileOp.mat o, dr)] c 1 kk j = colB t o c kk j := by
  funext k
  rw [bCol, colB, holderOf_solo o hpos dr]
  dsimp only
  rw [fmtBf_eq]
  refine congrArg (fun f => elem _ f _) (funext fun r => ?_)
  rw [quarterBase_solo o c, rd_eq_get]

theorem blockScale_solo (per j b : Nat) :
    blockScale [(t, TileOp.mat o, dr)] c 1 (256 * per) j b = scale t o c (256 * per) j b := by
  have hblocks : 256 * per / 4 / 64 = per := by omega
  have hper' : 256 * per / 256 = per := by omega
  have hq : 64 * b / (256 * per / 4) = b / per := by
    rw [show 256 * per / 4 = 64 * per by omega]
    exact Nat.mul_div_mul_left b per (by decide)
  rw [blockScale, scale, holderOf_solo o hpos dr]
  dsimp only
  rw [hblocks, hper', hq, fmtGsr_eq, quarterBase_solo o c, qscale, rd_eq_get, quarterRegs_eq]
  simp [byteOf]

end

theorem matElem_noScale {f : Word} (h : fmtBf f ≠ 4) (k : Nat) (a : Nat → Option FVal) (b : Nat → FVal) (s s' : Nat → Word) (c : Word) :
    matElem f k a b s c = matElem f k a b s' c := by
  simp only [matElem, if_neg h]

/-- The rows that a solo instruction computes are the C tile. -/
theorem tileRows_solo {t : Team} (o : TileOp) {c : Combo} (hc : combo t.fmt = some c) (hpos : t.gangCount = 1) (dr : Option Drain) :
    tileRows [(t, TileOp.mat o, dr)] c 1 (t, TileOp.mat o, dr) = tile t o c := by
  rw [tileRows, tile]
  refine List.map_congr_left fun i _ => congrArg (Prod.mk i) (List.map_congr_left fun n _ => ?_)
  dsimp only
  rw [logicalK_eq, funext (aRow_eq o c i), bCol_solo o c hpos dr]
  set kk := if o.sel.isSome = true then 2 * c.k else c.k with hkk
  by_cases hbf : fmtBf t.fmt = 4
  · have hc' := (fmtCombo_of_combo hc).2 hbf
    obtain ⟨per, hkk'⟩ : ∃ per, kk = 256 * per := by
      rw [hkk, hc']
      cases o.sel.isSome
      · exact ⟨1, rfl⟩
      · exact ⟨2, rfl⟩
    rw [hkk', funext (blockScale_solo o c hpos dr per n)]
    rfl
  · rw [matElem_noScale hbf kk _ _ _ (scale t o c kk n)]
    rfl

/-! ## The checks of an access in one lane (R143, R287, R291) -/

/-- Filling a translation changes the translations a core holds, and nothing else. -/
theorem tlbFill_onlyTlb (s : State) (core ctx va : Nat) : { s.tlbFill core ctx va with tlb := s.tlb } = s := by
  rw [State.tlbFill]
  split
  · rfl
  · split <;> rfl

section
variable {s : State} {t : Team} {x : Xl} {acc : Access} {l : Nat} {offs : Nat → Word} {va pa : Nat} {at_ : Attr}

/-- A lane that is aligned and reaches its bytes in one page that lets the access be made passes. -/
theorem globalCheck_lane (hmis : x.va (offs l) % acc.align = 0) (hseg : s.laneSegs t x acc (offs l) = some [(va, .ok pa at_)])
    (hforb : s.segForbidden acc (x.va (offs l)).toNat (va, .ok pa at_) = false) (hint : segIntercepts acc (va, .ok pa at_) = false)
    (datum : Nat → Bool → Word) : ∃ s1 : State, { s1 with tlb := s.tlb } = s ∧
      s.globalCheck t x acc [l] offs (fun _ => false) (fun _ => false) datum =
        (s1, .ok [mkLane l acc (s.viaOf t x (offs l) acc.n) [(va, .ok pa at_)]]) := by
  have hfill : ∃ s1 : State, { s1 with tlb := s.tlb } = s ∧ s1 = [l].foldl (fun u l =>
      match x.fast (offs l) acc.n with
      | some _ => u
      | none => ((s.laneSegs t x acc (offs l)).getD []).foldl (fun v g => v.tlbFill t.core t.ctx g.1) u) s := by
    refine ⟨_, ?_, rfl⟩
    simp only [List.foldl_cons, List.foldl_nil, hseg, Option.getD_some]
    cases x.fast (offs l) acc.n with
    | some _ => rfl
    | none => exact tlbFill_onlyTlb s t.core t.ctx va
  obtain ⟨s1, hs1, hdef⟩ := hfill
  refine ⟨s1, hs1, ?_⟩
  have hinst : s.installPages t (pooledPages ([l].flatMap fun l => (s.laneSegs t x acc (offs l)).getD [])) = s := by
    simp [hseg, pooledPages, State.installPages]
  rw [hdef]
  simp only [State.globalCheck, List.filter_cons, List.filter_nil, hinst, hmis, bne_self_eq_false, Bool.or_self, Bool.false_eq_true, if_false,
    hseg, Option.getD_some, List.any_cons, List.any_nil, hforb, hint, segFaults, List.map_cons, List.map_nil] <;> rfl

end

section
variable {s : State} {t : Team} {x : BitVec 3} {a : Fld} {l pa : Nat} {at_ : Attr} (hr : Reaches s t x a 4 l pa at_) {va : Nat}
  (hva : addr t x a l = va) (hal : va % 4 = 0)

theorem pieces_word (hal : va % 4 = 0) : pieces va 4 = [(va, 4)] := by
  rw [pieces, piecesFrom]
  exact if_pos (by omega)

theorem fast_iff (o : Word) : (0 ≤ s32 o ∧ s32 o + (4 : Nat) ≤ (xreg t x).limit.toNat) ↔ 0 ≤ o.toInt ∧ o.toInt + (4 : Nat) ≤ (xreg t x).limit.toNat := Iff.rfl

include hva hal

/-- What translated a word. -/
theorem viaOf_word : s.viaOf t (xreg t x) (t.get a l) 4 = spanVia s t x a 4 l := by
  have hv : (xreg t x).va (t.get a l) = va := hva
  have hone : 4 ≤ 65536 - va % 65536 := by omega
  rw [State.viaOf, spanVia, Xl.fast, hva, hv, Int.toNat_natCast, pieces_word hal]
  by_cases h : 0 ≤ s32 (t.get a l) ∧ s32 (t.get a l) + (4 : Nat) ≤ (xreg t x).limit.toNat
  · rw [if_pos h]
    exact (if_pos h).symm
  · rw [if_neg h]
    refine Eq.trans ?_ (if_neg h).symm
    simp only [if_pos hone]
    rfl

include hr

/-- A word is reached in one page. -/
theorem laneSegs_word {acc : Access} (hn : acc.n = 4) : s.laneSegs t (xreg t x) acc (t.get a l) = some [(va, .ok pa at_)] := by
  obtain ⟨h0, hmax, hseg⟩ := hr
  have hv : (xreg t x).va (t.get a l) = va := hva
  rw [hva] at h0 hmax
  rw [State.laneSegs, hn, hv, Int.toNat_natCast, if_neg (by omega), Xl.fast]
  dsimp only
  rw [pieces_word hal]
  by_cases h : 0 ≤ s32 (t.get a l) ∧ s32 (t.get a l) + (4 : Nat) ≤ (xreg t x).limit.toNat
  · obtain ⟨hpa, hat⟩ := (if_pos h).mp hseg
    rw [if_pos h]
    have : (xreg t x).frame + (s32 (t.get a l)).toNat = pa := by
      have h1 : (pa : Int) = (xreg t x).frame + s32 (t.get a l) := hpa
      omega
    simp [this, hat]
  · have hc : s.coreSeg t.core t.ctx t.faultm.toNat (addr t x a l).toNat = .ok pa at_ := (if_neg h).mp hseg
    rw [hva, Int.toNat_natCast] at hc
    rw [if_neg h]
    simp [hc]

end

/-! ## The word of a drain (R243) -/

theorem loadAhead_false {s : State} {t : Team} {n pa : Nat} (h : NoLoadAhead s t n pa) : s.loadAhead t.id pa n = false := by
  rw [State.loadAhead, List.any_eq_false]
  intro r hr
  simp only [Bool.and_eq_true, Bool.or_eq_true, beq_iff_eq, List.any_eq_true, not_and, not_or, not_exists]
  intro ⟨ht, hk⟩
  obtain ⟨hspans, hwhole⟩ := h r hr ht hk
  exact ⟨fun x hx p hp => by simp [hspans x hx p hp], fun p hp => by simp [hwhole p hp]⟩

theorem drainCheck_none {s : State} {t : Team} {m : MatOp} (hm : m.x = false) (k : State → Option Drain → State) :
    s.drainCheck t m k = k s none := by
  rw [State.drainCheck, hm]
  rfl

/-- A drain whose word the team may write passes its check. -/
theorem drainCheck_goes {s : State} {t : Team} {m : MatOp} {w : Drain} (hm : m.x = true) (h : DrainTo s t w) :
    ∃ s1 : State, { s1 with tlb := s.tlb } = s ∧ ∀ k, s.drainCheck t m k = k s1 (some w) := by
  obtain ⟨huni, hva, hal, hvia, hcame, hahead, htable, at_, hreach, hw, hrlf, hraw, hremote⟩ := h
  rw [← fmtDoff_eq] at huni hva hreach hvia
  have hseg := laneSegs_word hreach hva hal
    (acc := { n := 4, align := 4, write := true, kind := 2, forbid := fun _ pa _ at_ => !at_.w || at_.rlf || at_.raw || isRemote pa }) rfl
  have hv : (xreg t (BitVec.ofNat 3 (t.fmt.toNat / 2 ^ 17))).va (t.get (fmtDoff t.fmt) t.low) = w.va := hva
  obtain ⟨s1, hs1, hcheck⟩ := globalCheck_lane (l := t.low) (offs := fun _ => t.getLow (fmtDoff t.fmt)) (datum := fun _ _ => t.getLow (fmtDoff t.fmt))
    (by rw [Team.getLow, hv]; show ((w.va : Int) % 4) = 0; omega) hseg
    (by
      simp only [State.segForbidden, Team.getLow, hv, Int.toNat_natCast, hw, hrlf, hraw, hremote, State.unreachable]
      rw [show min (w.va + 4 - w.va) (65536 - w.va % 65536) = 4 by omega, htable]
      rfl)
    (by simp [segIntercepts, hw])
  refine ⟨s1, hs1, fun k => ?_⟩
  have hreqs : s1.reqs = s.reqs := (congrArg State.reqs hs1 :)
  have hnext : s1.nextId = s.nextId := (congrArg State.nextId hs1 :)
  have hahead' : s1.anyLoadAhead t [mkLane t.low
      { n := 4, align := 4, write := true, kind := 2, forbid := fun _ pa _ at_ => !at_.w || at_.rlf || at_.raw || isRemote pa }
      (spanVia s t (BitVec.ofNat 3 (t.fmt.toNat / 2 ^ 17)) (fmtDoff t.fmt) 4 t.low) [(w.va, .ok w.pa at_)]] 4 = false := by
    have hload : s1.loadAhead t.id w.pa 4 = false := by rw [State.loadAhead, hreqs]; exact loadAhead_false hahead
    simp [State.anyLoadAhead, mkLane, hload, State.viewBlocks, hraw, hrlf, State.blockLoadAhead]
  rw [State.drainCheck, hm, fmtDx_eq]
  simp only [Team.getLow] at hcheck ⊢
  rw [viaOf_word hva hal] at hcheck
  simp only [Bool.not_true, Bool.false_eq_true, if_false, show t.uniform (t.get (fmtDoff t.fmt)) = true from huni]
  rw [show t.xl.getD (BitVec.ofNat 3 (t.fmt.toNat / 2 ^ 17)).toNat Xl.reset = xreg t (BitVec.ofNat 3 (t.fmt.toNat / 2 ^ 17)) from rfl, hcheck]
  simp only [hahead', Bool.false_eq_true, if_false]
  rw [hnext, ← hcame, mkLane, ← hvia]

/-! ## A tile is on its way (R74, R239) -/

theorem markEmptyIn_regsOnly (m : Mask) (t : Team) (r : Nat) : RegsOnly t (t.markEmptyIn m r) := rfl

theorem markEmptyIn_length (m : Mask) (t : Team) (r : Nat) : (t.markEmptyIn m r).frame.length = t.frame.length := List.length_set

theorem markEmptyIn_reg_other (m : Mask) (t : Team) {r q : Nat} (h : q ≠ r) : (t.markEmptyIn m r).reg q = t.reg q :=
  (reg_set t r _ q).trans (if_neg fun hc => h hc.1)

theorem markEmptyIn_empty (m : Mask) (t : Team) {r : Nat} (h : r < t.frame.length) : ((t.markEmptyIn m r).reg r).full = false :=
  congrArg Reg.full ((reg_set t r _ r).trans (if_pos ⟨rfl, h⟩))

theorem foldl_markEmptyIn_other (m : Mask) {q : Nat} {rs : List Nat} (h : q ∉ rs) (t : Team) :
    (rs.foldl (fun u r => u.markEmptyIn m r) t).reg q = t.reg q := by
  induction rs generalizing t with
  | nil => rfl
  | cons r rs ih =>
    obtain ⟨hr, hrs⟩ := not_or.1 (mt List.mem_cons.2 h)
    exact (ih hrs _).trans (markEmptyIn_reg_other m t hr)

theorem foldl_markEmptyIn_empty (m : Mask) {q : Nat} {rs : List Nat} (h : q ∈ rs) {t : Team} (hq : q < t.frame.length) :
    ((rs.foldl (fun u r => u.markEmptyIn m r) t).reg q).full = false := by
  induction rs generalizing t with
  | nil => exact nomatch h
  | cons r rs ih =>
    by_cases hin : q ∈ rs
    · exact ih hin (by rwa [markEmptyIn_length])
    · obtain rfl : q = r := (List.mem_cons.1 h).resolve_right hin
      rw [List.foldl_cons, foldl_markEmptyIn_other m hin]
      exact markEmptyIn_empty m t hq

/-- The registers of a run that lies in the frame fields. -/
theorem regsOf_run {t : Team} {d : Fld} {n : Nat} (h : d.toNat + n ≤ 120) : t.regsOf (run d n) = (many d n).map t.fieldReg := by
  rw [Team.regsOf, List.filter_eq_self.2, many_eq_run]
  intro f hf
  obtain ⟨i, hi, rfl⟩ := List.mem_map.1 hf
  have := List.mem_range.1 hi
  simp only [isFrame, fplus, BitVec.toNat_ofNat, decide_eq_true_eq]
  omega

/-- The team once its tile is on its way. -/
def Team.tileIssued (t : Team) (o : TileOp) : Team :=
  { ((t.regsOf (run o.d 32)).foldl (fun u r => u.markEmptyIn t.rowMask r) t).advance (t.pc + 4) with hold := none, finish := .none }

theorem tileIssued_id (t : Team) (o : TileOp) : (t.tileIssued o).id = t.id :=
  (foldl_regsOnly (f := fun u r => Team.markEmptyIn u t.rowMask r) (fun u r => markEmptyIn_regsOnly t.rowMask u r) (t.regsOf (run o.d 32)) t).id

/-- A request changes no team. -/
theorem team?_addReq (s : State) (t : Team) (k : ReqKind) (ds : List Nat) (ls : List Lane) (ys : List Ray) (i : Nat) :
    (s.addReq t k ds ls ys).team? i = s.team? i := rfl

section
variable {s s1 : State} {t : Team} {o : TileOp} {c : Combo} {drain : Option Drain}

/-- A solo tile issues. -/
theorem issueTile_goes (hreqs : s1.reqs = s.reqs) (hi : Issues s1 t) (hd : o.d.toNat ≤ 88) (hc : combo t.fmt = some c) (hpos : t.gangCount = 1)
    (hframe : ∀ f ∈ many o.d 32, t.fieldReg f < t.frame.length) :
    ∃ t' r, (s1.issueTile [(t, TileOp.mat o, drain)] c 1 none (t, TileOp.mat o, drain)).reqs = s.reqs ++ [r] ∧
      Issues (s1.issueTile [(t, TileOp.mat o, drain)] c 1 none (t, TileOp.mat o, drain)) t' ∧
      r.kind = .tile drain none ∧ r.dests = (many o.d 32).map t.fieldReg ∧ r.lanes.map (fun x => (x.lane, x.got)) = tile t o c ∧
      (∀ q ∈ r.dests, (t'.reg q).full = false) ∧ (∀ q, q ∉ r.dests → t'.reg q = t.reg q) ∧ t'.pc = t.pc + 4 := by
  have hdests : t.regsOf (run o.d 32) = (many o.d 32).map t.fieldReg := regsOf_run (by omega)
  refine ⟨t.tileIssued o, _, congrArg (· ++ _) hreqs, ?_, rfl, hdests, ?_, ?_, fun q hq => ?_, rfl⟩
  · refine issues_of_team? (t := t.tileIssued o) ((focus_of_issues hi).trans (by rw [tileIssued_id])) ?_
    rw [tileIssued_id]
    exact team?_putTeam ((team?_addReq s1 _ _ _ _ _ t.id).trans (team?_of_issues hi)) (tileIssued_id t o)
  · rw [List.map_map, ← tileRows_solo o hc hpos drain]
    exact List.map_id _
  · intro q hq
    have hq' : q ∈ t.regsOf (run o.d 32) := hq
    refine foldl_markEmptyIn_empty t.rowMask hq' ?_
    rw [hdests] at hq'
    obtain ⟨f, hf, rfl⟩ := List.mem_map.1 hq'
    exact hframe f hf
  · exact foldl_markEmptyIn_other t.rowMask hq t

end

/-! ## MMA and MMS of a solo team (R238, R242) -/

theorem gangCount_solo {t : Team} (h : t.gangLo.toNat % 8 = 1) : t.gangCount = 1 := by
  simp only [Team.gangCount, Team.gang, bits]
  omega

/-- A solo team holds the four quarters of B. -/
theorem bRun_solo {t : Team} (h : t.gangCount = 1) (o : TileOp) (c : Combo) : t.bRun (TileOp.mat o) c = 4 * o.quarter c := by
  have hpos : t.matPos = 0 := if_pos h
  rw [Team.bRun, h, hpos, quarterRegs_eq]
  rfl

theorem combo_quarters {f : Word} {c : Combo} (h : combo f = some c) : c.nq ≠ 0 := by
  rw [combo] at h
  split at h
  all_goals cases h
  all_goals decide

section
variable {s : State} {t : Team} {c : Combo} {o : TileOp} {i : Instr} (hi : Issues s t) (hgang : t.gangLo.toNat % 8 = 1)
  (hc : combo t.fmt = some c) (hfits : TileFits t o c)
include hc hfits

theorem quarter_ne_zero : o.quarter c ≠ 0 := by
  obtain ⟨-, -, hsel, -⟩ := hfits
  rw [TileOp.quarter]
  split
  · next h => exact hsel h
  · exact combo_quarters hc

include hi hgang

/-- What a solo instruction reads passes its checks, and the drain word decides. -/
theorem matrix_solo (hm : matOf i = TileOp.mat o)
    (hread : Readable t (tileSources t o c ++ many o.d 32 ++ if o.x then [BitVec.ofNat 7 (t.fmt.toNat / 2 ^ 20)] else [])) :
    s.matrix i = .next (s.drainCheck t (TileOp.mat o) fun s1 drain =>
      s1.issueTile [(t, TileOp.mat o, drain)] c 1 none (t, TileOp.mat o, drain)) := by
  have hq := quarter_ne_zero hc hfits
  obtain ⟨hgsr, hlanes, hsel, hna, hnb⟩ := hfits
  have hpos := gangCount_solo hgang
  have hnb' : t.bRun (matOf i) c = 4 * o.quarter c := by rw [hm, bRun_solo hpos]
  set gsr : List Fld := if fmtBf t.fmt = 4 then [fmtGsr t.fmt] else [] with hgsrdef
  have hgsreq : (if bf t = 4 then [BitVec.ofNat 7 (t.fmt.toNat / 1024)] else []) = gsr := by rw [hgsrdef, fmtBf_eq, fmtGsr_eq]; rfl
  have hgsrany : (gsr.any fun f => decide (120 ≤ f.toNat)) = false := by
    rw [hgsrdef, fmtBf_eq, fmtGsr_eq]
    split
    · next h =>
      have := hgsr h
      simp only [List.any_cons, List.any_nil, Bool.or_false, BitVec.toNat_ofNat, decide_eq_false_iff_not]
      omega
    · rfl
  have hin : ∀ f ∈ run o.d 32 ++ run o.a (c.na + o.nidx c.k) ++ run o.b (4 * o.quarter c) ++ gsr, isFrame f = true → t.fieldReg f < t.p := by
    intro f hf hfr
    refine (hread f ?_ hfr).1
    simp only [tileSources, hgsreq, many_eq_run, List.mem_append] at hf ⊢
    tauto
  have hfind : (t.regsOf (run o.d 32 ++ run o.a (c.na + o.nidx c.k) ++ run o.b (4 * o.quarter c) ++ gsr)).find? (fun r => decide (t.p ≤ r)) = none := by
    refine List.find?_eq_none.2 fun r hr => ?_
    obtain ⟨f, hf, rfl⟩ := List.mem_map.1 hr
    obtain ⟨hf, hfr⟩ := List.mem_filter.1 hf
    have := hin f hf hfr
    simp only [decide_eq_true_eq]
    omega
  have hread' : Readable t ([] ++ [] ++ (run o.a (c.na + o.nidx c.k) ++ run o.b (4 * o.quarter c) ++ (if 4 * o.quarter c = 0 then [] else gsr) ++
      if o.x then [fmtDoff t.fmt] else []) ++ run o.d 32) := by
    intro f hf hfr
    refine hread f ?_ hfr
    rw [if_neg (by omega), fmtDoff_eq] at hf
    simp only [tileSources, hgsreq, many_eq_run, List.mem_append, List.not_mem_nil, false_or] at hf ⊢
    tauto
  rw [State.matrix, withTeam_next _ hi, (fmtCombo_of_combo hc).1]
  dsimp only
  rw [hnb', hm, nidx_eq]
  simp only [hpos, if_true]
  refine congrArg _ ((if_neg ?_).trans ?_)
  · rw [hgsrany]
    rintro (h | ⟨h, h'⟩ | h | ⟨-, h⟩ | h)
    · omega
    · exact hsel h h'
    · exact absurd h (by show ¬120 < o.a.toNat + (c.na + o.nidx c.k); omega)
    · exact absurd h (by show ¬120 < o.b.toNat + 4 * o.quarter c; omega)
    · exact nomatch h
  · rw [show (TileOp.mat o).d = o.d from rfl, show (TileOp.mat o).a = o.a from rfl, show (TileOp.mat o).b = o.b from rfl,
      show (TileOp.mat o).x = o.x from rfl, ← hgsrdef, hfind]
    exact checked_ok hread'

end

/-- A solo tile whose check of the drain word passes is on its way. -/
theorem tile_goes {s : State} {t : Team} {c : Combo} {o : TileOp} {i : Instr} {drain : Option Drain} (hready : TileReady s t c o)
    (hexec : exec i s = s.matrix i) (hm : matOf i = TileOp.mat o)
    (hread : Readable t (tileSources t o c ++ many o.d 32 ++ if o.x then [BitVec.ofNat 7 (t.fmt.toNat / 2 ^ 20)] else []))
    (hdrain : ∃ s1 : State, { s1 with tlb := s.tlb } = s ∧ ∀ k, s.drainCheck t (TileOp.mat o) k = k s1 drain) : TileGoes s t c i o drain := by
  obtain ⟨hi, hd, hgang, -, hlen, hc, hfits⟩ := hready
  obtain ⟨s1, hs1, hk⟩ := hdrain
  have hi1 : Issues s1 t := (congrArg State.focusTeam hs1).trans hi
  have hframe : ∀ f ∈ many o.d 32, t.fieldReg f < t.frame.length := fun f hf => by
    rw [hlen]
    refine (hread f (by simp [hf]) ?_).1
    obtain ⟨n, hn, rfl⟩ := List.mem_map.1 hf
    have := List.mem_range.1 hn
    simp only [isFrame, BitVec.toNat_ofNat, decide_eq_true_eq]
    omega
  have hreqs : s1.reqs = s.reqs := (congrArg State.reqs hs1 :)
  obtain ⟨t', r, h⟩ := issueTile_goes (drain := drain) hreqs hi1 hd hc (gangCount_solo hgang) hframe
  refine ⟨_, t', r, ?_, h⟩
  rw [hexec, matrix_solo hi hgang hc hfits hm hread, hk]

theorem tilesComplete_holds : TilesComplete := by
  refine ⟨fun s t c d a b z h hr => ?_, fun s t c d a b z w h hw hr => ?_, fun s t c d a b sl h hr => ?_, fun s t c d a b sl w h hw hr => ?_,
    fun s req r t hd hr hl ht hb => ⟨tileWrite_lands hd hr hl ht hb, fun w hk => ?_⟩⟩
  · exact tile_goes h rfl rfl (by simpa using hr) ⟨s, rfl, drainCheck_none rfl⟩
  · exact tile_goes h rfl rfl hr (drainCheck_goes rfl hw)
  · exact tile_goes h rfl rfl (by simpa using hr) ⟨s, rfl, drainCheck_none rfl⟩
  · exact tile_goes h rfl rfl hr (drainCheck_goes rfl hw)
  · obtain ⟨s1, x, hs1, he, hpa, hst, hdata⟩ := tileWrite_drains hd hr hl ht hb hk
    exact ⟨_, _, he, req?_putReq hs1 rfl, rfl, rfl, x, rfl, hpa, hst, hdata⟩

/-- Settles O57: a miss, a return and an expiry with nothing in their way, then a solo tile whose checks all pass, and its write. -/
theorem eventsTilesComplete : Obligations.EventsTilesComplete := ⟨loadEventsComplete_holds, tilesComplete_holds⟩

end Sys2Proof.Machine

/-!
PROOF. Saving a context (O45): a state of the model in which the statement fails.
-/

namespace Sys2Proof.Machine

open Sys2Proof.Safety
open Sys2Proof.Claims

/-! ## Two queues of one number -/

/-- A MAQUETTE entry that has started and asked for a capture. -/
def maquetteEntry : QEntry :=
  { n := 7, words := [0x01000500#32], started := true, status := none, work := some 1, desc := none, read := 0 }

/-- A context that a capture switches out, with two queues of number 0: the entry is in the second. -/
def twinCtx : Ctx :=
  { Ctx.create 0 with st := .switchingOut, capture := true, queues := [Queue.reset 0, { Queue.reset 0 with entries := [maquetteEntry] }] }

/-- A device with that context alone, and no port that is Up. -/
def twinState : State := { State.reset with dev := .operational, ctxs := [twinCtx] }

theorem maquetteEntry_ok : EntryOk maquetteEntry ∧ entryType maquetteEntry = 5 := by
  refine ⟨⟨by decide, ⟨by decide, by decide, fun j hj hlt => ?_⟩, by decide⟩, by decide⟩
  have hone : maquetteEntry.words.length = 1 := rfl
  omega

theorem twin_queue_entries : ∀ x ∈ twinCtx.queues, ∀ e ∈ x.entries, x.q = 0 ∧ e = maquetteEntry := by
  simp [twinCtx, Queue.reset]

/-- The entry is the one that has asked for the capture. -/
theorem twin_asked : Asked twinCtx 0 7 := by
  refine ⟨⟨_, List.mem_cons_of_mem _ (List.mem_singleton_self _), rfl, maquetteEntry, List.mem_singleton_self _, rfl, maquetteEntry_ok.1,
    maquetteEntry_ok.2, nofun, rfl⟩, ?_⟩
  rintro q n ⟨x, hx, rfl, e, he, rfl, -⟩
  obtain ⟨hq, rfl⟩ := twin_queue_entries x hx e he
  exact ⟨hq, rfl⟩

/-- Nothing holds the save back. -/
theorem twin_saveReady : SaveReady twinState twinCtx := by
  have hteams : twinState.teams = [] := rfl
  have hreqs : twinState.reqs = [] := rfl
  have hdeadlines : twinState.deadlines = [] := rfl
  refine ⟨fun t ht => ?_, fun r hr => ?_, fun d hd => ?_, nofun, fun x hx e he _ _ => .inr ⟨?_, rfl⟩⟩
  · exact absurd ht (by rw [hteams]; exact List.not_mem_nil)
  · exact absurd hr (by rw [hreqs]; exact List.not_mem_nil)
  · exact absurd hd (by rw [hdeadlines]; exact List.not_mem_nil)
  · obtain ⟨-, rfl⟩ := twin_queue_entries x hx e he
    exact maquetteEntry_ok.2

/-- The queue that number 0 finds has no entry 7. -/
def entryMissing (s : State) : Bool := (((s.ctx? 0).bind fun c => c.queue? 0).bind fun x => x.entry? 7).isNone

/-- The state that an outcome answers has the property. -/
def answers (p : State → Bool) : Host.Outcome State Fault Refusal → Bool
  | .next s => p s
  | _ => false

/-- The save completes, and the entry is not found by its number. -/
theorem twin_saved : answers entryMissing (exec (.contextSaveComplete 0) twinState) = true := by decide +kernel

theorem twin_noPort : ¬SavePort twinState := by
  intro ⟨p, hp, hst, _⟩
  rw [reset_registers.2.1 p hp] at hst
  exact nomatch hst

/-- Refutes O45: nothing says that the queues of a context have different numbers. In a context with two queues of number 0, whose MAQUETTE entry is in
the second, the refused capture leaves queue 0 as the number finds it without the entry, so no status 1 is found there. -/
theorem not_contextState : ¬Obligations.ContextState := by
  intro ⟨⟨hsave, _⟩, _⟩
  have hnodup : ∀ x ∈ twinCtx.queues, (x.entries.map (·.n)).Nodup := by simp [twinCtx, Queue.reset]
  obtain ⟨-, hcomplete⟩ := hsave twinState 0 twinCtx rfl rfl
  obtain ⟨s', c', hexec, hctx, -, -, -, -, -, -, -, -, -, -, -, -, hrefused⟩ := hcomplete rfl twin_saveReady rfl rfl nofun hnodup ⟨rfl, rfl⟩
  obtain ⟨y, f, hy, hf, -⟩ := (hrefused rfl twin_noPort).2.2 0 7 twin_asked
  have h := twin_saved
  rw [hexec] at h
  simp [answers, entryMissing, hctx, hy, hf] at h

end Sys2Proof.Machine

/-!
PROOF. Placing teams (O39): a state of the model in which the statement fails.
-/

namespace Sys2Proof.Machine

open Sys2Proof.Claims

/-! ## Two teams of one number on a core -/

/-- A team of one granule on core 0, in the slot and at the start given. -/
def oneGranule (id slot base : Nat) (st : TeamSt) : Team :=
  { Team.blank with id := id, p := 128, slot := slot, base := base, st := st }

/-- A Parked team and a Ready team share number 0; the Ready teams lie at granules 0 and 128. -/
def twinTeams : List Team :=
  [oneGranule 0 0 1 (.parked .overflow), oneGranule 1 1 0 .ready, oneGranule 0 2 128 .ready]

/-- A device with one slice, a Running context and those teams. -/
def crowdedState : State :=
  { State.reset with dev := .operational, part := State.reset.part.set 0 0x80000001#32, ctxs := [{ Ctx.create 0 with st := .running }],
                     teams := twinTeams }

/-- A descriptor of one team whose frame takes 128 granules. -/
def halfStore : Desc :=
  { fmode := 0, strm := false, wide := false, coop := false, code := 0, entry := 0, amend := 0, teams := 1, p := 512, g := 32, lanes := 1024,
    scr := 0, clm := 0, priv := 0, cset := 0, reord := 0, nest := 0, bgrid := 0, bclu := 0, bteam := 0, bind := 0, args := [] }

def halfKernel : Kernel := { id := 0, st := .placing, desc := halfStore, entry := none, next := 0, last := none }

/-- Whichever Parked frame moves, a Ready team lies in each aligned run of 128 granules of core 0. -/
theorem crowded_noRoom : NoRoom crowdedState 0 halfStore := by
  refine .inr (.inr fun x => ?_)
  intro ⟨_, _, hfit, hmiss⟩
  have hsize : frameSize halfStore.lanes halfStore.p = 128 := rfl
  have hlow := hmiss (0, 1) (by decide +kernel)
  have hhigh := hmiss (128, 1) (by decide +kernel)
  simp only [hsize] at hfit hlow hhigh
  omega

/-- Core 1 is empty. -/
theorem crowded_hasRoom : HasRoom crowdedState 1 halfStore := by
  have hnone : onCore crowdedState 1 = [] := by decide +kernel
  refine ⟨?_, ⟨0, by decide, Nat.zero_mod _, by decide, ?_⟩, 0, by decide, ?_⟩
  · rw [used, hnone]
    decide
  · simp [hnone, frameRuns, partRuns]
  · simp [hnone]

/-- The model places the team on core 0: by their number it takes the Ready team at granule 128 for the Parked one. -/
theorem crowded_placed : (crowdedState.tryUnit 0 halfKernel).all (fun s => s.teams.all fun u => u.core == 0) = true := by decide +kernel

/-- Refutes O39: nothing says that teams have different numbers. Where a Parked and a Ready team of core 0 share one, the search for frames to move
passes over the Ready team's frame, and the new team goes to core 0, which has no room for it, and not to core 1, which has. -/
theorem not_placing : ¬Obligations.Placing := by
  intro ⟨_, hfit, _⟩
  have horder : coreOrder crowdedState 0 none = [0] ++ 1 :: (List.range 30).map (· + 2) := by decide +kernel
  have hsmall : ∀ x ∈ coreOrder crowdedState 0 none, x < 384 := by decide +kernel
  have honly : OnlyTeams crowdedState := by
    refine ⟨?_, ?_, rfl⟩ <;> decide +kernel
  obtain ⟨-, hfirst⟩ := hfit crowdedState 0 _ halfKernel rfl (by decide) honly (by decide) hsmall
  obtain ⟨s', u, hplaced, hu, -, -, hcore, -⟩ := hfirst _ 1 _ horder (fun x hx => by
    obtain rfl := List.mem_singleton.1 hx
    exact crowded_noRoom) crowded_hasRoom
  have hall := crowded_placed
  rw [hplaced] at hall
  have hzero : u.core = 0 := by simpa using List.all_eq_true.1 hall u hu
  omega

end Sys2Proof.Machine

/-!
PROOF. The matrix arrays (O31): a pattern at which the statement fails.
-/

namespace Sys2Proof.Machine

open Sys2Proof.Claims

/-! ## The slices of the least number -/

/-- The pattern of the least positive FP32 number, 2^-149. -/
def leastWord : Word := 1#32

theorem leastWord_value : V leastWord = .num false ((2 : ℚ) ^ (-149 : ℤ)) := by
  simp [V, val32, valOf, leastWord]

/-- BF16 has no number between 0 and 2^-133, so each slice of the least number is zero. -/
theorem leastWord_slices : rat (sliceHi (F leastWord)) = 0 ∧ rat (sliceMid (F leastWord)) = 0 ∧ rat (sliceLo (F leastWord)) = 0 := by
  have hhi : sliceHi (F leastWord) = .fin false 0 (-133) := by decide
  have hmid : sliceMid (F leastWord) = .fin false 0 (-133) := by decide
  have hlo : sliceLo (F leastWord) = .fin false 0 (-133) := by decide
  simp [hhi, hmid, hlo, rat]

/-- Refutes O31: the slices of R116 do not sum to every finite operand. The exponents of BF16 end where those of FP32 end, so an operand below
half of the least BF16 number, 2^-133, has three slices of zero: 2^-149 is one. -/
theorem not_matrixTiles : ¬Obligations.MatrixTiles := by
  intro ⟨⟨_, hslices, _⟩, _⟩
  obtain ⟨hhi, hmid, hlo⟩ := leastWord_slices
  have h := hslices leastWord
  rw [leastWord_value] at h
  obtain ⟨-, -, -, -, hsum⟩ := h
  rw [hhi, hmid, hlo] at hsum
  norm_num at hsum

end Sys2Proof.Machine

/-!
PROOF. The number formats (R6, R101 to R107): rounding to nearest with ties to even, as a relation between a number, a mantissa and an exponent.
-/

namespace Sys2Proof.Machine

open Sys2Proof.Claims

/-! ## Rounding to an integer -/

theorem two_zpow_pos (q : ℤ) : (0 : ℝ) < 2 ^ q := zpow_pos two_pos q

/-- A power of two times 2^q. -/
theorem two_pow_mul_zpow (n : ℕ) (q : ℤ) : (2 : ℝ) ^ n * 2 ^ q = 2 ^ (n + q) := by
  rw [zpow_add₀ two_ne_zero, zpow_natCast]

/-- n0 + (r + t) / 2^s rounds up when its fraction is above one half, or is one half and n0 is odd: the result is a nearest integer, an
even one where two are as near. -/
theorem round_half_even {K : Type} [Field K] [LinearOrder K] [IsStrictOrderedRing K] {n0 r s : ℕ} {t : K} {sticky : Bool}
    (hs : 1 ≤ s) (hr : r < 2 ^ s) (ht0 : 0 ≤ t) (ht1 : t < 1) (hst : sticky = true ↔ 0 < t) :
    let n := if 2 ^ (s - 1) < r || (r == 2 ^ (s - 1) && (sticky || n0 % 2 == 1)) then n0 + 1 else n0
    |(n0 + (r + t) / 2 ^ s : K) - n| ≤ 1 / 2 ∧ (|(n0 + (r + t) / 2 ^ s : K) - n| = 1 / 2 → n % 2 = 0) := by
  obtain ⟨k, rfl⟩ := Nat.exists_eq_add_of_le' hs
  have hpos : (0 : K) < 2 ^ k := by positivity
  have hpow : (2 : K) ^ (k + 1) = 2 ^ k * 2 := pow_succ ..
  simp only [Nat.add_sub_cancel]
  split
  case isTrue hup =>
    simp only [Bool.or_eq_true, decide_eq_true_eq, Bool.and_eq_true, beq_iff_eq] at hup
    have hr' : (r : K) + 1 ≤ 2 ^ (k + 1) := by exact_mod_cast hr
    have hlow : (2 : K) ^ k ≤ r := by
      rcases hup with h | ⟨h, -⟩
      · exact_mod_cast h.le
      · exact_mod_cast h.ge
    have hform : (n0 + (r + t) / 2 ^ (k + 1) : K) - (n0 + 1 : ℕ) = -((2 ^ (k + 1) - (r + t)) / 2 ^ (k + 1)) := by
      push_cast
      field_simp
      ring
    have hnonneg : 0 ≤ (2 ^ (k + 1) - (r + t)) / 2 ^ (k + 1) := div_nonneg (by linarith) (by positivity)
    rw [hform, abs_neg, abs_of_nonneg hnonneg, div_le_iff₀ (by positivity), div_eq_iff (by positivity), hpow]
    refine ⟨by linarith, fun htie => ?_⟩
    have hr2 : (r : K) ≤ 2 ^ k := by linarith
    have hr3 : r = 2 ^ k := le_antisymm (by exact_mod_cast hr2) (by exact_mod_cast hlow)
    have ht : ¬0 < t := by linarith
    rcases hup with h | ⟨-, h | h⟩
    · omega
    · exact absurd (hst.1 h) ht
    · omega
  case isFalse hdown =>
    simp only [Bool.or_eq_true, decide_eq_true_eq, Bool.and_eq_true, beq_iff_eq, not_or, not_and] at hdown
    obtain ⟨hle, heq⟩ := hdown
    have hform : (n0 + (r + t) / 2 ^ (k + 1) : K) - n0 = (r + t) / 2 ^ (k + 1) := by ring
    have hsum : (r : K) + t ≤ 2 ^ k := by
      rcases Nat.lt_or_ge r (2 ^ k) with h | h
      · have : (r : K) + 1 ≤ 2 ^ k := by exact_mod_cast h
        linarith
      · have hr2 : r = 2 ^ k := by omega
        have ht : ¬0 < t := fun h => (heq hr2).1 (hst.2 h)
        have hr3 : (r : K) = 2 ^ k := by exact_mod_cast hr2
        linarith
    rw [hform, abs_of_nonneg (by positivity), div_le_iff₀ (by positivity), div_eq_iff (by positivity), hpow]
    refine ⟨by linarith, fun htie => ?_⟩
    have hr2 : (2 : K) ^ k < r + 1 := by linarith
    have hr3 : r = 2 ^ k := by
      have : 2 ^ k < r + 1 := by exact_mod_cast hr2
      omega
    have := (heq hr3).2
    omega

/-! ## What a rounding gives -/

/-- n × 2^q is v ≥ 0 rounded to mb + 1 bits, and to a multiple of 2^qmin: the quantum 2^q fits the size of v, and n is a nearest integer to
v / 2^q, an even one where two are as near (R103). -/
structure RoundsTo (mb : ℕ) (qmin : ℤ) (v : ℝ) (n : ℕ) (q : ℤ) : Prop where
  least : qmin ≤ q
  nonneg : 0 ≤ v
  lower : q = qmin ∨ 2 ^ mb * 2 ^ q ≤ v
  upper : v < 2 ^ (mb + 1) * 2 ^ q
  near : |v - n * 2 ^ q| ≤ 2 ^ q / 2
  tie : |v - n * 2 ^ q| = 2 ^ q / 2 → n % 2 = 0

/-- r is an integer of at most mb + 1 bits times a power of two not below 2^qmin. -/
def OnGrid (mb : ℕ) (qmin : ℤ) (r : ℝ) : Prop := ∃ (k : ℤ) (e : ℤ), qmin ≤ e ∧ |k| < 2 ^ (mb + 1) ∧ r = k * 2 ^ e

theorem OnGrid.neg {mb : ℕ} {qmin : ℤ} {r : ℝ} (h : OnGrid mb qmin r) : OnGrid mb qmin (-r) := by
  obtain ⟨k, e, he, hk, rfl⟩ := h
  exact ⟨-k, e, he, by rwa [abs_neg], by push_cast; ring⟩

section Rounds
variable {mb n : ℕ} {qmin q : ℤ} {v : ℝ}

/-- A number of the grid is a multiple of the quantum, or lies below a v that needs that quantum. -/
theorem RoundsTo.grid_cases (h : RoundsTo mb qmin v n q) {r : ℝ} (hr : OnGrid mb qmin r) :
    (∃ k : ℤ, r = k * 2 ^ q) ∨ (2 ^ mb * 2 ^ q ≤ v ∧ |r| < 2 ^ mb * 2 ^ q) := by
  obtain ⟨k, e, he, hk, rfl⟩ := hr
  rcases le_or_gt q e with hqe | hqe
  · refine .inl ⟨k * 2 ^ (e - q).toNat, ?_⟩
    push_cast
    rw [mul_assoc, two_pow_mul_zpow, Int.toNat_of_nonneg (by omega), sub_add_cancel]
  · refine .inr ⟨h.lower.resolve_left (by omega), ?_⟩
    have hk' : |(k : ℝ)| < 2 ^ (mb + 1) := by exact_mod_cast hk
    rw [abs_mul, abs_of_pos (two_zpow_pos e)]
    calc |(k : ℝ)| * 2 ^ e < 2 ^ (mb + 1) * 2 ^ e := mul_lt_mul_of_pos_right hk' (two_zpow_pos e)
      _ = 2 ^ mb * 2 ^ (e + 1) := by rw [pow_succ, zpow_add_one₀ two_ne_zero]; ring
      _ ≤ 2 ^ mb * 2 ^ q := mul_le_mul_of_nonneg_left (zpow_le_zpow_right₀ one_le_two (by omega)) (by positivity)

/-- No multiple of the quantum is nearer. -/
theorem RoundsTo.near_multiple (h : RoundsTo mb qmin v n q) (k : ℤ) :
    |v - n * 2 ^ q| ≤ |v - k * 2 ^ q| ∧ ((k : ℝ) * 2 ^ q ≠ n * 2 ^ q → |v - n * 2 ^ q| = |v - k * 2 ^ q| → n % 2 = 0) := by
  have hpos := two_zpow_pos q
  rcases eq_or_ne k n with rfl | hne
  · simp
  have hdist : 2 ^ q ≤ |(k : ℝ) * 2 ^ q - n * 2 ^ q| := by
    rw [← sub_mul, abs_mul, abs_of_pos hpos]
    have hint : 1 ≤ |k - n| := Int.one_le_abs (sub_ne_zero.2 hne)
    have hone : (1 : ℝ) ≤ |(k : ℝ) - n| := by exact_mod_cast hint
    nlinarith
  have htri : |(k : ℝ) * 2 ^ q - n * 2 ^ q| ≤ |v - n * 2 ^ q| + |v - k * 2 ^ q| := by
    rw [abs_sub_comm v (k * 2 ^ q), add_comm]
    exact abs_sub_le _ v _
  have hnear := h.near
  exact ⟨by linarith, fun _ heq => h.tie (by linarith)⟩

/-- No number of the grid is nearer, and of two that are as near the even one is taken. -/
theorem RoundsTo.nearest (h : RoundsTo mb qmin v n q) {r : ℝ} (hr : OnGrid mb qmin r) :
    |v - n * 2 ^ q| ≤ |v - r| ∧ (r ≠ n * 2 ^ q → |v - n * 2 ^ q| = |v - r| → n % 2 = 0) := by
  rcases h.grid_cases hr with ⟨k, rfl⟩ | ⟨hv, hr⟩
  · exact h.near_multiple k
  · have hlow := (h.near_multiple (2 ^ mb)).1
    push_cast at hlow
    have hlt : v - 2 ^ mb * 2 ^ q < v - r := by linarith [le_abs_self r]
    rw [abs_of_nonneg (sub_nonneg.2 hv)] at hlow
    have habs := le_abs_self (v - r)
    exact ⟨by linarith, fun _ heq => absurd heq (by linarith)⟩

/-- A number of the grid rounds to itself. -/
theorem RoundsTo.exact (h : RoundsTo mb qmin v n q) (hv : OnGrid mb qmin v) : (n : ℝ) * 2 ^ q = v := by
  have hle := (h.nearest hv).1
  rw [sub_self, abs_zero, abs_nonpos_iff, sub_eq_zero] at hle
  exact hle.symm

theorem RoundsTo.le_of_lt (h : RoundsTo mb qmin v n q) {k : ℕ} (hv : v < (k + 1 / 2) * 2 ^ q) : n ≤ k := by
  have hpos := two_zpow_pos q
  have hnear := (abs_le.1 h.near).1
  have hlt : (n : ℝ) * 2 ^ q < ((k + 1 : ℕ) : ℝ) * 2 ^ q := by push_cast; linarith
  have hnk : (n : ℝ) < (k + 1 : ℕ) := lt_of_mul_lt_mul_right hlt hpos.le
  have : n < k + 1 := by exact_mod_cast hnk
  omega

theorem RoundsTo.ge_of_le (h : RoundsTo mb qmin v n q) {k : ℕ} (hv : k * 2 ^ q ≤ v) : k ≤ n := by
  have hpos := two_zpow_pos q
  have hnear := (abs_le.1 h.near).2
  have hlt : (k : ℝ) * 2 ^ q < ((n + 1 : ℕ) : ℝ) * 2 ^ q := by push_cast; linarith
  have hkn : (k : ℝ) < (n + 1 : ℕ) := lt_of_mul_lt_mul_right hlt hpos.le
  have : k < n + 1 := by exact_mod_cast hkn
  omega

/-- From the middle above an odd number on, a number rounds to a higher one. -/
theorem RoundsTo.gt_of_le (h : RoundsTo mb qmin v n q) {k : ℕ} (hk : k % 2 = 1) (hv : (k + 1 / 2) * 2 ^ q ≤ v) : k < n := by
  have hpos := two_zpow_pos q
  refine lt_of_le_of_ne (h.ge_of_le (by linarith)) ?_
  rintro rfl
  have hnear := h.near
  have hself := le_abs_self (v - k * 2 ^ q)
  have := h.tie (by linarith)
  omega

theorem RoundsTo.le_two_pow (h : RoundsTo mb qmin v n q) : n ≤ 2 ^ (mb + 1) := by
  have hpos := two_zpow_pos q
  refine h.le_of_lt ?_
  push_cast
  linarith [h.upper]

/-- A result below 2^mb has the least quantum. -/
theorem RoundsTo.quantum_of_lt (h : RoundsTo mb qmin v n q) (hn : n < 2 ^ mb) : q = qmin := by
  by_contra hq
  have := h.ge_of_le (k := 2 ^ mb) (by push_cast; exact h.lower.resolve_left hq)
  omega

/-- The quantum of a number that is not smaller. -/
theorem quantum_mono {n' : ℕ} {q' : ℤ} {v' : ℝ} (h : RoundsTo mb qmin v n q) (h' : RoundsTo mb qmin v' n' q') (hv : v ≤ v') : q ≤ q' := by
  by_contra hlt
  have hlow := h.lower.resolve_left (by have := h'.least; omega)
  have hup := h'.upper
  have hstep : (2 : ℝ) ^ (mb + 1) * 2 ^ q' ≤ 2 ^ mb * 2 ^ q := by
    rw [two_pow_mul_zpow, two_pow_mul_zpow]
    exact zpow_le_zpow_right₀ one_le_two (by push_cast; omega)
  linarith

/-- A number rounds in one way. -/
theorem RoundsTo.unique {n' : ℕ} {q' : ℤ} (h : RoundsTo mb qmin v n q) (h' : RoundsTo mb qmin v n' q') : n = n' ∧ q = q' := by
  obtain rfl : q = q' := le_antisymm (quantum_mono h h' le_rfl) (quantum_mono h' h le_rfl)
  refine ⟨?_, rfl⟩
  by_contra hne
  have hpos := two_zpow_pos q
  have h1 := h.near_multiple n'
  have h2 := h'.near_multiple n
  simp only [Int.cast_natCast] at h1 h2
  have heq : |v - n * 2 ^ q| = |v - n' * 2 ^ q| := le_antisymm h1.1 h2.1
  have hval : (n' : ℝ) * 2 ^ q ≠ n * 2 ^ q := fun hc => hne (by exact_mod_cast (mul_right_cancel₀ hpos.ne' hc).symm)
  have heven := h1.2 hval heq
  have heven' := h2.2 hval.symm heq.symm
  have hle : n ≤ n' + 1 := h.le_of_lt (by
    have := (abs_le.1 h'.near).2
    push_cast; linarith)
  have hle' : n' ≤ n + 1 := h'.le_of_lt (by
    have := (abs_le.1 h.near).2
    push_cast; linarith)
  omega

end Rounds

end Sys2Proof.Machine

/-!
PROOF. The number formats: the patterns of a format, their order, and that the model's rounding is the relation.
-/

namespace Sys2Proof.Machine

open Sys2Proof.Claims

/-! ## Patterns -/

/-- The exponent of the least quantum of a format. -/
def Fmt.qmin (f : Fmt) : ℤ := 1 - (f.bias : ℤ) - f.mb

/-- The magnitude pattern of n × 2^q, the exponents going on above those of the format. -/
def Fmt.pat (f : Fmt) (n : ℕ) (q : ℤ) : ℕ :=
  if n < 2 ^ f.mb then n else ((q + f.bias + f.mb).toNat <<< f.mb) + (n - 2 ^ f.mb)

/-- What a magnitude pattern above the largest finite one becomes. -/
def Fmt.clip (f : Fmt) (p : ℕ) : ℕ := if f.maxPat < p then f.ovfPat else p

/-- The magnitude patterns up to the largest are those of numbers. -/
structure Fmt.Sound (f : Fmt) : Prop where
  mb_pos : 1 ≤ f.mb
  eb_pos : 1 ≤ f.eb
  finite : f.maxPat < (2 ^ f.eb - 1) * 2 ^ f.mb ∨ (f.ieee = false ∧ f.maxPat < 2 ^ (f.eb + f.mb) - 1)

theorem fmt32_sound : fmt32.Sound := ⟨by decide, by decide, by decide⟩
theorem fmtB16_sound : fmtB16.Sound := ⟨by decide, by decide, by decide⟩
theorem fmtE4_sound : fmtE4.Sound := ⟨by decide, by decide, by decide⟩
theorem fmtE5_sound : fmtE5.Sound := ⟨by decide, by decide, by decide⟩

theorem Fmt.clip_of_le {f : Fmt} {p : ℕ} (h : p ≤ f.maxPat) : f.clip p = p := if_neg (by omega)
theorem Fmt.clip_of_lt {f : Fmt} {p : ℕ} (h : f.maxPat < p) : f.clip p = f.ovfPat := if_pos h

theorem Fmt.pat_of_lt {f : Fmt} {n : ℕ} (q : ℤ) (h : n < 2 ^ f.mb) : f.pat n q = n := if_pos h

theorem Fmt.pat_of_ge {f : Fmt} {n : ℕ} (q : ℤ) (h : 2 ^ f.mb ≤ n) :
    f.pat n q = (q + f.bias + f.mb).toNat * 2 ^ f.mb + (n - 2 ^ f.mb) := by
  rw [pat, if_neg (by omega), Nat.shiftLeft_eq]

/-- A pattern is even when its mantissa is. -/
theorem Fmt.pat_even {f : Fmt} (hf : f.Sound) {n : ℕ} (q : ℤ) (h : n % 2 = 0) : f.pat n q % 2 = 0 := by
  obtain ⟨k, hk⟩ := Nat.exists_eq_add_of_le' hf.mb_pos
  rcases Nat.lt_or_ge n (2 ^ f.mb) with hlt | hge
  · rwa [pat_of_lt q hlt]
  · rw [pat_of_ge q hge, hk, pow_succ, ← mul_assoc]
    rw [hk, pow_succ] at hge
    omega

section Bounds
variable {f : Fmt} {n k : ℕ} {q e : ℤ} {v : ℝ} (h : RoundsTo f.mb f.qmin v n q)
include h

/-- v lies below every number of a higher exponent. -/
theorem RoundsTo.exp_le (he : f.qmin ≤ e) (hk' : k < 2 ^ (f.mb + 1)) (hv : v < (k + 1) * 2 ^ e) : q ≤ e := by
  by_contra hlt
  have hlow := h.lower.resolve_left (by omega)
  have hstep : ((k : ℝ) + 1) * 2 ^ e ≤ 2 ^ f.mb * 2 ^ q := by
    have hk1 : (k : ℝ) + 1 ≤ 2 ^ (f.mb + 1) := by exact_mod_cast hk'
    calc ((k : ℝ) + 1) * 2 ^ e ≤ 2 ^ (f.mb + 1) * 2 ^ e := mul_le_mul_of_nonneg_right hk1 (two_zpow_pos e).le
      _ ≤ 2 ^ f.mb * 2 ^ q := by
        rw [two_pow_mul_zpow, two_pow_mul_zpow]
        exact zpow_le_zpow_right₀ one_le_two (by push_cast; omega)
  linarith

/-- v lies above every number of a lower exponent. -/
theorem RoundsTo.exp_ge (hk : 2 ^ f.mb ≤ k) (hv : k * 2 ^ e ≤ v) : e ≤ q := by
  by_contra hlt
  have hup := h.upper
  have hstep : (2 : ℝ) ^ (f.mb + 1) * 2 ^ q ≤ k * 2 ^ e := by
    have hk1 : (2 : ℝ) ^ f.mb ≤ k := by exact_mod_cast hk
    calc (2 : ℝ) ^ (f.mb + 1) * 2 ^ q ≤ 2 ^ f.mb * 2 ^ e := by
          rw [two_pow_mul_zpow, two_pow_mul_zpow]
          exact zpow_le_zpow_right₀ one_le_two (by push_cast; omega)
      _ ≤ k * 2 ^ e := mul_le_mul_of_nonneg_right hk1 (two_zpow_pos e).le
  linarith

/-- Patterns follow the order of the exponents. -/
theorem RoundsTo.pat_le_of_exp_lt (hk : 2 ^ f.mb ≤ k) (hq : q < e) : f.pat n q ≤ f.pat k e := by
  have hn := h.le_two_pow
  have hleast := h.least
  have hpow : 2 ^ (f.mb + 1) = 2 ^ f.mb * 2 := pow_succ ..
  rw [Fmt.qmin] at hleast
  rw [Fmt.pat_of_ge e hk]
  have hstep : ((q + f.bias + f.mb).toNat + 1) * 2 ^ f.mb ≤ (e + f.bias + f.mb).toNat * 2 ^ f.mb := Nat.mul_le_mul_right _ (by omega)
  rw [Nat.add_mul, one_mul] at hstep
  rcases Nat.lt_or_ge n (2 ^ f.mb) with hlt | hge
  · rw [Fmt.pat_of_lt q hlt]
    omega
  · rw [Fmt.pat_of_ge q hge]
    omega

theorem RoundsTo.pat_lt_of_exp_gt (he : f.qmin ≤ e) (hk : 2 ^ f.mb ≤ k) (hk' : k < 2 ^ (f.mb + 1)) (hq : e < q) :
    f.pat k e < f.pat n q := by
  rw [Fmt.qmin] at he
  have hge : 2 ^ f.mb ≤ n := by
    by_contra hc
    have := h.quantum_of_lt (by omega)
    rw [Fmt.qmin] at this
    omega
  have hpow : 2 ^ (f.mb + 1) = 2 ^ f.mb * 2 := pow_succ ..
  rw [Fmt.pat_of_ge e hk, Fmt.pat_of_ge q hge]
  have hstep : ((e + f.bias + f.mb).toNat + 1) * 2 ^ f.mb ≤ (q + f.bias + f.mb).toNat * 2 ^ f.mb := Nat.mul_le_mul_right _ (by omega)
  rw [Nat.add_mul, one_mul] at hstep
  omega

/-- Below the middle above a number, the pattern is at most that number's. -/
theorem RoundsTo.pat_le (he : f.qmin ≤ e) (hk : 2 ^ f.mb ≤ k) (hk' : k < 2 ^ (f.mb + 1)) (hv : v < (k + 1 / 2) * 2 ^ e) :
    f.pat n q ≤ f.pat k e := by
  have hpos := two_zpow_pos e
  rcases (h.exp_le he hk' (by linarith)).lt_or_eq with hq | rfl
  · exact h.pat_le_of_exp_lt hk hq
  · have hn := h.le_of_lt hv
    rw [Fmt.pat_of_ge q hk]
    rcases Nat.lt_or_ge n (2 ^ f.mb) with hlt | hge
    · rw [Fmt.pat_of_lt q hlt]
      have hleast := h.least
      rw [Fmt.qmin] at hleast
      have : 1 * 2 ^ f.mb ≤ (q + f.bias + f.mb).toNat * 2 ^ f.mb := Nat.mul_le_mul_right _ (by omega)
      omega
    · rw [Fmt.pat_of_ge q hge]
      omega

/-- From a number on, the pattern is at least that number's. -/
theorem RoundsTo.le_pat (he : f.qmin ≤ e) (hk : 2 ^ f.mb ≤ k) (hk' : k < 2 ^ (f.mb + 1)) (hv : k * 2 ^ e ≤ v) : f.pat k e ≤ f.pat n q := by
  rcases (h.exp_ge hk hv).lt_or_eq with hq | rfl
  · exact (h.pat_lt_of_exp_gt he hk hk' hq).le
  · have hn := h.ge_of_le hv
    rw [Fmt.pat_of_ge e hk, Fmt.pat_of_ge e (hk.trans hn)]
    omega

/-- From the middle above an odd number on, the pattern is above that number's. -/
theorem RoundsTo.lt_pat (he : f.qmin ≤ e) (hk : 2 ^ f.mb ≤ k) (hk' : k < 2 ^ (f.mb + 1)) (hodd : k % 2 = 1)
    (hv : (k + 1 / 2) * 2 ^ e ≤ v) : f.pat k e < f.pat n q := by
  have hpos := two_zpow_pos e
  rcases (h.exp_ge hk (by linarith)).lt_or_eq with hq | rfl
  · exact h.pat_lt_of_exp_gt he hk hk' hq
  · have hn := h.gt_of_le hodd hv
    rw [Fmt.pat_of_ge e hk, Fmt.pat_of_ge e (hk.trans hn.le)]
    omega

end Bounds

/-! ## One rounding of a mantissa -/

/-- The quantum of a mantissa of L + 1 bits at exponent e. -/
def Fmt.quantum (f : Fmt) (L : ℕ) (e : ℤ) : ℤ := max (e + (L + 1 : ℕ) - (f.mb + 1 : ℕ)) f.qmin

/-- The mantissa at quantum q. -/
def roundTo (m : ℕ) (e q : ℤ) (sticky : Bool) : ℕ :=
  if q ≤ e then m <<< (e - q).toNat
  else
    let s := (q - e).toNat
    if 2 ^ (s - 1) < m % 2 ^ s || (m % 2 ^ s == 2 ^ (s - 1) && (sticky || (m >>> s) % 2 == 1)) then (m >>> s) + 1 else m >>> s

theorem roundMag_of_ne_zero {f : Fmt} {m : ℕ} (hm : m ≠ 0) (e : ℤ) (sticky : Bool) :
    f.roundMag m e sticky =
      f.clip (f.pat (roundTo m e (f.quantum (Nat.log2 m) e) sticky) (f.quantum (Nat.log2 m) e)) := by
  rw [Fmt.roundMag, if_neg (by simpa using hm)]
  rfl

theorem roundMag_zero (f : Fmt) (e : ℤ) (sticky : Bool) : f.roundMag 0 e sticky = 0 := rfl

/-- m + t is between two powers of two. -/
theorem log2_bounds {m : ℕ} (hm : m ≠ 0) {t : ℝ} (ht0 : 0 ≤ t) (ht1 : t < 1) :
    (2 : ℝ) ^ Nat.log2 m ≤ m + t ∧ (m + t : ℝ) < 2 ^ (Nat.log2 m + 1) := by
  have hlow : ((2 ^ Nat.log2 m : ℕ) : ℝ) ≤ m := by exact_mod_cast Nat.log2_self_le hm
  have hhigh : m + 1 ≤ 2 ^ (Nat.log2 m + 1) := Nat.lt_log2_self
  have hhigh' : ((m + 1 : ℕ) : ℝ) ≤ (2 ^ (Nat.log2 m + 1) : ℕ) := by exact_mod_cast hhigh
  push_cast at hlow hhigh'
  constructor <;> linarith

/-- Keeping the bits at quantum q and rounding the rest gives a nearest multiple. -/
theorem roundTo_near {m : ℕ} {e q : ℤ} {sticky : Bool} {t : ℝ} (ht0 : 0 ≤ t) (ht1 : t < 1) (hst : sticky = true ↔ 0 < t)
    (hexact : q ≤ e → t = 0) :
    |(m + t) * 2 ^ e - roundTo m e q sticky * 2 ^ q| ≤ 2 ^ q / 2 ∧
      (|(m + t) * 2 ^ e - roundTo m e q sticky * 2 ^ q| = 2 ^ q / 2 → roundTo m e q sticky % 2 = 0) := by
  have hpos := two_zpow_pos q
  rw [roundTo]
  split
  case isTrue hqe =>
    have hval : ((m <<< (e - q).toNat : ℕ) : ℝ) * 2 ^ q = (m + t) * 2 ^ e := by
      rw [hexact hqe, Nat.shiftLeft_eq]
      push_cast
      rw [mul_assoc, two_pow_mul_zpow, Int.toNat_of_nonneg (by omega), sub_add_cancel, add_zero]
    rw [hval, sub_self, abs_zero]
    exact ⟨by positivity, fun hc => absurd hc (by positivity)⟩
  case isFalse hqe =>
    set s := (q - e).toNat with hs
    have hsum : ((m >>> s : ℕ) : ℝ) + ((m % 2 ^ s : ℕ) + t) / 2 ^ s = (m + t) / 2 ^ s := by
      have hdiv : (m : ℝ) = 2 ^ s * (m >>> s : ℕ) + (m % 2 ^ s : ℕ) := by
        rw [Nat.shiftRight_eq_div_pow]
        exact_mod_cast (Nat.div_add_mod m (2 ^ s)).symm
      rw [hdiv]
      field_simp
      ring
    have hscale : (m + t : ℝ) * 2 ^ e = (m + t) / 2 ^ s * 2 ^ q := by
      have hq : q = s + e := by omega
      rw [hq, ← two_pow_mul_zpow]
      field_simp
    have hnear := round_half_even (n0 := m >>> s) (by omega : 1 ≤ s) (Nat.mod_lt m (by positivity)) ht0 ht1 hst
    simp only at hnear ⊢
    rw [hsum] at hnear
    rw [hscale, ← sub_mul, abs_mul, abs_of_pos hpos]
    refine ⟨by nlinarith [hnear.1], fun heq => hnear.2 ?_⟩
    exact mul_right_cancel₀ hpos.ne' (heq.trans (by ring))

/-- roundMag rounds (m + t) × 2^e, where sticky says that t is not 0 and then m has more bits than the format (R103). -/
theorem roundMag_roundsTo (f : Fmt) {m : ℕ} (e : ℤ) {sticky : Bool} {t : ℝ} (ht0 : 0 ≤ t) (ht1 : t < 1) (hst : sticky = true ↔ 0 < t)
    (hbits : sticky = true → 2 ^ (f.mb + 1) ≤ m) :
    ∃ n q, RoundsTo f.mb f.qmin ((m + t) * 2 ^ e) n q ∧ f.roundMag m e sticky = f.clip (f.pat n q) := by
  have hpe := two_zpow_pos e
  rcases eq_or_ne m 0 with rfl | hm
  · have hns : sticky ≠ true := fun hc => absurd (hbits hc) (by simp)
    have ht : t = 0 := le_antisymm (not_lt.1 fun hc => hns (hst.2 hc)) ht0
    have hq := two_zpow_pos f.qmin
    refine ⟨0, f.qmin, ⟨le_rfl, ?_, .inl rfl, ?_, ?_, fun _ => rfl⟩, ?_⟩
    · simp [ht]
    · simp only [ht, Nat.cast_zero, add_zero, zero_mul]
      positivity
    · simp only [ht, Nat.cast_zero, add_zero, zero_mul, sub_zero, abs_zero]
      positivity
    · rw [roundMag_zero, Fmt.pat_of_lt _ (by positivity), Fmt.clip_of_le (Nat.zero_le _)]
  · obtain ⟨hlow, hhigh⟩ := log2_bounds hm ht0 ht1
    have hquant : f.quantum (Nat.log2 m) e = max (e + (Nat.log2 m + 1 : ℕ) - (f.mb + 1 : ℕ)) f.qmin := rfl
    have hexact : f.quantum (Nat.log2 m) e ≤ e → t = 0 := by
      intro hq
      refine le_antisymm (not_lt.1 fun hc => ?_) ht0
      have hmb : f.mb + 1 ≤ Nat.log2 m := (Nat.le_log2 hm).2 (hbits (hst.2 hc))
      have := le_max_left (e + (Nat.log2 m + 1 : ℕ) - (f.mb + 1 : ℕ)) f.qmin
      omega
    obtain ⟨hnear, htie⟩ := roundTo_near ht0 ht1 hst hexact
    refine ⟨_, _, ⟨le_max_right _ _, by positivity, ?_, ?_, hnear, htie⟩, roundMag_of_ne_zero hm e sticky⟩
    · rcases max_choice (e + (Nat.log2 m + 1 : ℕ) - (f.mb + 1 : ℕ)) f.qmin with hq | hq
      · right
        calc (2 : ℝ) ^ f.mb * 2 ^ f.quantum (Nat.log2 m) e = 2 ^ Nat.log2 m * 2 ^ e := by
              rw [hquant, hq, two_pow_mul_zpow, two_pow_mul_zpow]
              congr 1
              push_cast
              ring
          _ ≤ (m + t) * 2 ^ e := mul_le_mul_of_nonneg_right hlow hpe.le
      · exact .inl hq
    · calc (m + t) * 2 ^ e < 2 ^ (Nat.log2 m + 1) * 2 ^ e := mul_lt_mul_of_pos_right hhigh hpe
        _ ≤ 2 ^ (f.mb + 1) * 2 ^ f.quantum (Nat.log2 m) e := by
          rw [two_pow_mul_zpow, two_pow_mul_zpow]
          refine zpow_le_zpow_right₀ one_le_two ?_
          have := le_max_left (e + (Nat.log2 m + 1 : ℕ) - (f.mb + 1 : ℕ)) f.qmin
          omega

/-- The same of a mantissa without a remainder. -/
theorem roundMag_roundsTo_exact (f : Fmt) (m : ℕ) (e : ℤ) :
    ∃ n q, RoundsTo f.mb f.qmin (m * 2 ^ e) n q ∧ f.roundMag m e false = f.clip (f.pat n q) := by
  have h := roundMag_roundsTo f (m := m) e (sticky := false) le_rfl zero_lt_one (by simp) (by simp)
  simpa using h

/-- The rounding depends on the value alone. -/
theorem roundMag_congr (f : Fmt) {m m' : ℕ} {e e' : ℤ} (h : (m : ℝ) * 2 ^ e = m' * 2 ^ e') :
    f.roundMag m e false = f.roundMag m' e' false := by
  obtain ⟨n, q, hr, heq⟩ := roundMag_roundsTo_exact f m e
  obtain ⟨n', q', hr', heq'⟩ := roundMag_roundsTo_exact f m' e'
  rw [← h] at hr'
  obtain ⟨rfl, rfl⟩ := hr.unique hr'
  rw [heq, heq']

end Sys2Proof.Machine

/-!
PROOF. The number formats: the values of patterns, and that no pattern is nearer than the rounded one.
-/

namespace Sys2Proof.Machine

open Sys2Proof.Claims

/-! ## Values of patterns -/

/-- The sign of a number. -/
def sgn (s : Bool) : ℚ := if s then -1 else 1

theorem abs_sgn (s : Bool) : |sgn s| = 1 := by cases s <;> simp [sgn]

theorem sgn_mul_self (s : Bool) : sgn s * sgn s = 1 := by cases s <;> simp [sgn]

theorem sgn_not (s : Bool) : sgn (!s) = -sgn s := by cases s <;> simp [sgn]

theorem sgn_xor (s t : Bool) : sgn (s != t) = sgn s * sgn t := by cases s <;> cases t <;> simp [sgn]

/-- What an exact value stands for. -/
def toVal : FVal → Val
  | .nan => .nan
  | .inf s => .inf s
  | .fin s m e => .num s (rat (.fin s m e))

@[simp] theorem toVal_nan : toVal .nan = .nan := rfl
@[simp] theorem toVal_inf (s : Bool) : toVal (.inf s) = .inf s := rfl

theorem rat_fin (s : Bool) (m : ℕ) (e : ℤ) : rat (.fin s m e) = sgn s * (m * 2 ^ e) := by rw [rat, sgn, mul_assoc]

theorem toVal_fin (s : Bool) (m : ℕ) (e : ℤ) : toVal (.fin s m e) = .num s (sgn s * (m * 2 ^ e)) := by rw [toVal, rat_fin]

/-- The value of a pattern, its fields read by division (R102). -/
theorem value_eq (f : Fmt) (x : ℕ) :
    f.value x =
      if x / 2 ^ f.mb % 2 ^ f.eb = 2 ^ f.eb - 1 ∧ (if f.ieee then x % 2 ^ f.mb ≠ 0 else x % 2 ^ f.mb = 2 ^ f.mb - 1) then .nan
      else if f.ieee ∧ x / 2 ^ f.mb % 2 ^ f.eb = 2 ^ f.eb - 1 then .inf (x / 2 ^ (f.eb + f.mb) % 2 = 1)
      else if x / 2 ^ f.mb % 2 ^ f.eb = 0 then .fin (x / 2 ^ (f.eb + f.mb) % 2 = 1) (x % 2 ^ f.mb) f.qmin
      else .fin (x / 2 ^ (f.eb + f.mb) % 2 = 1) (2 ^ f.mb + x % 2 ^ f.mb) (((x / 2 ^ f.mb % 2 ^ f.eb : ℕ) : ℤ) - f.bias - f.mb) := by
  simp only [Fmt.value, Fmt.qmin, Nat.shiftRight_eq_div_pow, Bool.and_eq_true, beq_eq_decide, decide_eq_true_eq]
  cases f.ieee <;> simp

/-- The value of a pattern in the model is that of the statements (R101, R102). -/
theorem toVal_value (f : Fmt) (x : ℕ) : toVal (f.value x) = valOf f.eb f.mb f.bias f.ieee x := by
  rw [value_eq, valOf]
  simp only [apply_ite toVal, toVal_nan, toVal_inf, toVal_fin, sgn, decide_eq_true_eq, Fmt.qmin, Nat.cast_add, Nat.cast_pow,
    Nat.cast_ofNat, mul_assoc]

theorem toVal_F (x : Word) : toVal (F x) = V x := toVal_value fmt32 x.toNat

/-- The bits of a signed magnitude. -/
theorem signed_fields {f : Fmt} (s : Bool) {p : ℕ} (hp : p < 2 ^ (f.eb + f.mb)) :
    (f.signed s p / 2 ^ (f.eb + f.mb) % 2 = 1 ↔ s = true) ∧ f.signed s p / 2 ^ f.mb % 2 ^ f.eb = p / 2 ^ f.mb ∧
      f.signed s p % 2 ^ f.mb = p % 2 ^ f.mb := by
  have hexp : p / 2 ^ f.mb < 2 ^ f.eb := Nat.div_lt_of_lt_mul (by rwa [← pow_add, Nat.add_comm])
  have hpow : 2 ^ (f.eb + f.mb) = 2 ^ f.mb * 2 ^ f.eb := by rw [pow_add, Nat.mul_comm]
  cases s
  · simp only [Fmt.signed, if_false, Bool.false_eq_true]
    exact ⟨by simp [Nat.div_eq_of_lt hp], Nat.mod_eq_of_lt hexp, trivial⟩
  · simp only [Fmt.signed, if_true]
    refine ⟨?_, ?_, ?_⟩
    · simp [Nat.add_div_left _ (show 0 < 2 ^ (f.eb + f.mb) by positivity), Nat.div_eq_of_lt hp]
    · rw [hpow, Nat.mul_add_div (by positivity), Nat.add_mod_left, Nat.mod_eq_of_lt hexp]
    · rw [hpow, Nat.mul_add_mod]

theorem maxPat_lt {f : Fmt} (hf : f.Sound) : f.maxPat < 2 ^ (f.eb + f.mb) := by
  rcases hf.finite with h | ⟨-, h⟩
  · refine h.trans_le ?_
    rw [pow_add]
    exact Nat.mul_le_mul_right _ (Nat.sub_le _ _)
  · omega

/-- The value of a magnitude pattern that is finite. -/
theorem valOf_signed {f : Fmt} (hf : f.Sound) (s : Bool) {p : ℕ} (hp : p ≤ f.maxPat) :
    valOf f.eb f.mb f.bias f.ieee (f.signed s p) =
      if p / 2 ^ f.mb = 0 then .num s (sgn s * ((p % 2 ^ f.mb : ℕ) * 2 ^ f.qmin))
      else .num s (sgn s * ((2 ^ f.mb + p % 2 ^ f.mb : ℕ) * 2 ^ (((p / 2 ^ f.mb : ℕ) : ℤ) - f.bias - f.mb))) := by
  obtain ⟨hsign, hexp, hman⟩ := signed_fields s (hp.trans_lt (maxPat_lt hf))
  have hdiv := Nat.div_add_mod p (2 ^ f.mb)
  have hmod := Nat.mod_lt p (show 2 ^ f.mb > 0 by positivity)
  have hnum : ¬(p / 2 ^ f.mb = 2 ^ f.eb - 1 ∧ if f.ieee = true then p % 2 ^ f.mb ≠ 0 else p % 2 ^ f.mb = 2 ^ f.mb - 1) ∧
      ¬(f.ieee = true ∧ p / 2 ^ f.mb = 2 ^ f.eb - 1) := by
    rcases hf.finite with h | ⟨hi, h⟩
    · have hlt : p / 2 ^ f.mb < 2 ^ f.eb - 1 := Nat.div_lt_of_lt_mul (by rw [Nat.mul_comm]; omega)
      exact ⟨fun hc => by omega, fun hc => by omega⟩
    · refine ⟨fun ⟨htop, hall⟩ => ?_, fun hc => by simp [hi] at hc⟩
      rw [hi] at hall
      simp only [Bool.false_eq_true, if_false] at hall
      rw [htop, hall, Nat.mul_sub, mul_one, ← pow_add, Nat.add_comm f.mb f.eb] at hdiv
      have : 2 ^ f.mb ≤ 2 ^ (f.eb + f.mb) := Nat.pow_le_pow_right two_pos (by omega)
      omega
  rw [valOf]
  simp only [hexp, hman, hsign, if_neg hnum.1, if_neg hnum.2, Bool.decide_eq_true, Fmt.qmin]
  simp only [sgn, mul_assoc, Nat.cast_add, Nat.cast_pow, Nat.cast_ofNat]

/-- The pattern of a rounded number has its value, where it is not above the largest. -/
theorem valOf_pat {f : Fmt} (hf : f.Sound) (s : Bool) {n : ℕ} {q : ℤ} {v : ℝ} (h : RoundsTo f.mb f.qmin v n q) (hp : f.pat n q ≤ f.maxPat) :
    valOf f.eb f.mb f.bias f.ieee (f.signed s (f.pat n q)) = .num s (sgn s * (n * 2 ^ q)) := by
  rw [valOf_signed hf s hp]
  rcases Nat.lt_or_ge n (2 ^ f.mb) with hlt | hge
  · rw [Fmt.pat_of_lt q hlt, if_pos (Nat.div_eq_of_lt hlt), Nat.mod_eq_of_lt hlt, h.quantum_of_lt hlt]
  have hleast := h.least
  rw [Fmt.qmin] at hleast
  have hexp : ((q + f.bias + f.mb).toNat : ℤ) = q + f.bias + f.mb := Int.toNat_of_nonneg (by omega)
  have hpos : 0 < 2 ^ f.mb := by positivity
  rw [Fmt.pat_of_ge q hge]
  rcases h.le_two_pow.lt_or_eq with hlt | rfl
  · have hman : n - 2 ^ f.mb < 2 ^ f.mb := by rw [pow_succ] at hlt; omega
    rw [Nat.mul_comm, Nat.mul_add_div hpos, Nat.mul_add_mod, Nat.div_eq_of_lt hman, Nat.mod_eq_of_lt hman, if_neg (by omega),
      Nat.add_sub_cancel' hge, Nat.add_zero, hexp]
    congr 4
    ring
  · have hman : 2 ^ (f.mb + 1) - 2 ^ f.mb = 2 ^ f.mb * 1 := by rw [pow_succ]; omega
    rw [hman, Nat.mul_comm _ (2 ^ f.mb), ← Nat.mul_add, Nat.mul_div_cancel_left _ hpos, Nat.mul_mod_right, if_neg (by omega)]
    congr 2
    push_cast
    rw [hexp, pow_succ, add_zero, show q + f.bias + f.mb + 1 - f.bias - f.mb = q + 1 by ring, zpow_add_one₀ two_ne_zero]
    ring

/-- Every number of a format is on its grid. -/
theorem valOf_onGrid {f : Fmt} {p : ℕ} {s : Bool} {r : ℚ} (h : valOf f.eb f.mb f.bias f.ieee p = .num s r) : OnGrid f.mb f.qmin r := by
  have hman : p % 2 ^ f.mb < 2 ^ f.mb := Nat.mod_lt _ (by positivity)
  have hgrid : ∀ (t : Bool) (k : ℕ) (e : ℤ), k < 2 ^ (f.mb + 1) → f.qmin ≤ e → OnGrid f.mb f.qmin ((sgn t * (k * 2 ^ e) : ℚ) : ℝ) := by
    intro t k e hk he
    have hpos : OnGrid f.mb f.qmin ((k : ℝ) * 2 ^ e) := ⟨k, e, he, by rw [abs_of_nonneg (by positivity)]; exact_mod_cast hk, rfl⟩
    cases t
    · simpa [sgn] using hpos
    · simpa [sgn] using hpos.neg
  rw [← toVal_value, value_eq] at h
  simp only [apply_ite toVal, toVal_nan, toVal_inf, toVal_fin] at h
  by_cases hnan : p / 2 ^ f.mb % 2 ^ f.eb = 2 ^ f.eb - 1 ∧ (if f.ieee then p % 2 ^ f.mb ≠ 0 else p % 2 ^ f.mb = 2 ^ f.mb - 1)
  · rw [if_pos hnan] at h
    exact nomatch h
  rw [if_neg hnan] at h
  split at h
  · exact nomatch h
  split at h
  all_goals
    rw [Val.num.injEq] at h
    obtain ⟨-, rfl⟩ := h
    refine hgrid _ _ _ (by rw [pow_succ]; omega) ?_
  · exact le_rfl
  · rw [Fmt.qmin]
    omega

/-- No pattern of a format is nearer than that of the rounded number, if that is not above the largest (R6, R103). -/
theorem nearestIn_pat {f : Fmt} (hf : f.Sound) (s : Bool) {n : ℕ} {q : ℤ} {v : ℝ} (h : RoundsTo f.mb f.qmin v n q)
    (hp : f.pat n q ≤ f.maxPat) :
    NearestIn (valOf f.eb f.mb f.bias f.ieee) s (sgn s * v) (f.signed s (f.pat n q)) := by
  refine ⟨_, valOf_pat hf s h hp, fun p z r hr => ?_⟩
  have hfold : ∀ r' : ℝ, |(sgn s : ℝ) * v - r'| = |v - sgn s * r'| := by
    intro r'
    have hs : (sgn s : ℝ) * sgn s = 1 := by exact_mod_cast sgn_mul_self s
    have ha : |(sgn s : ℝ)| = 1 := by exact_mod_cast abs_sgn s
    calc |(sgn s : ℝ) * v - r'| = |sgn s * (v - sgn s * r')| := by rw [mul_sub, ← mul_assoc, hs, one_mul]
      _ = |v - sgn s * r'| := by rw [abs_mul, ha, one_mul]
  have hgrid : OnGrid f.mb f.qmin ((sgn s : ℝ) * r) := by
    have := valOf_onGrid hr
    cases s
    · simpa [sgn] using this
    · simpa [sgn] using this.neg
  have hnum : (sgn s : ℝ) * ((sgn s * (n * 2 ^ q) : ℚ) : ℝ) = n * 2 ^ q := by
    push_cast
    rw [← mul_assoc]
    have hs : (sgn s : ℝ) * sgn s = 1 := by exact_mod_cast sgn_mul_self s
    rw [hs, one_mul]
  obtain ⟨hle, htie⟩ := h.nearest hgrid
  rw [hfold, hfold, hnum]
  refine ⟨hle, fun hne heq => ?_⟩
  have heven : n % 2 = 0 := by
    refine htie (fun hc => hne ?_) heq
    have hcast : sgn s * r = n * 2 ^ q := by
      rw [← Rat.cast_inj (α := ℝ)]
      push_cast
      exact hc
    rw [← hcast, ← mul_assoc, sgn_mul_self, one_mul]
  have hpat := Fmt.pat_even hf q heven
  rw [Fmt.signed]
  split
  · obtain ⟨k, hk⟩ := Nat.exists_eq_add_of_le' hf.mb_pos
    rw [hk, ← Nat.add_assoc, pow_succ]
    omega
  · exact hpat

end Sys2Proof.Machine

/-!
PROOF. FP32: one rounding of an exact value, and the fields of a pattern.
-/

namespace Sys2Proof.Machine

open Sys2Proof.Claims

/-! ## Rounding to FP32 -/

/-- An FP32 pattern with a sign. -/
def signedWord (s : Bool) (p : ℕ) : Word := BitVec.ofNat 32 (fmt32.signed s p)

theorem rne32_fin (s : Bool) (m : ℕ) (e : ℤ) : rne32 (.fin s m e) = signedWord s (fmt32.roundMag m e false) := rfl

theorem signedWord_toNat (s : Bool) {p : ℕ} (hp : p < 2 ^ 31) : (signedWord s p).toNat = fmt32.signed s p := by
  rw [signedWord, BitVec.toNat_ofNat, Nat.mod_eq_of_lt]
  cases s <;> simp [Fmt.signed, fmt32] <;> omega

theorem fmt32_maxPat : fmt32.maxPat = fmt32.pat (2 ^ 24 - 1) 104 := by decide

/-- The middle between the largest FP32 number and 2^128. -/
theorem fmt32_limit : ((2 ^ 24 - 1 : ℕ) + 1 / 2 : ℝ) * 2 ^ (104 : ℤ) = 2 ^ 128 - 2 ^ 103 := by norm_num

section Round32
variable {n : ℕ} {q : ℤ} {v : ℝ}

theorem pat32_le (h : RoundsTo fmt32.mb fmt32.qmin v n q) (hv : v < 2 ^ 128 - 2 ^ 103) : fmt32.pat n q ≤ fmt32.maxPat := by
  rw [fmt32_maxPat]
  exact h.pat_le (by decide) (by decide) (by decide) (by rwa [fmt32_limit])

theorem pat32_gt (h : RoundsTo fmt32.mb fmt32.qmin v n q) (hv : 2 ^ 128 - 2 ^ 103 ≤ v) : fmt32.maxPat < fmt32.pat n q := by
  rw [fmt32_maxPat]
  exact h.lt_pat (by decide) (by decide) (by decide) (by decide) (by rwa [fmt32_limit])

/-- The word of a number that is not too large has its value. -/
theorem V_signedWord (h : RoundsTo fmt32.mb fmt32.qmin v n q) (hv : v < 2 ^ 128 - 2 ^ 103) (s : Bool) :
    V (signedWord s (fmt32.clip (fmt32.pat n q))) = .num s (sgn s * (n * 2 ^ q)) := by
  have hp := pat32_le h hv
  rw [Fmt.clip_of_le hp, V, signedWord_toNat s (hp.trans_lt (by decide))]
  exact valOf_pat fmt32_sound s h hp

theorem abs_sgn_mul (s : Bool) (h : 0 ≤ v) : |(sgn s : ℝ) * v| = v := by
  have hs : |(sgn s : ℝ)| = 1 := by exact_mod_cast abs_sgn s
  rw [abs_mul, hs, one_mul, abs_of_nonneg h]

/-- Rounding to a magnitude and a sign is RNE to FP32 (R6, R103). -/
theorem roundR_of_roundsTo (h : RoundsTo fmt32.mb fmt32.qmin v n q) (s : Bool) :
    RoundR s (sgn s * v) (signedWord s (fmt32.clip (fmt32.pat n q))) := by
  rw [RoundR, abs_sgn_mul s h.nonneg]
  split
  case isTrue hv =>
    rw [Fmt.clip_of_lt (pat32_gt h hv)]
    cases s <;> rfl
  case isFalse hv =>
    have hp := pat32_le h (not_le.1 hv)
    rw [Fmt.clip_of_le hp, signedWord_toNat s (hp.trans_lt (by decide))]
    exact nearestIn_pat fmt32_sound s h hp

end Round32

/-- roundMag with a sign is RNE to FP32 of (m + t) × 2^e. -/
theorem roundR_roundMag (s : Bool) {m : ℕ} (e : ℤ) {sticky : Bool} {t : ℝ} (ht0 : 0 ≤ t) (ht1 : t < 1) (hst : sticky = true ↔ 0 < t)
    (hbits : sticky = true → 2 ^ 24 ≤ m) :
    RoundR s (sgn s * ((m + t) * 2 ^ e)) (signedWord s (fmt32.roundMag m e sticky)) := by
  obtain ⟨n, q, h, heq⟩ := roundMag_roundsTo fmt32 e ht0 ht1 hst hbits
  rw [heq]
  exact roundR_of_roundsTo h s

/-- RNE to FP32 rounds the exact value once (R103). -/
theorem rounds_rne32 (v : FVal) : Rounds (toVal v) (rne32 v) := by
  match v with
  | .nan => exact rfl
  | .inf s => cases s <;> exact rfl
  | .fin s m e =>
    obtain ⟨n, q, h, heq⟩ := roundMag_roundsTo_exact fmt32 m e
    have hround := roundR_of_roundsTo h s
    rw [toVal_fin, rne32_fin, Rounds, heq]
    push_cast
    exact hround

/-- A number of the grid within the range is written exactly. -/
theorem V_rne32_exact (s : Bool) {m : ℕ} {e : ℤ} (hgrid : OnGrid fmt32.mb fmt32.qmin (m * 2 ^ e))
    (hlt : (m * 2 ^ e : ℝ) < 2 ^ 128 - 2 ^ 103) :
    V (rne32 (.fin s m e)) = toVal (.fin s m e) := by
  obtain ⟨n, q, h, heq⟩ := roundMag_roundsTo_exact fmt32 m e
  have hval : (n * 2 ^ q : ℚ) = m * 2 ^ e := by
    have := h.exact hgrid
    rw [← Rat.cast_inj (α := ℝ)]
    push_cast
    exact this
  rw [rne32_fin, heq, V_signedWord h hlt, hval, toVal_fin]

/-- A number is written exactly where the statements say so. -/
theorem exactly_rne32 (v : FVal)
    (h : ∀ s m e, v = .fin s m e → OnGrid fmt32.mb fmt32.qmin (m * 2 ^ e) ∧ (m * 2 ^ e : ℝ) < 2 ^ 128 - 2 ^ 103) :
    Exactly (toVal v) (rne32 v) := by
  match v, h with
  | .nan, _ => exact rfl
  | .inf s, _ => cases s <;> exact rfl
  | .fin s m e, h =>
    obtain ⟨hgrid, hlt⟩ := h s m e rfl
    exact V_rne32_exact s hgrid hlt

theorem sgn_mul_inj {s : Bool} {p q : ℚ} (h : sgn s * p = sgn s * q) : p = q := by
  cases s <;> simpa [sgn] using h

/-- RNE depends on what its operand stands for alone. -/
theorem rne32_congr {v w : FVal} (h : toVal v = toVal w) : rne32 v = rne32 w := by
  match v, w with
  | .nan, .nan => rfl
  | .inf s, .inf t => rw [Val.inf.inj h]
  | .fin s m e, .fin t n e' =>
    rw [toVal_fin, toVal_fin, Val.num.injEq] at h
    obtain ⟨rfl, hval⟩ := h
    have hq := sgn_mul_inj hval
    rw [rne32_fin, rne32_fin, roundMag_congr fmt32 (e' := e') (m' := n)]
    rw [← Rat.cast_inj (α := ℝ)] at hq
    push_cast at hq
    exact hq
  | .nan, .inf _ | .nan, .fin .. | .inf _, .nan | .inf _, .fin .. | .fin .., .nan | .fin .., .inf _ => exact nomatch h

/-! ## FP32 patterns -/

/-- A mantissa that fits the format rounds to its own pattern. -/
theorem roundMag_self {f : Fmt} {n : ℕ} {q : ℤ} (hq : f.qmin ≤ q) (hn : n < 2 ^ (f.mb + 1)) (hnorm : q = f.qmin ∨ 2 ^ f.mb ≤ n) :
    f.roundMag n q false = f.clip (f.pat n q) := by
  have hpos := two_zpow_pos q
  have hself : RoundsTo f.mb f.qmin (n * 2 ^ q) n q := by
    refine ⟨hq, by positivity, hnorm.imp_right fun h => ?_, ?_, by rw [sub_self, abs_zero]; positivity, fun hc => ?_⟩
    · have : (2 : ℝ) ^ f.mb ≤ n := by exact_mod_cast h
      nlinarith
    · have : (n : ℝ) < 2 ^ (f.mb + 1) := by exact_mod_cast hn
      nlinarith
    · rw [sub_self, abs_zero] at hc
      exact absurd hc (by positivity)
  obtain ⟨n', q', h, heq⟩ := roundMag_roundsTo_exact f n q
  obtain ⟨rfl, rfl⟩ := h.unique hself
  exact heq

/-- The fields of an FP32 pattern: sign, exponent and mantissa. -/
def signBit (x : Word) : Bool := x.toNat / 2 ^ 31 % 2 = 1
def expo (x : Word) : ℕ := x.toNat / 2 ^ 23 % 2 ^ 8
def mant (x : Word) : ℕ := x.toNat % 2 ^ 23

theorem F_eq (x : Word) :
    F x = if expo x = 255 then (if mant x = 0 then .inf (signBit x) else .nan)
      else if expo x = 0 then .fin (signBit x) (mant x) (-149)
      else .fin (signBit x) (2 ^ 23 + mant x) ((expo x : ℤ) - 150) := by
  have h : F x =
      if expo x = 2 ^ 8 - 1 ∧ mant x ≠ 0 then .nan
      else if true ∧ expo x = 2 ^ 8 - 1 then .inf (signBit x)
      else if expo x = 0 then .fin (signBit x) (mant x) fmt32.qmin
      else .fin (signBit x) (2 ^ 23 + mant x) ((expo x : ℤ) - (127 : ℕ) - (23 : ℕ)) := value_eq fmt32 x.toNat
  have hq : fmt32.qmin = -149 := by decide
  have hexp : (expo x : ℤ) - (127 : ℕ) - (23 : ℕ) = expo x - 150 := by omega
  rw [h, hq, hexp]
  by_cases he : expo x = 255
  · by_cases hm : mant x = 0 <;> simp [he, hm]
  · simp [he]

theorem fields_eq (x : Word) : x = signedWord (signBit x) (expo x * 2 ^ 23 + mant x) := by
  have hlt : expo x * 2 ^ 23 + mant x < 2 ^ 31 := by simp only [expo, mant]; omega
  apply BitVec.eq_of_toNat_eq
  rw [signedWord_toNat _ hlt, Fmt.signed]
  have := x.isLt
  simp only [signBit, decide_eq_true_eq, expo, mant, fmt32]
  split <;> omega

theorem msb_eq_signBit (x : Word) : x.msb = signBit x := by
  rw [BitVec.msb_eq_decide, signBit, decide_eq_decide]
  have := x.isLt
  omega

theorem mant_lt (x : Word) : mant x < 2 ^ 23 := Nat.mod_lt _ (by decide)
theorem expo_lt (x : Word) : expo x < 2 ^ 8 := Nat.mod_lt _ (by decide)

/-- The mantissa and exponent of a finite pattern. -/
theorem F_fin_cases {x : Word} {s : Bool} {m : ℕ} {e : ℤ} (h : F x = .fin s m e) :
    s = signBit x ∧ expo x < 255 ∧
      ((expo x = 0 ∧ m = mant x ∧ e = -149) ∨ (expo x ≠ 0 ∧ m = 2 ^ 23 + mant x ∧ e = (expo x : ℤ) - 150)) := by
  have hexp := expo_lt x
  rw [F_eq] at h
  split at h
  · split at h <;> exact nomatch h
  split at h
  · injection h with h1 h2 h3
    exact ⟨h1.symm, by omega, .inl ⟨‹_›, h2.symm, h3.symm⟩⟩
  · injection h with h1 h2 h3
    exact ⟨h1.symm, by omega, .inr ⟨‹_›, h2.symm, h3.symm⟩⟩

theorem F_fin_bounds {x : Word} {s : Bool} {m : ℕ} {e : ℤ} (h : F x = .fin s m e) : m < 2 ^ 24 ∧ -149 ≤ e ∧ e ≤ 104 := by
  obtain ⟨-, hexp, hcase⟩ := F_fin_cases h
  have hm := mant_lt x
  omega

theorem F_inf {x : Word} {s : Bool} (h : F x = .inf s) : x = infW s := by
  have hx := fields_eq x
  rw [F_eq] at h
  split at h
  case isTrue he =>
    split at h
    case isTrue hm =>
      rw [hx, ← FVal.inf.inj h, he, hm]
      cases signBit x <;> rfl
    case isFalse => exact nomatch h
  case isFalse => split at h <;> exact nomatch h

/-- A pattern that is not NaN rounds to itself. -/
theorem rne32_F {x : Word} (h : (F x).isNan = false) : rne32 (F x) = x := by
  match hF : F x with
  | .nan => rw [hF] at h; exact nomatch h
  | .inf s =>
    rw [F_inf hF]
    cases s <;> rfl
  | .fin s m e =>
    obtain ⟨hs, hexp, hcase⟩ := F_fin_cases hF
    obtain ⟨hm, hemin, hemax⟩ := F_fin_bounds hF
    have hq : fmt32.qmin = -149 := by decide
    have hpat : fmt32.pat m e = expo x * 2 ^ 23 + mant x := by
      have hmant := mant_lt x
      rcases hcase with ⟨h0, rfl, rfl⟩ | ⟨h0, rfl, rfl⟩
      · rw [Fmt.pat_of_lt _ hmant, h0, Nat.zero_mul, Nat.zero_add]
      · rw [Fmt.pat_of_ge (f := fmt32) _ (Nat.le_add_right (2 ^ 23) _)]
        simp only [fmt32]
        omega
    have hle : expo x * 2 ^ 23 + mant x ≤ fmt32.maxPat := by
      have hmant := mant_lt x
      simp only [fmt32]
      omega
    have hself : fmt32.roundMag m e false = fmt32.clip (fmt32.pat m e) := by
      refine roundMag_self (by omega) hm ?_
      simp only [fmt32] at hq ⊢
      omega
    rw [rne32_fin, hself, hpat, Fmt.clip_of_le hle, hs]
    exact (fields_eq x).symm

end Sys2Proof.Machine

/-!
PROOF. FP32: exact negation, products, sums and order (R103, R115, R127).
-/

namespace Sys2Proof.Machine

open Sys2Proof.Claims

/-! ## Exact operations -/

/-- A finite value is zero by its mantissa. -/
theorem sgn_mul_eq_zero {s : Bool} {m : ℕ} {e : ℤ} : sgn s * (m * 2 ^ e) = 0 ↔ m = 0 := by
  have hpos : (2 : ℚ) ^ e ≠ 0 := zpow_ne_zero e two_ne_zero
  cases s <;> simp [sgn, hpos]

theorem toVal_neg (v : FVal) : toVal v.neg = negV (toVal v) := by
  match v with
  | .nan => rfl
  | .inf s => rfl
  | .fin s m e => rw [FVal.neg, toVal_fin, toVal_fin, negV, sgn_not, neg_mul]

theorem toVal_mul (v w : FVal) : toVal (v.mul w) = mulV (toVal v) (toVal w) := by
  match v, w with
  | .nan, .nan | .nan, .inf _ | .nan, .fin .. | .inf _, .nan | .fin .., .nan => rfl
  | .inf s, .inf t => rfl
  | .inf s, .fin t n e' =>
    rw [FVal.mul, toVal_fin, toVal_inf, mulV]
    simp only [sgn_mul_eq_zero, beq_iff_eq, apply_ite toVal, toVal_nan, toVal_inf]
  | .fin s m e, .inf t =>
    rw [FVal.mul, toVal_fin, toVal_inf, mulV]
    simp only [sgn_mul_eq_zero, beq_iff_eq, apply_ite toVal, toVal_nan, toVal_inf]
  | .fin s m e, .fin t n e' =>
    rw [FVal.mul, toVal_fin, toVal_fin, toVal_fin, mulV, sgn_xor, zpow_add₀ two_ne_zero]
    push_cast
    congr 1
    ring

/-- Scaling to a lower exponent keeps the value. -/
theorem scaled_mul {e0 e : ℤ} (h : e0 ≤ e) (s : Bool) (m : ℕ) : ((FVal.fin s m e).scaled e0 : ℚ) * 2 ^ e0 = sgn s * (m * 2 ^ e) := by
  have hpow : (2 : ℚ) ^ (e - e0).toNat * 2 ^ e0 = 2 ^ e := by
    rw [← zpow_natCast, ← zpow_add₀ two_ne_zero, Int.toNat_of_nonneg (by omega), sub_add_cancel]
  have hmag : ((m <<< (e - e0).toNat : ℕ) : ℚ) * 2 ^ e0 = m * 2 ^ e := by
    rw [Nat.shiftLeft_eq]
    push_cast
    rw [mul_assoc, hpow]
  cases s <;>
    simp only [FVal.scaled, sgn, if_true, Bool.false_eq_true, if_false, Int.cast_neg, Int.cast_natCast, neg_mul, one_mul, hmag]

/-- The sign and magnitude of an integer at exponent e stand for it. -/
theorem sgn_natAbs (i : ℤ) : sgn (decide (i < 0)) * (i.natAbs : ℚ) = i := by
  rcases lt_or_ge i 0 with h | h
  · have : ((i.natAbs : ℤ) : ℚ) = ((-i : ℤ) : ℚ) := by congr 1; omega
    rw [Int.cast_natCast] at this
    rw [decide_eq_true h, sgn, if_pos rfl, this]
    push_cast
    ring
  · have : ((i.natAbs : ℤ) : ℚ) = (i : ℚ) := by congr 1; omega
    rw [Int.cast_natCast] at this
    rw [decide_eq_false (not_lt.2 h), sgn, if_neg Bool.false_ne_true, this, one_mul]

/-- The exact sum of two values (R103, R127). -/
theorem toVal_sum (v w : FVal) : toVal (sumExact [v, w]) = addV (toVal v) (toVal w) := by
  match v, w with
  | .nan, .nan | .nan, .inf _ | .nan, .fin .. | .inf _, .nan | .fin .., .nan => rfl
  | .inf s, .inf t => cases s <;> cases t <;> rfl
  | .inf s, .fin t n e' => cases s <;> rfl
  | .fin s m e, .inf t => cases t <;> rfl
  | .fin s m e, .fin t n e' =>
    set e0 := min e' (min e 0) with he0
    set i := (FVal.fin s m e).scaled e0 + (FVal.fin t n e').scaled e0 with hi
    have hsum : sumExact [.fin s m e, .fin t n e'] = if i = 0 then .fin (s && t) 0 0 else .fin (decide (i < 0)) i.natAbs e0 := by
      simp [sumExact, FVal.isNan, minExp, hi, he0]
    have hval : (i : ℚ) * 2 ^ e0 = sgn s * (m * 2 ^ e) + sgn t * (n * 2 ^ e') := by
      rw [hi, Int.cast_add, add_mul, scaled_mul (by omega), scaled_mul (by omega)]
    have hpos : (0 : ℚ) < 2 ^ e0 := zpow_pos two_pos e0
    rw [hsum, toVal_fin, toVal_fin, addV, ← hval]
    split
    case isTrue hz =>
      rw [toVal_fin, hz]
      congr 1
      · split
        · rfl
        · next hnz =>
          rw [sgn_mul_eq_zero, sgn_mul_eq_zero] at hnz
          have hopp : sgn s * (m * 2 ^ e) = -(sgn t * (n * 2 ^ e')) := by
            rw [hz, Int.cast_zero, zero_mul] at hval
            linarith
          have hboth : ¬(s = true ∧ t = true) := by
            rintro ⟨rfl, rfl⟩
            have hp : (0 : ℚ) < 2 ^ e := zpow_pos two_pos e
            have hp' : (0 : ℚ) < 2 ^ e' := zpow_pos two_pos e'
            simp only [sgn, if_true, neg_one_mul, neg_neg] at hopp
            have hm : (m : ℚ) * 2 ^ e = 0 := by
              have : (0 : ℚ) ≤ m * 2 ^ e := by positivity
              have : (0 : ℚ) ≤ n * 2 ^ e' := by positivity
              linarith
            have hn : (n : ℚ) * 2 ^ e' = 0 := by linarith
            refine hnz ⟨?_, ?_⟩
            · simpa [hp.ne'] using hm
            · simpa [hp'.ne'] using hn
          rw [Int.cast_zero, zero_mul, decide_eq_false (lt_irrefl _), Bool.eq_false_iff]
          simpa using hboth
      · simp
    case isFalse hz =>
      rw [toVal_fin, ← mul_assoc, sgn_natAbs]
      have hnz : (i : ℚ) * 2 ^ e0 ≠ 0 := mul_ne_zero (by exact_mod_cast hz) hpos.ne'
      have hneg : (i : ℚ) * 2 ^ e0 < 0 ↔ i < 0 := by
        rw [← zero_mul ((2 : ℚ) ^ e0), mul_lt_mul_iff_left₀ hpos]
        exact Int.cast_lt_zero
      congr 1
      split
      · next hzero => exact absurd (by rw [hval, hzero.1, hzero.2, add_zero]) hnz
      · rw [decide_eq_decide, hneg]

/-! ## The order of values -/

theorem lt_iff (v w : FVal) : v.lt w = true ↔ LessV (toVal v) (toVal w) := by
  match v, w with
  | .nan, .nan | .nan, .inf _ | .nan, .fin .. | .inf _, .nan | .fin .., .nan => simp [FVal.lt, LessV]
  | .inf s, .inf t => cases s <;> cases t <;> simp [FVal.lt, LessV]
  | .inf s, .fin t n e' => simp [FVal.lt, LessV, toVal]
  | .fin s m e, .inf t => simp [FVal.lt, LessV, toVal]
  | .fin s m e, .fin t n e' =>
    have hpos : (0 : ℚ) < 2 ^ min e e' := zpow_pos two_pos _
    rw [FVal.lt, decide_eq_true_eq, toVal_fin, toVal_fin, LessV, ← scaled_mul (min_le_left e e'), ← scaled_mul (min_le_right e e'),
      mul_lt_mul_iff_left₀ hpos, Int.cast_lt]

theorem eqv_iff (v w : FVal) : v.eqv w = true ↔ SameV (toVal v) (toVal w) := by
  match v, w with
  | .nan, .nan | .nan, .inf _ | .nan, .fin .. | .inf _, .nan | .fin .., .nan => simp [FVal.eqv, SameV]
  | .inf s, .inf t => cases s <;> cases t <;> simp [FVal.eqv, FVal.lt, SameV]
  | .inf s, .fin t n e' => cases s <;> simp [FVal.eqv, FVal.lt, SameV, toVal]
  | .fin s m e, .inf t => cases t <;> simp [FVal.eqv, FVal.lt, SameV, toVal]
  | .fin s m e, .fin t n e' =>
    have h : (FVal.fin s m e).eqv (.fin t n e') = true ↔
        ¬(FVal.fin s m e).lt (.fin t n e') = true ∧ ¬(FVal.fin t n e').lt (.fin s m e) = true := by
      simp [FVal.eqv]
    rw [h, lt_iff, lt_iff, toVal_fin, toVal_fin, LessV, LessV, SameV, not_lt, not_lt, le_antisymm_iff, and_comm]

theorem isNan_iff (x : Word) : IsNan x ↔ (F x).isNan = true := by
  rw [IsNan, ← toVal_F]
  cases F x <;> simp [toVal, FVal.isNan]

/-- A word that is not NaN has its sign bit as the sign of its value. -/
theorem V_sign {x : Word} : (∀ s, V x = .inf s → s = x.msb) ∧ ∀ s q, V x = .num s q → s = x.msb := by
  rw [← toVal_F, msb_eq_signBit]
  match hF : F x with
  | .nan => exact ⟨nofun, nofun⟩
  | .inf t =>
    refine ⟨fun s h => ?_, nofun⟩
    rw [F_eq] at hF
    rw [← Val.inf.inj h]
    split at hF
    · split at hF
      · exact (FVal.inf.inj hF).symm
      · exact nomatch hF
    · split at hF <;> exact nomatch hF
  | .fin t m e =>
    refine ⟨nofun, fun s q h => ?_⟩
    rw [toVal_fin, Val.num.injEq] at h
    rw [← h.1]
    exact (F_fin_cases hF).1

/-! ## FMIN and FMAX (R127) -/

theorem lessV_asymm {a b : Val} (h : LessV a b) : ¬LessV b a := by
  match a, b with
  | .num _ p, .num _ q => exact lt_asymm h
  | .inf s, .inf t => rintro ⟨h1, h2⟩; obtain ⟨h3, h4⟩ := h; simp_all
  | .inf s, .num _ _ => intro hc; exact absurd (h.symm.trans hc) (by decide)
  | .num _ _, .inf t => intro hc; exact absurd (h.symm.trans hc) (by decide)

theorem not_below_self (x : Word) : ¬Below x x := by
  rintro (h | ⟨h1, h2⟩)
  · exact lessV_asymm h h
  · rw [h1] at h2
    exact nomatch h2

/-- The smaller word is not below itself, and the larger one is not below it. -/
theorem not_below_of_lt {x y : Word} (h : LessV (V x) (V y)) : ¬Below y x := by
  rintro (h' | ⟨h1, h2⟩)
  · exact lessV_asymm h h'
  · rw [h1, h2] at h
    exact lt_irrefl _ h

/-- Of words that are not ordered by their values, one with its sign bit set is not above the other, and one without is not below. -/
theorem not_below_of_sign {x y : Word} (hxy : ¬LessV (V x) (V y)) (h : x.msb = false ∨ y.msb = true) : ¬Below x y := by
  rintro (hl | ⟨h1, h2⟩)
  · exact hxy hl
  · have hx := V_sign.2 _ _ h1
    have hy := V_sign.2 _ _ h2
    rw [← hx, ← hy] at h
    simp at h

/-- The order of FMIN and FMAX in the model: of words whose values are not ordered, one with its sign bit set is the smaller. -/
def smaller (x y : Word) : Bool := (F x).lt (F y) || (!(F y).lt (F x) && x.msb)

theorem not_below_of_smaller {x y : Word} (h : smaller x y = true) : ¬Below y x := by
  simp only [smaller, Bool.or_eq_true, Bool.and_eq_true, Bool.not_eq_true', ← Bool.not_eq_true, lt_iff, toVal_F] at h
  rcases h with h | ⟨h, hs⟩
  · exact not_below_of_lt h
  · exact not_below_of_sign h (.inr hs)

theorem not_below_of_not_smaller {x y : Word} (h : ¬smaller x y = true) : ¬Below x y := by
  simp only [smaller, Bool.or_eq_true, Bool.and_eq_true, Bool.not_eq_true', ← Bool.not_eq_true, lt_iff, toVal_F, not_or, not_and] at h
  obtain ⟨hlt, hs⟩ := h
  by_cases hgt : LessV (V y) (V x)
  · exact not_below_of_lt hgt
  · exact not_below_of_sign hlt (.inl (Bool.eq_false_iff.2 (hs hgt)))

theorem isNan_false {x : Word} (h : ¬IsNan x) : (F x).isNan = false := by rwa [isNan_iff, Bool.not_eq_true] at h

theorem fmin_numbers {x y : Word} (hx : ¬IsNan x) (hy : ¬IsNan y) : fmin x y = if smaller x y then x else y := by
  simp only [fmin, isNan_false hx, isNan_false hy, smaller, BitVec.msb_eq_getLsbD_last]
  cases (F x).lt (F y) <;> cases (F y).lt (F x) <;> simp

theorem fmax_numbers {x y : Word} (hx : ¬IsNan x) (hy : ¬IsNan y) : fmax x y = if smaller x y then y else x := by
  simp only [fmax, isNan_false hx, isNan_false hy, smaller, BitVec.msb_eq_getLsbD_last]
  cases (F x).lt (F y) <;> cases (F y).lt (F x) <;> simp

theorem picks_fmin (x y : Word) : Picks Below x y (fmin x y) := by
  refine ⟨fun hx hy => ?_, fun hx hy => ?_, fun hx hy => ?_, fun hx hy => ?_⟩
  · simp only [fmin, (isNan_iff x).1 hx, (isNan_iff y).1 hy, nan32]
  · simp only [fmin, (isNan_iff x).1 hx, isNan_false hy]
  · simp only [fmin, isNan_false hx, (isNan_iff y).1 hy]
  · rw [fmin_numbers hx hy]
    split
    case isTrue h => exact ⟨.inl rfl, not_below_self x, not_below_of_smaller h⟩
    case isFalse h => exact ⟨.inr rfl, not_below_of_not_smaller h, not_below_self y⟩

theorem picks_fmax (x y : Word) : Picks (fun p w => Below w p) x y (fmax x y) := by
  refine ⟨fun hx hy => ?_, fun hx hy => ?_, fun hx hy => ?_, fun hx hy => ?_⟩
  · simp only [fmax, (isNan_iff x).1 hx, (isNan_iff y).1 hy, nan32]
  · simp only [fmax, (isNan_iff x).1 hx, isNan_false hy]
  · simp only [fmax, isNan_false hx, (isNan_iff y).1 hy]
  · rw [fmax_numbers hx hy]
    split
    case isTrue h => exact ⟨.inr rfl, not_below_of_smaller h, not_below_self y⟩
    case isFalse h => exact ⟨.inl rfl, not_below_self x, not_below_of_not_smaller h⟩

end Sys2Proof.Machine

/-!
PROOF. FP32: quotients and square roots (R126, R127, R131, R132).
-/

namespace Sys2Proof.Machine

open Sys2Proof.Claims

/-! ## Division (R126, R127) -/

/-- The quotient of two mantissas, and what is left of it. -/
theorem quotient_spec {m n : ℕ} (hm : m ≠ 0) (hn : n ≠ 0) :
    ∃ (q k : ℕ) (st : Bool) (t : ℝ), quotient m n = (q, k, st) ∧ 0 ≤ t ∧ t < 1 ∧ (st = true ↔ 0 < t) ∧ 2 ^ 24 ≤ q ∧
      (q + t : ℝ) = m / n * 2 ^ k := by
  set k := 40 + (Nat.log2 n + 1) with hk
  set x := m <<< k with hx
  have hnpos : (0 : ℝ) < n := by exact_mod_cast Nat.pos_of_ne_zero hn
  have hdiv : (x : ℝ) = n * (x / n : ℕ) + (x % n : ℕ) := by exact_mod_cast (Nat.div_add_mod x n).symm
  have hmul : (x : ℝ) = m * 2 ^ k := by rw [hx, Nat.shiftLeft_eq]; push_cast; rfl
  refine ⟨x / n, k, x % n != 0, (x % n : ℕ) / n, rfl, by positivity, ?_, ?_, ?_, ?_⟩
  · rw [div_lt_one hnpos]
    exact_mod_cast Nat.mod_lt x (Nat.pos_of_ne_zero hn)
  · rw [bne_iff_ne, ne_eq, div_pos_iff_of_pos_right hnpos, Nat.cast_pos, Nat.pos_iff_ne_zero]
  · rw [Nat.le_div_iff_mul_le (Nat.pos_of_ne_zero hn), hx, Nat.shiftLeft_eq, hk, pow_add]
    have hlog : n < 2 ^ (Nat.log2 n + 1) := Nat.lt_log2_self
    calc 2 ^ 24 * n ≤ 2 ^ 40 * 2 ^ (Nat.log2 n + 1) := Nat.mul_le_mul (by norm_num) hlog.le
      _ ≤ m * (2 ^ 40 * 2 ^ (Nat.log2 n + 1)) := Nat.le_mul_of_pos_left _ (Nat.pos_of_ne_zero hm)
  · rw [← mul_div_right_comm, ← hmul, eq_div_iff hnpos.ne', hdiv]
    field_simp

/-- A zero of a sign. -/
theorem rounds_zero (s : Bool) : Rounds (.num s 0) (rne32 (.fin s 0 0)) := by
  have h := rounds_rne32 (.fin s 0 0)
  rwa [toVal_fin, Nat.cast_zero, zero_mul, mul_zero] at h

theorem rounds_fdiv (x y : Word) : Rounds (divV (V x) (V y)) (fdiv x y) := by
  rw [← toVal_F, ← toVal_F, fdiv]
  match F x, F y with
  | .nan, .nan | .nan, .inf _ | .nan, .fin .. | .inf _, .nan | .fin .., .nan => exact rfl
  | .inf s, .inf t => exact rfl
  | .inf s, .fin t n e' => exact rounds_rne32 (.inf (s != t))
  | .fin s m e, .inf t => exact rounds_zero _
  | .fin s m e, .fin t n e' =>
    simp only [toVal_fin, divV, sgn_mul_eq_zero, beq_iff_eq]
    split
    · split
      · exact rfl
      · exact rounds_rne32 (.inf (s != t))
    · next hn =>
      split
      · next hm =>
        rw [hm, Nat.cast_zero, zero_mul, mul_zero, zero_div]
        exact rounds_zero _
      · next hm =>
        obtain ⟨q, k, st, r, hquot, hr0, hr1, hst, hbits, hval⟩ := quotient_spec hm hn
        have hround := roundR_roundMag (s != t) (e - e' - k) hr0 hr1 hst fun _ => hbits
        have hvalue : ((sgn s * (m * 2 ^ e) / (sgn t * (n * 2 ^ e')) : ℚ) : ℝ) = sgn (s != t) * ((q + r) * 2 ^ (e - e' - k)) := by
          have hnpos : (n : ℝ) ≠ 0 := by exact_mod_cast hn
          have hsq : (sgn t : ℝ) * sgn t = 1 := by exact_mod_cast sgn_mul_self t
          have hst0 : (sgn t : ℝ) ≠ 0 := by rintro h0; rw [h0, zero_mul] at hsq; exact zero_ne_one hsq
          rw [hval, sgn_xor, zpow_sub₀ two_ne_zero, zpow_sub₀ two_ne_zero, zpow_natCast]
          push_cast
          field_simp
          rw [pow_two, hsq]
          ring
        rw [hquot, Rounds, hvalue]
        exact hround

/-! ## Square roots (R131, R132) -/

/-- Digit by digit from bit k down, the root of n is found if it lies within 2^k above r. -/
theorem isqrtAux_spec {n : ℕ} : ∀ {k r : ℕ}, r * r ≤ n → n < (r + 2 ^ k) * (r + 2 ^ k) →
    isqrtAux n k r * isqrtAux n k r ≤ n ∧ n < (isqrtAux n k r + 1) * (isqrtAux n k r + 1)
  | 0, _, hlow, hhigh => ⟨hlow, hhigh⟩
  | k + 1, r, hlow, hhigh => by
    rw [pow_succ] at hhigh
    rw [isqrtAux]
    split
    case isTrue h => exact isqrtAux_spec h (by rwa [Nat.add_assoc, ← Nat.mul_two])
    case isFalse h => exact isqrtAux_spec hlow (not_le.1 h)

theorem isqrt_eq (n : ℕ) : isqrt n = Nat.sqrt n := by
  have hhigh : n < (0 + 2 ^ (Nat.log2 n / 2 + 1)) * (0 + 2 ^ (Nat.log2 n / 2 + 1)) := by
    rw [Nat.zero_add, ← pow_add]
    refine Nat.lt_log2_self.trans_le (Nat.pow_le_pow_right two_pos ?_)
    omega
  exact Nat.eq_sqrt.2 (isqrtAux_spec (Nat.zero_le _) hhigh)

/-- The root of an integer, and what is left of it. -/
theorem isqrt_spec (x : ℕ) : (isqrt x : ℝ) ≤ √x ∧ √x < isqrt x + 1 ∧ ((isqrt x * isqrt x != x) = true ↔ 0 < √x - isqrt x) := by
  have hle : (isqrt x : ℝ) ≤ √x := isqrt_eq x ▸ Real.nat_sqrt_le_real_sqrt
  refine ⟨hle, isqrt_eq x ▸ Real.real_sqrt_lt_nat_sqrt_succ, ?_⟩
  rw [bne_iff_ne, sub_pos, lt_iff_le_and_ne, and_iff_right hle, not_iff_not, eq_comm (a := (isqrt x : ℝ)),
    Real.sqrt_eq_iff_mul_self_eq (Nat.cast_nonneg _) (Nat.cast_nonneg _), eq_comm]
  exact_mod_cast Iff.rfl

/-- The root of m × 2^e from that of x = m × 2^(e - 2e2). -/
theorem sqrt_scaled {m x : ℕ} {e e2 : ℤ} (h : (x : ℝ) * 2 ^ (2 * e2) = m * 2 ^ e) : √(m * 2 ^ e) = √x * 2 ^ e2 := by
  rw [← h, Real.sqrt_mul (Nat.cast_nonneg _), two_mul, zpow_add₀ two_ne_zero, Real.sqrt_mul_self (two_zpow_pos e2).le]

theorem roundR_isqrt {m x : ℕ} {e e2 : ℤ} (h : (x : ℝ) * 2 ^ (2 * e2) = m * 2 ^ e) (hx : 2 ^ 48 ≤ x) :
    RoundR false √(m * 2 ^ e) (signedWord false (fmt32.roundMag (isqrt x) e2 (isqrt x * isqrt x != x))) := by
  obtain ⟨hle, hlt, hst⟩ := isqrt_spec x
  have hbits : 2 ^ 24 ≤ isqrt x := by
    rw [isqrt_eq, Nat.le_sqrt]
    exact hx
  have hround := roundR_roundMag false e2 (sub_nonneg.2 hle) (by linarith) hst fun _ => hbits
  rwa [add_sub_cancel, ← sqrt_scaled h, sgn, if_neg Bool.false_ne_true, Rat.cast_one, one_mul] at hround

theorem shiftLeft_ge {m c : ℕ} (hm : m ≠ 0) (hc : 48 ≤ c) : 2 ^ 48 ≤ m <<< c := by
  rw [Nat.shiftLeft_eq]
  exact (Nat.pow_le_pow_right two_pos hc).trans (Nat.le_mul_of_pos_left _ (Nat.pos_of_ne_zero hm))

/-- FSQRT takes the root of a mantissa with an even exponent. -/
theorem fsqrt_scale {m : ℕ} (hm : m ≠ 0) (e : ℤ) : ∃ (x : ℕ) (h : ℤ), (if e % 2 == 0 then m <<< 80 else m <<< 81) = x ∧
    (if e % 2 == 0 then (e - 80) / 2 else (e - 81) / 2) = h ∧ (x : ℝ) * 2 ^ (2 * h) = m * 2 ^ e ∧ 2 ^ 48 ≤ x := by
  have hscale : ∀ (c : ℕ) (h : ℤ), (c : ℤ) + 2 * h = e → ((m <<< c : ℕ) : ℝ) * 2 ^ (2 * h) = m * 2 ^ e := by
    rintro c h rfl
    rw [Nat.shiftLeft_eq, Nat.cast_mul, Nat.cast_pow, Nat.cast_ofNat, mul_assoc, two_pow_mul_zpow]
  refine ⟨_, _, rfl, rfl, ?_⟩
  simp only [beq_iff_eq]
  split
  · exact ⟨hscale 80 _ (by omega), shiftLeft_ge hm (by norm_num)⟩
  · exact ⟨hscale 81 _ (by omega), shiftLeft_ge hm (by norm_num)⟩

theorem signedWord_false (p : ℕ) : signedWord false p = BitVec.ofNat 32 p := rfl

theorem fop1_fsqrt : Fop1 fsqrt (fun x s => if s then 0x7FC00000#32 else x) (fun x s q w =>
    if q = 0 then w = x else if s then w = 0x7FC00000#32 else RoundR false √q w) := by
  intro x
  rw [← toVal_F, fsqrt]
  match F x with
  | .nan => exact rfl
  | .inf s => exact rfl
  | .fin s m e =>
    simp only [toVal_fin, sgn_mul_eq_zero]
    by_cases hm : m = 0
    · simp only [hm, beq_self_eq_true, if_true]
    obtain ⟨y, h, hx, hh, hval, hbits⟩ := fsqrt_scale hm e
    simp only [if_neg hm, beq_eq_false_iff_ne.2 hm, Bool.false_eq_true, if_false, hx, hh]
    split
    · rfl
    · next hs =>
      have hround := roundR_isqrt hval hbits
      rw [Bool.eq_false_iff.2 hs, sgn, if_neg Bool.false_ne_true, one_mul, Rat.cast_mul, Rat.cast_natCast, Rat.cast_zpow, Rat.cast_ofNat,
        ← signedWord_false]
      exact hround

/-- The mantissa of the argument of FRSQ, with an even exponent. -/
theorem frsq_scale (m : ℕ) (e : ℤ) : ∃ (m' : ℕ) (h : ℤ), (if e % 2 == 0 then (m, e) else (m <<< 1, e - 1)) = (m', 2 * h) ∧
    (m' : ℝ) * 2 ^ (2 * h) = m * 2 ^ e ∧ (m' = 0 ↔ m = 0) := by
  rcases Int.even_or_odd' e with ⟨h, rfl | rfl⟩
  · exact ⟨m, h, by simp, rfl, Iff.rfl⟩
  · refine ⟨m <<< 1, h, by simp [Int.add_emod], ?_, by simp [Nat.shiftLeft_eq]⟩
    rw [Nat.shiftLeft_eq, zpow_add_one₀ two_ne_zero]
    push_cast
    ring

/-- The root of the quotient 4^k / m, and what is left of it. -/
theorem isqrt_div_spec {m : ℕ} (hm : m ≠ 0) (k : ℕ) :
    let r := isqrt ((1 <<< (2 * k)) / m)
    (r : ℝ) ≤ 2 ^ k / √m ∧ 2 ^ k / √m < r + 1 ∧ ((r * r * m != 1 <<< (2 * k)) = true ↔ 0 < 2 ^ k / √m - r) := by
  have hpos : 0 < m := Nat.pos_of_ne_zero hm
  have hmpos : (0 : ℝ) < √m := Real.sqrt_pos.2 (by exact_mod_cast hpos)
  have hsq : √(m : ℝ) * √m = m := Real.mul_self_sqrt (Nat.cast_nonneg _)
  have hpow : 1 <<< (2 * k) = 2 ^ k * 2 ^ k := by rw [Nat.one_shiftLeft, two_mul, pow_add]
  intro r
  obtain ⟨hlow, hhigh⟩ : r * r ≤ (1 <<< (2 * k)) / m ∧ (1 <<< (2 * k)) / m < (r + 1) * (r + 1) := by
    have : r = Nat.sqrt ((1 <<< (2 * k)) / m) := isqrt_eq _
    exact Nat.eq_sqrt.1 this
  rw [hpow] at hlow hhigh ⊢
  rw [Nat.le_div_iff_mul_le hpos] at hlow
  rw [Nat.div_lt_iff_lt_mul hpos] at hhigh
  have hform : ∀ a : ℕ, ((a * a * m : ℕ) : ℝ) = (a * √m) ^ 2 := by
    intro a
    push_cast
    rw [mul_pow, sq √(m : ℝ), hsq]
    ring
  have htop : ((2 ^ k * 2 ^ k : ℕ) : ℝ) = (2 ^ k) ^ 2 := by push_cast; ring
  have hle : (r : ℝ) * √m ≤ 2 ^ k := by
    refine (sq_le_sq₀ (by positivity) (by positivity)).1 ?_
    rw [← hform, ← htop]
    exact_mod_cast hlow
  have hlt : (2 : ℝ) ^ k < ((r + 1 : ℕ) : ℝ) * √m := by
    refine lt_of_pow_lt_pow_left₀ 2 (by positivity) ?_
    rw [← hform, ← htop]
    exact_mod_cast hhigh
  refine ⟨(le_div_iff₀ hmpos).2 hle, (div_lt_iff₀ hmpos).2 (by push_cast at hlt; exact hlt), ?_⟩
  rw [bne_iff_ne, sub_pos, lt_div_iff₀ hmpos, lt_iff_le_and_ne, and_iff_right hle, not_iff_not]
  rw [← pow_left_inj₀ (by positivity) (by positivity : (0 : ℝ) ≤ 2 ^ k) two_ne_zero, ← hform, ← htop]
  exact_mod_cast Iff.rfl

theorem fop1_frsq : Fop1 frsq (fun _ s => if s then 0x7FC00000#32 else 0) (fun _ s q w =>
    if q = 0 then w = infW s else if s then w = 0x7FC00000#32 else RoundR false (1 / √q) w) := by
  intro x
  rw [← toVal_F, frsq]
  match F x with
  | .nan => exact rfl
  | .inf s => exact rfl
  | .fin s m e =>
    simp only [toVal_fin, sgn_mul_eq_zero]
    by_cases hm : m = 0
    · simp only [hm, beq_self_eq_true, if_true]
      exact rounds_rne32 (.inf s)
    simp only [if_neg hm, beq_eq_false_iff_ne.2 hm, Bool.false_eq_true, if_false]
    split
    · rfl
    next hs =>
    obtain ⟨m', h, hpair, hval, hzero⟩ := frsq_scale m e
    rw [hpair]
    have hm' : m' ≠ 0 := mt hzero.1 hm
    set k := 60 + (Nat.log2 m' + 1) with hk
    obtain ⟨hle, hlt, hst⟩ := isqrt_div_spec hm' k
    have hbits : 2 ^ 24 ≤ isqrt ((1 <<< (2 * k)) / m') := by
      rw [isqrt_eq, Nat.le_sqrt, Nat.le_div_iff_mul_le (Nat.pos_of_ne_zero hm'), Nat.one_shiftLeft]
      have hlog : m' < 2 ^ (Nat.log2 m' + 1) := Nat.lt_log2_self
      calc 2 ^ 24 * 2 ^ 24 * m' ≤ 2 ^ 48 * 2 ^ (Nat.log2 m' + 1) := Nat.mul_le_mul (by norm_num) hlog.le
        _ = 2 ^ (48 + (Nat.log2 m' + 1)) := (pow_add ..).symm
        _ ≤ 2 ^ (2 * k) := Nat.pow_le_pow_right two_pos (by omega)
    have hround := roundR_roundMag false (-(k : ℤ) - h) (sub_nonneg.2 hle) (by linarith) hst fun _ => hbits
    have hroot : (1 / √(((sgn s * (m * 2 ^ e) : ℚ)) : ℝ)) = 2 ^ k / √m' * 2 ^ (-(k : ℤ) - h) := by
      rw [Bool.eq_false_iff.2 hs, sgn, if_neg Bool.false_ne_true, one_mul]
      push_cast
      rw [sqrt_scaled hval, zpow_sub₀ two_ne_zero, zpow_neg, zpow_natCast]
      field_simp
    have hhalf : 2 * h / 2 = h := by omega
    rw [hroot, ← signedWord_false]
    simp only [hhalf]
    rwa [add_sub_cancel, sgn, if_neg Bool.false_ne_true, Rat.cast_one, one_mul] at hround

end Sys2Proof.Machine

/-!
PROOF. FP32: rounding to an integer and the classes (R131 to R133).
-/

namespace Sys2Proof.Machine

open Sys2Proof.Claims

/-! ## Rounding to an integer (R131, R132) -/

/-- Below the point: m × 2^-k as an integer part and a rest. -/
theorem split_fraction (m k : ℕ) : (m : ℚ) * 2 ^ (-(k : ℤ)) = (m >>> k : ℕ) + (m % 2 ^ k : ℕ) / 2 ^ k := by
  have hdiv : (m : ℚ) = 2 ^ k * (m >>> k : ℕ) + (m % 2 ^ k : ℕ) := by
    rw [Nat.shiftRight_eq_div_pow]
    exact_mod_cast (Nat.div_add_mod m (2 ^ k)).symm
  have hpos : (2 : ℚ) ^ k ≠ 0 := by positivity
  rw [zpow_neg, zpow_natCast]
  conv_lhs => rw [hdiv]
  field_simp

theorem fraction_lt_one (m k : ℕ) : ((m % 2 ^ k : ℕ) : ℚ) / 2 ^ k < 1 := by
  rw [div_lt_one (by positivity)]
  exact_mod_cast Nat.mod_lt m (by positivity)

theorem neg_exp {e : ℤ} (he : ¬0 ≤ e) : e = -((-e).toNat : ℤ) := by omega

/-- m × 2^e with e ≥ 0. -/
theorem shiftLeft_value {K : Type} [Field K] (m : ℕ) {e : ℤ} (he : 0 ≤ e) : ((m <<< e.toNat : ℕ) : K) = m * 2 ^ e := by
  have hz : (2 : K) ^ e.toNat = 2 ^ e := by rw [← zpow_natCast, Int.toNat_of_nonneg he]
  rw [Nat.shiftLeft_eq, Nat.cast_mul, Nat.cast_pow, Nat.cast_ofNat, hz]

theorem intPart_eq_floor (m : ℕ) (e : ℤ) : (intPart m e : ℤ) = ⌊(m * 2 ^ e : ℚ)⌋ := by
  symm
  rw [intPart]
  split
  case isTrue he => rw [← shiftLeft_value m he, Int.floor_natCast]
  case isFalse he =>
    rw [neg_exp he, split_fraction, Int.floor_eq_iff]
    have hlt := fraction_lt_one m (-e).toNat
    have hnn : (0 : ℚ) ≤ ((m % 2 ^ (-e).toNat : ℕ) : ℚ) / 2 ^ (-e).toNat := by positivity
    simp only [neg_neg, Int.toNat_natCast, Int.cast_natCast]
    constructor <;> linarith

/-- The magnitude rounded up. -/
def intUp (m : ℕ) (e : ℤ) : ℕ :=
  if 0 ≤ e then m <<< e.toNat else if m % 2 ^ (-e).toNat ≠ 0 then (m >>> (-e).toNat) + 1 else m >>> (-e).toNat

theorem intUp_eq_ceil (m : ℕ) (e : ℤ) : (intUp m e : ℤ) = ⌈(m * 2 ^ e : ℚ)⌉ := by
  symm
  rw [intUp]
  split
  case isTrue he => rw [← shiftLeft_value m he, Int.ceil_natCast]
  case isFalse he =>
    rw [neg_exp he, split_fraction, Int.ceil_eq_iff]
    have hlt := fraction_lt_one m (-e).toNat
    simp only [neg_neg, Int.toNat_natCast]
    split
    case isTrue hr =>
      have hpos : (0 : ℚ) < ((m % 2 ^ (-e).toNat : ℕ) : ℚ) / 2 ^ (-e).toNat := by
        have : (0 : ℚ) < (m % 2 ^ (-e).toNat : ℕ) := by exact_mod_cast Nat.pos_of_ne_zero hr
        positivity
      simp only [Int.cast_natCast, Int.cast_add, Int.cast_one, Nat.cast_add, Nat.cast_one]
      constructor <;> linarith
    case isFalse hr =>
      rw [not_not.1 hr, Nat.cast_zero, zero_div, Int.cast_natCast]
      constructor <;> linarith

theorem roundInt_trunc (s : Bool) (m : ℕ) (e : ℤ) : roundInt .trunc s m e = intPart m e := rfl

theorem roundInt_floor (s : Bool) (m : ℕ) (e : ℤ) : roundInt .floor s m e = if s then intUp m e else intPart m e := by
  cases s <;> simp only [roundInt, intUp, intPart] <;> split <;> simp

theorem roundInt_ceil (s : Bool) (m : ℕ) (e : ℤ) : roundInt .ceil s m e = if s then intPart m e else intUp m e := by
  cases s <;> simp only [roundInt, intUp, intPart] <;> split <;> simp

theorem roundInt_nearest (s : Bool) (m : ℕ) (e : ℤ) :
    |(m * 2 ^ e : ℚ) - roundInt .nearest s m e| ≤ 1 / 2 ∧
      (|(m * 2 ^ e : ℚ) - roundInt .nearest s m e| = 1 / 2 → roundInt .nearest s m e % 2 = 0) := by
  rw [roundInt]
  split
  case isTrue he =>
    rw [← shiftLeft_value m he, sub_self, abs_zero]
    exact ⟨by norm_num, fun hc => absurd hc (by norm_num)⟩
  case isFalse he =>
    have hnear := round_half_even (n0 := m >>> (-e).toNat) (t := (0 : ℚ)) (sticky := false) (by omega : 1 ≤ (-e).toNat)
      (Nat.mod_lt m (by positivity)) le_rfl zero_lt_one (by simp)
    simp only [Bool.false_or, add_zero] at hnear ⊢
    have hval : (m * 2 ^ e : ℚ) = (m >>> (-e).toNat : ℕ) + (m % 2 ^ (-e).toNat : ℕ) / 2 ^ (-e).toNat := by
      conv_lhs => rw [neg_exp he, split_fraction]
    rwa [← hval] at hnear

/-- An integer magnitude near m × 2^e has few enough bits. -/
theorem roundInt_le (mode : IntMode) (s : Bool) (m : ℕ) {e : ℤ} (he : ¬0 ≤ e) : roundInt mode s m e ≤ m / 2 + 1 := by
  have hhalf : m >>> (-e).toNat ≤ m / 2 := by
    rw [Nat.shiftRight_eq_div_pow]
    exact Nat.div_le_div_left (Nat.le_self_pow (by omega) 2) two_pos
  rw [roundInt, if_neg he]
  cases mode with
  | trunc => exact hhalf.trans (Nat.le_succ _)
  | floor | ceil | nearest =>
    simp only
    split <;> omega

/-- An FP32 number rounded to an integer is written exactly. -/
theorem V_roundInt {x : Word} {s : Bool} {m : ℕ} {e : ℤ} (h : F x = .fin s m e) (mode : IntMode) :
    V (rne32 (.fin s (roundInt mode s m e) 0)) = .num s (sgn s * roundInt mode s m e) := by
  obtain ⟨hm, hemin, hemax⟩ := F_fin_bounds h
  have hval := toVal_fin s (roundInt mode s m e) 0
  rw [zpow_zero, mul_one] at hval
  rw [← hval]
  refine V_rne32_exact s ?_ ?_ <;> rw [zpow_zero, mul_one] <;> by_cases he : 0 ≤ e
  · refine ⟨m, e, by rw [show fmt32.qmin = -149 by decide]; omega, by rw [abs_of_nonneg (by positivity)]; exact_mod_cast hm, ?_⟩
    rw [roundInt, if_pos he]
    simp [shiftLeft_value (K := ℝ) m he]
  · have hle := roundInt_le mode s m he
    have hlt : roundInt mode s m e < 2 ^ (fmt32.mb + 1) := by rw [show fmt32.mb + 1 = 24 by decide]; omega
    exact ⟨roundInt mode s m e, 0, by decide, by rw [abs_of_nonneg (by positivity)]; exact_mod_cast hlt, by simp⟩
  · rw [roundInt, if_pos he, shiftLeft_value m he]
    have hm' : (m : ℝ) ≤ 2 ^ 24 - 1 := by
      have : m + 1 ≤ 2 ^ 24 := hm
      have : ((m + 1 : ℕ) : ℝ) ≤ (2 ^ 24 : ℕ) := by exact_mod_cast this
      push_cast at this
      linarith
    calc (m : ℝ) * 2 ^ e ≤ (2 ^ 24 - 1) * 2 ^ (104 : ℤ) :=
          mul_le_mul hm' (zpow_le_zpow_right₀ one_le_two hemax) (two_zpow_pos e).le (by norm_num)
      _ < 2 ^ 128 - 2 ^ 103 := by norm_num
  · have hle := roundInt_le mode s m he
    have hlt : roundInt mode s m e < 2 ^ 24 := by omega
    calc ((roundInt mode s m e : ℕ) : ℝ) < (2 ^ 24 : ℕ) := by exact_mod_cast hlt
      _ < 2 ^ 128 - 2 ^ 103 := by norm_num

/-- A magnitude k with a sign, as the integer that it is. -/
theorem num_sgn_int (s : Bool) (k : ℕ) :
    Val.num s (sgn s * k) =
      .num (if (if s then -(k : ℤ) else k) = 0 then s else (if s then -(k : ℤ) else k) < 0) (if s then -(k : ℤ) else k : ℤ) := by
  cases s
  · simp [sgn]
  · by_cases hk : k = 0
    · simp [sgn, hk]
    · simp [sgn, hk, Nat.pos_of_ne_zero hk]

/-- FFLOOR to FRINT: r holds of the operand and the signed magnitude that the rounding gives. -/
theorem toInt_fround {mode : IntMode} {r : ℚ → ℤ → Prop}
    (h : ∀ (s : Bool) (m : ℕ) (e : ℤ), r (sgn s * (m * 2 ^ e)) (if s then -(roundInt mode s m e : ℤ) else roundInt mode s m e)) :
    ToInt (fround mode) r := by
  intro x
  rw [← toVal_F, fround]
  match hF : F x with
  | .nan => exact rfl
  | .inf s => exact rfl
  | .fin s m e =>
    rw [toVal_fin]
    exact ⟨_, h s m e, (V_roundInt hF mode).trans (num_sgn_int s _)⟩

theorem toInt_floor : ToInt (fround .floor) fun q n => n = ⌊q⌋ := by
  refine toInt_fround fun s m e => ?_
  rw [roundInt_floor]
  cases s
  · simp [sgn, intPart_eq_floor]
  · simp [sgn, intUp_eq_ceil, Int.floor_neg]

theorem toInt_ceil : ToInt (fround .ceil) fun q n => n = ⌈q⌉ := by
  refine toInt_fround fun s m e => ?_
  rw [roundInt_ceil]
  cases s
  · simp [sgn, intUp_eq_ceil]
  · simp [sgn, intPart_eq_floor, Int.ceil_neg]

theorem toInt_trunc : ToInt (fround .trunc) fun q n => n = if q < 0 then ⌈q⌉ else ⌊q⌋ := by
  refine toInt_fround fun s m e => ?_
  have hnn : (0 : ℚ) ≤ m * 2 ^ e := by positivity
  rw [roundInt_trunc, intPart_eq_floor]
  cases s
  · simp only [sgn, Bool.false_eq_true, if_false, one_mul, if_neg (not_lt.2 hnn)]
  · simp only [sgn, if_true, neg_one_mul, Int.ceil_neg, Int.floor_neg]
    split
    · rfl
    · next hneg =>
      have hz : (m : ℚ) * 2 ^ e = 0 := by linarith
      simp [hz]

theorem toInt_nearest : ToInt (fround .nearest) fun q n => |q - n| ≤ 1 / 2 ∧ (|q - n| = 1 / 2 → n % 2 = 0) := by
  refine toInt_fround fun s m e => ?_
  obtain ⟨hle, htie⟩ := roundInt_nearest s m e
  have hfold : |sgn s * (m * 2 ^ e) - ((if s then -(roundInt .nearest s m e : ℤ) else roundInt .nearest s m e : ℤ) : ℚ)| =
      |(m * 2 ^ e : ℚ) - roundInt .nearest s m e| := by
    cases s
    · simp [sgn]
    · rw [← abs_neg]
      simp only [sgn, if_true]
      push_cast
      ring_nf
  rw [hfold]
  refine ⟨hle, fun heq => ?_⟩
  have := htie heq
  split <;> omega

/-! ## FCLASS (R133) -/

theorem fclass_eq (x : Word) : fclass x =
    if expo x = 255 then (if mant x = 0 then (if signBit x then 1 else 128) else 256)
    else if expo x = 0 then (if mant x = 0 then (if signBit x then 8 else 16) else (if signBit x then 4 else 32))
    else if signBit x then 2 else 64 := by
  have hsign : x.getLsbD 31 = signBit x := by rw [← msb_eq_signBit, BitVec.msb_eq_getLsbD_last]
  have hexp : (x >>> 23).toNat % 256 = expo x := by rw [BitVec.toNat_ushiftRight, Nat.shiftRight_eq_div_pow]; rfl
  have hmant : x.toNat % 2 ^ 23 = mant x := rfl
  rw [fclass]
  simp only [hsign, hexp, hmant]
  by_cases h255 : expo x = 255
  · by_cases hm : mant x = 0 <;> cases signBit x <;> simp [h255, hm]
  · by_cases h0 : expo x = 0
    · by_cases hm : mant x = 0 <;> cases signBit x <;> simp [h0, hm]
    · cases signBit x <;> simp [h255, h0]

/-- What FCLASS gives of a value. -/
theorem fclass_value (x : Word) : fclass x = match V x with
    | .nan => 256
    | .inf s => if s then 1 else 128
    | .num s q =>
      if q = 0 then (if s then 8 else 16)
      else if |q| < 2 ^ (-126 : ℤ) then (if s then 4 else 32)
      else if s then 2 else 64 := by
  have habs : ∀ (s : Bool) (m : ℕ) (e : ℤ), |sgn s * ((m : ℚ) * 2 ^ e)| = m * 2 ^ e := by
    intro s m e
    rw [abs_mul, abs_sgn, one_mul, abs_of_nonneg (by positivity)]
  have hmant := mant_lt x
  rw [fclass_eq, ← toVal_F, F_eq]
  by_cases h255 : expo x = 255
  · by_cases hm : mant x = 0 <;> simp [h255, hm]
  by_cases h0 : expo x = 0
  · have hsmall : (mant x : ℚ) * 2 ^ (-149 : ℤ) < 2 ^ (-126 : ℤ) := by
      have hlt : (mant x : ℚ) < 2 ^ 23 := by exact_mod_cast hmant
      calc (mant x : ℚ) * 2 ^ (-149 : ℤ) < 2 ^ 23 * 2 ^ (-149 : ℤ) := mul_lt_mul_of_pos_right hlt (by positivity)
        _ = 2 ^ (-126 : ℤ) := by norm_num
    simp only [h0, if_neg (show ¬(0 = 255) by decide), if_true, toVal_fin, sgn_mul_eq_zero, habs, if_pos hsmall]
  · have hlarge : ¬((2 ^ 23 + mant x : ℕ) : ℚ) * 2 ^ ((expo x : ℤ) - 150) < 2 ^ (-126 : ℤ) := by
      rw [not_lt]
      calc (2 : ℚ) ^ (-126 : ℤ) = 2 ^ 23 * 2 ^ (-149 : ℤ) := by norm_num
        _ ≤ ((2 ^ 23 + mant x : ℕ) : ℚ) * 2 ^ ((expo x : ℤ) - 150) := by
          refine mul_le_mul ?_ (zpow_le_zpow_right₀ one_le_two (by omega)) (by positivity) (by positivity)
          exact_mod_cast Nat.le_add_right _ _
    have hne : 2 ^ 23 + mant x ≠ 0 := by omega
    simp only [if_neg h255, if_neg h0, toVal_fin, sgn_mul_eq_zero, habs, if_neg hlarge, if_neg hne]

end Sys2Proof.Machine

/-!
PROOF. Conversions between the formats (R107, R134).
-/

namespace Sys2Proof.Machine

open Sys2Proof.Claims

/-! ## Conversions to an integer (R107) -/

theorem truncTo_truncSat (lo hi : ℤ) (x : Word) : TruncTo lo hi x (truncSat lo hi (F x)) := by
  rw [TruncTo, ← toVal_F]
  match F x with
  | .nan => exact rfl
  | .inf s => exact rfl
  | .fin s m e =>
    simp only [toVal_fin, truncSat, wordOfInt, intPart_eq_floor]
    cases s
    · simp only [sgn, Bool.false_eq_true, if_false, one_mul]
    · simp only [sgn, if_true, neg_one_mul, Int.ceil_neg]

/-! ## Conversions to a narrow format (R107) -/

theorem Fmt.clip_of_ge {f : Fmt} {p : ℕ} (h : f.maxPat ≤ p) (hovf : f.ovfPat = f.maxPat) : f.clip p = f.maxPat := by
  rw [clip]
  split <;> omega

/-- A rounded pattern fits the bits of its format. -/
theorem Fmt.rne_lt {f : Fmt} (hf : f.Sound) (hovf : f.ovfPat < 2 ^ (f.eb + f.mb)) (hnan : f.nanPat < 2 ^ (f.eb + f.mb + 1)) (v : FVal) :
    f.rne v < 2 ^ (f.eb + f.mb + 1) := by
  have hmax := maxPat_lt hf
  have hsigned : ∀ (s : Bool) {p : ℕ}, p < 2 ^ (f.eb + f.mb) → f.signed s p < 2 ^ (f.eb + f.mb + 1) := by
    intro s p hp
    rw [signed, pow_succ]
    split <;> omega
  match v with
  | .nan => exact hnan
  | .inf s =>
    refine hsigned s ?_
    split
    · rw [Nat.shiftLeft_eq, pow_add]
      exact Nat.mul_lt_mul_of_pos_right (Nat.sub_lt (by positivity) one_pos) (by positivity)
    · exact hmax
  | .fin s m e =>
    obtain ⟨n, q, -, heq⟩ := roundMag_roundsTo_exact f m e
    refine hsigned s ?_
    rw [heq, clip]
    split <;> omega

/-- A finite value in a format: what holds from a bound on its magnitude on, and the nearest pattern below that. -/
theorem rne_fin {f : Fmt} (hf : f.Sound) {far : ℚ → Prop} {ovf : ℕ} (s : Bool) (m : ℕ) (e : ℤ)
    (hfar : ∀ n q, RoundsTo f.mb f.qmin (m * 2 ^ e) n q → far (m * 2 ^ e) → f.clip (f.pat n q) = ovf)
    (hnear : ∀ n q, RoundsTo f.mb f.qmin (m * 2 ^ e) n q → ¬far (m * 2 ^ e) → f.pat n q ≤ f.maxPat) :
    (far |sgn s * (m * 2 ^ e)| → f.rne (.fin s m e) = f.signed s ovf) ∧
      (¬far |sgn s * (m * 2 ^ e)| →
        NearestIn (valOf f.eb f.mb f.bias f.ieee) s ((sgn s * (m * 2 ^ e) : ℚ) : ℝ) (f.rne (.fin s m e))) := by
  obtain ⟨n, q, h, heq⟩ := roundMag_roundsTo_exact f m e
  rw [abs_mul, abs_sgn, one_mul, abs_of_nonneg (by positivity), Fmt.rne, heq]
  refine ⟨fun hf' => by rw [hfar n q h hf'], fun hf' => ?_⟩
  have hp := hnear n q h hf'
  rw [Fmt.clip_of_le hp]
  push_cast
  exact nearestIn_pat hf s h hp

theorem cast_value (m : ℕ) (e : ℤ) : ((m * 2 ^ e : ℚ) : ℝ) = m * 2 ^ e := by push_cast; rfl

theorem narrow_toB16 (x : Word) : Narrow valB16 x (toB16 x).toNat 0x7FC0 (fun s => if s then 0xFF80 else 0x7F80)
    (fun m => 2 ^ 128 - 2 ^ 119 ≤ m) (fun s => if s then 0xFF80 else 0x7F80) := by
  have hnat : (toB16 x).toNat = fmtB16.rne (F x) := by
    rw [toB16, BitVec.toNat_ofNat]
    exact Nat.mod_eq_of_lt (Fmt.rne_lt fmtB16_sound (by decide) (by decide) _)
  have hmax : fmtB16.maxPat = fmtB16.pat 255 120 := by decide
  have hlimit : ((255 : ℕ) + 1 / 2 : ℝ) * 2 ^ (120 : ℤ) = ((2 ^ 128 - 2 ^ 119 : ℚ) : ℝ) := by norm_num
  rw [Narrow, ← toVal_F, hnat]
  match F x with
  | .nan => exact rfl
  | .inf s => cases s <;> exact rfl
  | .fin s m e =>
    have h := rne_fin fmtB16_sound (far := fun m => 2 ^ 128 - 2 ^ 119 ≤ m) (ovf := 0x7F80) s m e ?_ ?_
    · rw [toVal_fin]
      refine ⟨fun hfar => (h.1 hfar).trans ?_, h.2⟩
      cases s <;> rfl
    · intro n q hr hfar
      refine Fmt.clip_of_lt ?_
      rw [hmax]
      refine hr.lt_pat (by decide) (by decide) (by decide) (by decide) ?_
      rw [hlimit, ← cast_value, Rat.cast_le]
      exact hfar
    · intro n q hr hnear
      rw [hmax]
      refine hr.pat_le (by decide) (by decide) (by decide) ?_
      rw [hlimit, ← cast_value, Rat.cast_lt]
      exact not_le.1 hnear

/-- A format that has no infinity to overflow to: above the largest number k × 2^q stands that number. -/
theorem rne_fin_saturates {f : Fmt} (hf : f.Sound) (hovf : f.ovfPat = f.maxPat) {k : ℕ} {p : ℤ} (hmax : f.maxPat = f.pat k p)
    (hp : f.qmin ≤ p) (hk : 2 ^ f.mb ≤ k) (hk' : k < 2 ^ (f.mb + 1)) (s : Bool) (m : ℕ) (e : ℤ) :
    (k * 2 ^ p < |sgn s * (m * 2 ^ e)| → f.rne (.fin s m e) = f.signed s f.maxPat) ∧
      (¬k * 2 ^ p < |sgn s * (m * 2 ^ e)| →
        NearestIn (valOf f.eb f.mb f.bias f.ieee) s ((sgn s * (m * 2 ^ e) : ℚ) : ℝ) (f.rne (.fin s m e))) := by
  refine rne_fin hf (far := fun v => (k * 2 ^ p : ℚ) < v) s m e (fun n q hr hfar => ?_) fun n q hr hnear => ?_
  · refine Fmt.clip_of_ge ?_ hovf
    rw [hmax]
    refine hr.le_pat hp hk hk' ?_
    rw [← cast_value, ← cast_value, Rat.cast_le]
    exact hfar.le
  · rw [hmax]
    refine hr.pat_le hp hk hk' ?_
    have hle : ((m * 2 ^ e : ℚ) : ℝ) ≤ ((k * 2 ^ p : ℚ) : ℝ) := Rat.cast_le.2 (not_lt.1 hnear)
    rw [cast_value, cast_value] at hle
    have hpos := two_zpow_pos p
    linarith

theorem narrow_toE4 (x : Word) : Narrow valE4 x (toE4 x).toNat 0x7F (fun s => if s then 0xFE else 0x7E) (fun m => 448 < m)
    (fun s => if s then 0xFE else 0x7E) := by
  have hnat : (toE4 x).toNat = fmtE4.rne (F x) := by
    rw [toE4, BitVec.toNat_ofNat]
    exact Nat.mod_eq_of_lt (Fmt.rne_lt fmtE4_sound (by decide) (by decide) _)
  have hlimit : ((14 : ℕ) : ℚ) * 2 ^ (5 : ℤ) = 448 := by norm_num
  rw [Narrow, ← toVal_F, hnat]
  match F x with
  | .nan => exact rfl
  | .inf s => cases s <;> exact rfl
  | .fin s m e =>
    have h := rne_fin_saturates fmtE4_sound rfl (k := 14) (p := 5) (by decide) (by decide) (by decide) (by decide) s m e
    rw [hlimit] at h
    rw [toVal_fin]
    refine ⟨fun hfar => (h.1 hfar).trans ?_, h.2⟩
    cases s <;> rfl

theorem narrow_toE5 (x : Word) : Narrow valE5 x (toE5 x).toNat 0x7E (fun s => if s then 0xFC else 0x7C) (fun m => 57344 < m)
    (fun s => if s then 0xFB else 0x7B) := by
  have hnat : (toE5 x).toNat = fmtE5.rne (F x) := by
    rw [toE5, BitVec.toNat_ofNat]
    exact Nat.mod_eq_of_lt (Fmt.rne_lt fmtE5_sound (by decide) (by decide) _)
  have hlimit : ((7 : ℕ) : ℚ) * 2 ^ (13 : ℤ) = 57344 := by norm_num
  rw [Narrow, ← toVal_F, hnat]
  match F x with
  | .nan => exact rfl
  | .inf s => cases s <;> exact rfl
  | .fin s m e =>
    have h := rne_fin_saturates fmtE5_sound rfl (k := 7) (p := 13) (by decide) (by decide) (by decide) (by decide) s m e
    rw [hlimit] at h
    rw [toVal_fin]
    refine ⟨fun hfar => (h.1 hfar).trans ?_, h.2⟩
    cases s <;> rfl

/-! ## Conversions from a narrow format -/

/-- The mantissa and exponent of a finite pattern of a format. -/
theorem value_fin_bounds {f : Fmt} {x : ℕ} {s : Bool} {m : ℕ} {e : ℤ} (h : f.value x = .fin s m e) :
    m < 2 ^ (f.mb + 1) ∧ f.qmin ≤ e ∧ e ≤ max f.qmin ((2 ^ f.eb : ℕ) - f.bias - f.mb) := by
  have hman : x % 2 ^ f.mb < 2 ^ f.mb := Nat.mod_lt _ (by positivity)
  have hexp : x / 2 ^ f.mb % 2 ^ f.eb < 2 ^ f.eb := Nat.mod_lt _ (by positivity)
  rw [value_eq] at h
  by_cases hnan : x / 2 ^ f.mb % 2 ^ f.eb = 2 ^ f.eb - 1 ∧ (if f.ieee then x % 2 ^ f.mb ≠ 0 else x % 2 ^ f.mb = 2 ^ f.mb - 1)
  · rw [if_pos hnan] at h
    exact nomatch h
  rw [if_neg hnan] at h
  rw [pow_succ]
  split at h
  · exact nomatch h
  split at h
  all_goals obtain ⟨-, rfl, rfl⟩ := FVal.fin.inj h
  · exact ⟨by omega, le_rfl, le_max_left _ _⟩
  · refine ⟨by omega, by rw [Fmt.qmin]; omega, le_max_of_le_right ?_⟩
    have : ((x / 2 ^ f.mb % 2 ^ f.eb : ℕ) : ℤ) ≤ (2 ^ f.eb : ℕ) := by exact_mod_cast hexp.le
    omega

/-- A finite value of few bits is a number of FP32. -/
theorem small_onGrid {m : ℕ} {e : ℤ} (hm : m < 2 ^ 24) (he : -149 ≤ e) (he' : e ≤ 100) :
    OnGrid fmt32.mb fmt32.qmin (m * 2 ^ e) ∧ (m * 2 ^ e : ℝ) < 2 ^ 128 - 2 ^ 103 := by
  refine ⟨⟨m, e, by rw [show fmt32.qmin = -149 by decide]; exact he, by rw [abs_of_nonneg (by positivity)]; exact_mod_cast hm, by simp⟩, ?_⟩
  have hm' : (m : ℝ) ≤ 2 ^ 24 := by exact_mod_cast hm.le
  calc (m : ℝ) * 2 ^ e ≤ 2 ^ 24 * 2 ^ (100 : ℤ) :=
        mul_le_mul hm' (zpow_le_zpow_right₀ one_le_two he') (two_zpow_pos e).le (by norm_num)
    _ < 2 ^ 128 - 2 ^ 103 := by norm_num

theorem exactly_E4 (b : ℕ) : Exactly (valE4 b) (rne32 (fmtE4.value b)) := by
  rw [← show toVal (fmtE4.value b) = valE4 b from toVal_value fmtE4 b]
  refine exactly_rne32 _ fun s m e h => ?_
  obtain ⟨hm, hlow, hhigh⟩ := value_fin_bounds h
  have hq : fmtE4.qmin = -9 := by decide
  have htop : max fmtE4.qmin ((2 ^ fmtE4.eb : ℕ) - fmtE4.bias - fmtE4.mb) = 6 := by decide
  exact small_onGrid (hm.trans (by decide)) (by omega) (by omega)

theorem exactly_E5 (b : ℕ) : Exactly (valE5 b) (rne32 (fmtE5.value b)) := by
  rw [← show toVal (fmtE5.value b) = valE5 b from toVal_value fmtE5 b]
  refine exactly_rne32 _ fun s m e h => ?_
  obtain ⟨hm, hlow, hhigh⟩ := value_fin_bounds h
  have hq : fmtE5.qmin = -16 := by decide
  have htop : max fmtE5.qmin ((2 ^ fmtE5.eb : ℕ) - fmtE5.bias - fmtE5.mb) = 15 := by decide
  exact small_onGrid (hm.trans (by decide)) (by omega) (by omega)

theorem toVal_ofInt (i : ℤ) : toVal (FVal.ofInt i) = .num (i < 0) i := by
  rw [FVal.ofInt, toVal_fin, zpow_zero, mul_one, sgn_natAbs]

/-- A BF16 pattern is the upper half of the FP32 pattern of its value. -/
theorem valB16_eq (h : BitVec 16) : valB16 h.toNat = V (h.setWidth 32 <<< 16) := by
  have hh := h.isLt
  have hnat : (h.setWidth 32 <<< 16).toNat = h.toNat * 2 ^ 16 := by
    rw [BitVec.toNat_shiftLeft, BitVec.toNat_setWidth, Nat.shiftLeft_eq]
    omega
  have hsign : h.toNat * 2 ^ 16 / 2 ^ (8 + 23) % 2 = h.toNat / 2 ^ (8 + 7) % 2 := by omega
  have hexp : h.toNat * 2 ^ 16 / 2 ^ 23 % 2 ^ 8 = h.toNat / 2 ^ 7 % 2 ^ 8 := by omega
  have hman : h.toNat * 2 ^ 16 % 2 ^ 23 = h.toNat % 2 ^ 7 * 2 ^ 16 := by omega
  have hzero : h.toNat % 2 ^ 7 * 2 ^ 16 ≠ 0 ↔ h.toNat % 2 ^ 7 ≠ 0 := by omega
  have hsub : ∀ sg : ℚ, sg * (h.toNat % 2 ^ 7 : ℕ) * 2 ^ (1 - ((127 : ℕ) : ℤ) - (7 : ℕ)) =
      sg * (h.toNat % 2 ^ 7 * 2 ^ 16 : ℕ) * 2 ^ (1 - ((127 : ℕ) : ℤ) - (23 : ℕ)) := by
    intro sg
    push_cast
    norm_num
    ring
  have hnorm : ∀ sg : ℚ, sg * (2 ^ 7 + (h.toNat % 2 ^ 7 : ℕ)) * 2 ^ (((h.toNat / 2 ^ 7 % 2 ^ 8 : ℕ) : ℤ) - (127 : ℕ) - (7 : ℕ)) =
      sg * (2 ^ 23 + (h.toNat % 2 ^ 7 * 2 ^ 16 : ℕ)) * 2 ^ (((h.toNat / 2 ^ 7 % 2 ^ 8 : ℕ) : ℤ) - (127 : ℕ) - (23 : ℕ)) := by
    intro sg
    generalize h.toNat / 2 ^ 7 % 2 ^ 8 = k
    have hexp : (k : ℤ) - (127 : ℕ) - (7 : ℕ) = (k - (127 : ℕ) - (23 : ℕ)) + (16 : ℕ) := by omega
    rw [hexp, zpow_add₀ two_ne_zero, zpow_natCast, Nat.cast_mul]
    push_cast
    ring
  rw [V, val32, hnat, valB16, valOf, valOf]
  simp only [hsign, hexp, hman, if_true, hzero, hsub, hnorm]

/-- A BF16 number is written as its own pattern with zeros below (R107). -/
theorem ofB16_eq (h : BitVec 16) :
    ofB16 h = if (F (h.setWidth 32 <<< 16)).isNan then 0x7FC00000#32 else h.setWidth 32 <<< 16 := by
  have hval : toVal (fmtB16.value h.toNat) = toVal (F (h.setWidth 32 <<< 16)) := by
    rw [toVal_F, ← valB16_eq]
    exact toVal_value fmtB16 h.toNat
  rw [ofB16, rne32_congr hval]
  split
  case isTrue hn =>
    cases hF : F (h.setWidth 32 <<< 16) <;> rw [hF] at hn
    · rfl
    all_goals exact nomatch hn
  case isFalse hn => exact rne32_F (Bool.eq_false_iff.2 hn)

end Sys2Proof.Machine

/-!
PROOF. Q4 codes (R108, R109).
-/

namespace Sys2Proof.Machine

open Sys2Proof.Claims

/-! ## Q4 codes (R108, R109) -/

/-- The level of a code, in units of 1 / 1024. -/
def q4K (c : ℕ) : ℤ := q4Ks.getD c 0

/-- The middle between the level of a code and the next. -/
def q4Mid (c : ℕ) : ℤ := (q4K c + q4K (c + 1)) / 2

theorem q4Level_eq (n : BitVec 4) : q4Level n = q4K n.toNat := by
  revert n
  decide

theorem toVal_q4Value (n : BitVec 4) : toVal (q4Value n) = .num (q4K n.toNat < 0) (q4K n.toNat / 1024) := by
  rw [q4Value, toVal_fin, ← mul_assoc, sgn_natAbs, q4Level_eq]
  norm_num
  ring

theorem exactly_Q4 (n : BitVec 4) : Exactly (.num (q4K n.toNat < 0) (q4K n.toNat / 1024)) (rne32 (q4Value n)) := by
  have hsmall : (q4Level n).natAbs ≤ 1024 := by
    revert n
    decide
  rw [← toVal_q4Value]
  refine exactly_rne32 _ fun s m e h => ?_
  obtain ⟨-, rfl, rfl⟩ := FVal.fin.inj h
  exact small_onGrid (by omega) (by norm_num) (by norm_num)

/-- The quotient u × 1024 lies between the middles around the level of c; a middle belongs to the level of smaller magnitude. -/
structure InCell (c : ℕ) (u : ℚ) : Prop where
  code : c < 16
  below : c < 15 → u < q4Mid c ∨ (7 ≤ c ∧ u = q4Mid c)
  above : 0 < c → q4Mid (c - 1) < u ∨ (c ≤ 7 ∧ u = q4Mid (c - 1))

theorem q4K_mono : ∀ i < 16, ∀ j < 16, i ≤ j → q4K i ≤ q4K j := by decide

theorem q4Mid_spec : ∀ i < 15, 2 * q4Mid i = q4K i + q4K (i + 1) := by decide

theorem q4K_abs_left : ∀ i < 16, ∀ j < 16, i ≤ 7 → j < i → |q4K i| ≤ |q4K j| := by decide

theorem q4K_abs_right : ∀ i < 16, ∀ j < 16, 7 ≤ i → i < j → |q4K i| ≤ |q4K j| := by decide

/-- No level is nearer than that of the cell, and of two that are as near it has the smaller magnitude. -/
theorem InCell.nearest {c : ℕ} {u : ℚ} (h : InCell c u) {j : ℕ} (hj : j < 16) :
    |u - q4K c| ≤ |u - q4K j| ∧ (|u - q4K c| = |u - q4K j| → |q4K c| ≤ |q4K j|) := by
  rcases lt_trichotomy c j with hlt | rfl | hlt
  · have hmid : 2 * (q4Mid c : ℚ) = q4K c + q4K (c + 1) := by exact_mod_cast q4Mid_spec c (by omega)
    have hnext : (q4K (c + 1) : ℚ) ≤ q4K j := by exact_mod_cast q4K_mono _ (by omega) _ hj hlt
    have hlev : (q4K c : ℚ) ≤ q4K j := by exact_mod_cast q4K_mono _ h.code _ hj hlt.le
    rcases h.below (by omega) with hu | ⟨h7, hu⟩
    · have hcloser : |u - q4K c| ≤ |u - q4K j| ∧ (|u - q4K c| = |u - q4K j| → q4K c = q4K j) := by
        rw [abs_sub_comm u (q4K j), abs_of_nonneg (by linarith : (0 : ℚ) ≤ q4K j - u), abs_le]
        refine ⟨⟨by linarith, by linarith⟩, fun heq => ?_⟩
        rcases abs_cases (u - q4K c) with ⟨ha, -⟩ | ⟨ha, -⟩
        · linarith
        · exact_mod_cast (by linarith : (q4K c : ℚ) = q4K j)
      exact ⟨hcloser.1, fun heq => by rw [hcloser.2 heq]⟩
    · rw [abs_sub_comm u (q4K j), abs_of_nonneg (by linarith : (0 : ℚ) ≤ q4K j - u), abs_le]
      exact ⟨⟨by linarith, by linarith⟩, fun _ => q4K_abs_right _ h.code _ hj h7 hlt⟩
  · exact ⟨le_rfl, fun _ => le_rfl⟩
  · have hmid : 2 * (q4Mid (c - 1) : ℚ) = q4K (c - 1) + q4K c := by
      have := q4Mid_spec (c - 1) (by have := h.code; omega)
      rw [Nat.sub_add_cancel (by omega)] at this
      exact_mod_cast this
    have hnext : (q4K j : ℚ) ≤ q4K (c - 1) := by exact_mod_cast q4K_mono _ hj _ (by have := h.code; omega) (by omega)
    have hlev : (q4K j : ℚ) ≤ q4K c := by exact_mod_cast q4K_mono _ hj _ h.code hlt.le
    rcases h.above (by omega) with hu | ⟨h7, hu⟩
    · have hcloser : |u - q4K c| ≤ |u - q4K j| ∧ (|u - q4K c| = |u - q4K j| → q4K c = q4K j) := by
        rw [abs_of_nonneg (by linarith : (0 : ℚ) ≤ u - q4K j), abs_le]
        refine ⟨⟨by linarith, by linarith⟩, fun heq => ?_⟩
        rcases abs_cases (u - q4K c) with ⟨ha, -⟩ | ⟨ha, -⟩
        · exact_mod_cast (by linarith : (q4K c : ℚ) = q4K j)
        · linarith
      exact ⟨hcloser.1, fun heq => by rw [hcloser.2 heq]⟩
    · rw [abs_of_nonneg (by linarith : (0 : ℚ) ≤ u - q4K j), abs_le]
      exact ⟨⟨by linarith, by linarith⟩, fun _ => q4K_abs_left _ h.code _ hj h7 hlt⟩

/-- A code below 7 is chosen below the middle above it. -/
theorem inCell_lt {u : ℚ} (c : BitVec 4) {rest : BitVec 4} (hc : c.toNat < 7) (hlow : 0 < c.toNat → (q4Mid (c.toNat - 1) : ℚ) ≤ u)
    (hrest : (q4Mid c.toNat : ℚ) ≤ u → InCell rest.toNat u) : InCell (if u < q4Mid c.toNat then c else rest).toNat u := by
  split
  case isTrue h => exact ⟨c.isLt, fun _ => .inl h, fun h0 => (hlow h0).lt_or_eq.imp_right fun he => ⟨hc.le, he.symm⟩⟩
  case isFalse h => exact hrest (not_lt.1 h)

/-- A code from 7 on is chosen up to the middle above it. -/
theorem inCell_le {u : ℚ} (c : BitVec 4) {rest : BitVec 4} (hc : 7 ≤ c.toNat)
    (hlow : (q4Mid (c.toNat - 1) : ℚ) < u ∨ (c.toNat = 7 ∧ (q4Mid (c.toNat - 1) : ℚ) ≤ u))
    (hrest : (q4Mid c.toNat : ℚ) < u → InCell rest.toNat u) : InCell (if u ≤ q4Mid c.toNat then c else rest).toNat u := by
  have habove : (q4Mid (c.toNat - 1) : ℚ) < u ∨ (c.toNat ≤ 7 ∧ u = q4Mid (c.toNat - 1)) := by
    rcases hlow with h | ⟨h7, h⟩
    · exact .inl h
    · exact h.lt_or_eq.imp_right fun he => ⟨h7.le, he.symm⟩
  split
  case isTrue h => exact ⟨c.isLt, fun _ => h.lt_or_eq.imp_right fun he => ⟨hc, he⟩, fun _ => habove⟩
  case isFalse h => exact hrest (not_le.1 h)

/-- The comparisons of the model choose the cell of n / d. -/
theorem q4CodeOfRatio_inCell {n : ℤ} {d : ℕ} (hd : d ≠ 0) {u : ℚ} (hu : (n : ℚ) = u * d) : InCell (q4CodeOfRatio n d).toNat u := by
  have hpos : (0 : ℚ) < d := by exact_mod_cast Nat.pos_of_ne_zero hd
  have hlt : ∀ k : ℤ, n < k * d ↔ u < k := by
    intro k
    rw [← Int.cast_lt (R := ℚ), hu, Int.cast_mul, Int.cast_natCast, mul_lt_mul_iff_left₀ hpos]
  have hle : ∀ k : ℤ, n ≤ k * d ↔ u ≤ k := by
    intro k
    rw [← Int.cast_le (R := ℚ), hu, Int.cast_mul, Int.cast_natCast, mul_le_mul_iff_left₀ hpos]
  simp only [q4CodeOfRatio, decide_eq_true_eq, hlt, hle]
  refine inCell_lt 0#4 (by decide) (fun hc => absurd hc (by decide)) fun h => ?_
  refine inCell_lt 1#4 (by decide) (fun _ => h) fun h => ?_
  refine inCell_lt 2#4 (by decide) (fun _ => h) fun h => ?_
  refine inCell_lt 3#4 (by decide) (fun _ => h) fun h => ?_
  refine inCell_lt 4#4 (by decide) (fun _ => h) fun h => ?_
  refine inCell_lt 5#4 (by decide) (fun _ => h) fun h => ?_
  refine inCell_lt 6#4 (by decide) (fun _ => h) fun h => ?_
  refine inCell_le 7#4 (by decide) (.inr ⟨rfl, h⟩) fun h => ?_
  refine inCell_le 8#4 (by decide) (.inl h) fun h => ?_
  refine inCell_le 9#4 (by decide) (.inl h) fun h => ?_
  refine inCell_le 10#4 (by decide) (.inl h) fun h => ?_
  refine inCell_le 11#4 (by decide) (.inl h) fun h => ?_
  refine inCell_le 12#4 (by decide) (.inl h) fun h => ?_
  refine inCell_le 13#4 (by decide) (.inl h) fun h => ?_
  refine inCell_le 14#4 (by decide) (.inl h) fun h => ?_
  exact ⟨by decide, fun hc => absurd hc (by decide), fun _ => .inl h⟩

/-- A code in whose cell 1024 × y lies is the nearest. -/
theorem InCell.q4Code {c : ℕ} {s : Bool} {y : ℚ} (h : InCell c (1024 * y)) : Q4Code (.num s y) c :=
  ⟨h.code, fun j hj => by
    obtain ⟨hle, htie⟩ := h.nearest hj
    have hcast : |(q4K c : ℚ)| ≤ |(q4K j : ℚ)| ↔ |q4K c| ≤ |q4K j| := by exact_mod_cast Iff.rfl
    exact ⟨hle, fun heq => hcast.2 (htie heq)⟩⟩

theorem q4Code_zero (s : Bool) : Q4Code (.num s 0) 7 := by
  refine InCell.q4Code ⟨by decide, fun _ => .inl ?_, fun _ => .inl ?_⟩ <;> norm_num [q4Mid, q4K, q4Ks]

end Sys2Proof.Machine

/-!
PROOF. Floating-point and conversion instructions (O3).
-/

namespace Sys2Proof.Machine

open Sys2Proof.Safety
open Sys2Proof.Claims

/-- The numerator and the denominator of a quotient of mantissas, scaled by 1024. -/
theorem q4_ratio {s t : Bool} {m n : ℕ} {e e' : ℤ} (hn : n ≠ 0) :
    let num : ℕ := if 0 ≤ e - e' then (1024 * m) <<< (e - e').toNat else 1024 * m
    let den : ℕ := if 0 ≤ e - e' then n else n <<< (-(e - e')).toNat
    den ≠ 0 ∧ ((if s != t then -(num : ℤ) else num : ℤ) : ℚ) = 1024 * (sgn s * (m * 2 ^ e) / (sgn t * (n * 2 ^ e'))) * den := by
  intro num den
  have hden : den ≠ 0 := by
    simp only [den, Nat.shiftLeft_eq]
    split
    · exact hn
    · positivity
  have hnpos : (n : ℚ) ≠ 0 := by exact_mod_cast hn
  have hratio : (num : ℚ) = 1024 * (m * 2 ^ e / (n * 2 ^ e')) * den := by
    have hexp : (2 : ℚ) ^ e = 2 ^ (e - e') * 2 ^ e' := by rw [← zpow_add₀ two_ne_zero, sub_add_cancel]
    have hne : (2 : ℚ) ^ e' ≠ 0 := zpow_ne_zero _ two_ne_zero
    rw [hexp]
    simp only [num, den]
    split
    case isTrue h =>
      rw [shiftLeft_value _ h]
      push_cast
      field_simp
    case isFalse h =>
      rw [shiftLeft_value n (by omega : 0 ≤ -(e - e')), zpow_neg]
      have hne' : (2 : ℚ) ^ (e - e') ≠ 0 := zpow_ne_zero _ two_ne_zero
      push_cast
      field_simp
  have hsign : ((if s != t then -(num : ℤ) else num : ℤ) : ℚ) = sgn (s != t) * num := by
    cases s != t <;> simp [sgn]
  refine ⟨hden, ?_⟩
  have hsq := sgn_mul_self t
  have hst : sgn t ≠ 0 := by rintro h0; rw [h0, zero_mul] at hsq; exact zero_ne_one hsq
  rw [hsign, hratio, sgn_xor]
  field_simp
  rw [pow_two, hsq, mul_one]

/-- QENC gives the nearest code of the exact quotient (R109, R111). -/
theorem q4Code_encode (v w : FVal) : Q4Code (divV (toVal v) (toVal w)) (q4Encode v w).toNat := by
  match v, w with
  | .nan, .nan | .nan, .inf _ | .nan, .fin .. | .inf _, .nan | .fin .., .nan => exact rfl
  | .inf s, .inf t => exact rfl
  | .inf s, .fin t n e' => cases s <;> cases t <;> exact rfl
  | .fin s m e, .inf t => exact q4Code_zero _
  | .fin s m e, .fin t n e' =>
    simp only [toVal_fin, divV, sgn_mul_eq_zero, q4Encode]
    by_cases hm : m = 0
    · simp only [hm, beq_self_eq_true, if_true, Nat.cast_zero, zero_mul, mul_zero, zero_div]
      split
      · exact rfl
      · exact q4Code_zero _
    simp only [if_neg hm, beq_eq_false_iff_ne.2 hm, Bool.false_eq_true, if_false]
    by_cases hn : n = 0
    · simp only [hn, beq_self_eq_true, if_true]
      cases s <;> cases t <;> exact rfl
    simp only [if_neg hn, beq_eq_false_iff_ne.2 hn, Bool.false_eq_true, if_false]
    obtain ⟨hden, hratio⟩ := q4_ratio (s := s) (t := t) (m := m) (e := e) (e' := e') hn
    exact (q4CodeOfRatio_inCell hden hratio).q4Code

/-! ## The instructions -/

/-- An instruction that runs as a computation on registers does what its form says. -/
theorem does_of_compute {i : Instr} {o : RegOp} (h : ∀ s, exec i s = s.compute o.c o.as o.bs o.ds o.d o.f) : Does i o :=
  fun s _ hi hr hk => (h s).trans (compute_next o.f hi hr hk)

/-- FSAT in the words of the statement. -/
theorem fsat_eq (x : Word) :
    fsat x = if (F x).isNan ∨ x.msb then 0 else if (F 0x3F800000#32).lt (F x) then 0x3F800000#32 else x := by
  rw [fsat, ← BitVec.msb_eq_getLsbD_last]
  cases F x <;> simp [FVal.isNan]

theorem floatOps_holds : FloatOps := by
  intro i o h
  unfold floatOp at h
  split at h
  case h_25 c d a =>
    obtain rfl := Option.some.inj h
    refine does_of_compute fun s => ?_
    simp only [← fsat_eq]
    rfl
  case h_27 => exact nomatch h
  all_goals
    obtain rfl := Option.some.inj h
    exact does_of_compute fun _ => rfl

/-! The parts of words: halves and bytes, as the model cuts them and as the statement masks them. -/

theorem keep_high (z : Word) (h : BitVec 16) : z.extractLsb' 16 16 ++ h = z &&& 0xFFFF0000#32 ||| h.setWidth 32 := by
  have hmask : ∀ i < 32, (0xFFFF0000#32).getLsbD i = decide (16 ≤ i) := by decide
  apply BitVec.eq_of_getLsbD_eq
  intro i hi
  rw [BitVec.getLsbD_append, BitVec.getLsbD_or, BitVec.getLsbD_and, BitVec.getLsbD_setWidth, BitVec.getLsbD_extractLsb', hmask i hi]
  by_cases h16 : i < 16
  · simp [h16, hi, Nat.not_le.2 h16]
  · have hadd : 16 + (i - 16) = i := by omega
    have hlt : i - 16 < 16 := by omega
    simp [h16, Nat.not_lt.1 h16, hadd, hlt]

theorem keep_low (z : Word) (h : BitVec 16) : h ++ z.setWidth 16 = z &&& 0x0000FFFF#32 ||| h.setWidth 32 <<< 16 := by
  have hmask : ∀ i < 32, (0x0000FFFF#32).getLsbD i = decide (i < 16) := by decide
  apply BitVec.eq_of_getLsbD_eq
  intro i hi
  rw [BitVec.getLsbD_append, BitVec.getLsbD_or, BitVec.getLsbD_and, BitVec.getLsbD_shiftLeft, BitVec.getLsbD_setWidth,
    BitVec.getLsbD_setWidth, hmask i hi]
  by_cases h16 : i < 16
  · simp [h16]
  · have hlt : i - 16 < 32 := by omega
    simp [h16, hi, hlt]

theorem low_half (x : Word) : (x.setWidth 16).setWidth 32 <<< 16 = x <<< 16 := by
  apply BitVec.eq_of_toNat_eq
  simp only [BitVec.toNat_shiftLeft, BitVec.toNat_setWidth, Nat.shiftLeft_eq]
  omega

theorem high_half (x : Word) : (x.extractLsb' 16 16).setWidth 32 <<< 16 = x >>> 16 <<< 16 := by
  apply BitVec.eq_of_toNat_eq
  simp only [BitVec.toNat_shiftLeft, BitVec.toNat_setWidth, BitVec.toNat_ushiftRight, BitVec.extractLsb'_toNat, Nat.shiftLeft_eq,
    Nat.shiftRight_eq_div_pow]
  omega

theorem ofB16_low (x : Word) : ofB16 (x.setWidth 16) = if (F (x <<< 16)).isNan then 0x7FC00000#32 else x <<< 16 := by
  rw [ofB16_eq, low_half]

theorem ofB16_high (x : Word) :
    ofB16 (x.extractLsb' 16 16) = if (F (x >>> 16 <<< 16)).isNan then 0x7FC00000#32 else x >>> 16 <<< 16 := by
  rw [ofB16_eq, high_half]

theorem byteOf_toNat (x : Word) (n : BitVec 2) : (byteOf x n).toNat = x.toNat / 2 ^ (8 * n.toNat) % 256 := by
  rw [byteOf, BitVec.extractLsb'_toNat, Nat.shiftRight_eq_div_pow]

theorem nibble_eq (x : Word) (n : BitVec 3) : x.extractLsb' (4 * n.toNat) 4 = BitVec.ofNat 4 (x.toNat / 2 ^ (4 * n.toNat)) := by
  apply BitVec.eq_of_toNat_eq
  rw [BitVec.extractLsb'_toNat, Nat.shiftRight_eq_div_pow, BitVec.toNat_ofNat]

theorem qscale_eq (z x : Word) : qscale z (x.setWidth 8) = rne32 ((F z).mul (.fin false (x.toNat % 256 + 1) (-8))) := by
  rw [qscale, BitVec.toNat_setWidth]

theorem convertOps_holds : ConvertOps := by
  intro i o h
  unfold cvtOp at h
  split at h
  case h_16 => exact nomatch h
  all_goals
    obtain rfl := Option.some.inj h
    refine does_of_compute fun s => ?_
  case h_5 => simp only [← keep_high]; rfl
  case h_6 => simp only [← keep_low]; rfl
  case h_7 => simp only [← ofB16_low]; rfl
  case h_8 => simp only [← ofB16_high]; rfl
  case h_11 => simp only [← byteOf_toNat]; rfl
  case h_12 => simp only [← byteOf_toNat]; rfl
  case h_13 => simp only [← nibble_eq]; rfl
  case h_14 => simp only [← qscale_eq]; rfl
  all_goals rfl

/-! ## The obligation -/

theorem floatValues_holds : FloatValues := by
  refine ⟨fun x => ⟨isNan_iff x, fun s => ?_, fun s q h => ?_⟩, fun x y => ⟨?_, ?_⟩,
    fun x y => ⟨?_, ?_, ?_, rounds_fdiv x y⟩, fun x y z => ?_, fun x y => ⟨picks_fmin x y, picks_fmax x y⟩, fop1_fsqrt, fop1_frsq,
    toInt_floor, toInt_ceil, toInt_trunc, toInt_nearest, fclass_value⟩
  · rw [← toVal_F]
    cases F x <;> simp [toVal]
  · rw [← toVal_F] at h
    cases hF : F x <;> rw [hF] at h
    · exact nomatch h
    · exact nomatch h
    · exact ⟨rfl, (Val.num.inj h).2⟩
  · rw [lt_iff, toVal_F, toVal_F]
  · rw [eqv_iff, toVal_F, toVal_F]
  · rw [← toVal_F, ← toVal_F, ← toVal_sum]
    exact rounds_rne32 _
  · rw [← toVal_F, ← toVal_F, ← toVal_neg, ← toVal_sum]
    exact rounds_rne32 _
  · rw [← toVal_F, ← toVal_F, ← toVal_mul]
    exact rounds_rne32 _
  · rw [← toVal_F, ← toVal_F, ← toVal_F, ← toVal_mul, ← toVal_sum]
    exact rounds_rne32 _

theorem convertValues_holds : ConvertValues := by
  refine ⟨fun i => ?_, fun x => ⟨truncTo_truncSat _ _ x, truncTo_truncSat _ _ x, narrow_toB16 x, narrow_toE4 x, narrow_toE5 x⟩, valB16_eq,
    fun b _ => ⟨exactly_E4 b, exactly_E5 b⟩, exactly_Q4, fun z c _ => ?_, fun x z => ?_⟩
  · rw [← toVal_ofInt]
    exact rounds_rne32 _
  · have hscale : toVal (.fin false (c + 1) (-8)) = .num false ((c + 1) / 256) := by
      rw [toVal_fin, sgn, if_neg Bool.false_ne_true, one_mul]
      norm_num
      ring
    rw [← hscale, ← toVal_F, ← toVal_mul]
    exact rounds_rne32 _
  · rw [← toVal_F, ← toVal_F]
    exact q4Code_encode _ _

/-- Settles O3, from its four parts: the instructions run their forms, and each form's value is the exact one rounded once. -/
theorem floatConvert : Obligations.FloatConvert := ⟨floatOps_holds, floatValues_holds, convertOps_holds, convertValues_holds⟩

end Sys2Proof.Machine

/-!
PROOF. Transcendental functions (R131, R132, notes/assumptions/59.md): fixed point and its errors, and the three series cut off.
-/

namespace Sys2Proof.Machine

open Finset

/-! ## Fixed point -/

/-- The number that a fixed-point integer stands for. -/
noncomputable def fx (a : ℕ) : ℝ := a / 2 ^ 192

/-- A unit of the last place. -/
noncomputable def ulp : ℝ := 1 / 2 ^ 192

theorem ulp_pos : 0 < ulp := by unfold ulp; positivity

theorem fx_nonneg (a : ℕ) : 0 ≤ fx a := by unfold fx; positivity

theorem fx_add (a b : ℕ) : fx (a + b) = fx a + fx b := by rw [fx, fx, fx, Nat.cast_add, add_div]

theorem fx_one : fx fxOne = 1 := by
  have h : (fxOne : ℝ) = 2 ^ 192 := by rw [fxOne, fxBits, Nat.one_shiftLeft, Nat.cast_pow, Nat.cast_ofNat]
  rw [fx, h, div_self (by positivity)]

theorem fx_nat_mul (m a : ℕ) : fx (m * a) = m * fx a := by rw [fx, fx, Nat.cast_mul, mul_div_assoc]

/-- The middle of a unit of the last place. -/
theorem half_unit_value (r : ℕ) (n : ℤ) : ((r : ℝ) + 1 / 2) * 2 ^ (n - (fxBits : ℤ)) = 2 ^ n * (fx r + 1 / 2 ^ 193) := by
  have hu : (2 : ℝ) ^ 192 ≠ 0 := by positivity
  rw [zpow_sub₀ two_ne_zero, fxBits, zpow_natCast, fx, pow_succ]
  generalize (2 : ℝ) ^ 192 = u at hu
  field_simp

/-- What is lost by rounding a quotient down is less than one. -/
theorem nat_div_near (a k : ℕ) : |((a / k : ℕ) : ℝ) - a / k| ≤ 1 := by
  have hle : ((a / k : ℕ) : ℝ) ≤ a / k := Nat.cast_div_le
  rcases Nat.eq_zero_or_pos k with rfl | hk
  · simp
  have hpos : (0 : ℝ) < k := by exact_mod_cast hk
  have hlt : (a : ℝ) / k < ((a / k : ℕ) : ℝ) + 1 := by
    rw [div_lt_iff₀ hpos]
    exact_mod_cast Nat.lt_mul_of_div_lt (Nat.lt_succ_self _) hk
  rw [abs_le]
  constructor <;> linarith

theorem fxMul_near (a b : ℕ) : |fx (fxMul a b) - fx a * fx b| ≤ ulp := by
  have h := nat_div_near (a * b) (2 ^ 192)
  have hform : fx (fxMul a b) - fx a * fx b = (((a * b / 2 ^ 192 : ℕ) : ℝ) - ((a * b : ℕ) : ℝ) / (2 ^ 192 : ℕ)) * ulp := by
    have hpos : (2 : ℝ) ^ 192 ≠ 0 := by positivity
    rw [fxMul, fxBits, Nat.shiftRight_eq_div_pow, fx, fx, fx, ulp, Nat.cast_mul, Nat.cast_pow, Nat.cast_ofNat]
    generalize (2 : ℝ) ^ 192 = u at hpos
    field_simp
  rw [hform, abs_mul, abs_of_pos ulp_pos]
  exact mul_le_of_le_one_left ulp_pos.le h

theorem fx_div_near (a k : ℕ) : |fx (a / k) - fx a / k| ≤ ulp := by
  have hform : fx (a / k) - fx a / k = (((a / k : ℕ) : ℝ) - a / k) * ulp := by
    rw [fx, fx, ulp]
    ring
  rw [hform, abs_mul, abs_of_pos ulp_pos]
  exact mul_le_of_le_one_left ulp_pos.le (nat_div_near a k)

/-- A product of approximations, the first factor near a number up to 1. -/
theorem fxMul_approx {a b : ℕ} {A B α β : ℝ} (ha : |fx a - A| ≤ α) (hb : |fx b - B| ≤ β) (hA : |A| ≤ 1) :
    |fx (fxMul a b) - A * B| ≤ α * fx b + β + ulp := by
  have hsplit : fx (fxMul a b) - A * B = (fx (fxMul a b) - fx a * fx b) + ((fx a - A) * fx b + A * (fx b - B)) := by ring
  have h1 : |(fx a - A) * fx b| ≤ α * fx b := by
    rw [abs_mul, abs_of_nonneg (fx_nonneg b)]
    exact mul_le_mul_of_nonneg_right ha (fx_nonneg b)
  have h2 : |A * (fx b - B)| ≤ β := by
    rw [abs_mul]
    exact (mul_le_of_le_one_left (abs_nonneg _) hA).trans hb
  rw [hsplit]
  have h3 := abs_add_le (fx (fxMul a b) - fx a * fx b) ((fx a - A) * fx b + A * (fx b - B))
  have h4 := abs_add_le ((fx a - A) * fx b) (A * (fx b - B))
  have h5 := fxMul_near a b
  linarith

theorem fx_div_approx {a k : ℕ} {A α : ℝ} (hk : 0 < k) (ha : |fx a - A| ≤ α) : |fx (a / k) - A / k| ≤ α / k + ulp := by
  have hpos : (0 : ℝ) < k := by exact_mod_cast hk
  have hsplit : fx (a / k) - A / k = (fx (a / k) - fx a / k) + (fx a - A) / k := by ring
  have h1 : |(fx a - A) / k| ≤ α / k := by
    rw [abs_div, abs_of_pos hpos]
    exact div_le_div_of_nonneg_right ha hpos.le
  rw [hsplit]
  have h2 := abs_add_le (fx (a / k) - fx a / k) ((fx a - A) / k)
  have h3 := fx_div_near a k
  linarith

/-- The error of a sum of n + 1 terms, the error of each term more by γ than that of the one before. -/
theorem error_step {n : ℕ} {δ δ' γ ε : ℝ} (hγ : 0 ≤ γ) (hδ : δ' ≤ δ + γ) :
    δ + ε + n * (δ' + ε + n * γ) ≤ ((n + 1 : ℕ) : ℝ) * (δ + ε + ((n + 1 : ℕ) : ℝ) * γ) := by
  have hn : (0 : ℝ) ≤ n := n.cast_nonneg
  push_cast
  nlinarith [mul_le_mul_of_nonneg_left hδ hn, mul_nonneg hn hγ]

/-- The first term of a sum, then the rest. -/
theorem sum_first {n : ℕ} (f : ℕ → ℝ) (k : ℕ) : ∑ i ∈ range (n + 1), f (k + i) = f k + ∑ i ∈ range n, f (k + 1 + i) := by
  rw [sum_range_succ', add_comm]
  congr 1
  exact sum_congr rfl fun i _ => by congr 1; omega

theorem near_add {a b A B α β : ℝ} (ha : |a - A| ≤ α) (hb : |b - B| ≤ β) : |a + b - (A + B)| ≤ α + β := by
  rw [add_sub_add_comm]
  exact (abs_add_le _ _).trans (add_le_add ha hb)

/-- The exponential series from term k on. -/
theorem expSeries_near {y : ℕ} (hy : fx y ≤ 1) : ∀ {fuel k t : ℕ} {δ : ℝ}, |fx t - fx y ^ k / k.factorial| ≤ δ →
    |fx (expSeries y fuel k t) - ∑ i ∈ range fuel, fx y ^ (k + i) / (k + i).factorial| ≤ fuel * (δ + 0 + fuel * (2 * ulp))
  | 0, _, _, _, _ => by simp [expSeries, fx]
  | n + 1, k, t, δ, h => by
    have hδ : 0 ≤ δ := (abs_nonneg _).trans h
    have hle : |fx y ^ k / k.factorial| ≤ 1 := by
      have hfact : (1 : ℝ) ≤ k.factorial := by exact_mod_cast k.factorial_pos
      have hpow : fx y ^ k ≤ 1 := pow_le_one₀ (fx_nonneg y) hy
      rw [abs_of_nonneg (by have := fx_nonneg y; positivity), div_le_one (by linarith)]
      linarith
    have hmul := fxMul_approx (b := y) (B := fx y) (β := 0) h (by simp) hle
    have hdiv := fx_div_approx (k := k + 1) k.succ_pos hmul
    have hterm : fx y ^ k / k.factorial * fx y / ((k + 1 : ℕ) : ℝ) = fx y ^ (k + 1) / (k + 1).factorial := by
      rw [Nat.factorial_succ, pow_succ]
      push_cast
      field_simp
    rw [hterm] at hdiv
    have hstep : (δ * fx y + 0 + ulp) / ((k + 1 : ℕ) : ℝ) + ulp ≤ δ + 2 * ulp := by
      have hone : (1 : ℝ) ≤ ((k + 1 : ℕ) : ℝ) := by exact_mod_cast k.succ_pos
      have hnum : 0 ≤ δ * fx y + 0 + ulp := by have := fx_nonneg y; have := ulp_pos; positivity
      have := div_le_self hnum hone
      have := mul_le_of_le_one_right hδ hy
      linarith
    have hrest := expSeries_near hy (fuel := n) hdiv
    rw [expSeries, fx_add, sum_first (fun j => fx y ^ j / (j.factorial : ℝ)) k]
    refine (near_add h hrest).trans ?_
    have := error_step (n := n) (ε := 0) (by have := ulp_pos; positivity) hstep
    linarith

/-- The series of artanh from the power k on. -/
theorem atanhSeries_near {r2 : ℕ} {ρ β : ℝ} (hρ0 : 0 ≤ ρ) (hρ1 : ρ ≤ 1) (hr : |fx r2 - ρ ^ 2| ≤ β) (hr1 : fx r2 ≤ 1) :
    ∀ {fuel k t : ℕ} {δ : ℝ}, 0 < k → |fx t - ρ ^ k| ≤ δ →
      |fx (atanhSeries r2 fuel k t) - ∑ i ∈ range fuel, ρ ^ (k + 2 * i) / ((k + 2 * i : ℕ) : ℝ)| ≤ fuel * (δ + ulp + fuel * (β + ulp))
  | 0, _, _, _, _, _ => by simp [atanhSeries, fx]
  | n + 1, k, t, δ, hk, h => by
    have hδ : 0 ≤ δ := (abs_nonneg _).trans h
    have hβ : 0 ≤ β := (abs_nonneg _).trans hr
    have hle : |ρ ^ k| ≤ 1 := by
      rw [abs_of_nonneg (by positivity)]
      exact pow_le_one₀ hρ0 hρ1
    have hmul := fxMul_approx h hr hle
    rw [← pow_add] at hmul
    have hstep : δ * fx r2 + β + ulp ≤ δ + (β + ulp) := by linarith [mul_le_of_le_one_right hδ hr1]
    have hfirst : |fx (t / k) - ρ ^ k / k| ≤ δ + ulp := by
      have hone : (1 : ℝ) ≤ k := by exact_mod_cast hk
      linarith [fx_div_approx hk h, div_le_self hδ hone]
    have hrest := atanhSeries_near hρ0 hρ1 hr hr1 (fuel := n) (k := k + 2) (by omega) hmul
    have hsum : ∑ i ∈ range (n + 1), ρ ^ (k + 2 * i) / ((k + 2 * i : ℕ) : ℝ) =
        ρ ^ k / k + ∑ i ∈ range n, ρ ^ (k + 2 + 2 * i) / ((k + 2 + 2 * i : ℕ) : ℝ) := by
      rw [sum_range_succ', add_comm]
      congr 1
      refine sum_congr rfl fun i _ => ?_
      have : k + 2 * (i + 1) = k + 2 + 2 * i := by ring
      rw [this]
    rw [atanhSeries, fx_add, hsum]
    refine (near_add hfirst hrest).trans ?_
    exact error_step (by have := ulp_pos; positivity) hstep

/-- The number that a signed fixed-point integer stands for. -/
noncomputable def fxInt (i : ℤ) : ℝ := i / 2 ^ 192

theorem fxInt_natCast (a : ℕ) : fxInt a = fx a := by rw [fxInt, fx, Int.cast_natCast]

theorem fxInt_neg (i : ℤ) : fxInt (-i) = -fxInt i := by rw [fxInt, fxInt, Int.cast_neg, neg_div]

theorem fxInt_add (i j : ℤ) : fxInt (i + j) = fxInt i + fxInt j := by rw [fxInt, fxInt, fxInt, Int.cast_add, add_div]

/-- A term of the series of sin x / x in v = x². -/
noncomputable def sincTerm (v : ℝ) (j : ℕ) : ℝ := v ^ j / (2 * j + 1).factorial

theorem sincTerm_succ (v : ℝ) (j : ℕ) : sincTerm v (j + 1) = sincTerm v j * v / ((2 * j + 2) * (2 * j + 3) : ℕ) := by
  rw [sincTerm, sincTerm, show 2 * (j + 1) + 1 = 2 * j + 1 + 1 + 1 by ring, Nat.factorial_succ, Nat.factorial_succ, pow_succ]
  push_cast
  field_simp
  ring

/-- The terms fall by a factor of 4 or more, after the first. -/
theorem sincTerm_bounds {v : ℝ} (h0 : 0 ≤ v) (h1 : v ≤ 5 / 2) (j : ℕ) :
    0 ≤ sincTerm v j ∧ sincTerm v j ≤ 1 ∧ sincTerm v j ≤ 2 * (1 / 4) ^ j := by
  have hnn : ∀ j, 0 ≤ sincTerm v j := fun j => by unfold sincTerm; positivity
  have hzero : sincTerm v 0 = 1 := by simp [sincTerm]
  refine ⟨hnn j, ?_⟩
  induction j with
  | zero => rw [hzero]; norm_num
  | succ j ih =>
    obtain ⟨-, ih⟩ := ih
    rw [sincTerm_succ]
    rcases Nat.eq_zero_or_pos j with rfl | hj
    · rw [hzero]
      norm_num
      constructor <;> linarith
    · have hden : (20 : ℝ) ≤ ((2 * j + 2) * (2 * j + 3) : ℕ) := by
        have : 4 * 5 ≤ (2 * j + 2) * (2 * j + 3) := Nat.mul_le_mul (by omega) (by omega)
        exact_mod_cast this
      have hquarter : sincTerm v j * v / ((2 * j + 2) * (2 * j + 3) : ℕ) ≤ sincTerm v j * (1 / 4) := by
        rw [div_le_iff₀ (by linarith)]
        nlinarith [hnn j, mul_nonneg (hnn j) (sub_nonneg.2 h1), mul_nonneg (hnn j) (sub_nonneg.2 hden)]
      have hpow : (1 / 4 : ℝ) ^ j ≤ 1 / 4 := by
        calc (1 / 4 : ℝ) ^ j ≤ (1 / 4) ^ 1 := pow_le_pow_of_le_one (by norm_num) (by norm_num) hj
          _ = 1 / 4 := pow_one _
      rw [pow_succ]
      constructor <;> linarith

/-- The series of sin x / x from term j on. -/
theorem sincSeries_near {z : ℕ} {v β : ℝ} (hv0 : 0 ≤ v) (hv1 : v ≤ 5 / 2) (hz : |fx z - v| ≤ β) (hz1 : fx z ≤ 3) :
    ∀ {fuel j t : ℕ} {s : Bool} {δ : ℝ}, |fx t - sincTerm v j| ≤ δ →
      |fxInt (sincSeries z fuel (2 * j + 1) t s) - ∑ i ∈ range fuel, (if s then (1 : ℝ) else -1) * (-1) ^ i * sincTerm v (j + i)| ≤
        fuel * (δ + 0 + fuel * (β + 2 * ulp))
  | 0, _, _, _, _, _ => by simp [sincSeries, fxInt]
  | n + 1, j, t, s, δ, h => by
    have hδ : 0 ≤ δ := (abs_nonneg _).trans h
    have hβ : 0 ≤ β := (abs_nonneg _).trans hz
    have hup := ulp_pos
    obtain ⟨hnn, hle, -⟩ := sincTerm_bounds hv0 hv1 j
    have hmul := fxMul_approx h hz (by rwa [abs_of_nonneg hnn])
    have hdiv := fx_div_approx (k := (2 * j + 2) * (2 * j + 3)) (by positivity) hmul
    rw [← sincTerm_succ] at hdiv
    have hden : (6 : ℝ) ≤ ((2 * j + 2) * (2 * j + 3) : ℕ) := by
      have : 2 * 3 ≤ (2 * j + 2) * (2 * j + 3) := Nat.mul_le_mul (by omega) (by omega)
      exact_mod_cast this
    have hstep : (δ * fx z + β + ulp) / (((2 * j + 2) * (2 * j + 3) : ℕ) : ℝ) + ulp ≤ δ + (β + 2 * ulp) := by
      have hnum : 0 ≤ δ * fx z + β + ulp := by have := fx_nonneg z; positivity
      have hsix : (δ * fx z + β + ulp) / (((2 * j + 2) * (2 * j + 3) : ℕ) : ℝ) ≤ (δ * fx z + β + ulp) / 6 :=
        div_le_div_of_nonneg_left hnum (by norm_num) hden
      have := mul_le_mul_of_nonneg_left hz1 hδ
      linarith
    have hrest := sincSeries_near hv0 hv1 hz hz1 (fuel := n) (j := j + 1) (s := !s) hdiv
    have hfirst : |fxInt (if s then (t : ℤ) else -(t : ℤ)) - (if s then (1 : ℝ) else -1) * sincTerm v j| ≤ δ := by
      cases s
      · simp only [Bool.false_eq_true, if_false]
        rw [fxInt_neg, fxInt_natCast, neg_one_mul, neg_sub_neg, abs_sub_comm]
        exact h
      · simp only [if_true]
        rw [fxInt_natCast, one_mul]
        exact h
    have hsum : ∑ i ∈ range (n + 1), (if s then (1 : ℝ) else -1) * (-1) ^ i * sincTerm v (j + i) =
        (if s then (1 : ℝ) else -1) * sincTerm v j +
          ∑ i ∈ range n, (if (!s) then (1 : ℝ) else -1) * (-1) ^ i * sincTerm v (j + 1 + i) := by
      rw [sum_range_succ', add_comm, pow_zero, mul_one, Nat.add_zero]
      congr 1
      refine sum_congr rfl fun i _ => ?_
      rw [show j + (i + 1) = j + 1 + i by ring]
      cases s <;> simp [pow_succ]
    rw [sincSeries, fxInt_add, hsum]
    refine (near_add hfirst hrest).trans ?_
    have := error_step (n := n) (ε := 0) (by positivity) hstep
    linarith

end Sys2Proof.Machine

/-!
PROOF. Transcendental functions: the exponential, the logarithm, and the constants for ln 2 and π.
-/

namespace Sys2Proof.Machine

open Finset

theorem near_trans {a b c α β : ℝ} (h : |a - b| ≤ α) (h' : |b - c| ≤ β) : |a - c| ≤ α + β :=
  (abs_sub_le a b c).trans (add_le_add h h')

/-! ## The exponential -/

theorem exp_near {y : ℕ} (hy : fx y ≤ 1) : |fx (expSeries y 70 0 fxOne) - Real.exp (fx y)| ≤ 1 / 2 ^ 100 := by
  have hy0 := fx_nonneg y
  have hseries := expSeries_near hy (fuel := 70) (k := 0) (t := fxOne) (δ := 0) (by simp [fx_one])
  simp only [Nat.zero_add] at hseries
  have hlow := Real.sum_le_exp_of_nonneg hy0 70
  have hhigh := Real.exp_bound' hy0 hy (n := 70) (by norm_num)
  have htail : fx y ^ 70 * ((70 : ℕ) + 1) / ((70 : ℕ).factorial * (70 : ℕ)) ≤ 1 / 2 ^ 120 := by
    have hpow : fx y ^ 70 ≤ 1 := pow_le_one₀ hy0 hy
    have hfact : (2 : ℝ) ^ 130 ≤ (70 : ℕ).factorial := by
      have : 2 ^ 130 ≤ (70).factorial := by decide +kernel
      exact_mod_cast this
    rw [div_le_div_iff₀ (by positivity) (by positivity)]
    push_cast
    nlinarith
  have hulp : (70 : ℕ) * ((0 : ℝ) + 0 + (70 : ℕ) * (2 * ulp)) ≤ 1 / 2 ^ 120 := by
    rw [ulp]
    norm_num
  have hsum : |∑ i ∈ range 70, fx y ^ i / i.factorial - Real.exp (fx y)| ≤ 1 / 2 ^ 120 := by
    rw [abs_le]
    constructor <;> linarith
  refine (near_trans (hseries.trans hulp) hsum).trans ?_
  norm_num

/-! ## The logarithm -/

theorem fx_two_mul (a : ℕ) : fx (2 * a) = 2 * fx a := fx_nat_mul 2 a

theorem fx_shift_div {a b : ℕ} (hb : 0 < b) : |fx ((a <<< fxBits) / b) - fx a / fx b| ≤ ulp := by
  have h := nat_div_near (a <<< fxBits) b
  have hpos : (0 : ℝ) < b := by exact_mod_cast hb
  have hu : (2 : ℝ) ^ 192 ≠ 0 := by positivity
  have hshift : ((a <<< fxBits : ℕ) : ℝ) = a * 2 ^ 192 := by rw [Nat.shiftLeft_eq, fxBits, Nat.cast_mul, Nat.cast_pow, Nat.cast_ofNat]
  have hform : fx ((a <<< fxBits) / b) - fx a / fx b = (((a <<< fxBits / b : ℕ) : ℝ) - ((a <<< fxBits : ℕ) : ℝ) / b) * ulp := by
    rw [hshift, fx, fx, fx, ulp]
    generalize (2 : ℝ) ^ 192 = u at hu
    field_simp
  rw [hform, abs_mul, abs_of_pos ulp_pos]
  exact mul_le_of_le_one_left ulp_pos.le h

/-- ln z by the series of artanh, cut off after 70 terms. -/
theorem log_series {ρ : ℝ} (h0 : 0 ≤ ρ) (h1 : ρ ≤ 1 / 3) :
    |2 * ∑ i ∈ range 70, ρ ^ (1 + 2 * i) / ((1 + 2 * i : ℕ) : ℝ) - (Real.log (1 + ρ) - Real.log (1 - ρ))| ≤ 1 / 2 ^ 200 := by
  have hsum := Real.hasSum_log_sub_log_of_abs_lt_one (x := ρ) (by rw [abs_of_nonneg h0]; linarith)
  have hterm : ∀ n : ℕ, ‖(2 : ℝ) * (1 / (2 * n + 1)) * ρ ^ (2 * n + 1)‖ ≤ 1 * (1 / 9) ^ n := by
    intro n
    have hsq : ρ ^ 2 ≤ 1 / 9 := by nlinarith
    have hpow : (ρ ^ 2) ^ n ≤ (1 / 9) ^ n := pow_le_pow_left₀ (by positivity) hsq n
    have hone : (1 : ℝ) / (2 * n + 1) ≤ 1 := by
      rw [div_le_one (by positivity)]
      linarith [n.cast_nonneg (α := ℝ)]
    have hfac : 2 * (1 / (2 * (n : ℝ) + 1)) * ρ ≤ 1 := by
      have h3 := mul_le_mul hone h1 h0 (by norm_num)
      linarith
    rw [Real.norm_of_nonneg (by positivity), pow_succ, pow_mul, mul_comm _ ρ, ← mul_assoc]
    exact mul_le_mul hfac hpow (by positivity) (by norm_num)
  have htail := norm_sub_le_of_geometric_bound_of_hasSum (by norm_num) hterm hsum 70
  have hform : ∑ n ∈ range 70, (2 : ℝ) * (1 / (2 * n + 1)) * ρ ^ (2 * n + 1) =
      2 * ∑ i ∈ range 70, ρ ^ (1 + 2 * i) / ((1 + 2 * i : ℕ) : ℝ) := by
    rw [mul_sum]
    refine sum_congr rfl fun i _ => ?_
    rw [add_comm 1 (2 * i)]
    push_cast
    ring
  rw [hform, Real.norm_eq_abs] at htail
  exact htail.trans (by norm_num)

theorem fxLn_near {z : ℕ} (h1 : 1 ≤ fx z) (h2 : fx z ≤ 2) : |fx (fxLn z) - Real.log (fx z)| ≤ 1 / 2 ^ 174 := by
  have hup := ulp_pos
  have hz : fxOne ≤ z := by
    rw [← fx_one, fx, fx, div_le_div_iff_of_pos_right (by positivity)] at h1
    exact_mod_cast h1
  have hsub : fx (z - fxOne) = fx z - 1 := by rw [eq_sub_iff_add_eq, ← fx_one, ← fx_add, Nat.sub_add_cancel hz]
  have hadd : fx (z + fxOne) = fx z + 1 := by rw [fx_add, fx_one]
  set r := ((z - fxOne) <<< fxBits) / (z + fxOne) with hr
  set ρ := (fx z - 1) / (fx z + 1) with hρ
  have hrρ : |fx r - ρ| ≤ ulp := by
    have hpos : 0 < fxOne := by decide +kernel
    have := fx_shift_div (a := z - fxOne) (b := z + fxOne) (by omega)
    rwa [hsub, hadd] at this
  have hρ0 : 0 ≤ ρ := div_nonneg (by linarith) (by linarith)
  have hρ1 : ρ ≤ 1 / 3 := by
    rw [hρ, div_le_div_iff₀ (by linarith) (by norm_num)]
    linarith
  have hulp1 : ulp ≤ 1 / 2 := by rw [ulp]; norm_num
  have hr1 : fx r ≤ 1 := by linarith [(abs_le.1 hrρ).2]
  have hsq : |fx (fxMul r r) - ρ ^ 2| ≤ 3 * ulp := by
    have := fxMul_approx hrρ hrρ (by rw [abs_of_nonneg hρ0]; linarith)
    rw [← pow_two] at this
    have := mul_le_of_le_one_right hup.le hr1
    linarith
  have hsq1 : fx (fxMul r r) ≤ 1 := by
    have := (abs_le.1 hsq).2
    have hulp2 : 3 * ulp ≤ 1 / 2 := by rw [ulp]; norm_num
    nlinarith
  have hfirst : |fx r - ρ ^ 1| ≤ ulp := by simpa only [pow_one] using hrρ
  have hseries := atanhSeries_near hρ0 (by linarith) hsq hsq1 (fuel := 70) one_pos hfirst
  have hlog : Real.log (1 + ρ) - Real.log (1 - ρ) = Real.log (fx z) := by
    have hne : fx z + 1 ≠ 0 := by linarith
    rw [← Real.log_div (by linarith) (by linarith)]
    congr 1
    rw [hρ]
    field_simp
    ring
  have htail := log_series hρ0 hρ1
  rw [hlog] at htail
  have hln : fx (fxLn z) = 2 * fx (atanhSeries (fxMul r r) 70 1 r) := by rw [fxLn, fx_two_mul]
  rw [hln]
  have hbound : (70 : ℕ) * (ulp + ulp + (70 : ℕ) * (3 * ulp + ulp)) ≤ 1 / 2 ^ 176 := by
    rw [ulp]
    norm_num
  have hs := hseries.trans hbound
  rw [abs_le] at hs htail ⊢
  norm_num at hs htail ⊢
  constructor <;> linarith

/-- The constant for ln 2, against the model's own series at 2. -/
theorem fxLn2_near : |fx fxLn2 - Real.log 2| ≤ 1 / 2 ^ 172 := by
  have htwo : fx (2 * fxOne) = 2 := by rw [fx_two_mul, fx_one, mul_one]
  have hser := fxLn_near (z := 2 * fxOne) (by rw [htwo]; norm_num) (by rw [htwo])
  have hcomp : fxLn (2 * fxOne) ≤ fxLn2 + 2 ^ 18 ∧ fxLn2 ≤ fxLn (2 * fxOne) + 2 ^ 18 := by decide +kernel
  have hle : ∀ a b : ℕ, a ≤ b + 2 ^ 18 → fx a ≤ fx b + 1 / 2 ^ 174 := by
    intro a b h
    have : (a : ℝ) ≤ b + 2 ^ 18 := by exact_mod_cast h
    rw [fx, fx, div_add_div _ _ (by positivity) (by positivity), div_le_div_iff₀ (by positivity) (by positivity)]
    norm_num
    linarith
  have h1 := hle _ _ hcomp.1
  have h2 := hle _ _ hcomp.2
  rw [htwo] at hser
  rw [abs_le] at hser ⊢
  norm_num at hser h1 h2 ⊢
  constructor <;> linarith

/-! ## π -/

/-- The series of arctan. -/
def atanSum (x : ℚ) (n : ℕ) : ℚ := ∑ i ∈ range n, (-1) ^ i * x ^ (2 * i + 1) / ((2 * i + 1 : ℕ) : ℚ)

theorem arctan_near {x : ℚ} (h0 : 0 ≤ x) (h1 : x ≤ 1 / 5) (n : ℕ) : |(atanSum x n : ℝ) - Real.arctan x| ≤ ((x : ℝ) ^ 2) ^ n := by
  have hx0 : (0 : ℝ) ≤ x := by exact_mod_cast h0
  have hx1 : (x : ℝ) ≤ 1 / 5 := by
    have : (x : ℝ) ≤ ((1 / 5 : ℚ) : ℝ) := by exact_mod_cast h1
    simpa using this
  have hsq : (x : ℝ) ^ 2 ≤ 1 / 25 := by nlinarith
  have hsum := Real.hasSum_arctan (x := (x : ℝ)) (by rw [Real.norm_of_nonneg hx0]; linarith)
  have hterm : ∀ i : ℕ, ‖(-1 : ℝ) ^ i * (x : ℝ) ^ (2 * i + 1) / ((2 * i + 1 : ℕ) : ℝ)‖ ≤ 1 / 5 * ((x : ℝ) ^ 2) ^ i := by
    intro i
    have hone : (1 : ℝ) ≤ ((2 * i + 1 : ℕ) : ℝ) := by exact_mod_cast Nat.le_add_left 1 (2 * i)
    rw [norm_div, norm_mul, norm_pow, norm_neg, norm_one, one_pow, one_mul, Real.norm_of_nonneg (by positivity),
      Real.norm_of_nonneg (by positivity)]
    refine (div_le_self (by positivity) hone).trans ?_
    rw [pow_succ, pow_mul, mul_comm]
    exact mul_le_mul_of_nonneg_right hx1 (by positivity)
  have htail := norm_sub_le_of_geometric_bound_of_hasSum (by linarith) hterm hsum n
  have hform : (atanSum x n : ℝ) = ∑ i ∈ range n, (-1 : ℝ) ^ i * (x : ℝ) ^ (2 * i + 1) / ((2 * i + 1 : ℕ) : ℝ) := by
    rw [atanSum]
    push_cast
    rfl
  rw [hform, ← Real.norm_eq_abs]
  refine htail.trans ?_
  rw [div_le_iff₀ (by linarith)]
  nlinarith [pow_nonneg (sq_nonneg (x : ℝ)) n]

/-- The constant for π, by Machin's formula. -/
theorem fxPi_near : |fx fxPi - Real.pi| ≤ 1 / 2 ^ 170 := by
  have hmachin := Real.four_mul_arctan_inv_5_sub_arctan_inv_239
  have h5 := arctan_near (x := 1 / 5) (by norm_num) le_rfl 40
  have h239 := arctan_near (x := 1 / 239) (by norm_num) (by norm_num) 12
  have hcomp : |(fxPi : ℚ) / 2 ^ 192 - (16 * atanSum (1 / 5) 40 - 4 * atanSum (1 / 239) 12)| ≤ 1 / 2 ^ 175 := by
    decide +kernel
  have hcast : |fx fxPi - (16 * (atanSum (1 / 5) 40 : ℝ) - 4 * (atanSum (1 / 239) 12 : ℝ))| ≤ 1 / 2 ^ 175 := by
    have : ((|(fxPi : ℚ) / 2 ^ 192 - (16 * atanSum (1 / 5) 40 - 4 * atanSum (1 / 239) 12)| : ℚ) : ℝ) ≤ ((1 / 2 ^ 175 : ℚ) : ℝ) :=
      Rat.cast_le.2 hcomp
    push_cast at this
    exact this
  push_cast at h5 h239
  rw [one_div] at h5 h239
  rw [abs_le] at h5 h239 hcast ⊢
  norm_num at h5 h239 hcast ⊢
  constructor <;> linarith

end Sys2Proof.Machine

/-!
PROOF. Transcendental functions: rounding an approximation, and sin (π x) in the first quarter.
-/

namespace Sys2Proof.Machine

open Sys2Proof.Claims
open Finset

/-! ## Rounding an approximation (notes/assumptions/59.md) -/

/-- Rounding a number so near to v leaves a pattern to which no other is nearer by more than 2^-60 of v. -/
theorem close_of_roundR {s : Bool} {v v' : ℝ} {w : Word} (hsign : s = true ↔ v < 0) (hr : RoundR s v' w) (hlim : |v'| < 2 ^ 128 - 2 ^ 103)
    (hnear : |v - v'| ≤ 2 ^ (-61 : ℤ) * |v|) : Close v w := by
  rw [RoundR, if_neg (not_le.2 hlim)] at hr
  obtain ⟨q, hq, hbest⟩ := hr
  refine ⟨s, q, hq, hsign, fun p z r hp => ?_⟩
  have h1 := (hbest p z r hp).1
  have h2 := abs_sub_le v v' q
  have h3 := abs_sub_le v' v r
  rw [abs_sub_comm v' v] at h3
  have h4 : (2 : ℝ) ^ (-60 : ℤ) = 2 * 2 ^ (-61 : ℤ) := by norm_num
  rw [h4]
  linarith

theorem close_exact {s : Bool} {v : ℝ} {q : ℚ} {w : Word} (hw : V w = .num s q) (hq : (q : ℝ) = v)
    (hsign : s = true ↔ v < 0) : Close v w := by
  refine ⟨s, q, hw, hsign, fun p z r _ => ?_⟩
  rw [hq, sub_self, abs_zero]
  positivity

/-- roundNear rounds the middle of the unit that it is given. -/
theorem roundR_roundNear (s : Bool) {m : ℕ} (e : ℤ) (hm : 2 ^ 24 ≤ m) :
    RoundR s (sgn s * ((m + 1 / 2) * 2 ^ e)) (roundNear s m e) :=
  roundR_roundMag s e (by norm_num) (by norm_num) (by norm_num) fun _ => hm

theorem close_roundNear {s : Bool} {v : ℝ} {m : ℕ} {e : ℤ} (hm : 2 ^ 24 ≤ m) (hv : 0 < v)
    (hlim : (m + 1 / 2) * 2 ^ e < (2 : ℝ) ^ 128 - 2 ^ 103)
    (hnear : |v - (m + 1 / 2) * 2 ^ e| ≤ 2 ^ (-61 : ℤ) * v) :
    Close (sgn s * v) (roundNear s m e) := by
  have hpos : (0 : ℝ) ≤ (m + 1 / 2) * 2 ^ e := by positivity
  refine close_of_roundR ?_ (roundR_roundNear s e hm) (by rwa [abs_sgn_mul s hpos]) ?_
  · cases s
    · simp [sgn, hv.le]
    · simp [sgn, hv]
  · have hs : |(sgn s : ℝ)| = 1 := by exact_mod_cast abs_sgn s
    rw [← mul_sub, abs_mul, abs_mul, hs, one_mul, one_mul, abs_of_pos hv]
    exact hnear

/-! ## sin (π x) for 0 < x ≤ 1/2 -/

theorem toFx_value {m : ℕ} {e : ℤ} (he : -192 ≤ e) : fx (toFx m e) = m * 2 ^ e := by
  have hs : 0 ≤ e + (fxBits : ℤ) := by rw [fxBits]; omega
  have hpow : (2 : ℝ) ^ (e + (fxBits : ℤ)) = 2 ^ e * 2 ^ 192 := by
    rw [zpow_add₀ two_ne_zero, fxBits, zpow_natCast]
  rw [toFx, if_pos hs, fx, shiftLeft_value m hs, hpow, ← mul_assoc, mul_div_cancel_right₀ _ (by positivity)]

/-- The series of sin x / x, cut off after 60 terms. -/
theorem sinc_series {θ : ℝ} (h0 : 0 ≤ θ) (h1 : θ ^ 2 ≤ 5 / 2) :
    |θ * ∑ i ∈ range 60, (-1) ^ i * sincTerm (θ ^ 2) i - Real.sin θ| ≤ θ * (1 / 2 ^ 116) := by
  have hform : ∀ n : ℕ, (-1) ^ n * θ ^ (2 * n + 1) / ((2 * n + 1).factorial : ℝ) = θ * ((-1) ^ n * sincTerm (θ ^ 2) n) := by
    intro n
    rw [sincTerm, ← pow_mul, pow_succ]
    ring
  have hsum := Real.hasSum_sin θ
  simp only [hform] at hsum
  have hterm : ∀ n : ℕ, ‖θ * ((-1) ^ n * sincTerm (θ ^ 2) n)‖ ≤ 2 * θ * (1 / 4) ^ n := by
    intro n
    obtain ⟨hnn, -, hle⟩ := sincTerm_bounds (sq_nonneg θ) h1 n
    rw [norm_mul, norm_mul, norm_pow, norm_neg, norm_one, one_pow, one_mul, Real.norm_of_nonneg h0, Real.norm_of_nonneg hnn]
    linarith [mul_le_mul_of_nonneg_left hle h0]
  have htail := norm_sub_le_of_geometric_bound_of_hasSum (by norm_num) hterm hsum 60
  rw [← mul_sum, Real.norm_eq_abs] at htail
  refine htail.trans ?_
  norm_num
  linarith

/-- The sinc of the argument in fixed point. -/
theorem sinc_near {y : ℕ} {θ : ℝ} (h0 : 0 < θ) (h1 : θ ≤ 1.576) (hy : |fx y - θ| ≤ 1 / 2 ^ 169) :
    |θ * fxInt (sincSeries (fxMul y y) 60 1 fxOne true) - Real.sin θ| ≤ θ * (1 / 2 ^ 115) := by
  have hsq : θ ^ 2 ≤ 5 / 2 := by nlinarith
  have hyhigh : fx y ≤ 1.6 := by
    have := (abs_le.1 hy).2
    norm_num at this ⊢
    linarith
  have hz : |fx (fxMul y y) - θ ^ 2| ≤ 1 / 2 ^ 166 := by
    have hmul := fxMul_near y y
    have hdiff : |fx y * fx y - θ ^ 2| ≤ 1 / 2 ^ 169 * 4 := by
      rw [show fx y * fx y - θ ^ 2 = (fx y - θ) * (fx y + θ) by ring, abs_mul]
      refine mul_le_mul hy ?_ (abs_nonneg _) (by positivity)
      rw [abs_of_nonneg (by linarith [fx_nonneg y])]
      linarith
    refine (near_trans hmul hdiff).trans ?_
    rw [ulp]
    norm_num
  have hz1 : fx (fxMul y y) ≤ 3 := by
    have := (abs_le.1 hz).2
    norm_num at this ⊢
    linarith
  have hseries := sincSeries_near (sq_nonneg θ) hsq hz hz1 (fuel := 60) (j := 0) (t := fxOne) (s := true) (δ := 0)
    (by simp [fx_one, sincTerm])
  simp only [if_true, one_mul, Nat.zero_add, Nat.mul_zero] at hseries
  have hbound : (60 : ℕ) * ((0 : ℝ) + 0 + (60 : ℕ) * (1 / 2 ^ 166 + 2 * ulp)) ≤ 1 / 2 ^ 116 := by
    rw [ulp]
    norm_num
  have hscaled := mul_le_mul_of_nonneg_left (hseries.trans hbound) h0.le
  rw [← abs_of_pos h0, ← abs_mul, abs_of_pos h0, mul_sub] at hscaled
  refine (near_trans hscaled (sinc_series h0.le hsq)).trans ?_
  norm_num
  linarith

theorem sin_pi_mul_bounds {x : ℝ} (h0 : 0 < x) (h1 : x ≤ 1 / 2) :
    2 * x ≤ Real.sin (Real.pi * x) ∧ Real.sin (Real.pi * x) ≤ Real.pi * x := by
  have hpi := Real.pi_pos
  refine ⟨?_, Real.sin_le (by positivity)⟩
  have h := Real.mul_le_sin (x := Real.pi * x) (by positivity) (by nlinarith)
  rwa [← mul_assoc, div_mul_cancel₀ _ hpi.ne'] at h

/-- A factor of x near sin (π x) / (π x). -/
theorem sinc_bounds {x a : ℝ} (h0 : 0 < x) (h1 : x ≤ 1 / 2) (h : |Real.pi * x * a - Real.sin (Real.pi * x)| ≤ Real.pi * x * (1 / 2 ^ 115)) :
    1 / 2 ≤ a ∧ a ≤ 2 := by
  obtain ⟨hlow, hhigh⟩ := sin_pi_mul_bounds h0 h1
  obtain ⟨ha1, ha2⟩ := abs_le.1 h
  have hpi := Real.pi_lt_d2
  have hθ : 0 < Real.pi * x := by have := Real.pi_pos; positivity
  refine ⟨le_of_mul_le_mul_left ?_ hθ, le_of_mul_le_mul_left ?_ hθ⟩
  · norm_num at ha1 ⊢
    nlinarith
  · norm_num at ha2 ⊢
    linarith

/-- What sinPi rounds: x times an approximation of sin (π x) / x. -/
theorem sinPi_eq (neg : Bool) {m : ℕ} {e : ℤ} (hm : 0 < m) (he : -192 ≤ e) (hx : (m : ℝ) * 2 ^ e ≤ 1 / 2) :
    ∃ g, sinPi neg m e = roundNear neg (m * g) (e - fxBits) ∧ 1 ≤ fx g ∧
      |Real.sin (Real.pi * (m * 2 ^ e)) - m * 2 ^ e * fx g| ≤ m * 2 ^ e * (1 / 2 ^ 113) := by
  have hpe := two_zpow_pos e
  set x : ℝ := m * 2 ^ e with hxdef
  have hx0 : 0 < x := by
    have : (0 : ℝ) < m := by exact_mod_cast hm
    positivity
  have hpi := Real.pi_gt_d2
  have hpi' := Real.pi_lt_d2
  set y := fxMul (toFx m e) fxPi with hydef
  have hy : |fx y - Real.pi * x| ≤ 1 / 2 ^ 169 := by
    have hmul := fxMul_approx (a := toFx m e) (A := x) (α := 0) (by rw [toFx_value he, sub_self, abs_zero]) fxPi_near
      (by rw [abs_of_pos hx0]; linarith)
    rw [mul_comm x] at hmul
    refine hmul.trans ?_
    rw [ulp]
    norm_num
  set σ := sincSeries (fxMul y y) 60 1 fxOne true with hσ
  have hsinc := sinc_near (by positivity) (by nlinarith) hy
  obtain ⟨hS1, hS2⟩ := sinc_bounds hx0 hx hsinc
  have hσ0 : 0 ≤ σ := by
    have hu : (0 : ℝ) < 2 ^ 192 := by positivity
    have : (0 : ℝ) ≤ σ := by
      rw [fxInt, le_div_iff₀ hu] at hS1
      linarith
    exact_mod_cast this
  have hnat : fx σ.toNat = fxInt σ := by
    rw [← fxInt_natCast, Int.toNat_of_nonneg hσ0]
  have hg : |fx (fxMul σ.toNat fxPi) - fxInt σ * Real.pi| ≤ 1 / 2 ^ 168 := by
    have h1 := fxMul_near σ.toNat fxPi
    rw [hnat] at h1
    have h2 : |fxInt σ * fx fxPi - fxInt σ * Real.pi| ≤ 2 * (1 / 2 ^ 170) := by
      rw [← mul_sub, abs_mul, abs_of_nonneg (by linarith)]
      exact mul_le_mul hS2 fxPi_near (abs_nonneg _) (by norm_num)
    refine (near_trans h1 h2).trans ?_
    rw [ulp]
    norm_num
  refine ⟨fxMul σ.toNat fxPi, rfl, ?_, ?_⟩
  · have := (abs_le.1 hg).1
    norm_num at this ⊢
    nlinarith
  · have h1 : |x * (fxInt σ * Real.pi) - x * fx (fxMul σ.toNat fxPi)| ≤ x * (1 / 2 ^ 168) := by
      rw [← mul_sub, abs_mul, abs_of_pos hx0, abs_sub_comm]
      exact mul_le_mul_of_nonneg_left hg hx0.le
    rw [abs_sub_comm, show Real.pi * x * fxInt σ = x * (fxInt σ * Real.pi) by ring] at hsinc
    refine (near_trans hsinc h1).trans ?_
    norm_num
    nlinarith

/-- sinPi rounds sin (π × m × 2^e). -/
theorem sinPi_close (neg : Bool) {m : ℕ} {e : ℤ} (hm : 0 < m) (he : -192 ≤ e) (hx : (m : ℝ) * 2 ^ e ≤ 1 / 2) :
    Close (sgn neg * Real.sin (Real.pi * (m * 2 ^ e))) (sinPi neg m e) := by
  have hmr : (1 : ℝ) ≤ m := by exact_mod_cast hm
  have hpe := two_zpow_pos e
  obtain ⟨g, heq, hg, hnear⟩ := sinPi_eq neg hm he hx
  have hx0 : (0 : ℝ) < m * 2 ^ e := by positivity
  obtain ⟨hlow, -⟩ := sin_pi_mul_bounds hx0 hx
  have hbits : 2 ^ 24 ≤ m * g := by
    have hg' : 2 ^ 192 ≤ g := by
      rw [fx, le_div_iff₀ (by positivity), one_mul] at hg
      exact_mod_cast hg
    exact (Nat.pow_le_pow_right two_pos (by norm_num)).trans (hg'.trans (Nat.le_mul_of_pos_left g hm))
  have hvalue : ((m * g : ℕ) + 1 / 2 : ℝ) * 2 ^ (e - (fxBits : ℤ)) = m * 2 ^ e * fx g + 2 ^ e * (1 / 2 ^ 193) := by
    rw [half_unit_value, fx_nat_mul]
    ring
  have hhalf : |(m : ℝ) * 2 ^ e * fx g - ((m : ℝ) * 2 ^ e * fx g + 2 ^ e * (1 / 2 ^ 193))| ≤ (m : ℝ) * 2 ^ e * (1 / 2 ^ 193) := by
    rw [sub_add_cancel_left, abs_neg, abs_of_nonneg (by positivity)]
    exact mul_le_mul_of_nonneg_right (le_mul_of_one_le_left hpe.le hmr) (by positivity)
  have htotal := near_trans hnear hhalf
  rw [heq]
  refine close_roundNear hbits (by linarith) ?_ ?_
  · have hone := Real.sin_le_one (Real.pi * (m * 2 ^ e))
    have := (abs_le.1 htotal).1
    rw [hvalue]
    norm_num at this ⊢
    linarith
  · rw [hvalue]
    refine htotal.trans ?_
    norm_num
    linarith

end Sys2Proof.Machine

/-!
PROOF. Transcendental functions: FSIN and FCOS.
-/

namespace Sys2Proof.Machine

open Sys2Proof.Claims

/-! ## Integers and halves -/

/-- m × 2^e is an integer just when the model says so, and then it is its integer part. -/
theorem isInt_eq {m : ℕ} {e : ℤ} (h : isInt m e = true) : (m : ℚ) * 2 ^ e = intPart m e := by
  simp only [isInt, Bool.or_eq_true, decide_eq_true_eq, beq_iff_eq] at h
  by_cases he : 0 ≤ e
  · rw [intPart, if_pos he, shiftLeft_value m he]
  · have hsplit := split_fraction m (-e).toNat
    rw [h.resolve_left he, Nat.cast_zero, zero_div, add_zero, ← neg_exp he] at hsplit
    rw [intPart, if_neg he, hsplit]

theorem isInt_of_eq {m : ℕ} {e i : ℤ} (h : (m : ℚ) * 2 ^ e = i) : isInt m e = true := by
  simp only [isInt, Bool.or_eq_true, decide_eq_true_eq, beq_iff_eq, or_iff_not_imp_left]
  intro he
  have hpow : (2 : ℚ) ^ e * 2 ^ (-e).toNat = 1 := by
    rw [← zpow_natCast, Int.toNat_of_nonneg (by omega), ← zpow_add₀ two_ne_zero, add_neg_cancel, zpow_zero]
  have hm : ((m : ℤ) : ℚ) = ((i * 2 ^ (-e).toNat : ℤ) : ℚ) := by
    push_cast
    rw [← h, mul_assoc, hpow, mul_one]
  have hdvd : ((2 ^ (-e).toNat : ℕ) : ℤ) ∣ m := ⟨i, by rw [Int.cast_inj.1 hm]; push_cast; ring⟩
  exact Nat.mod_eq_zero_of_dvd (Int.natCast_dvd_natCast.1 hdvd)

/-- A signed magnitude that is an integer, of the parity of its integer part. -/
theorem signed_intPart (s : Bool) {m : ℕ} {e : ℤ} (h : isInt m e = true) :
    ∃ i : ℤ, sgn s * ((m : ℚ) * 2 ^ e) = i ∧ (i % 2 = 1 ↔ intPart m e % 2 = 1) := by
  rw [isInt_eq h]
  cases s
  · exact ⟨intPart m e, by simp [sgn], by omega⟩
  · exact ⟨-(intPart m e : ℤ), by simp [sgn], by omega⟩

theorem isInt_of_signed {s : Bool} {m : ℕ} {e n : ℤ} (h : sgn s * ((m : ℚ) * 2 ^ e) = n) : isInt m e = true := by
  cases s
  · exact isInt_of_eq (i := n) (by simpa [sgn] using h)
  · refine isInt_of_eq (i := -n) ?_
    rw [Int.cast_neg, ← h]
    simp [sgn]

theorem not_int_and_half {a b : ℤ} : (a : ℚ) ≠ b + 1 / 2 := by
  intro h
  have h2 : ((2 * a : ℤ) : ℚ) = ((2 * b + 1 : ℤ) : ℚ) := by push_cast; linarith
  have := Int.cast_inj.1 h2
  omega

theorem V_one (neg : Bool) : V (oneW neg) = .num neg (sgn neg) := by
  cases neg
  · norm_num [V, val32, valOf, oneW, sgn]
  · norm_num [V, val32, valOf, oneW, sgn]

/-- ±1, as the sign of an odd or even integer. -/
theorem close_one (neg : Bool) : Close (sgn neg) (oneW neg) :=
  close_exact (V_one neg) rfl (by cases neg <;> simp [sgn])

/-! ## FSIN -/

/-- The bits of m below 2^k, and whether bit k is set. -/
theorem mod_two_pow_succ (m k : ℕ) : (m % 2 ^ (k + 1) < 2 ^ k → m % 2 ^ (k + 1) % 2 ^ k = m % 2 ^ (k + 1)) ∧
    (2 ^ k ≤ m % 2 ^ (k + 1) → m % 2 ^ (k + 1) % 2 ^ k + 2 ^ k = m % 2 ^ (k + 1)) := by
  have hlt : m % 2 ^ (k + 1) < 2 ^ (k + 1) := Nat.mod_lt _ (by positivity)
  rw [pow_succ] at hlt ⊢
  refine ⟨Nat.mod_eq_of_lt, fun h => ?_⟩
  rw [Nat.mod_eq_sub_mod h, Nat.mod_eq_of_lt (by omega)]
  omega

/-- The argument reduced to a whole turn: m / 2^k half-turns. -/
theorem half_turns (m k : ℕ) :
    Real.pi * (m / 2 ^ k) = Real.pi * ((m % 2 ^ (k + 1) : ℕ) / 2 ^ k) + (m / 2 ^ (k + 1) : ℕ) * (2 * Real.pi) := by
  have hdiv : (m : ℝ) = 2 ^ (k + 1) * (m / 2 ^ (k + 1) : ℕ) + (m % 2 ^ (k + 1) : ℕ) := by
    exact_mod_cast (Nat.div_add_mod m (2 ^ (k + 1))).symm
  have hpos : (2 : ℝ) ^ k ≠ 0 := by positivity
  conv_lhs => rw [hdiv]
  rw [pow_succ]
  field_simp
  ring

/-- The reduction of the argument of FSIN. -/
theorem sin_reduce (m k : ℕ) :
    let r := m % 2 ^ (k + 1)
    let t := r % 2 ^ k
    let t' := if 2 ^ k < 2 * t then 2 ^ k - t else t
    Real.sin (Real.pi * (m / 2 ^ k)) = sgn (decide (2 ^ k ≤ r)) * Real.sin (Real.pi * (t' / 2 ^ k)) ∧
      2 * t' ≤ 2 ^ k ∧ (t ≠ 0 → 0 < t') := by
  intro r t t'
  have ht : t < 2 ^ k := Nat.mod_lt _ (by positivity)
  have hpos : (2 : ℝ) ^ k ≠ 0 := by positivity
  obtain ⟨hlow, hhigh⟩ := mod_two_pow_succ m k
  have hturn : Real.sin (Real.pi * (m / 2 ^ k)) = sgn (decide (2 ^ k ≤ r)) * Real.sin (Real.pi * (t / 2 ^ k)) := by
    rw [half_turns, Real.sin_add_nat_mul_two_pi]
    by_cases h : 2 ^ k ≤ r
    · have hr : ((m % 2 ^ (k + 1) : ℕ) : ℝ) = t + 2 ^ k := by exact_mod_cast (hhigh h).symm
      rw [hr, add_div, div_self hpos, mul_add, mul_one, Real.sin_add_pi, decide_eq_true h]
      simp [sgn]
    · have hr : m % 2 ^ (k + 1) = t := (hlow (not_le.1 h)).symm
      rw [hr, decide_eq_false h]
      simp [sgn]
  have hfold : Real.sin (Real.pi * (t / 2 ^ k)) = Real.sin (Real.pi * (t' / 2 ^ k)) := by
    simp only [t']
    split
    · rw [Nat.cast_sub ht.le, Nat.cast_pow, Nat.cast_ofNat, sub_div, div_self hpos, mul_sub, mul_one, Real.sin_pi_sub]
    · rfl
  refine ⟨hturn.trans (by rw [hfold]), ?_, ?_⟩
  · simp only [t']
    split <;> omega
  · intro h0
    simp only [t']
    split <;> omega

/-- The sine of an argument in the first quarter is 1 only at its end. -/
theorem sin_eq_one {x : ℝ} (h0 : 0 ≤ x) (h1 : x ≤ 1 / 2) : Real.sin (Real.pi * x) = 1 ↔ x = 1 / 2 := by
  have hpi := Real.pi_pos
  constructor
  · intro h
    have hinj := Real.injOn_sin (x₁ := Real.pi * x) (x₂ := Real.pi / 2) ⟨by nlinarith, by nlinarith⟩ ⟨by linarith, le_rfl⟩
      (by rw [h, Real.sin_pi_div_two])
    have : Real.pi * x = Real.pi * (1 / 2) := by rw [hinj]; ring
    exact mul_left_cancel₀ hpi.ne' this
  · rintro rfl
    rw [mul_one_div, Real.sin_pi_div_two]

theorem sgn_real_sq (s : Bool) : (sgn s : ℝ) * sgn s = 1 := by exact_mod_cast sgn_mul_self s

/-- The sign of an odd or even integer. -/
theorem neg_one_zpow_eq (n : ℤ) : ((-1 : ℝ) ^ n) = sgn (decide (n % 2 = 1)) := by
  rcases Int.emod_two_eq_zero_or_one n with h | h
  · rw [Even.neg_one_zpow (Int.even_iff.2 h), h]
    simp [sgn]
  · rw [Odd.neg_one_zpow (Int.odd_iff.2 h), h]
    simp [sgn]

theorem sgn_inj {s t : Bool} (h : (sgn s : ℝ) = sgn t) : s = t := by
  cases s <;> cases t <;> norm_num [sgn] at h <;> rfl

/-- What FSIN gives of a number that is no integer. -/
theorem fsin_fraction {x : Word} {s : Bool} {m : ℕ} {e : ℤ} (hF : F x = .fin s m e) (hint : ¬isInt m e = true) :
    (∀ n : ℤ, sgn s * (m * 2 ^ e) = (n + 1 / 2 : ℚ) → fsin x = oneW (n % 2 = 1)) ∧
      Close (Real.sin (Real.pi * ((sgn s * (m * 2 ^ e) : ℚ) : ℝ))) (fsin x) := by
  have he : ¬0 ≤ e := fun h => hint (by simp [isInt, h])
  obtain ⟨-, hemin, -⟩ := F_fin_bounds hF
  set k := (-e).toNat with hk
  have hvalue : ∀ a : ℕ, (a : ℝ) * 2 ^ e = a / 2 ^ k := by
    intro a
    rw [neg_exp he, zpow_neg, zpow_natCast, div_eq_mul_inv]
  obtain ⟨hsin, hle, hpos⟩ := sin_reduce m k
  set r := m % 2 ^ (k + 1) with hr
  set t := r % 2 ^ k with ht
  set t' := if 2 ^ k < 2 * t then 2 ^ k - t else t with ht'
  set neg := s != decide (2 ^ k ≤ r) with hneg
  have hv : Real.sin (Real.pi * ((sgn s * (m * 2 ^ e) : ℚ) : ℝ)) = sgn neg * Real.sin (Real.pi * (t' * 2 ^ e)) := by
    have hs : Real.sin (Real.pi * (sgn s * (m * 2 ^ e))) = sgn s * Real.sin (Real.pi * (m * 2 ^ e)) := by
      cases s <;> simp [sgn]
    push_cast
    rw [hs, hvalue, hvalue, hsin, hneg, sgn_xor]
    push_cast
    ring
  have hfsin : fsin x = if 2 * t' = 2 ^ k then oneW neg else sinPi neg t' e := by
    simp only [fsin, hF, if_neg hint, beq_iff_eq]
    rfl
  have ht0 : 0 < t' := by
    refine hpos fun h0 => hint ?_
    have hdvd : m % 2 ^ k = 0 := by rw [← h0, ht, hr, pow_succ, Nat.mod_mul_right_mod]
    simp [isInt, ← hk, hdvd]
  have hx0 : (0 : ℝ) < t' * 2 ^ e := mul_pos (by exact_mod_cast ht0) (two_zpow_pos e)
  have hpow : (0 : ℝ) < 2 ^ k := by positivity
  have hx1 : (t' : ℝ) * 2 ^ e ≤ 1 / 2 := by
    rw [hvalue, div_le_div_iff₀ hpow two_pos, one_mul]
    exact_mod_cast (Nat.mul_comm t' 2).trans_le hle
  have hend : 2 * t' = 2 ^ k ↔ (t' : ℝ) * 2 ^ e = 1 / 2 := by
    rw [hvalue, div_eq_div_iff hpow.ne' two_ne_zero, one_mul, mul_comm]
    exact_mod_cast Iff.rfl
  rw [hfsin, hv]
  refine ⟨fun n hn => ?_, ?_⟩
  · have hone : sgn neg * Real.sin (Real.pi * (t' * 2 ^ e)) = sgn (decide (n % 2 = 1)) := by
      have harg : Real.pi * ((n + 1 / 2 : ℚ) : ℝ) = Real.pi / 2 + n * Real.pi := by
        push_cast
        ring
      rw [← hv, hn, ← neg_one_zpow_eq, harg, Real.sin_add_int_mul_pi, Real.sin_pi_div_two, mul_one]
    have hpos : 0 < Real.sin (Real.pi * (t' * 2 ^ e)) := by linarith [(sin_pi_mul_bounds hx0 hx1).1]
    have hsin1 : Real.sin (Real.pi * (t' * 2 ^ e)) = 1 := by
      have habs := congrArg abs hone
      rwa [abs_sgn_mul _ hpos.le, ← Rat.cast_abs, abs_sgn, Rat.cast_one] at habs
    rw [if_pos (hend.2 ((sin_eq_one hx0.le hx1).1 hsin1))]
    rw [hsin1, mul_one] at hone
    rw [sgn_inj hone]
  · split
    case isTrue h =>
      rw [hend.1 h, mul_one_div, Real.sin_pi_div_two, mul_one]
      exact close_one neg
    case isFalse => exact sinPi_close neg ht0 (by omega) hx1

theorem fop1_fsin : Fop1 fsin (fun _ _ => 0x7FC00000#32) (fun _ s q w =>
    (∀ n : ℤ, q = n → w = zeroW s) ∧ (∀ n : ℤ, q = n + 1 / 2 → w = oneW (n % 2 = 1)) ∧
    ((∀ n : ℤ, q ≠ n) → Close (Real.sin (Real.pi * q)) w)) := by
  intro x
  rw [← toVal_F]
  match hF : F x with
  | .nan =>
    simp only [toVal_nan, fsin, hF]
    rfl
  | .inf s =>
    simp only [toVal_inf, fsin, hF]
    rfl
  | .fin s m e =>
    simp only [toVal_fin]
    by_cases hint : isInt m e = true
    · obtain ⟨i, hi, -⟩ := signed_intPart s hint
      have hw : fsin x = zeroW s := by
        simp only [fsin, hF, if_pos hint]
        rfl
      exact ⟨fun _ _ => hw, fun n hn => absurd (hi.symm.trans hn) not_int_and_half, fun hne => absurd hi (hne i)⟩
    · obtain ⟨hhalf, hclose⟩ := fsin_fraction hF hint
      exact ⟨fun n hn => absurd (isInt_of_signed hn) hint, hhalf, fun _ => hclose⟩

/-! ## FCOS -/

/-- The reduction of the argument of FCOS to half a turn. -/
theorem cos_reduce (m k : ℕ) :
    let r := m % 2 ^ (k + 1)
    let r' := if 2 ^ k < r then 2 * 2 ^ k - r else r
    Real.cos (Real.pi * (m / 2 ^ k)) = Real.cos (Real.pi * (r' / 2 ^ k)) ∧ r' ≤ 2 ^ k := by
  intro r r'
  have hr : r < 2 ^ (k + 1) := Nat.mod_lt _ (by positivity)
  rw [pow_succ] at hr
  have hpos : (2 : ℝ) ^ k ≠ 0 := by positivity
  rw [half_turns, Real.cos_add_nat_mul_two_pi]
  simp only [r']
  split
  case isTrue h =>
    refine ⟨?_, by omega⟩
    have harg : Real.pi * (((2 * 2 ^ k - r : ℕ) : ℝ) / 2 ^ k) = 2 * Real.pi - Real.pi * (r / 2 ^ k) := by
      rw [Nat.cast_sub (by omega), Nat.cast_mul, Nat.cast_pow, Nat.cast_ofNat, sub_div, mul_div_assoc, div_self hpos]
      ring
    rw [harg, Real.cos_two_pi_sub]
  case isFalse h => exact ⟨rfl, not_lt.1 h⟩

/-- A cosine in half a turn as the sine of the distance from a quarter. -/
theorem cos_eq_sin {r k : ℕ} (hr : r ≤ 2 ^ k) :
    let h := if 2 ^ k < 2 * r then 2 * r - 2 ^ k else 2 ^ k - 2 * r
    Real.cos (Real.pi * (r / 2 ^ k)) = sgn (decide (2 ^ k < 2 * r)) * Real.sin (Real.pi * (h / 2 ^ (k + 1))) ∧ h ≤ 2 ^ k := by
  intro h
  have hpos : (2 : ℝ) ^ k ≠ 0 := by positivity
  simp only [h]
  split
  case isTrue hc =>
    refine ⟨?_, by omega⟩
    have harg : Real.pi * (((2 * r - 2 ^ k : ℕ) : ℝ) / 2 ^ (k + 1)) = -(Real.pi / 2 - Real.pi * (r / 2 ^ k)) := by
      rw [Nat.cast_sub hc.le, Nat.cast_mul, Nat.cast_pow, Nat.cast_ofNat, pow_succ]
      field_simp
      ring
    rw [harg, Real.sin_neg, Real.sin_pi_div_two_sub, decide_eq_true hc]
    simp [sgn]
  case isFalse hc =>
    refine ⟨?_, by omega⟩
    have harg : Real.pi * (((2 ^ k - 2 * r : ℕ) : ℝ) / 2 ^ (k + 1)) = Real.pi / 2 - Real.pi * (r / 2 ^ k) := by
      rw [Nat.cast_sub (not_lt.1 hc), Nat.cast_mul, Nat.cast_pow, Nat.cast_ofNat, pow_succ]
      field_simp
    rw [harg, Real.sin_pi_div_two_sub, decide_eq_false hc]
    simp [sgn]

theorem cos_pi_half (n : ℤ) : Real.cos (Real.pi * ((n + 1 / 2 : ℚ) : ℝ)) = 0 := by
  rw [Real.cos_eq_zero_iff]
  exact ⟨n, by push_cast; ring⟩

theorem half_of_cos_eq_zero {q : ℚ} (h : Real.cos (Real.pi * q) = 0) : ∃ n : ℤ, q = n + 1 / 2 := by
  obtain ⟨n, hn⟩ := Real.cos_eq_zero_iff.1 h
  refine ⟨n, ?_⟩
  have hpi := Real.pi_pos.ne'
  have hq : (q : ℝ) = ((n + 1 / 2 : ℚ) : ℝ) := by
    refine mul_left_cancel₀ hpi (hn.trans ?_)
    push_cast
    ring
  exact_mod_cast hq

/-- What FCOS gives of a number that is no integer. -/
theorem fcos_fraction {x : Word} {s : Bool} {m : ℕ} {e : ℤ} (hF : F x = .fin s m e) (hint : ¬isInt m e = true) :
    (Real.cos (Real.pi * ((sgn s * (m * 2 ^ e) : ℚ) : ℝ)) = 0 → fcos x = 0) ∧
      (Real.cos (Real.pi * ((sgn s * (m * 2 ^ e) : ℚ) : ℝ)) ≠ 0 →
        Close (Real.cos (Real.pi * ((sgn s * (m * 2 ^ e) : ℚ) : ℝ))) (fcos x)) := by
  have he : ¬0 ≤ e := fun h => hint (by simp [isInt, h])
  obtain ⟨-, hemin, -⟩ := F_fin_bounds hF
  set k := (-e).toNat with hk
  obtain ⟨hcos, hr⟩ := cos_reduce m k
  set r := if 2 ^ k < m % 2 ^ (k + 1) then 2 * 2 ^ k - m % 2 ^ (k + 1) else m % 2 ^ (k + 1) with hrdef
  obtain ⟨hsin, hle⟩ := cos_eq_sin hr
  set h := if 2 ^ k < 2 * r then 2 * r - 2 ^ k else 2 ^ k - 2 * r with hh
  have hvalue : (h : ℝ) * 2 ^ (e - 1) = h / 2 ^ (k + 1) := by
    rw [show e - 1 = -((k + 1 : ℕ) : ℤ) by omega, zpow_neg, zpow_natCast, div_eq_mul_inv]
  have hv : Real.cos (Real.pi * ((sgn s * (m * 2 ^ e) : ℚ) : ℝ)) =
      sgn (decide (2 ^ k < 2 * r)) * Real.sin (Real.pi * (h * 2 ^ (e - 1))) := by
    have hs : Real.cos (Real.pi * (sgn s * (m * 2 ^ e))) = Real.cos (Real.pi * (m * 2 ^ e)) := by
      cases s <;> simp [sgn]
    have hm : (m : ℝ) * 2 ^ e = m / 2 ^ k := by rw [neg_exp he, zpow_neg, zpow_natCast, div_eq_mul_inv]
    push_cast
    rw [hs, hm, hcos, hsin, hvalue]
  have hfcos : fcos x = if 2 * r = 2 ^ k then 0#32 else sinPi (decide (2 ^ k < 2 * r)) h (e - 1) := by
    simp only [fcos, hF, if_neg hint, beq_iff_eq, decide_eq_true_eq]
    rfl
  rw [hfcos, hv]
  by_cases hq : 2 * r = 2 ^ k
  · have h0 : h = 0 := by
      rw [hh, if_neg (by omega)]
      omega
    rw [if_pos hq, h0]
    exact ⟨fun _ => rfl, fun hne => absurd (by simp) hne⟩
  · have h0 : 0 < h := by
      rw [hh]
      split <;> omega
    have hpow : (0 : ℝ) < 2 ^ (k + 1) := by positivity
    have hx1 : (h : ℝ) * 2 ^ (e - 1) ≤ 1 / 2 := by
      have hle' : (h : ℝ) ≤ 2 ^ k := by exact_mod_cast hle
      rw [hvalue, div_le_div_iff₀ hpow two_pos, pow_succ]
      linarith
    have hx0 : (0 : ℝ) < h * 2 ^ (e - 1) := mul_pos (by exact_mod_cast h0) (two_zpow_pos _)
    rw [if_neg hq]
    refine ⟨fun hzero => absurd hzero ?_, fun _ => sinPi_close _ h0 (by omega) hx1⟩
    have hpos : Real.sin (Real.pi * (h * 2 ^ (e - 1))) ≠ 0 := by
      have := (sin_pi_mul_bounds hx0 hx1).1
      intro hc
      linarith
    refine mul_ne_zero (fun hc => ?_) hpos
    have hsq := sgn_real_sq (decide (2 ^ k < 2 * r))
    rw [hc, zero_mul] at hsq
    exact zero_ne_one hsq

theorem fop1_fcos : Fop1 fcos (fun _ _ => 0x7FC00000#32) (fun _ _ q w =>
    (∀ n : ℤ, q = n → w = oneW (n % 2 = 1)) ∧ (∀ n : ℤ, q = n + 1 / 2 → w = 0) ∧
    ((∀ n : ℤ, q ≠ n + 1 / 2) → Close (Real.cos (Real.pi * q)) w)) := by
  intro x
  rw [← toVal_F]
  match hF : F x with
  | .nan =>
    simp only [toVal_nan, fcos, hF]
    rfl
  | .inf s =>
    simp only [toVal_inf, fcos, hF]
    rfl
  | .fin s m e =>
    simp only [toVal_fin]
    by_cases hint : isInt m e = true
    · obtain ⟨i, hi, hpar⟩ := signed_intPart s hint
      have hw : fcos x = oneW (i % 2 = 1) := by
        have hodd : (intPart m e % 2 == 0) = !decide (i % 2 = 1) := by
          rw [Bool.eq_iff_iff, beq_iff_eq, Bool.not_eq_true', decide_eq_false_iff_not]
          omega
        simp only [fcos, hF, if_pos hint, hodd]
        cases decide (i % 2 = 1) <;> rfl
      refine ⟨fun n hn => ?_, fun n hn => absurd (hi.symm.trans hn) not_int_and_half, fun _ => ?_⟩
      · rw [hw, Int.cast_inj.1 (hi.symm.trans hn)]
      · have hcos : Real.cos (Real.pi * ((sgn s * (m * 2 ^ e) : ℚ) : ℝ)) = sgn (decide (i % 2 = 1)) := by
          rw [hi, Rat.cast_intCast, mul_comm, Real.cos_int_mul_pi, neg_one_zpow_eq]
        rw [hw, hcos]
        exact close_one _
    · obtain ⟨hzero, hclose⟩ := fcos_fraction hF hint
      refine ⟨fun n hn => absurd (isInt_of_signed hn) hint, fun n hn => hzero ?_, fun hne => hclose fun hc => ?_⟩
      · rw [hn]
        exact cos_pi_half n
      · obtain ⟨n, hn⟩ := half_of_cos_eq_zero hc
        exact hne n hn

end Sys2Proof.Machine

/-!
PROOF. Transcendental functions: FEX2.
-/

namespace Sys2Proof.Machine

open Sys2Proof.Claims

/-! ## FEX2 -/

/-- A number up to half of the least one rounds to zero. -/
theorem roundR_tiny {v : ℝ} (h0 : 0 ≤ v) (h1 : v ≤ 2 ^ (-150 : ℤ)) : RoundR false v 0 := by
  have hq : fmt32.qmin = -149 := by decide
  have hmb : fmt32.mb = 23 := rfl
  have hround : RoundsTo fmt32.mb fmt32.qmin v 0 fmt32.qmin := by
    refine ⟨le_rfl, h0, .inl rfl, ?_, ?_, fun _ => rfl⟩
    · rw [hq, hmb]
      refine h1.trans_lt ?_
      norm_num
    · rw [hq, Nat.cast_zero, zero_mul, sub_zero, abs_of_nonneg h0]
      refine h1.trans_eq ?_
      norm_num
  have h := roundR_of_roundsTo hround false
  rw [sgn, if_neg Bool.false_ne_true, Rat.cast_one, one_mul] at h
  exact h

theorem roundR_huge {v : ℝ} (h : 2 ^ 128 - 2 ^ 103 ≤ v) : RoundR false v 0x7F800000#32 := by
  rw [RoundR, if_pos (h.trans (le_abs_self v))]
  rfl

/-- What R131 and R132 ask of FEX2 of a number. -/
def Exp2Spec (q : ℚ) (w : Word) : Prop :=
  (∀ n : ℤ, q = n → RoundR false ((2 : ℝ) ^ n) w) ∧ (128 ≤ q → w = 0x7F800000#32) ∧ (q < 128 → Close ((2 : ℝ) ^ (q : ℝ)) w)

theorem exp2_pos (q : ℝ) : (0 : ℝ) < 2 ^ q := Real.rpow_pos_of_pos two_pos q

theorem exp2_int (n : ℤ) : (2 : ℝ) ^ ((n : ℚ) : ℝ) = 2 ^ n := by rw [Rat.cast_intCast, Real.rpow_intCast]

/-- A rounding of 2^q meets the specification, if it is an infinity from 128 on. -/
theorem exp2Spec_of_roundR {q : ℚ} {w : Word} (hr : RoundR false ((2 : ℝ) ^ (q : ℝ)) w)
    (hlim : q < 128 → (2 : ℝ) ^ (q : ℝ) < 2 ^ 128 - 2 ^ 103) : Exp2Spec q w := by
  have hpos := exp2_pos q
  refine ⟨fun n hn => ?_, fun hq => ?_, fun hq => ?_⟩
  · rwa [hn, exp2_int] at hr
  · have hlarge : (2 : ℝ) ^ 128 - 2 ^ 103 ≤ |(2 : ℝ) ^ (q : ℝ)| := by
      have hq' : ((128 : ℤ) : ℝ) ≤ (q : ℝ) := by exact_mod_cast hq
      have hmono := Real.rpow_le_rpow_of_exponent_le one_le_two hq'
      rw [Real.rpow_intCast] at hmono
      rw [abs_of_pos hpos]
      refine le_trans ?_ hmono
      norm_num
    rw [RoundR, if_pos hlarge] at hr
    exact hr
  · refine close_of_roundR (s := false) (by simp [hpos.le]) hr (by rw [abs_of_pos hpos]; exact hlim hq) ?_
    rw [sub_self, abs_zero]
    positivity

theorem exp2Spec_low {q : ℚ} (h : q ≤ -150) : Exp2Spec q 0 := by
  have hq : (q : ℝ) ≤ ((-150 : ℤ) : ℝ) := by exact_mod_cast h
  have hmono := Real.rpow_le_rpow_of_exponent_le one_le_two hq
  rw [Real.rpow_intCast] at hmono
  refine exp2Spec_of_roundR (roundR_tiny (exp2_pos q).le hmono) fun _ => hmono.trans_lt ?_
  norm_num

theorem exp2Spec_high {q : ℚ} (h : 128 ≤ q) : Exp2Spec q 0x7F800000#32 := by
  have hq : ((128 : ℤ) : ℝ) ≤ (q : ℝ) := by exact_mod_cast h
  have hmono := Real.rpow_le_rpow_of_exponent_le one_le_two hq
  rw [Real.rpow_intCast] at hmono
  refine exp2Spec_of_roundR (roundR_huge (le_trans ?_ hmono)) fun hlt => absurd hlt (not_lt.2 h)
  norm_num

/-- A magnitude of 512 or more. -/
theorem exp2Spec_large (s : Bool) {p : ℚ} (hp : 512 ≤ p) : Exp2Spec (sgn s * p) (if s then 0#32 else 0x7F800000#32) := by
  cases s
  · exact exp2Spec_high (by rw [sgn, if_neg Bool.false_ne_true]; linarith)
  · exact exp2Spec_low (by rw [sgn, if_pos rfl]; linarith)

theorem exp2Spec_int (n : ℤ) : Exp2Spec n (BitVec.ofNat 32 (fmt32.roundMag 1 n false)) := by
  have hr := roundR_roundMag false (m := 1) n (sticky := false) le_rfl zero_lt_one (by simp) (by simp)
  rw [sgn, if_neg Bool.false_ne_true, Rat.cast_one, one_mul, Nat.cast_one, add_zero, one_mul, ← exp2_int, signedWord_false] at hr
  refine exp2Spec_of_roundR hr fun hlt => ?_
  have hn : n ≤ 127 := by
    have : n < 128 := by exact_mod_cast hlt
    omega
  rw [exp2_int]
  refine (zpow_le_zpow_right₀ one_le_two hn).trans_lt ?_
  norm_num

/-- The exponential of the fraction, in fixed point. -/
theorem exp2_near {f : ℕ} (hf : fx f ≤ 1) : |fx (expSeries (fxMul f fxLn2) 70 0 fxOne) - (2 : ℝ) ^ (fx f)| ≤ 1 / 2 ^ 90 := by
  have hlow := fx_nonneg f
  have hlog := Real.log_two_lt_d9
  have hlog' := Real.log_two_gt_d9
  have hy : |fx (fxMul f fxLn2) - fx f * Real.log 2| ≤ 1 / 2 ^ 170 := by
    have h := fxMul_approx (a := f) (A := fx f) (α := 0) (by simp) fxLn2_near (by rw [abs_of_nonneg hlow]; exact hf)
    refine h.trans ?_
    rw [ulp]
    norm_num
  set y := fxMul f fxLn2 with hydef
  have hy1 : fx y ≤ 1 := by
    have := (abs_le.1 hy).2
    norm_num at this
    nlinarith
  have hexp := exp_near hy1
  have hpow : (2 : ℝ) ^ (fx f) = Real.exp (fx f * Real.log 2) := by rw [Real.rpow_def_of_pos two_pos, mul_comm]
  have hpow2 : (2 : ℝ) ^ (fx f) ≤ 2 := by
    have := Real.rpow_le_rpow_of_exponent_le one_le_two hf
    rwa [Real.rpow_one] at this
  have hdiff : |Real.exp (fx y) - (2 : ℝ) ^ (fx f)| ≤ 2 * (2 * (1 / 2 ^ 170)) := by
    have hsplit : Real.exp (fx y) - (2 : ℝ) ^ (fx f) = (2 : ℝ) ^ (fx f) * (Real.exp (fx y - fx f * Real.log 2) - 1) := by
      rw [Real.exp_sub, hpow, mul_sub, mul_one, mul_div_cancel₀ _ (Real.exp_pos _).ne']
    have hsmall : |fx y - fx f * Real.log 2| ≤ 1 := hy.trans (by norm_num)
    have h1 := Real.abs_exp_sub_one_le hsmall
    rw [hsplit, abs_mul, abs_of_pos (exp2_pos _)]
    exact mul_le_mul hpow2 (h1.trans (mul_le_mul_of_nonneg_left hy two_pos.le)) (abs_nonneg _) two_pos.le
  refine (near_trans hexp hdiff).trans ?_
  norm_num

/-- What FEX2 rounds of a number that is no integer: its whole part n and its fraction f apart. -/
theorem fex2_fraction {x : Word} {s : Bool} {m : ℕ} {e : ℤ} (hF : F x = .fin s m e) (hm : m ≠ 0) (hsize : ¬20 < e + Nat.log2 m)
    (hint : ¬isInt m e = true) (hip : ¬512 < intPart m e) :
    ∃ (n : ℤ) (f : ℕ), fex2 x = roundNear false (expSeries (fxMul f fxLn2) 70 0 fxOne) (n - fxBits) ∧
      fx f = ((sgn s * (m * 2 ^ e) : ℚ) : ℝ) - n ∧ fx f ≤ 1 := by
  obtain ⟨-, hemin, -⟩ := F_fin_bounds hF
  have hfloor : ((intPart m e : ℤ) : ℚ) ≤ m * 2 ^ e := by
    rw [intPart_eq_floor]
    exact Int.floor_le _
  have hceil : (m * 2 ^ e : ℚ) < intPart m e + 1 := by
    have := Int.lt_floor_add_one (m * 2 ^ e : ℚ)
    rw [← intPart_eq_floor] at this
    exact_mod_cast this
  have hfloor' : (intPart m e : ℝ) ≤ m * 2 ^ e := by
    rw [← cast_value]
    exact_mod_cast hfloor
  have hceil' : (m * 2 ^ e : ℝ) < intPart m e + 1 := by
    rw [← cast_value]
    exact_mod_cast hceil
  have hu : (0 : ℝ) < 2 ^ 192 := by positivity
  have hip1 : fx (intPart m e * fxOne) = intPart m e := by rw [fx_nat_mul, fx_one, mul_one]
  have hsub : ∀ a b : ℕ, fx b ≤ fx a → fx (a - b) = fx a - fx b := by
    intro a b h
    rw [fx, fx, div_le_div_iff_of_pos_right hu] at h
    rw [eq_sub_iff_add_eq, ← fx_add, Nat.sub_add_cancel (by exact_mod_cast h)]
  have hfr : fx (toFx m e - intPart m e * fxOne) = m * 2 ^ e - intPart m e := by
    rw [hsub _ _ (by rw [hip1, toFx_value (by omega)]; exact hfloor'), hip1, toFx_value (by omega)]
  have hfex : fex2 x =
      let (n, f) : ℤ × ℕ :=
        if s then (-(intPart m e : ℤ) - 1, fxOne - (toFx m e - intPart m e * fxOne)) else (intPart m e, toFx m e - intPart m e * fxOne)
      roundNear false (expSeries (fxMul f fxLn2) 70 0 fxOne) (n - fxBits) := by
    simp only [fex2, hF, if_neg hint, if_neg hip, if_neg hsize, beq_eq_false_iff_ne.2 hm, Bool.false_eq_true, if_false]
  cases s
  · refine ⟨_, _, hfex, ?_, ?_⟩
    · rw [hfr, sgn]
      push_cast
      simp
    · rw [hfr]
      linarith
  · refine ⟨_, _, hfex, ?_, ?_⟩
    · rw [hsub _ _ (by rw [hfr, fx_one]; linarith), fx_one, hfr, sgn]
      push_cast
      simp
      ring
    · rw [hsub _ _ (by rw [hfr, fx_one]; linarith), fx_one, hfr]
      linarith

/-- An FP32 number below 128 is below it by 2^-17. -/
theorem gap_below_128 {s : Bool} {m : ℕ} {e : ℤ} (hm : m < 2 ^ 24) (h : sgn s * ((m : ℚ) * 2 ^ e) < 128) :
    sgn s * ((m : ℚ) * 2 ^ e) ≤ 128 - 1 / 2 ^ 17 := by
  have hnn : (0 : ℚ) ≤ m * 2 ^ e := by positivity
  cases s
  · rw [sgn, if_neg Bool.false_ne_true, one_mul] at h ⊢
    rcases le_or_gt e (-18) with he | he
    · have hm' : (m : ℚ) ≤ 2 ^ 24 := by exact_mod_cast hm.le
      calc (m : ℚ) * 2 ^ e ≤ 2 ^ 24 * 2 ^ (-18 : ℤ) :=
            mul_le_mul hm' (zpow_le_zpow_right₀ one_le_two he) (by positivity) (by positivity)
        _ ≤ 128 - 1 / 2 ^ 17 := by norm_num
    · have hscale : (m : ℚ) * 2 ^ e * 2 ^ 17 = ((m <<< (e + 17).toNat : ℕ) : ℚ) := by
        rw [shiftLeft_value m (by omega), zpow_add₀ two_ne_zero, mul_assoc]
        norm_num
      have hlt : ((m <<< (e + 17).toNat : ℕ) : ℚ) < ((2 ^ 24 : ℕ) : ℚ) := by
        rw [← hscale]
        norm_num
        linarith
      have hle : ((m <<< (e + 17).toNat : ℕ) : ℚ) + 1 ≤ ((2 ^ 24 : ℕ) : ℚ) := by exact_mod_cast (Nat.cast_lt.1 hlt)
      rw [← hscale] at hle
      norm_num at hle ⊢
      linarith
  · rw [sgn, if_pos rfl]
    norm_num
    linarith

/-- 2^q stays below the limit of FP32 by more than the error of the approximation. -/
theorem exp2_below {q : ℝ} (h : q ≤ 128 - 1 / 2 ^ 17) : (2 : ℝ) ^ q * (1 + 1 / 2 ^ 18) ≤ 2 ^ 128 := by
  have hlog := Real.log_two_gt_d9
  have hone : (1 : ℝ) + 1 / 2 ^ 18 ≤ 2 ^ ((1 : ℝ) / 2 ^ 17) := by
    rw [Real.rpow_def_of_pos two_pos]
    refine le_trans ?_ (Real.add_one_le_exp _)
    norm_num
    linarith
  calc (2 : ℝ) ^ q * (1 + 1 / 2 ^ 18) ≤ 2 ^ q * 2 ^ ((1 : ℝ) / 2 ^ 17) := mul_le_mul_of_nonneg_left hone (exp2_pos q).le
    _ = 2 ^ (q + 1 / 2 ^ 17) := (Real.rpow_add two_pos _ _).symm
    _ ≤ 2 ^ ((128 : ℕ) : ℝ) := Real.rpow_le_rpow_of_exponent_le one_le_two (by push_cast; linarith)
    _ = 2 ^ 128 := Real.rpow_natCast _ _

/-- A rounding of 2^n times an approximation r of 2^f, where n + f is no integer. -/
theorem exp2Spec_fraction {q : ℚ} {n : ℤ} {f r : ℕ} (hq : ∀ i : ℤ, q ≠ i) (hgap : q < 128 → q ≤ 128 - 1 / 2 ^ 17)
    (hf : fx f = (q : ℝ) - n) (hnear : |fx r - (2 : ℝ) ^ (fx f)| ≤ 1 / 2 ^ 90) (hf1 : fx f ≤ 1) :
    Exp2Spec q (roundNear false r (n - fxBits)) := by
  have hf0 := fx_nonneg f
  have hpn := two_zpow_pos n
  have hlow : (1 : ℝ) ≤ 2 ^ (fx f) := Real.one_le_rpow one_le_two hf0
  have hv : (2 : ℝ) ^ (q : ℝ) = 2 ^ n * 2 ^ (fx f) := by
    rw [hf, ← Real.rpow_intCast, ← Real.rpow_add two_pos, add_sub_cancel]
  obtain ⟨hr1, hr2⟩ := abs_le.1 hnear
  have hbits : 2 ^ 24 ≤ r := by
    have hhalf : (1 : ℝ) / 2 ≤ fx r := by
      norm_num at hr1 ⊢
      linarith
    rw [fx, le_div_iff₀ (by positivity)] at hhalf
    have hbig : ((2 ^ 24 : ℕ) : ℝ) ≤ r := by
      refine le_trans ?_ hhalf
      norm_num
    exact_mod_cast hbig
  have hvalue := half_unit_value r n
  have herr : |(2 : ℝ) ^ (q : ℝ) - ((r : ℝ) + 1 / 2) * 2 ^ (n - (fxBits : ℤ))| ≤ 2 ^ (-61 : ℤ) * (2 : ℝ) ^ (q : ℝ) := by
    have hinner : |(2 : ℝ) ^ (fx f) - (fx r + 1 / 2 ^ 193)| ≤ 2 ^ (-61 : ℤ) * 1 := by
      rw [abs_le]
      norm_num at hr1 hr2 ⊢
      constructor <;> linarith
    rw [hvalue, hv, ← mul_sub, abs_mul, abs_of_pos hpn, mul_left_comm]
    exact mul_le_mul_of_nonneg_left (hinner.trans (mul_le_mul_of_nonneg_left hlow (by positivity))) hpn.le
  refine ⟨fun i hi => absurd hi (hq i), fun h128 => ?_, fun h128 => ?_⟩
  · have hround := roundR_roundNear false (n - (fxBits : ℤ)) hbits
    have hn : (128 : ℤ) ≤ n := by
      have h1 : (128 : ℝ) ≤ (q : ℝ) := by exact_mod_cast h128
      have h2 : ((127 : ℤ) : ℝ) < (q : ℝ) - 1 := by
        have hne : (128 : ℝ) ≠ (q : ℝ) := fun hc => hq 128 (by exact_mod_cast hc.symm)
        have := lt_of_le_of_ne h1 hne
        push_cast
        linarith
      have h3 : ((127 : ℤ) : ℝ) < (n : ℝ) := by linarith
      have : (127 : ℤ) < n := by exact_mod_cast h3
      omega
    have hlarge : (2 : ℝ) ^ 128 - 2 ^ 103 ≤ ((r : ℝ) + 1 / 2) * 2 ^ (n - (fxBits : ℤ)) := by
      have hpow : (2 : ℝ) ^ (128 : ℤ) ≤ 2 ^ n := zpow_le_zpow_right₀ one_le_two hn
      have hfx : 1 - 1 / 2 ^ 90 ≤ fx r + 1 / 2 ^ 193 := by
        norm_num at hr1 ⊢
        linarith
      rw [hvalue]
      refine le_trans ?_ (mul_le_mul hpow hfx (by norm_num) hpn.le)
      norm_num
    rw [sgn, if_neg Bool.false_ne_true, Rat.cast_one, one_mul, RoundR, if_pos (hlarge.trans (le_abs_self _))] at hround
    exact hround
  · have hgap' := Rat.cast_le (K := ℝ).2 (hgap h128)
    push_cast at hgap'
    have hbelow := exp2_below hgap'
    have hclose := close_roundNear (s := false) hbits (exp2_pos q) (e := n - (fxBits : ℤ)) ?_ herr
    · rwa [sgn, if_neg Bool.false_ne_true, Rat.cast_one, one_mul] at hclose
    · have := (abs_le.1 herr).1
      norm_num at this hbelow ⊢
      linarith

theorem fop1_fex2 : Fop1 fex2 (fun _ s => if s then 0 else 0x7F800000#32) (fun _ _ q w => Exp2Spec q w) := by
  intro x
  rw [← toVal_F]
  match hF : F x with
  | .nan =>
    simp only [toVal_nan, fex2, hF]
    rfl
  | .inf s =>
    simp only [toVal_inf, fex2, hF]
    rw [F_inf hF]
    cases s <;> rfl
  | .fin s m e =>
    obtain ⟨hm24, -, -⟩ := F_fin_bounds hF
    simp only [toVal_fin]
    by_cases hm : m = 0
    · have hw : fex2 x = BitVec.ofNat 32 (fmt32.roundMag 1 0 false) := by
        simp only [fex2, hF, hm, beq_self_eq_true, if_true]
        decide
      have h0 : sgn s * (((0 : ℕ) : ℚ) * 2 ^ e) = ((0 : ℤ) : ℚ) := by simp
      rw [hw, hm, h0]
      exact exp2Spec_int 0
    have hm' : (m == 0) = false := beq_eq_false_iff_ne.2 hm
    by_cases hsize : 20 < e + Nat.log2 m
    · have hw : fex2 x = if s then 0#32 else 0x7F800000#32 := by
        simp only [fex2, hF, hm', Bool.false_eq_true, if_false, if_pos hsize]
      have hlarge : (512 : ℚ) ≤ m * 2 ^ e := by
        have hlog : ((2 ^ Nat.log2 m : ℕ) : ℚ) ≤ m := by exact_mod_cast Nat.log2_self_le hm
        calc (512 : ℚ) ≤ 2 ^ (20 : ℤ) := by norm_num
          _ ≤ 2 ^ (Nat.log2 m + e : ℤ) := zpow_le_zpow_right₀ one_le_two (by omega)
          _ = (2 ^ Nat.log2 m : ℕ) * 2 ^ e := by rw [zpow_add₀ two_ne_zero, zpow_natCast, Nat.cast_pow, Nat.cast_ofNat]
          _ ≤ m * 2 ^ e := mul_le_mul_of_nonneg_right hlog (by positivity)
      rw [hw]
      exact exp2Spec_large s hlarge
    by_cases hint : isInt m e = true
    · have hw : fex2 x = BitVec.ofNat 32 (fmt32.roundMag 1 (if s then -(intPart m e : ℤ) else intPart m e) false) := by
        simp only [fex2, hF, hm', Bool.false_eq_true, if_false, if_neg hsize, if_pos hint]
      have hval : sgn s * ((m : ℚ) * 2 ^ e) = ((if s then -(intPart m e : ℤ) else intPart m e : ℤ) : ℚ) := by
        rw [isInt_eq hint]
        cases s <;> simp [sgn]
      rw [hw, hval]
      exact exp2Spec_int _
    by_cases hip : 512 < intPart m e
    · have hw : fex2 x = if s then 0#32 else 0x7F800000#32 := by
        simp only [fex2, hF, hm', Bool.false_eq_true, if_false, if_neg hsize, if_neg hint, if_pos hip]
      have hlarge : (512 : ℚ) ≤ m * 2 ^ e := by
        have hfloor := Int.floor_le (m * 2 ^ e : ℚ)
        rw [← intPart_eq_floor] at hfloor
        have hip' : ((512 : ℕ) : ℚ) ≤ (intPart m e : ℕ) := by exact_mod_cast hip.le
        push_cast at hfloor hip'
        linarith
      rw [hw]
      exact exp2Spec_large s hlarge
    · obtain ⟨n, f, hw, hf, hf1⟩ := fex2_fraction hF hm hsize hint hip
      rw [hw]
      exact exp2Spec_fraction (fun i hi => hint (isInt_of_signed hi)) (gap_below_128 hm24) hf (exp2_near hf1) hf1

end Sys2Proof.Machine

/-!
PROOF. Transcendental functions: FLG2, and the statement (O58).
-/

namespace Sys2Proof.Machine

open Sys2Proof.Claims

/-! ## FLG2 -/

/-- A quotient of approximations, the divisor near ln 2. -/
theorem log2_near {a b : ℕ} {A : ℝ} (hb0 : 0 < b) (ha : |fx a - A| ≤ 1 / 2 ^ 174) (hA0 : 0 ≤ A) (hA1 : A ≤ 1)
    (hb : |fx b - Real.log 2| ≤ 1 / 2 ^ 172) :
    |fx ((a <<< fxBits) / b) - A / Real.log 2| ≤ 1 / 2 ^ 168 := by
  have hlog := Real.log_two_gt_d9
  have hlog0 : 0 < Real.log 2 := by linarith
  have hdiv := fx_shift_div (a := a) hb0
  have hlow : 1 / 2 ≤ fx b := by
    have := (abs_le.1 hb).1
    norm_num at this ⊢
    linarith
  have hquot : |fx a / fx b - A / Real.log 2| ≤ 1 / 2 ^ 169 := by
    have hform : fx a / fx b - A / Real.log 2 = (fx a - A) / fx b + A * (Real.log 2 - fx b) / (fx b * Real.log 2) := by
      field_simp
      ring
    have h1 : |(fx a - A) / fx b| ≤ 1 / 2 ^ 173 := by
      rw [abs_div, abs_of_pos (by linarith : (0 : ℝ) < fx b), div_le_iff₀ (by linarith)]
      refine ha.trans ?_
      norm_num at hlow ⊢
      linarith
    have h2 : |A * (Real.log 2 - fx b) / (fx b * Real.log 2)| ≤ 1 / 2 ^ 170 := by
      have hden : 1 / 4 ≤ fx b * Real.log 2 := by nlinarith
      have hnum : |A * (Real.log 2 - fx b)| ≤ 1 / 2 ^ 172 := by
        rw [abs_mul, abs_of_nonneg hA0, abs_sub_comm]
        exact (mul_le_of_le_one_left (abs_nonneg _) hA1).trans hb
      rw [abs_div, abs_of_pos (by linarith : (0 : ℝ) < fx b * Real.log 2), div_le_iff₀ (by linarith)]
      refine hnum.trans ?_
      norm_num at hden ⊢
      linarith
    rw [hform]
    refine (abs_add_le _ _).trans ((add_le_add h1 h2).trans ?_)
    norm_num
  refine (near_trans hdiv hquot).trans ?_
  rw [ulp]
  norm_num

/-- A number 2^n × z with 1 < z < 2, both of at most 24 bits: its logarithm is not near zero. -/
theorem log2_far {n : ℤ} {z : ℝ} (h1 : 1 + 1 / 2 ^ 23 ≤ z) (h2 : z ≤ 2 - 1 / 2 ^ 23) :
    (0 ≤ n → 1 / 2 ^ 24 ≤ n + Real.logb 2 z) ∧ (n < 0 → n + Real.logb 2 z ≤ -(1 / 2 ^ 24)) := by
  have hlog0 : 0 < Real.log 2 := Real.log_pos one_lt_two
  have hlog1 : Real.log 2 ≤ 1 := by linarith [Real.log_two_lt_d9]
  have hz : 0 < z := by norm_num at h1; linarith
  have hlow : 1 / 2 ^ 24 ≤ Real.logb 2 z := by
    have hinv : z⁻¹ ≤ 1 - 1 / 2 ^ 24 := by
      rw [inv_le_comm₀ hz (by norm_num)]
      refine le_trans ?_ h1
      norm_num
    rw [Real.logb, le_div_iff₀ hlog0]
    have := Real.one_sub_inv_le_log_of_pos hz
    nlinarith
  have hhigh : Real.logb 2 z ≤ 1 - 1 / 2 ^ 24 := by
    have hhalf : Real.log (z / 2) ≤ z / 2 - 1 := Real.log_le_sub_one_of_pos (by positivity)
    rw [Real.log_div hz.ne' two_ne_zero] at hhalf
    rw [Real.logb, div_le_iff₀ hlog0]
    have hgap : z / 2 - 1 ≤ -(1 / 2 ^ 24) := by
      norm_num at h2 ⊢
      linarith
    nlinarith
  refine ⟨fun hn => ?_, fun hn => ?_⟩
  · have : (0 : ℝ) ≤ n := by exact_mod_cast hn
    linarith
  · have hn' : (n : ℝ) ≤ -1 := by exact_mod_cast (by omega : n ≤ -1)
    linarith

theorem logb_two_zpow (i : ℤ) : Real.logb 2 ((2 : ℝ) ^ i) = i := by
  rw [← Real.rpow_intCast, Real.logb_rpow two_pos (by norm_num)]

/-- The logarithm of a mantissa and exponent, apart. -/
theorem logb_split {m : ℕ} (hm : m ≠ 0) (e : ℤ) (l : ℕ) : Real.logb 2 (m * 2 ^ e) = (e + l : ℤ) + Real.logb 2 (m * 2 ^ (-(l : ℤ))) := by
  have hm0 : (m : ℝ) ≠ 0 := by exact_mod_cast hm
  rw [Real.logb_mul hm0 (zpow_ne_zero _ two_ne_zero), Real.logb_mul hm0 (zpow_ne_zero _ two_ne_zero), logb_two_zpow, logb_two_zpow]
  push_cast
  ring

/-- A rounding of an approximation of a logarithm that is not near zero. -/
theorem close_fixed {v : ℤ} {x : ℝ} (hnear : |fxInt v - x| ≤ 1 / 2 ^ 168) (hfar : 1 / 2 ^ 24 ≤ |x|) (hlim : |x| ≤ 2 ^ 20) :
    Close x (roundNear (decide (v < 0)) v.natAbs (-(fxBits : ℤ))) := by
  have hu : (0 : ℝ) < 2 ^ 192 := by positivity
  have habs : fx v.natAbs = |fxInt v| := by
    rw [fx, fxInt, abs_div, abs_of_pos hu, Nat.cast_natAbs, Int.cast_abs]
  have hclose : |fx v.natAbs - (|x|)| ≤ 1 / 2 ^ 168 := by
    rw [habs]
    exact (abs_abs_sub_abs_le _ _).trans hnear
  obtain ⟨hc1, hc2⟩ := abs_le.1 hclose
  have hsign : x < 0 ↔ v < 0 := by
    have hv : fxInt v < 0 ↔ v < 0 := by
      rw [fxInt, div_lt_iff₀ hu, zero_mul]
      exact Int.cast_lt_zero
    obtain ⟨h1, h2⟩ := abs_le.1 hnear
    rw [← hv]
    norm_num at h1 h2 hfar
    constructor
    · intro hx
      rw [abs_of_neg hx] at hfar
      linarith
    · intro hx
      by_contra hc
      rw [abs_of_nonneg (not_lt.1 hc)] at hfar
      linarith
  have hx : (sgn (decide (v < 0)) : ℝ) * |x| = x := by
    by_cases h : x < 0
    · rw [decide_eq_true (hsign.1 h), abs_of_neg h]
      simp [sgn]
    · rw [decide_eq_false (mt hsign.2 h), abs_of_nonneg (not_lt.1 h)]
      simp [sgn]
  have hbits : 2 ^ 24 ≤ v.natAbs := by
    have hlow : (1 : ℝ) / 2 ^ 25 ≤ fx v.natAbs := by
      norm_num at hc1 hfar ⊢
      linarith
    rw [fx, le_div_iff₀ hu] at hlow
    have hbig : ((2 ^ 24 : ℕ) : ℝ) ≤ (v.natAbs : ℕ) := by
      refine le_trans ?_ hlow
      norm_num
    exact_mod_cast hbig
  have hvalue : ((v.natAbs : ℕ) + 1 / 2 : ℝ) * 2 ^ (-(fxBits : ℤ)) = fx v.natAbs + 1 / 2 ^ 193 := by
    have h := half_unit_value v.natAbs 0
    rwa [zero_sub, zpow_zero, one_mul] at h
  have hpos : 0 < |x| := by
    refine lt_of_lt_of_le ?_ hfar
    norm_num
  have hround := close_roundNear (s := decide (v < 0)) hbits hpos (e := -(fxBits : ℤ)) ?_ ?_
  · rwa [hx] at hround
  · rw [hvalue]
    norm_num at hc2 hlim ⊢
    linarith
  · rw [hvalue, abs_le]
    norm_num at hc1 hc2 hfar ⊢
    constructor <;> linarith

/-- The mantissa of a number that is no power of two, between 1 and 2. -/
theorem mantissa_bounds {m : ℕ} (hm : m < 2 ^ 24) (h0 : m ≠ 0) (hpow : m ≠ 2 ^ Nat.log2 m) :
    1 + 1 / 2 ^ 23 ≤ (m : ℝ) * 2 ^ (-(Nat.log2 m : ℤ)) ∧ (m : ℝ) * 2 ^ (-(Nat.log2 m : ℤ)) ≤ 2 - 1 / 2 ^ 23 := by
  have hlow : 2 ^ Nat.log2 m + 1 ≤ m := by
    have := Nat.log2_self_le h0
    omega
  have hhigh : m + 1 ≤ 2 ^ (Nat.log2 m + 1) := Nat.lt_log2_self
  have hl : Nat.log2 m ≤ 23 := by
    have := (Nat.log2_lt h0).2 hm
    omega
  generalize Nat.log2 m = l at *
  have hp : (0 : ℝ) < 2 ^ l := by positivity
  have hp23 : (2 : ℝ) ^ l ≤ 2 ^ 23 := pow_le_pow_right₀ one_le_two hl
  have hinv : (1 : ℝ) / 2 ^ 23 ≤ 1 / 2 ^ l := one_div_le_one_div_of_le hp hp23
  have hlow' : (2 : ℝ) ^ l + 1 ≤ m := by exact_mod_cast hlow
  have hhigh' : (m : ℝ) + 1 ≤ 2 ^ l * 2 := by
    rw [pow_succ] at hhigh
    exact_mod_cast hhigh
  rw [zpow_neg, zpow_natCast, ← div_eq_mul_inv]
  constructor
  · have : 1 + 1 / 2 ^ l ≤ (m : ℝ) / 2 ^ l := by
      rw [le_div_iff₀ hp, add_mul, one_mul, div_mul_cancel₀ _ hp.ne']
      exact hlow'
    linarith
  · have : (m : ℝ) / 2 ^ l + 1 / 2 ^ l ≤ 2 := by
      rw [← add_div, div_le_iff₀ hp]
      linarith
    linarith

/-- What FLG2 gives of a positive number that is no power of two. -/
theorem flg2_close {m : ℕ} {e : ℤ} (hm : m < 2 ^ 24) (h0 : m ≠ 0) (hpow : m ≠ 2 ^ Nat.log2 m) (hemin : -149 ≤ e) (hemax : e ≤ 104) :
    let v : ℤ := (e + Nat.log2 m) * (fxOne : ℤ) + ((fxLn (toFx m (-(Nat.log2 m : ℤ))) <<< fxBits) / fxLn2 : ℕ)
    Close (Real.logb 2 (m * 2 ^ e)) (roundNear (decide (v < 0)) v.natAbs (-(fxBits : ℤ))) := by
  intro v
  have hl : Nat.log2 m ≤ 23 := by
    have := (Nat.log2_lt h0).2 hm
    omega
  obtain ⟨hz1, hz2⟩ := mantissa_bounds hm h0 hpow
  have hz : fx (toFx m (-(Nat.log2 m : ℤ))) = m * 2 ^ (-(Nat.log2 m : ℤ)) := toFx_value (by omega)
  have hz1' : 1 ≤ (m : ℝ) * 2 ^ (-(Nat.log2 m : ℤ)) := le_trans (by norm_num) hz1
  have hz2' : (m : ℝ) * 2 ^ (-(Nat.log2 m : ℤ)) ≤ 2 := hz2.trans (by norm_num)
  have hln := fxLn_near (z := toFx m (-(Nat.log2 m : ℤ))) (by rwa [hz]) (by rwa [hz])
  rw [hz] at hln
  have hlog1 : Real.log (m * 2 ^ (-(Nat.log2 m : ℤ))) ≤ 1 :=
    (Real.log_le_log (by linarith) hz2').trans (by linarith [Real.log_two_lt_d9])
  have hq := log2_near (by decide +kernel : 0 < fxLn2) hln (Real.log_nonneg hz1') hlog1 fxLn2_near
  rw [Real.log_div_log] at hq
  have hint : fxInt v = (e + Nat.log2 m : ℤ) + fx (fxLn (toFx m (-(Nat.log2 m : ℤ))) <<< fxBits / fxLn2) := by
    have hone := fx_one
    rw [← fxInt_natCast] at hone
    rw [fxInt_add, fxInt_natCast]
    rw [fxInt] at hone
    rw [fxInt, Int.cast_mul, mul_div_assoc, hone, mul_one]
  have hfar := log2_far (n := e + Nat.log2 m) hz1 hz2
  have hlb1 : Real.logb 2 (m * 2 ^ (-(Nat.log2 m : ℤ))) ≤ 1 := by
    rw [← Real.logb_self_eq_one one_lt_two]
    exact Real.logb_le_logb_of_le one_lt_two (by linarith) hz2'
  have hlb0 : 0 ≤ Real.logb 2 (m * 2 ^ (-(Nat.log2 m : ℤ))) := Real.logb_nonneg one_lt_two hz1'
  rw [logb_split h0 e (Nat.log2 m)]
  refine close_fixed ?_ ?_ ?_
  · rw [hint, add_sub_add_left_eq_sub]
    exact hq
  · rcases lt_or_ge (e + Nat.log2 m : ℤ) 0 with hn | hn
    · exact le_abs.2 (.inr (by linarith [hfar.2 hn]))
    · exact le_abs.2 (.inl (hfar.1 hn))
  · have hn1 : ((e + Nat.log2 m : ℤ) : ℝ) ≤ 200 := by exact_mod_cast (by omega : (e + Nat.log2 m : ℤ) ≤ 200)
    have hn2 : (-200 : ℝ) ≤ ((e + Nat.log2 m : ℤ) : ℝ) := by exact_mod_cast (by omega : (-200 : ℤ) ≤ e + Nat.log2 m)
    rw [abs_le]
    constructor <;> linarith

/-- A power of two as a mantissa and exponent. -/
theorem eq_two_pow_log2 {m : ℕ} {e n : ℤ} (h : (m : ℚ) * 2 ^ e = 2 ^ n) : m = 2 ^ Nat.log2 m := by
  have hm : (m : ℚ) = 2 ^ (n - e) := by
    rw [zpow_sub₀ two_ne_zero, ← h, mul_div_cancel_right₀ _ (zpow_ne_zero e two_ne_zero)]
  have hnn : 0 ≤ n - e := by
    by_contra hc
    have hlt : (m : ℚ) < 1 := by
      rw [hm]
      exact zpow_lt_one_of_neg₀ one_lt_two (not_le.1 hc)
    have hpos : (0 : ℚ) < m := by rw [hm]; positivity
    have h1 : m < 1 := by exact_mod_cast hlt
    have h2 : 0 < m := by exact_mod_cast hpos
    omega
  have hnat : m = 2 ^ (n - e).toNat := by
    rw [← Int.toNat_of_nonneg hnn, zpow_natCast] at hm
    exact_mod_cast hm
  conv_rhs => rw [hnat, Nat.log2_two_pow]
  exact hnat

/-- FLG2 of a power of two is its exponent. -/
theorem V_rne32_ofInt {n : ℤ} (h1 : -200 ≤ n) (h2 : n ≤ 200) : V (rne32 (FVal.ofInt n)) = .num (n < 0) n := by
  have hsmall := small_onGrid (m := n.natAbs) (e := 0) (by omega) (by norm_num) (by norm_num)
  rw [FVal.ofInt, V_rne32_exact _ hsmall.1 hsmall.2]
  exact toVal_ofInt n

theorem fop1_flg2 : Fop1 flg2 (fun x s => if s then 0x7FC00000#32 else x) (fun _ s q w =>
    if q = 0 then w = 0xFF800000#32 else if s then w = 0x7FC00000#32
    else (∀ n : ℤ, q = (2 : ℚ) ^ n → V w = .num (n < 0) n) ∧ Close (Real.logb 2 q) w) := by
  intro x
  rw [← toVal_F]
  match hF : F x with
  | .nan =>
    simp only [toVal_nan, flg2, hF]
    rfl
  | .inf s =>
    simp only [toVal_inf, flg2, hF]
    rfl
  | .fin s m e =>
    obtain ⟨hm24, hemin, hemax⟩ := F_fin_bounds hF
    simp only [toVal_fin, sgn_mul_eq_zero]
    by_cases hm : m = 0
    · simp only [hm, if_true, flg2, hF, beq_self_eq_true]
    have hm' : (m == 0) = false := beq_eq_false_iff_ne.2 hm
    cases s
    case true => simp only [if_neg hm, if_true, flg2, hF, hm', Bool.false_eq_true, if_false, nan32]
    have hl : Nat.log2 m ≤ 23 := by
      have := (Nat.log2_lt hm).2 hm24
      omega
    have hone : sgn false * ((m : ℚ) * 2 ^ e) = m * 2 ^ e := by rw [sgn, if_neg Bool.false_ne_true, one_mul]
    rw [if_neg hm, if_neg Bool.false_ne_true, hone, cast_value]
    by_cases hpow : m = 2 ^ Nat.log2 m
    · have hw : flg2 x = rne32 (FVal.ofInt (e + Nat.log2 m)) := by
        simp only [flg2, hF, hm', Bool.false_eq_true, if_false, beq_iff_eq, if_pos hpow, FVal.ofInt]
      have hval : (m : ℚ) * 2 ^ e = 2 ^ (e + Nat.log2 m : ℤ) := by
        conv_lhs => rw [hpow]
        rw [Nat.cast_pow, Nat.cast_ofNat, ← zpow_natCast, ← zpow_add₀ two_ne_zero, add_comm]
      have hV := V_rne32_ofInt (n := e + Nat.log2 m) (by omega) (by omega)
      rw [hw]
      refine ⟨fun n hn => ?_, ?_⟩
      · rw [← zpow_right_injective₀ two_pos (by norm_num : (2 : ℚ) ≠ 1) (hval.symm.trans hn)]
        exact hV
      · have hlog : Real.logb 2 (m * 2 ^ e) = ((e + Nat.log2 m : ℤ) : ℝ) := by
          rw [← cast_value, hval, Rat.cast_zpow, Rat.cast_ofNat, logb_two_zpow]
        rw [hlog]
        exact close_exact hV (Rat.cast_intCast _) (by rw [decide_eq_true_eq]; exact Int.cast_lt_zero.symm)
    · refine ⟨fun n hn => absurd (eq_two_pow_log2 hn) hpow, ?_⟩
      have hw := flg2_close hm24 hm hpow hemin hemax
      simp only [flg2, hF, hm', Bool.false_eq_true, if_false, beq_iff_eq, if_neg hpow]
      exact hw

/-- Settles O58: fixed-point series with a bounded error, rounded once; what is exact is rounded from its exact value. -/
theorem transcendentalValues : Obligations.TranscendentalValues := ⟨fop1_fex2, fop1_flg2, fop1_fsin, fop1_fcos⟩

end Sys2Proof.Machine
